-- ==== Sys2Proof/Word.lean ====
section
/-! DEFINITION. The words of the machine (R28, R39): bytes, 32- and 64-bit values, and the 96-bit instruction word; the type of a finite table. -/

namespace Sys2Proof

/-- One byte of memory (R9). -/
abbrev Byte := BitVec 8
/-- A 32-bit word (R39). -/
abbrev W32 := BitVec 32
/-- A 64-bit word (R39). -/
abbrev W64 := BitVec 64
/-- An instruction word of 96 bits (R28). -/
abbrev W96 := BitVec 96

/-- A table with few rows: keys strictly rising, no row equal to the table's default.
Its operations are in Machine/FMap.lean. -/
abbrev FMap (α : Type) := List (Nat × α)

end Sys2Proof
end

