-- ==== Sys2Proof/Config.lean ====
section
/-! DEFINITION. What the spec leaves to the implementation: constants with no body, of which no proof can see the value. -/

namespace Sys2Proof.Config

/-- The result bits that SFU function `op` (the sub value of its opcode) proposes for an input: kept only within R240's bound. (DESIGN CHOICE, log 21) -/
opaque sfuBits : Nat → W32 → W32

/-- The time, after the issue cycle, that the copy engine promises for the copy of a fresh number (R166). (DESIGN CHOICE, log 5; DESIGN CHOICE, log 46) -/
opaque promiseDelay : Nat → Nat

/-- Fresh 64-bit values for a counter: the leader's random source (R143). (DESIGN CHOICE, log 5; DESIGN CHOICE, log 66) -/
opaque random : Nat → W64

/-- What `%core`, `%clus` and `%die` (0, 1, 2) read on a system core, which R284 does not say. (DESIGN CHOICE, log 23) -/
opaque sysPlacement : Nat → Nat → W32

/-- The 32 bytes of a notice (R360) of a kind about a thing: the spec gives them no layout. (DESIGN CHOICE, log 38) -/
opaque noticeRec : Nat → Nat → BitVec 256

/-- Whether the L1 still holds a line when a lookup of a fresh number looks for it: R118 says that it holds 512 lines, not which it replaces. (DESIGN CHOICE, log 5; DESIGN CHOICE, log 31) -/
opaque l1Keeps : Nat → Bool

/-- Where `LAUNCH` begins its search for a core, for the placement of a fresh number: R283 leaves the choice open. (DESIGN CHOICE, log 5; DESIGN CHOICE, log 76) -/
opaque coreChoice : Nat → Nat

/-- Whether a base die's page-entry cache still holds an entry when a lookup of a fresh number looks for it (R93). (DESIGN CHOICE, log 5; DESIGN CHOICE, log 32) -/
opaque pageKeeps : Nat → Bool

/-- The set of an L2 slice in which a line of a key stands, taken modulo 2,048: R106 says that it is a fixed function of the key, and not which. (DESIGN CHOICE, log 32) -/
opaque l2Set : Nat → Nat

/-- The set of the instruction cache in which a context's line at a pointer stands, taken modulo 96: R50 does not give the function. (DESIGN CHOICE, log 12) -/
opaque icacheSet : Nat → W64 → Nat

/-- Whether the high half of a packed atomic is performed first, for a fresh number: R186 makes the halves separate and does not order them. (DESIGN CHOICE, log 5; DESIGN CHOICE, log 117) -/
opaque highFirst : Nat → Bool

/-- Which module numbers are storage endpoints (R152). (DESIGN CHOICE, log 69) -/
opaque storageEndpoint : Nat → Bool

end Sys2Proof.Config
end

