-- ==== Sys2Proof/Machine/FMap.lean ====
section
/-! DEFINITION. Finite tables in canonical form: the operations that read and write them. -/

namespace Sys2Proof.FMap

/-- The row of key `k`, if the table lists one. -/
def find? {α : Type} : FMap α → Nat → Option α
  | [], _ => none
  | (j, a) :: m, k => if j = k then some a else find? m k

/-- The row of key `k`, or the default `d` where none is listed. -/
def getD {α : Type} (m : FMap α) (k : Nat) (d : α) : α := (find? m k).getD d

/-- List `a` at key `k`, keeping the keys rising. -/
def insert {α : Type} : FMap α → Nat → α → FMap α
  | [], k, a => [(k, a)]
  | (j, b) :: m, k, a =>
    if k < j then (k, a) :: (j, b) :: m
    else if k = j then (k, a) :: m
    else (j, b) :: insert m k a

/-- Drop the row of key `k`. -/
def erase {α : Type} (m : FMap α) (k : Nat) : FMap α := m.filter fun r => r.1 ≠ k

/-- Write `a` at key `k` of a table whose unlisted rows read as `d`: writing `d` removes the row. -/
def put {α : Type} [DecidableEq α] (m : FMap α) (k : Nat) (a d : α) : FMap α :=
  if a = d then erase m k else insert m k a

/-- Change the row of key `k`, where one is listed. -/
def modify {α : Type} (m : FMap α) (k : Nat) (f : α → α) : FMap α :=
  match find? m k with
  | some a => insert m k (f a)
  | none => m

/-- Apply `f` to every row, keeping the keys. -/
def mapVals {α : Type} (m : FMap α) (f : Nat → α → α) : FMap α := m.map fun p => (p.1, f p.1 p.2)

/-- The rows that `p` keeps. -/
def keep {α : Type} (m : FMap α) (p : Nat → α → Bool) : FMap α := m.filter fun r => p r.1 r.2

/-- Keys rise strictly from above `lo`, and no row equals `d`. -/
def wfFrom {α : Type} [DecidableEq α] (d : α) : Option Nat → FMap α → Bool
  | _, [] => true
  | lo, (k, a) :: m => (match lo with | none => true | some j => decide (j < k)) && decide (a ≠ d) && wfFrom d (some k) m

/-- The canonical form: keys strictly rising, no row equal to what an unlisted key reads as. -/
def wf {α : Type} [DecidableEq α] (d : α) (m : FMap α) : Bool := wfFrom d none m

end Sys2Proof.FMap
end

