-- ==== Sys2Proof/Syntax.lean ====
section
/-! DEFINITION. The syntax of the machine: operands, headers, modifiers, and Instr, one constructor per row of the opcode table. A statement of bluty-as
(R15 to R18, R22, R24, R25) gives the same parts.
Word instructions carry their modifiers and operands; the remaining constructors are the steps of the part that no word encodes. -/

namespace Sys2Proof

/-! ## Names of small sets of codes -/

/-- The 24 formats, in the order of their codes 0 to 23 (Table 9-6, Table 10-2). -/
inductive Fmt
  | f64 | f32 | f19 | bf16 | f16 | e4m3 | e5m2 | e3m2 | e2m3 | e2m1
  | int8 | uint8 | int4 | uint4 | int2 | tern | l6 | l8 | l4
  | mxe4m3 | mxe2m1 | mxint8 | b16e2m1 | bl6
  deriving DecidableEq, Repr

/-- Rounding modes, codes 0 to 4 (R213). -/
inductive RM | rne | rz | ru | rd | rs
  deriving DecidableEq, Repr

/-- Condition codes 0 to 7 (Table 10-5). -/
inductive Cmp | eq | ne | lt | le | gt | ge | num | nan
  deriving DecidableEq, Repr

/-- Scope codes 0 to 5 (Table 2-2). -/
inductive Scope | grp | core | clu | die | mod | dom
  deriving DecidableEq, Repr

/-- Local spaces, codes 0 to 3 (Table 7-1). -/
inductive Space | lane | core | clu | chip
  deriving DecidableEq, Repr

/-- Type codes of LD, ST, LDV and STV (Table 8-2): a format, or an untyped width. -/
inductive Ty | fmt (f : Fmt) | b8 | b16 | s8 | s16 | b32 | b64 | b128
  deriving DecidableEq, Repr

/-- The CA field of LD and LDV, with the scope that `.acq` carries (Table 8-3). -/
inductive CA | plain | fresh | const | acq (sc : Scope)
  deriving DecidableEq, Repr

/-- Operations of ATOM and RED (Table 8-3, Table 8-6). -/
inductive AOp | add | min | max | and | or | xor | exch | cas
  deriving DecidableEq, Repr

/-- Types of ATOM and RED (Table 8-3). -/
inductive ATy | u32 | s32 | u64 | s64 | f32 | f64 | bf16x2 | f16x2
  deriving DecidableEq, Repr

/-- Ordering modifiers (Table 8-3). -/
inductive Ord | relaxed | acq | rel | ar
  deriving DecidableEq, Repr

/-- Widths of LDS and STS (Table 7-4). -/
inductive LWidth | b32 | b8 | b16 | s8 | s16 | b64 | b128
  deriving DecidableEq, Repr

/-- Pointer fields (Table 3-12). -/
inductive PField | form | outer | middle | inner | off | space | addr
  deriving DecidableEq, Repr

/-- INT types of CVTI (R231). -/
inductive IntTy | s32 | uint32 | s64 | uint64
  deriving DecidableEq, Repr

/-- Log formats named by LF (R237). -/
inductive LF | l6 | l8 | l4
  deriving DecidableEq, Repr

/-- Modes of XCH (R243). -/
inductive XMode | idx | xor | up | down
  deriving DecidableEq, Repr

/-- Modes of VOTE (R244). -/
inductive VMode | ballot | any | all | uni
  deriving DecidableEq, Repr

/-- Operations of GRED and GSCN (R242). -/
inductive GOp | add | min | max | and | or | xor
  deriving DecidableEq, Repr

/-- Types of GRED and GSCN (R242). -/
inductive GTy | s32 | uint32 | f32
  deriving DecidableEq, Repr

/-- Branch modes (R249). -/
inductive BMode | uni | any | all
  deriving DecidableEq, Repr

/-- Counter classes of WAITC (Table 7-5). -/
inductive CClass | cpy | mma | gth | net | atm
  deriving DecidableEq, Repr

/-- Tile modes of MZERO, MLDT and MPAIR (Table 11-2). -/
inductive TMode | f32 | f64 | welt
  deriving DecidableEq, Repr

/-- Drain modes of MDRN (Table 11-2). -/
inductive DMode | diff | pn | ratio | gate
  deriving DecidableEq, Repr

/-- The SP field of the barrier instructions (Table 15-2). -/
inductive BSpace | core | clu
  deriving DecidableEq, Repr

/-- Selections of RSTAT (Table 15-9). -/
inductive RSel | cnt | ends | sent | ret | drop | redir
  deriving DecidableEq, Repr

/-- Kinds of collective (R350). -/
inductive CKind | allreduce | allgather | redscat | alltoall
  deriving DecidableEq, Repr

/-- Element types of collectives (R350). -/
inductive CTy | f32 | bf16 | f16 | s32 | u32
  deriving DecidableEq, Repr

/-- Operations of collectives (R350). -/
inductive COp | add | min | max
  deriving DecidableEq, Repr

/-- Tables that LTWR writes (Table 16-12). -/
inductive TTab | ctx | port | chip | stack | acl
  deriving DecidableEq, Repr

/-- Levels that GATE names (Table 16-12). -/
inductive GLvl | ctx | port | chip | stack
  deriving DecidableEq, Repr

/-- The classes of SETP (R222). -/
inductive SClass | int | f32 | f64
  deriving DecidableEq, Repr

/-- Special registers, in the order of their numbers (Table 2-4). -/
inductive SReg
  | cyc | wid | f0 | f1 | f2 | f3 | f4 | f5 | core | clus | die | mod | nclus | topo | cap | ent | prog | gen | fflags
  deriving DecidableEq, Repr

/-! ## Operands and headers -/

/-- What an operand field names (Table 2-3). `none` is a field the instruction does not use, all zeros (R42);
`raw` is a field whose value Table 2-3 does not define, which every check refuses. -/
inductive Opd
  | none
  | t (n : Fin 128)
  | w (n : Fin 64)
  | p (n : Fin 15)
  | pt
  | q (n : Fin 8)
  | tile (n : Fin 8)
  | ag (n : Fin 8)
  | sr (r : SReg)
  | imm (v : BitVec 16)
  | cb (off : BitVec 16)
  | long (part : BitVec 16)
  | raw (kind : Fin 8) (v : BitVec 16)
  deriving DecidableEq, Repr

/-- An operand and its empty-action bit (R38, R23). -/
structure Operand where
  x  : Opd
  ea : Bool := false
  deriving DecidableEq, Repr

/-- A guard (R32): none, or predicate `n` (p`n` in a thread instruction, q`n` in a uniform one), inverted when `neg`. -/
inductive Guard
  | always
  | on (neg : Bool) (n : Fin 15)
  deriving DecidableEq, Repr

/-- The header of an instruction word (Table 2-1): guard (R22), U, B (R25), and the hints, which change timing only (R24, R35). (DEDUCED, log 103) -/
structure Hdr where
  guard   : Guard := .always
  u       : Bool := false
  b       : Bool := false
  reuseA  : Bool := false
  reuseB  : Bool := false
  spacing : BitVec 3 := 0
  deriving DecidableEq, Repr

/-- The header and the three operands of a word (Table 2-1). -/
structure Args where
  hdr : Hdr
  d   : Operand
  a   : Operand
  b   : Operand
  deriving DecidableEq, Repr

/-! ## Modifiers -/

namespace Mods

/-- `.b64` and `.uns` (R222). -/
structure UW where
  uns : Bool
  b64 : Bool
  deriving DecidableEq, Repr
/-- `.b64` and the predicate PR of IADDC and ISEL (R222). -/
structure PW where
  pr  : Fin 15
  b64 : Bool
  deriving DecidableEq, Repr
/-- ICMP: condition, `.uns`, `.b64` (R222). -/
structure Icmp where
  cmp : Cmp
  uns : Bool
  b64 : Bool
  deriving DecidableEq, Repr
/-- SETP: class, condition, `.uns`, `.b64` (R222, R226). -/
structure Setp where
  cls : SClass
  cmp : Cmp
  uns : Bool
  b64 : Bool
  deriving DecidableEq, Repr
/-- LEA: shift and width (R222). -/
structure Lea where
  k   : BitVec 3
  b64 : Bool
  deriving DecidableEq, Repr
/-- RM and SAT (Table 10-6). -/
structure RmSat where
  rm  : RM
  sat : Bool
  deriving DecidableEq, Repr
/-- FCMP and DCMP (Table 10-6). -/
structure Fcmp where
  cmp   : Cmp
  unord : Bool
  deriving DecidableEq, Repr
/-- Packed arithmetic: FP16 when `hf`, else BF16 (R228). -/
structure Half where
  hf  : Bool
  rm  : RM
  sat : Bool
  deriving DecidableEq, Repr
/-- CVT (Table 10-7). -/
structure Cvt where
  dst : Fmt
  rm  : RM
  sat : Bool
  deriving DecidableEq, Repr
/-- CVTI (Table 10-7). -/
structure Cvti where
  f2i : Bool
  int : IntTy
  fmt : Fmt
  rm  : RM
  sat : Bool
  deriving DecidableEq, Repr
/-- LCVT (R237). -/
structure Lcvt where
  lf : LF
  hi : Bool
  deriving DecidableEq, Repr
/-- XCH (Table 10-11). -/
structure Xch where
  mode : XMode
  b64  : Bool
  deriving DecidableEq, Repr
/-- GRED (Table 10-11). -/
structure Gred where
  op : GOp
  ty : GTy
  deriving DecidableEq, Repr
/-- GSCN (Table 10-11). -/
structure Gscn where
  op   : GOp
  ty   : GTy
  excl : Bool
  deriving DecidableEq, Repr
/-- LD (Table 8-3). -/
structure Ld where
  ty : Ty
  ca : CA
  deriving DecidableEq, Repr
/-- ST and STV: the type, and the scope of a release (Table 8-3). -/
structure St where
  ty  : Ty
  rel : Option Scope
  deriving DecidableEq, Repr
/-- ATOM (Table 8-3). -/
structure Atom where
  v     : Bool
  op    : AOp
  ty    : ATy
  ord   : Ord
  scope : Scope
  deriving DecidableEq, Repr
/-- RED (Table 8-3). -/
structure Red where
  op    : AOp
  ty    : ATy
  rel   : Bool
  scope : Scope
  deriving DecidableEq, Repr
/-- FENCE (Table 8-3). -/
structure Fence where
  ord   : Ord
  scope : Scope
  deriving DecidableEq, Repr
/-- LDS and STS (Table 7-4): the space, or `none` for `.win`; the format, where one is named; the width. -/
structure Local where
  space : Option Space
  fmt   : Option Fmt
  width : LWidth
  deriving DecidableEq, Repr
/-- ICINV and INVL1 (Table 2-9, Table 5-7). -/
structure Inv where
  all   : Bool
  scope : Scope
  deriving DecidableEq, Repr
/-- MMA and MDIST (Table 11-2). -/
structure Mma where
  pair : Bool
  welt : Bool
  fmt  : Fmt
  deriving DecidableEq, Repr
/-- MTOPK, register form (Table 11-2): `k1` is k − 1. -/
structure TopkReg where
  k1  : BitVec 4
  max : Bool
  val : Bool
  hi  : Bool
  deriving DecidableEq, Repr
/-- MTOPK, memory form (Table 11-2). -/
structure TopkMem where
  k1  : BitVec 4
  max : Bool
  val : Bool
  deriving DecidableEq, Repr
/-- MDRN (Table 11-2). -/
structure Drn where
  mode : DMode
  dst  : Fmt
  rm   : RM
  sat  : Bool
  deriving DecidableEq, Repr
/-- ARV, WTB and ARW (Table 15-2). -/
structure Bar where
  sp    : BSpace
  scope : Scope
  deriving DecidableEq, Repr
/-- WATCH (Table 15-2). -/
structure Watch where
  b64   : Bool
  scope : Scope
  deriving DecidableEq, Repr
/-- COLL (Table 15-9, R350). -/
structure Coll where
  kind : CKind
  ty   : CTy
  op   : COp
  deriving DecidableEq, Repr
/-- LINV (Table 16-12): the chip level when `chip`, else the context level. -/
structure Linv where
  chip  : Bool
  allc  : Bool
  scope : Scope
  deriving DecidableEq, Repr

end Mods

end Sys2Proof

namespace Sys2Proof.Machine

/-! ## Requests and packets, as one module sends them to another -/

/-- The reasons of a refusal (Table 3-9). -/
inductive Reason | absent | permission | gate | poison | straddle | form | forwardLimit | domainChanged | domainLeft
  deriving DecidableEq, Repr

/-- Access kinds (Table 3-8). -/
inductive AKind | read | write | atomic | fetch | pointer
  deriving DecidableEq, Repr

/-- A refusal: level, reason, the level's label, the refusing module (R77). -/
structure Refuse where
  level  : Nat
  reason : Reason
  label  : Nat := 0
  module : Nat := 0
  remote : Bool := false
  fwd    : Nat := 0
  deriving DecidableEq, Repr

/-- Who issued a request: the fields that its fault record carries (Table 3-8). -/
structure Origin where
  ptr    : W64
  pc     : W32 := 0
  guidon : BitVec 33
  unit   : Nat
  slot   : Nat := 0
  thread : Nat := 0
  deriving DecidableEq, Repr

/-- What a request carries to its owner. -/
inductive Payload
  | range (op : Nat)                                         -- 0 WBR, 1 WBR.inv, 2 INVL1, on the lines of a range (R122)
  | load                                                     -- bytes are to return
  | store (bytes : List (Option Byte)) (pois : List Nat := [])  -- one byte or none for each of its bytes (a byte mask); the positions that carry the poison mark
  | grant (n : Nat)                                          -- a grant request, which carries no data (R108); an atomic's asks for the `n` bytes it is to work on
  | atomic (op : AOp) (ty : ATy) (vals : List (W64 × W64))   -- operands, with the compare values of `.cas`, in thread order
  deriving DecidableEq, Repr

/-- What a flow packet asks of its receiver, or answers. (DESIGN CHOICE, log 61) -/
inductive PBody
  | req (kind : AKind) (level : Nat) (ptr : W64) (label : Nat) (len : Nat) (pay : Payload) (org : Origin) (fwd : Nat)
      (more : List (W64 × Nat × Payload × Origin) := [])        -- with the further elements of a vector packet: pointer, length, payload, who asks (R131)
  | data (req off : Nat) (bytes : List (Byte × Bool))           -- RSP: read data from an offset on, or old values; each byte with its poison mark
  | ack (req off len : Nat)                                     -- RSP: a write, or a part of one, applied
  | refusal (req off len : Nat) (r : Refuse)                    -- RSP: a refusal of a request or of a part of one
  | stamped (home stamp : Nat)                                  -- RSP: every member has applied the stores of a sequencer up to a stamp (R116)
  | token (hdr : BitVec 256) (ctx exp first : Nat) (pay : List (Byte × Bool))  -- some bytes of a token, on its way to an engine of the die that the header names
  | back (hdr : BitVec 256) (ctx : Nat)                         -- returned to its source die
  | marker (ctx sess exp die src sdie : Nat)                    -- an end marker
  | tokenAck (die ctx sess : Nat) (mark : Bool)                 -- a disposition, or a marker counted or held
  | behind (req : Nat)                                          -- RSP: a release-tagged packet returned, held behind a fault (R133)
  | notice (plane : Nat)                                        -- CTL: a plane no longer reaches the sender (R130)
  | hoistAsk (peer : Nat)                                       -- CTL: the leader is asked for a hoist, the flow from a peer having been stopped (R149)
  | coll (tag : W32) (rank kind blk first : Nat) (vals : List (W64 × Bool))  -- 0 a descriptor, 1 a contribution, 2 finished elements, 3 a failure; of a block, from an element on
  deriving DecidableEq, Repr

/-- What the ECC of the units that a step reads turns out to be: no error, or an error in the data, in the page entry, or in the table's own entry;
`lost` where it cannot be corrected (R102, R103, R66). (DESIGN CHOICE, log 112) -/
inductive Ecc | clean | data (lost : Bool) | page (lost : Bool) | entry
  deriving DecidableEq, Repr

/-- What a lookup, a grant or a return names: its request or operation, and what the ECC of the units that it reads turns out to be. (DESIGN CHOICE, log 112) -/
structure Look where
  id  : Nat
  ecc : Ecc
  deriving DecidableEq, Repr

/-- What a core's sensor gives (Table 13-4): the core and its temperature. -/
structure Heat where
  unit : Nat
  tmp  : Nat
  deriving DecidableEq, Repr

/-- A packet of a flow (R127, R132). (DESIGN CHOICE, log 61) -/
structure Packet where
  seq  : Nat
  rel  : Bool := false
  fep  : Nat := 0
  vc   : Nat
  gen  : Nat
  body : PBody
  deriving DecidableEq, Repr

end Sys2Proof.Machine

namespace Sys2Proof

/-! ## Instructions -/

/-- The instructions, one constructor for each row of the opcode table. The first 172 are the words of Table 2-7;
the rest are steps of the part (file 95), which stand on the agenda and have no encoding. (DESIGN CHOICE, log 108; DESIGN CHOICE, log 109) -/
inductive Instr
  /-- IADD (R223). -/
  | iadd (m : Bool) (o : Args)
  /-- ISUB (R223). -/
  | isub (m : Bool) (o : Args)
  /-- IADDC (R224). -/
  | iaddc (m : Mods.PW) (o : Args)
  /-- IMUL (R223). -/
  | imul (m : Bool) (o : Args)
  /-- IMULH (R223). -/
  | imulh (m : Mods.UW) (o : Args)
  /-- IMAD (R223). -/
  | imad (m : Bool) (o : Args)
  /-- IMIN (R223). -/
  | imin (m : Mods.UW) (o : Args)
  /-- IMAX (R223). -/
  | imax (m : Mods.UW) (o : Args)
  /-- IABS (R223). -/
  | iabs (m : Bool) (o : Args)
  /-- INEG (R223). -/
  | ineg (m : Bool) (o : Args)
  /-- AND (R223). -/
  | and (m : Bool) (o : Args)
  /-- OR (R223). -/
  | or (m : Bool) (o : Args)
  /-- XOR (R223). -/
  | xor (m : Bool) (o : Args)
  /-- ANDN (R223). -/
  | andn (m : Bool) (o : Args)
  /-- NOT (R223). -/
  | not (m : Bool) (o : Args)
  /-- SHL (R223). -/
  | shl (m : Bool) (o : Args)
  /-- SHR (R223). -/
  | shr (m : Bool) (o : Args)
  /-- SAR (R223). -/
  | sar (m : Bool) (o : Args)
  /-- ROTL (R223). -/
  | rotl (m : Bool) (o : Args)
  /-- FUNS (R225). -/
  | funs (m : Bool) (o : Args)
  /-- BFX (R225). -/
  | bfx (m : Bool) (o : Args)
  /-- BFI (R225). -/
  | bfi (o : Args)
  /-- POPC (R223). -/
  | popc (m : Bool) (o : Args)
  /-- CLZ (R223). -/
  | clz (m : Bool) (o : Args)
  /-- CTZ (R223). -/
  | ctz (m : Bool) (o : Args)
  /-- BREV (R223). -/
  | brev (m : Bool) (o : Args)
  /-- PERMB (R225). -/
  | permb (o : Args)
  /-- ISEL (R224). -/
  | isel (m : Mods.PW) (o : Args)
  /-- ICMP (R226). -/
  | icmp (m : Mods.Icmp) (o : Args)
  /-- SETP (R226). -/
  | setp (m : Mods.Setp) (o : Args)
  /-- MOV (R227). -/
  | mov (m : Bool) (o : Args)
  /-- MOVI (R227). -/
  | movi (m : Bool) (o : Args)
  /-- LEA (R227). -/
  | lea (m : Mods.Lea) (o : Args)
  /-- PMK (R81). -/
  | pmk (m : Bool) (o : Args)
  /-- PADD (R82). -/
  | padd (m : Bool) (o : Args)
  /-- PDIF (R83). -/
  | pdif (o : Args)
  /-- PGET (R84). -/
  | pget (m : PField) (o : Args)
  /-- PSET (R84). -/
  | pset (m : PField) (o : Args)
  /-- PFORM (R85). -/
  | pform (m : BitVec 4) (o : Args)
  /-- FADD (R229). -/
  | fadd (m : Mods.RmSat) (o : Args)
  /-- FSUB (R229). -/
  | fsub (m : Mods.RmSat) (o : Args)
  /-- FMUL (R229). -/
  | fmul (m : Mods.RmSat) (o : Args)
  /-- FFMA (R229). -/
  | ffma (m : Mods.RmSat) (o : Args)
  /-- FFMS (R229). -/
  | ffms (m : Mods.RmSat) (o : Args)
  /-- FNMA (R229). -/
  | fnma (m : Mods.RmSat) (o : Args)
  /-- FMIN (R228). -/
  | fmin (o : Args)
  /-- FMAX (R228). -/
  | fmax (o : Args)
  /-- FCMP (R229). -/
  | fcmp (m : Mods.Fcmp) (o : Args)
  /-- FCLASS (R230). -/
  | fclass (o : Args)
  /-- FRND (R230). -/
  | frnd (m : RM) (o : Args)
  /-- FSCALE (R228). -/
  | fscale (m : Mods.RmSat) (o : Args)
  /-- FEXPO (R230). -/
  | fexpo (o : Args)
  /-- DADD (R228). -/
  | dadd (m : Mods.RmSat) (o : Args)
  /-- DMUL (R228). -/
  | dmul (m : Mods.RmSat) (o : Args)
  /-- DFMA (R228). -/
  | dfma (m : Mods.RmSat) (o : Args)
  /-- DCMP (R229). -/
  | dcmp (m : Mods.Fcmp) (o : Args)
  /-- HADD2 (R228). -/
  | hadd2 (m : Mods.Half) (o : Args)
  /-- HMUL2 (R228). -/
  | hmul2 (m : Mods.Half) (o : Args)
  /-- HFMA2 (R228). -/
  | hfma2 (m : Mods.Half) (o : Args)
  /-- HMIN2 (R228). -/
  | hmin2 (m : Bool) (o : Args)
  /-- HMAX2 (R228). -/
  | hmax2 (m : Bool) (o : Args)
  /-- CVT (R232). -/
  | cvt (m : Mods.Cvt) (o : Args)
  /-- CVTI (R233). -/
  | cvti (m : Mods.Cvti) (o : Args)
  /-- PACK2 (R234). -/
  | pack2 (o : Args)
  /-- UNPK2 (R234). -/
  | unpk2 (o : Args)
  /-- SCLE (R235). -/
  | scle (m : Fmt) (o : Args)
  /-- FMTSET (R236). -/
  | fmtset (o : Args)
  /-- FMTGET (R236). -/
  | fmtget (o : Args)
  /-- LMUL (R238). -/
  | lmul (m : LF) (o : Args)
  /-- LADD (R238). -/
  | ladd (m : LF) (o : Args)
  /-- LCVT (R239). -/
  | lcvt (m : Mods.Lcvt) (o : Args)
  /-- FRCP (R240). -/
  | frcp (o : Args)
  /-- FRSQ (R240). -/
  | frsq (o : Args)
  /-- FSQRT (R240). -/
  | fsqrt (o : Args)
  /-- FEX2 (R240). -/
  | fex2 (o : Args)
  /-- FLG2 (R240). -/
  | flg2 (o : Args)
  /-- FSIN (R240). -/
  | fsin (o : Args)
  /-- FCOS (R240). -/
  | fcos (o : Args)
  /-- FTWID (R241). -/
  | ftwid (o : Args)
  /-- FTANH (R240). -/
  | ftanh (o : Args)
  /-- FSIGM (R240). -/
  | fsigm (o : Args)
  /-- XCH (R243). -/
  | xch (m : Mods.Xch) (o : Args)
  /-- BCST (R243). -/
  | bcst (m : Bool) (o : Args)
  /-- VOTE (R244). -/
  | vote (m : VMode) (o : Args)
  /-- GRED (R245). -/
  | gred (m : Mods.Gred) (o : Args)
  /-- GSCN (R245). -/
  | gscn (m : Mods.Gscn) (o : Args)
  /-- ELECT (R244). -/
  | elect (o : Args)
  /-- MOVP_PACK (R246). -/
  | movpPack (o : Args)
  /-- MOVP_UNPK (R246). -/
  | movpUnpk (o : Args)
  /-- SRD (R247). -/
  | srd (m : BitVec 7) (o : Args)
  /-- SWR (R247). -/
  | swr (m : BitVec 7) (o : Args)
  /-- BRA (R249). -/
  | bra (m : BMode) (o : Args)
  /-- BRAI (R249). -/
  | brai (o : Args)
  /-- CALL (R249). -/
  | call (m : BMode) (o : Args)
  /-- RET (R249). -/
  | ret (o : Args)
  /-- IFP (R251). -/
  | ifp (o : Args)
  /-- ELSP (R251). -/
  | elsp (o : Args)
  /-- ENDP (R251). -/
  | endp (o : Args)
  /-- LOOPB (R251). -/
  | loopb (o : Args)
  /-- LOOPE (R251). -/
  | loope (o : Args)
  /-- BRKP (R251). -/
  | brkp (o : Args)
  /-- CONTP (R251). -/
  | contp (o : Args)
  /-- EXIT (R252). -/
  | exit (o : Args)
  /-- NOP (R253). -/
  | nop (o : Args)
  /-- REGN (R253). -/
  | regn (o : Args)
  /-- YIELD (R253). -/
  | yield (o : Args)
  /-- LD (R175). -/
  | ld (m : Mods.Ld) (o : Args)
  /-- ST (R176). -/
  | st (m : Mods.St) (o : Args)
  /-- LDV (R177). -/
  | ldv (m : Mods.Ld) (o : Args)
  /-- STV (R177). -/
  | stv (m : Mods.St) (o : Args)
  /-- LDS (R159). -/
  | lds (m : Mods.Local) (o : Args)
  /-- STS (R159). -/
  | sts (m : Mods.Local) (o : Args)
  /-- ATOM (R186). -/
  | atom (m : Mods.Atom) (o : Args)
  /-- RED (R186). -/
  | red (m : Mods.Red) (o : Args)
  /-- PREF (R123). -/
  | pref (m : Bool) (o : Args)
  /-- WBR (R124). -/
  | wbr (m : Bool) (o : Args)
  /-- INVL1 (R125). -/
  | invl1 (m : Mods.Inv) (o : Args)
  /-- ICINV (R52). -/
  | icinv (m : Mods.Inv) (o : Args)
  /-- FENCE (R191). -/
  | fence (m : Mods.Fence) (o : Args)
  /-- COMMIT (R182). -/
  | commit (m : Bool) (o : Args)
  /-- CPY (R163). -/
  | cpy (o : Args)
  /-- CPYS (R163). -/
  | cpys (o : Args)
  /-- SLEEPT (R167). -/
  | sleept (m : Bool) (o : Args)
  /-- WAITC (R169). -/
  | waitc (m : CClass) (o : Args)
  /-- MMA (R266). -/
  | mma (m : Mods.Mma) (o : Args)
  /-- MDIST (R272). -/
  | mdist (m : Mods.Mma) (o : Args)
  /-- MTOPK_REG (R273). -/
  | mtopkReg (m : Mods.TopkReg) (o : Args)
  /-- MTOPK_MEM (R273). -/
  | mtopkMem (m : Mods.TopkMem) (o : Args)
  /-- MZERO (R274). -/
  | mzero (m : TMode) (o : Args)
  /-- MLDT (R275). -/
  | mldt (m : TMode) (o : Args)
  /-- MSTT (R275). -/
  | mstt (o : Args)
  /-- MDRN (R270). -/
  | mdrn (m : Mods.Drn) (o : Args)
  /-- MAGR (R269). -/
  | magr (o : Args)
  /-- MAGR_GET (R269). -/
  | magrGet (o : Args)
  /-- MPROG (R276). -/
  | mprog (o : Args)
  /-- MBATCH (R262). -/
  | mbatch (o : Args)
  /-- MWAIT (R262). -/
  | mwait (o : Args)
  /-- MPAIR (R274). -/
  | mpair (m : TMode) (o : Args)
  /-- MFREE (R274). -/
  | mfree (m : Bool) (o : Args)
  /-- BINIT (R332). -/
  | binit (m : BSpace) (o : Args)
  /-- ARV (R332). -/
  | arv (m : Mods.Bar) (o : Args)
  /-- WTB (R332). -/
  | wtb (m : Mods.Bar) (o : Args)
  /-- ARW (R332). -/
  | arw (m : Mods.Bar) (o : Args)
  /-- WATCH (R336). -/
  | watch (m : Mods.Watch) (o : Args)
  /-- RSEND (R344). -/
  | rsend (o : Args)
  /-- RPOST (R346). -/
  | rpost (o : Args)
  /-- RFLUSH (R347). -/
  | rflush (o : Args)
  /-- RSTAT (R348). -/
  | rstat (m : RSel) (o : Args)
  /-- COLL (R351). -/
  | coll (m : Mods.Coll) (o : Args)
  /-- LAUNCH (R298). -/
  | launch (m : Bool) (o : Args)
  /-- MBXRD (R297). -/
  | mbxrd (m : Bool) (o : Args)
  /-- MBXFWD (R299). -/
  | mbxfwd (m : Bool) (o : Args)
  /-- PENNANT (R300). -/
  | pennant (o : Args)
  /-- TRAP (R358). -/
  | trap (o : Args)
  /-- RETT (R358). -/
  | rett (m : Bool) (o : Args)
  /-- HALT (R358). -/
  | halt (o : Args)
  /-- LINV (R373). -/
  | linv (m : Mods.Linv) (o : Args)
  /-- LSYNC (R75). -/
  | lsync (o : Args)
  /-- LTWR (R374). -/
  | ltwr (m : TTab) (o : Args)
  /-- GATE_CLOSE (R375). -/
  | gateClose (m : GLvl) (o : Args)
  /-- GATE_OPEN (R375). -/
  | gateOpen (m : GLvl) (o : Args)
  /-- RELOC (R376). -/
  | reloc (o : Args)
  /-- HOIST_JOIN (R377). -/
  | hoistJoin (o : Args)
  /-- HOIST_LEAVE (R377). -/
  | hoistLeave (o : Args)
  /-- HOIST_EVICT (R377). -/
  | hoistEvict (o : Args)
  /-- HOIST_REKEY (R377). -/
  | hoistRekey (o : Args)
  /-- EQPOP (R378). -/
  | eqpop (m : Bool) (o : Args)
  /-- PSTOP_SAVE (R379). -/
  | pstopSave (o : Args)
  /-- PSTOP_HALT (R379). -/
  | pstopHalt (o : Args)
  /-- PSTOP_PAUSE (R379). -/
  | pstopPause (o : Args)
  /-- PSTOP_RESET (R379). -/
  | pstopReset (o : Args)
  /-- PSTART (R379). -/
  | pstart (o : Args)
  /-- SFU_RESULT (R220): An SFU result arrives 16 to 48 cycles after issue and fills its EMPTY destination. -/
  | sfuResult (id : Nat)
  /-- MMA_CHUNK (R266): A chunk of an accumulation completes and %prog advances. -/
  | mmaChunk (id : Nat)
  /-- ENGINE_OP_COMPLETE (R259): An engine operation completes, flags are ORed and the MMA counter falls. -/
  | engineOpComplete (id : Nat) (part : Nat)
  /-- BARRIER_WAKE (R334): A write to a barrier word makes the unit re-read it and ready matching waiters. -/
  | barrierWake (id : Nat)
  /-- WATCH_REPORT (R336): The owner reports a write to a watched sector, or the 1,024-cycle poll expires, and the word is re-read. -/
  | watchReport (id : Nat)
  /-- SEND_LIST_DEPART (R345): A send list leaves at 16 tokens or after 2,048 cycles, reading payloads. -/
  | sendListDepart (id : Nat)
  /-- TOKEN_ARRIVE (R345): A token is placed, held, sent on or returned at an expert's engine. -/
  | tokenArrive (id : Nat)
  /-- TOKEN_RETURN (R345): A returned header reaches its source die and is written to overflow or dropped. -/
  | tokenReturn (id : Nat)
  /-- END_MARKER_ARRIVE (R347): An end marker counts in ENDS or is held, and may close the buffer. -/
  | endMarkerArrive (id : Nat)
  /-- TOKEN_DISPOSITION_ACK (R347): A disposition acknowledgement reaches the source die. -/
  | tokenDispositionAck (id : Nat)
  /-- COLL_CONTRIBUTION (R351): A collective contribution arrives and is combined at the block's owner. -/
  | collContribution (id : Nat)
  /-- LAUNCH_COMPLETE (R302): A launch completes: L1 drop, optional confirmation wait, DONE record, MSI-X, record freed. -/
  | launchComplete (id : Nat)
  /-- RELOC_DONE (R96): The relocation engine finishes copying and reports a status. -/
  | relocDone (st : Nat) (found : List (Nat × Bool))
  /-- HOIST_BARRIER (R150): All members reach the hoist barrier; new keys, flows restart, %gen rises. -/
  | hoistBarrier (mask : BitVec 512) (secret : List W64) (gen : W32) (leader : Nat)
  /-- HOIST_DEADLINE (R151): HDL expires and absent members are evicted. -/
  | hoistDeadline (m : Nat)
  /-- RUN_SELECT (R304): At a run end the lane chooses the next ready group's run. -/
  | runSelect (id : Nat)
  /-- ICACHE_FILL (R51): An instruction-cache line fill returns from memory. -/
  | icacheFill (id : Nat)
  /-- LOAD_RETURN (R175): Load data returns and the destination becomes FULL, TENT or POIS. -/
  | loadReturn (x : Machine.Look)
  /-- ATOM_RETURN (R188): Atomic results return and are distributed to threads. -/
  | atomReturn (id : Nat)
  /-- CONTEXT_LEVEL_LOOKUP (R59): A request is looked up by O at the context level. -/
  | contextLevelLookup (x : Machine.Look)
  /-- PORT_LEVEL_LOOKUP (R60): A remote request is looked up by ingress label. -/
  | portLevelLookup (x : Machine.Look)
  /-- CHIP_LEVEL_LOOKUP (R105): A request is looked up by M, charged and sent to its target. -/
  | chipLevelLookup (x : Machine.Look)
  /-- STACK_LEVEL_LOOKUP (R92): A request is resolved through region and page entry at the base die. -/
  | stackLevelLookup (x : Machine.Look)
  /-- GATED_REREAD (R70): A request held at a GATED entry re-reads it every 256 cycles. -/
  | gatedReread (id : Nat)
  /-- GATE_TIMEOUT (R72): A held request exceeds GTO and is refused with gate. -/
  | gateTimeout (id : Nat)
  /-- GRANT_REQUEST (R108): A write's grant request passes the stack level and returns. -/
  | grantRequest (x : Machine.Look)
  /-- WRITE_APPLY (R113): A write reaches its owner and is applied in coherence order. -/
  | writeApply (id : Nat)
  /-- HOME_SLICE_ATOMIC (R113): The home-slice or bank ALU performs an atomic or reduction. -/
  | homeSliceAtomic (id : Nat)
  /-- L2_WRITE_BACK (R107): A line's dirty sectors are written back, in order per line. -/
  | l2WriteBack (evict : Bool) (id : Nat)
  /-- REPLICA_SEQUENCE (R115): The HOME sequencer stamps and multicasts a replica store. -/
  | replicaSequence (id : Nat)
  /-- BUCKET_RELEASE (R120): A request waiting at a rate bucket passes as the balance allows. -/
  | bucketRelease (id : Nat)
  /-- WCQ_DRAIN (R119): A write-combining entry drains to its home. -/
  | wcqDrain (id : Nat)
  /-- STORE_BUFFER_DRAIN (R179): A store-buffer entry drains when RL = 0 and data is not TENT. -/
  | storeBufferDrain (id : Nat)
  /-- SIDE_LOG_ENTER (R183): A refused write enters the core's side log. -/
  | sideLogEnter (id : Nat)
  /-- FAULT_RESPONSE (R362): An owner's response word replays or discards a held request. -/
  | faultResponse (dst : Nat)
  /-- FAULT_QUEUE_RIDX (R361): A larger RIDX lets held full records be posted. -/
  | faultQueueRidx (dst : Nat)
  /-- COPY_COMPLETE (R164): A copy completes or fails and its counter falls. -/
  | copyComplete (id : Nat) (first : Nat) (n : Nat)
  /-- SLEEP_WAKE (R167): A sleeping group's wake time arrives. -/
  | sleepWake (id : Nat)
  /-- HANG_DETECT (R338): The hang count reaches HTHR and the wait-for graph is written. -/
  | hangDetect (id : Nat)
  /-- PEER_DEADLINE (R364): A peer's recovery deadline passes and waits on it are decided. -/
  | peerDeadline (m : Nat)
  /-- FLOW_FLIT_INGRESS (R132): A flow flit arrives and is buffered into its seal group. -/
  | flowFlitIngress (port fec : Nat) (lo hi : W64) (early : Bool) (body : Machine.PBody)
  /-- SEAL_GROUP_VERIFY (R146): A seal group verifies; packets apply and TENT registers may become FULL. -/
  | sealGroupVerify (mine : Bool) (m id : Nat)
  /-- SEAL_GROUP_FAIL (R148): A seal group fails its tag; blocks are dropped or trapped and the sender replays. -/
  | sealGroupFail (mine : Bool) (m id : Nat)
  /-- RELEASE_PACKET_APPLY (R133): A held release-tagged packet is applied or returned held behind fault. -/
  | releasePacketApply (m seq : Nat)
  /-- SEAL_GROUP_CLOSE (R145): The egress closes a seal group at 16 flits, a VC change or 64 cycles. -/
  | sealGroupClose (m vc : Nat)
  /-- LINK_REPLAY (R128): A flit failing FEC or CRC is resent from the replay buffer. -/
  | linkReplay (port : Nat)
  /-- CREDIT_RETURN (R135): A credit-return link flit updates stored FREED counts. -/
  | creditReturn (port : Nat) (freed : List Nat)
  /-- CREDIT_AUDIT (R136): The 10 µs credit audit compares and repairs counters. -/
  | creditAudit (port : Nat) (sent freed : List Nat)
  /-- REACHABILITY_NOTICE (R130): A reachability notice clears a plane from the mask. -/
  | reachabilityNotice (m plane : Nat)
  /-- PORT_DEGRADE (R138): Lane or buffer failures degrade a port and may merge VCs. -/
  | portDegrade (port lanes cap : Nat)
  /-- PORT_QUIESCE (R139): A port quiesces, completing held packets and notifying peers. -/
  | portQuiesce (port : Nat)
  /-- SPDM_SESSION (R141): An SPDM attestation exchange between system cores. -/
  | spdmSession (m : Nat) (ok : Bool)
  /-- DOMAIN_SWITCH_GO (R111): A write of GO starts an interleave-domain switch. -/
  | domainSwitchGo (id : Nat)
  /-- DOMAIN_WALK_BEGIN (R396): With no old-epoch request left, the switch walk begins. -/
  | domainWalkBegin (id : Nat)
  /-- DOMAIN_SWITCH_END (R111): The switch installs masks, advances EPOCH and releases or refuses held requests. -/
  | domainSwitchEnd (id : Nat)
  /-- DOMAIN_CHANGED_REPLAY (R111): A request refused with domain changed is replayed with the current stamp. -/
  | domainChangedReplay (id : Nat)
  /-- PIN_EXPIRY (R99): A thrash-detector pin runs out and the counter resets. -/
  | pinExpiry (st key : Nat)
  /-- PATROL_SCRUB (R102): The patrol scrubber reads sectors once per SPER hours. -/
  | patrolScrub (st a found : Nat)
  /-- FRONT_END_DELIVER (R293): The front end checks a head packet and appends it to a mailbox. -/
  | frontEndDeliver (id : Nat)
  /-- DOORBELL_WRITE (R292): The host writes WIX through its doorbell page. -/
  | doorbellWrite (id : Nat) (wix : Nat)
  /-- QUEUE_AGEING (R305): A queue's starvation count passes AGET and AGE rises. -/
  | queueAgeing (id : Nat)
  /-- GROUP_AGEING (R306): A ready group's lane priority rises after each AGET. -/
  | groupAgeing (id : Nat)
  /-- DRAIN_TIMEOUT (R367): A drained block still running after DRMAX is saved. -/
  | drainTimeout (id : Nat)
  /-- THERMAL_MIGRATION (R310): A core's sensor reads a temperature; one reaching THOT moves blocks to a cooler core. -/
  | thermalMigration (x : Machine.Heat)
  /-- RESOURCE_CLAIM (R311): An incoming group claims a halted context's resource, which is spilt and cleared. -/
  | resourceClaim (bytes : Bool) (id : Nat)
  /-- SAVE_AREA_FREED (R406): Freed save-area space lets a waiting save proceed. -/
  | saveAreaFreed (id : Nat)
  /-- RESTORE_RETRY (R401): A released slot lets a saved block be placed and restored. -/
  | restoreRetry (id : Nat)
  /-- SCAN_PAIR (R383): The scheduler takes the next pair out of service for scanning. -/
  | scanPair (id : Nat)
  /-- SCAN_COMPLETE (R384): A 100 µs scan ends; a pass clears the LID list, a fail retires the core. -/
  | scanComplete (die : Nat) (ok0 ok1 : Bool)
  /-- PARTITION_CHANGE (R389): A write of GO moves dies into or out of a partition. -/
  | partitionChange (go : Bool) (p : Nat)
  /-- POWER_SHED (R393): Power nearing its limit triggers shedding steps. -/
  | powerShed (step : Nat)
  /-- POWER_GOOD (R392): Power-good zeroes %cyc and starts boot through its stages. -/
  | powerGood (ok : Bool) (kind n : Nat)
  /-- SRQ_CLEAR (R391): Writing 1 to SRQ clears it and SRCNT. -/
  | srqClear
  /-- OVF_CLEAR (R360): Writing 1 to a fault queue's OVF clears it. -/
  | ovfClear (dst : Nat)
  /-- BUCKET_RATE_WRITE (R121): Writing RATE sets the bucket balance to BURST times 1,024. -/
  | bucketRateWrite (fab : Bool) (b rate : Nat)
  /-- PORT_LIMIT_WRITE (R137): A VC limit write is applied or ignored if invalid. -/
  | portLimitWrite (port v : Nat)
  /-- QUEUE_SIZE_WRITE (R292): A SIZE write outside 2-16 with EN set stops the queue with ERR. -/
  | queueSizeWrite (id : Nat) (size : Nat)
  /-- REGISTER_WRITE (R10): A write to a register with no behaviour of its own. -/
  | registerWrite (bar n v : Nat)
  /-- MODULE_NUMBER_ASSIGNMENT (R126): The pod manager assigns the module number through the management port during fabric bring-up, and the module starts to send and accept fabric traffic. -/
  | moduleNumberAssignment (n : Nat)
  /-- PORT_TRAINING_DONE (R137): A fabric port's link finishes training and its STATE goes from training to up, so its plane can carry traffic again. -/
  | portTrainingDone (port : Nat)
  /-- WRITE_ACKNOWLEDGEMENT (R190): An RSP write acknowledgement, or the owner's report that a write is applied, reaches the issuing unit, marks the write performed at its scope and carries the flow's fault epoch. -/
  | writeAcknowledgement (id : Nat)
  /-- QUEUE_ENABLE_WRITE (R291): A write of a launch queue's EN bit clears ERR and enables or disables the queue for the front end. -/
  | queueEnableWrite (id : Nat) (en : Bool)
  deriving DecidableEq, Repr

end Sys2Proof
end

