-- ==== Sys2Proof/Machine/State.lean ====
section
/-! DEFINITION. The state of the machine: one GN12-C module (R1, R2), as plain data. -/

namespace Sys2Proof.Machine

open Sys2Proof

/-! ## Registers -/

/-- The state of a register (R197). `tent n`: delivered, or computed from data delivered, before its block's n-th tentative delivery had verified (R146). -/
inductive RState
  | full
  | empty
  | tent (mark : Nat)
  | pois
  deriving DecidableEq, Repr

/-- A thread register: bits, format tag, state (Table 9-1). -/
structure TReg where
  v   : W32 := 0
  tag : Nat := 31
  st  : RState := .full
  deriving DecidableEq, Repr

/-- A uniform register (Table 9-1). -/
structure UReg where
  v   : W64 := 0
  tag : Nat := 31
  st  : RState := .full
  deriving DecidableEq, Repr

/-- A predicate: its value and its state, never empty (R198). -/
structure PReg where
  v  : Bool := false
  st : RState := .full
  deriving DecidableEq, Repr

/-- The KIND of a mask-stack entry (Table 10-14). -/
inductive MKind | ifThen | ifElse | loop
  deriving DecidableEq, Repr

/-- A mask-stack entry (Table 10-14). -/
structure MEntry where
  kind : MKind
  m    : BitVec 32
  t    : BitVec 32
  res  : W32
  body : W32
  deriving DecidableEq, Repr

/-- What the last REGN recorded (R253). -/
structure Region where
  resume : W32
  act    : BitVec 32
  stack  : List MEntry
  deriving DecidableEq, Repr

/-- A step of an instruction that acts in two parts: what it has already done (R335, R375). -/
inductive Cont
  | arw (phase : Nat) (pc : W32)         -- the arrival of the `ARW` at `pc` has been counted
  | gate (key : Nat)                     -- the gate is set; the count is awaited
  | pstop                                -- the stop or start of a context has begun
  | range (req : Nat)                    -- the range lookup is under way (R122)
  | wbr (ids : List Nat)                 -- the write-backs awaited
  | await                                -- a FENCE, ICINV or WBR waits for writes or loads (R191, R52, R122)
  | launchOn (cluster lid : Nat)         -- a LAUNCH waits for room (R298)
  deriving DecidableEq, Repr

/-- The hidden shadow of a group in its handler (R355), with what an instruction of two parts had done (R335). -/
structure Shadow where
  code  : W64
  len   : W32
  act   : BitVec 32
  depth : Nat
  cont  : Option Cont := none
  deriving DecidableEq, Repr

/-! ## Traps and refusals inside the machine -/

/-- Trap causes (Table 16-1), in the order of their codes 1 to 30. -/
inductive Cause
  | illegal | privileged | unitAbsent | fetchRange | pointerFault | formatMismatch | emptyRead | poisonConsumed
  | uncontained | divergent | maskStack | groupSlot | promiseMissed | copyDescriptor | copyFailed | writeDiscarded
  | tileMode | matrixShape | pair | matrixFailed | launchPrivilege | barrier | routing | routingFailed | collective
  | collectiveFailed | hang | peerLost | software | loadDiscarded
  deriving DecidableEq, Repr

/-- A trap to be taken: the fields that its frame records (Table 16-2, Table 16-3). -/
structure Trap where
  cause  : Cause
  detail : Nat := 0
  field  : Nat := 0
  thread : Nat := 0
  aux0   : W32 := 0
  aux1   : W64 := 0
  frec   : BitVec 256 := 0
  deriving DecidableEq, Repr

/-! ## Requests in the memory path -/

/-- The tag of an L2 line: home stack, I, tile coordinates (R90). -/
structure Tag where
  stack : Nat
  i     : Nat
  tx    : Nat
  ty    : Nat
  deriving DecidableEq, Repr

/-- A place that a request has resolved to. -/
inductive Target
  | line (tag : Tag) (byte off slice : Nat)      -- byte of an L2 line, the region offset of that byte, the line's home slice
  | chip (addr : Nat)                           -- chip scratchpad byte
  | replica (set : Nat) (i : Nat) (off : Nat)   -- a replica set, still to be ordered or read (R115)
  | remote (module : Nat)                       -- on its way to another module
  | entry                                       -- what the chip entry that granted it names, still to be resolved (R105)
  deriving DecidableEq, Repr

/-- Where a request stands. -/
inductive Stage
  | context                                     -- at the context level, to be looked up by O
  | port                                        -- at the port level, to be looked up by ingress label
  | chip                                        -- at the chip level, to be looked up by M
  | bucket (b : Nat) (bytes : Nat) (t : Target) -- waiting at a rate bucket (R120)
  | slice (t : Target)                          -- at its home slice, bank or sequencer
  | stack (s : Nat) (i : Nat) (off : Nat) (t : Target)  -- at the stack level after a forward, to be looked up by I
  | ready (t : Target)                          -- granted by every level, to be performed
  | egress (module level : Nat)                 -- at fabric egress, for a level of the module
  | sent (module : Nat) (seq : Nat)             -- sent to another module, awaiting its answer
  | members (told : Bool)                       -- at its sequencer: an atomic that HOME's own member has still to perform, or stamped and multicast (R115)
  | held (level : Nat) (key : Nat) (until_ : Nat) (back : Stage)  -- held at a gated entry, until its bound (R72)
  | domainHeld (d : Nat)                        -- held by a domain switch at chip-level issue (R111)
  | wbacks (ids : List Nat)                     -- a range operation of another module, waiting for its write-backs (R122, R124)
  | behind                                      -- returned "held behind fault", on its way to the side log (R133)
  | refused (r : Refuse) (recorded : Bool)      -- refused; its record posted, or held for a full queue (R361)
  deriving DecidableEq, Repr

/-- What a request serves. -/
inductive Client
  | load (op : Nat)                     -- bytes of load operation `op`
  | write (w : Nat)                     -- the write of number `w` (a queue entry, a buffered reduction, a replay)
  | fetch (gid : Nat)                   -- an instruction line for a group (R30)
  | prefetch (l1 : Bool)
  | watch (w : Nat)
  | copy (k : Nat) (first : Nat)        -- a piece of a copy, from its byte `first`
  | eop (k : Nat) (part : Nat)          -- bytes of an engine operation: which of its reads or writes
  | tok (k : Nat)                       -- a token's payload or header
  | coll (k : Nat) (msg : Nat)          -- a collective's bytes: read from SND, or those of a packet written to RCV
  | range (gid : Nat)                   -- the range lookup of WBR or INVL1 (R122)
  | foreign (src : Nat) (seq : Nat)     -- a request of another module
  | wback (w : Nat)                     -- a row of a write-back that a forward has sent to another module (R97)
  | member (id : Nat)                   -- one member's part of the sequenced request `id` (R115)
  | reloc (stack : Nat)                 -- a sector of a page that RELOC moves through its destination's stack level (R96)
  | posted                              -- a write of one of the module's own units, which nothing waits for (R79, R292, R294)
  deriving DecidableEq, Repr

/-- A request in flight (R63, R72). `entries` are the entries below the split that have granted it and still count it. Once it has been performed a
request of one of the module's own units stays, `served`, until its unit takes note. -/
structure Req where
  client  : Client
  kind    : AKind
  org     : Origin
  ptr     : W64                          -- as it stands: O, M, I and offset of the level it is at
  ptr0    : W64 := 0                     -- as its unit made it
  label   : Nat := 0                     -- the ingress label, at the port level
  len     : Nat
  pay     : Payload := .load
  fwd     : Nat := 0
  stage   : Stage
  stamp   : Option (Nat × Nat) := none   -- domain and epoch (R110)
  ent     : BitVec 128 := 0              -- the chip entry that granted it
  fwd0    : Nat := 0                     -- the forwards it had taken, and
  ptrC    : W64 := 0                     -- its pointer, when the chip level granted it
  home    : Option Target := none        -- the line at whose home slice it waits while its stack level is on another module (R98, R108)
  entries : List Nat := []
  fam     : Nat := 0                     -- the access whose part it is (R94)
  shared  : List Nat := []               -- entries above the split, counted until every part that shares them is done
  share   : Nat := 0                     -- the lookup above the split whose part it is
  fresh   : Bool := false                -- read beyond the L1
  const   : Bool := false
  core   : Nat := 0                      -- the unit that issued it
  rel    : Option Scope := none          -- of the write of a release
  fill   : Bool := false                 -- fills the issuing core's L1 (R118)
  arrived : Nat := 0                     -- when it came to where it stands: names rise with time
  turn   : Nat := 0                      -- when it came to its home slice, bank or sequencer: the order of operations there (R113)
  result  : List (Byte × Bool) := []     -- bytes served at the owner, each with its poison mark
  poison  : Bool := false                -- an atomic met poison
  tent    : Option Nat := none           -- its reply came before its seal group verified (R146)
  served  : Bool := false
  got     : List (Option Byte) := []     -- bytes that its unit took at issue from a store buffer or queue (R260)
  elem   : Nat := 0                      -- which element it is of the vector packet that has brought it (R131), and
  sub    : Nat := 0                      -- of the one in which it has left
  mcast   : Option (Nat × Nat) := none   -- a sequencer's multicast: HOME and stamp (R115); it stays, once applied, until every member has applied it (R116)
  deriving DecidableEq, Repr

/-! ## Outstanding operations -/

/-- A destination register of an outstanding producer. -/
structure Dest where
  uni   : Bool
  num   : Nat
  width : Nat                            -- 32, 64 or 128
  deriving DecidableEq, Repr

/-- A load or LDS in flight (R175, R159): the bytes taken so far, in order, and how they become the register's value. -/
structure LoadOp where
  gid    : Nat
  thread : Nat
  dst    : Dest
  ty     : Ty
  bytes  : List (Option Byte)            -- taken at issue, or returned
  pois   : Bool := false
  tent   : Option Nat := none            -- the block's tentative delivery number, when some byte came before its seal verified
  acq    : Option Scope := none
  l1     : Bool := true                  -- may fill the L1
  gth    : Option Nat := none            -- the vector operation it belongs to
  loc    : Option Nat := none            -- a local load: the SRAM byte it reads
  org    : Origin
  deriving DecidableEq, Repr

/-- An atomic or reduction in flight (R186 to R188): one request for each distinct location. -/
structure AtomLoc where
  ptr     : W64
  threads : List (Nat × W64 × W64)       -- thread, operand, compare value, in index order
  result  : Option (List W64) := none    -- old values, one per ALU operation
  pois    : Bool := false
  deriving DecidableEq, Repr

structure AtomOp where
  gid  : Nat
  dst  : Option Dest                     -- none for RED
  op   : AOp
  ty   : ATy
  locs : List AtomLoc
  tent : Option Nat := none
  acq  : Option Scope := none
  gth  : Option Nat := none
  num  : Nat := 0                        -- which of its group's atomics with return it is
  org  : Origin
  deriving DecidableEq, Repr

/-- An SFU result on its way (R240): the values to write, per thread, and the flags to raise. -/
structure SfuOp where
  gid  : Nat
  dst  : Dest
  vals : List (Nat × W64 × RState × W32) -- thread, bits, state, flags
  seq  : Nat
  deriving DecidableEq, Repr

/-- A sibling read in flight (R247): what each thread is to receive, as the sibling's register stood between two of its instructions. -/
structure SrdOp where
  gid    : Nat
  dst    : Dest
  vals   : List (Nat × TReg)
  deriving DecidableEq, Repr

/-- A vector packet, counted in GTH (R177). -/
structure GthOp where
  gid  : Nat
  left : Nat
  num  : Nat := 0                        -- which of its group's vector packets it is
  deriving DecidableEq, Repr

/-- An outstanding producer or vector operation, named by number. -/
inductive Op
  | load (o : LoadOp)
  | atom (o : AtomOp)
  | sfu (o : SfuOp)
  | srd (o : SrdOp)
  | gth (o : GthOp)
  deriving DecidableEq, Repr

/-! ## Writes on their way -/

/-- A write's data: bytes with a mask, a reduction, or an atomic's location (the operation's number and the location's index). -/
inductive WData
  | bytes (base : W64) (data : List (Option Byte))   -- from `base`, one byte or none each
  | red (op : AOp) (ty : ATy) (ptr : W64) (val : W64)
  | atom (op loc : Nat) (ptr : W64) (len : Nat)
  deriving DecidableEq, Repr

/-- A write's standing on its way to its owner (R317, Table 14-1): in the store buffer, in the write-combining queue, sent to its owner, in
the side log; or sequenced by an engine for another module, past the core (R134). -/
inductive WPlace | buffer | queue | flight | log | engine
  deriving DecidableEq, Repr

/-- What a write is made of: the bytes that one thread's access put into it. -/
structure WSrc where
  gid : Nat
  org : Origin
  off : Nat := 0                       -- from the write's base
  len : Nat := 0
  gth : Option Nat := none             -- the vector operation whose element it is
  acc : Nat := 0                       -- the access that it is a part of, where the access has bytes in another sector of its line too
  deriving DecidableEq, Repr

/-- The engine operation whose write it is: it counts as its group's once a wait has covered the operation (R134, R324). -/
structure Cover where
  gid : Nat
  mma : Bool                           -- an engine operation, else a copy
  num : Nat
  key : Nat
  deriving DecidableEq, Repr

/-- A write that has left its instruction: a store-buffer entry, a write-combining entry, a write in flight or a side-log entry. -/
structure Wr where
  data     : WData
  ctx      : Nat
  blk      : Nat
  src      : List WSrc
  unit     : Nat                       -- the core it waits at
  place    : WPlace
  tent     : Option Nat := none        -- waits while its data is tentative (R147)
  barrier  : Nat := 0                  -- drains after every queue entry older than this number (R321)
  remote   : Option Nat := none        -- the module its context entry names
  rel      : Option Scope := none      -- the write of a release, with its scope (R319)
  refuse   : Option Refuse := none     -- in the side log: why (R183)
  recorded : Bool := false             -- its record has been posted
  answered : Option Bool := none       -- the owner's response: replay (true) or discard (R184)
  reqs     : Nat := 0                  -- requests of it still in flight
  loc      : Option Nat := none        -- a local write: the SRAM byte of its base
  seen     : List Nat := []            -- groups that have loaded its bytes (R190)
  cover    : Option Cover := none
  pois     : List Nat := []            -- the positions of an engine's write that carry the poison mark (R163)
  rep      : Bool := false             -- a replica store: it has bypassed the queue (R115)
  deriving DecidableEq, Repr

/-! ## Groups and blocks -/

/-- Why a group is not ready (R304), other than an instruction that merely waits at issue. -/
inductive Wait
  | none
  | barrier (unit : Bool) (addr : Nat) (phase : Nat) (arw : Bool)  -- WTB or the wait part of ARW: cluster word?, SRAM address, awaited phase
  | watch (w : Nat)
  | mailbox
  | sleep (until_ : Nat)
  | halted                               -- HALT (R358)
  | nested                               -- stopped by a nested trap (R356)
  | irq                                  -- a system core's HALT
  | reloc (stack : Nat)                  -- RELOC, until the engine reports (R376)
  | hoist                                -- HOIST, until the hoist completes (R377)
  deriving DecidableEq, Repr

/-- A binding of a tile name (R255, Table 11-1). -/
structure Tile where
  mode : TMode
  pair : Bool
  slot : Nat                             -- the leader's slot
  slot2 : Nat := 0                       -- the follower's slot of a pair tile
  deriving DecidableEq, Repr

/-- The context of a temporal group (R281). (DESIGN CHOICE, log 3) -/
structure Group where
  blk    : Nat                           -- its block
  num    : Nat := 0                      -- group number g (R287)
  ext0   : Nat := 1                      -- threads
  allot  : Nat := 32                     -- thread registers (R282)
  pc     : W32 := 0
  act    : BitVec 32 := 1                -- active mask A (R250)
  stack  : List MEntry := []             -- mask stack, top first (R250)
  code   : W64 := 0                      -- code base (R29)
  len    : W32 := 0                      -- length in fetch lines (R29)
  t      : FMap TReg := []               -- thread register k of thread n at 128·n + k
  w      : FMap UReg := []
  p      : FMap PReg := []               -- predicate k of thread n at 16·n + k
  q      : FMap PReg := []
  ag     : FMap W64 := []
  tiles  : FMap Tile := []
  fflags : W32 := 0
  ent    : W32 := 0
  prog   : W32 := 0
  wid    : W64 := 0                      -- %wid without f0
  f      : FMap W64 := []                -- %f1 to %f5
  rgn    : Option Region := none         -- RGV and what REGN recorded
  inH    : Bool := false                 -- in-handler flag (R355)
  shadow : Shadow := { code := 0, len := 0, act := 0, depth := 0 }
  cpy    : Nat := 0
  mma    : Nat := 0
  gth    : Nat := 0
  net    : Nat := 0
  atm    : Nat := 0
  cpyN   : Nat := 0                      -- operations issued so far in each counter class (R169)
  mmaN   : Nat := 0
  gthN   : Nat := 0
  netN   : Nat := 0
  atmN   : Nat := 0
  batch  : Nat := 0                      -- last batch number (R262)
  openB  : List Nat := []                -- operations of the open batch
  closed : List (Nat × List Nat) := []   -- closed batches, incomplete
  wait   : Wait := .none
  since  : Nat := 0                      -- when the present wait was entered
  cont   : Option Cont := none
  stuck  : Option Nat := none            -- since when its present instruction has waited at issue
  hkind  : Nat := 0                      -- that wait as a hang wait: 4 a matrix write awaiting a commit, 5 `WAITC.net`, 0 neither (R337)
  due    : List Trap := []               -- traps due at the next instruction
  run    : Nat := 0                      -- instructions of the present run (R303)
  lastEnd : Option Nat := none           -- when its last run ended (R304)
  readyAt : Nat := 0                     -- since when its ageing count has run on (R306), and
  aged   : Nat := 0                      -- what the count had come to before it last stood still
  raise  : Nat := 0                      -- ageing raise (R306)
  yielded : Bool := false                -- behind the ready groups of its priority (R253)
  cob    : Bool := false                 -- the cobbler mark (R295)
  deriving DecidableEq, Repr

/-- What a launch header fixes for its blocks (R288). -/
structure Header where
  code  : W64 := 0
  idem  : Bool := false
  prio  : Nat := 0
  regs  : Nat := 32
  len   : W32 := 0
  est   : Nat := 0
  w     : List Nat := [0, 0, 0, 0, 0, 0] -- W0 to W5
  sc    : List Nat := [0, 0, 0, 0, 0]    -- S1 to S5
  lane  : Nat := 0                       -- LANEB
  core  : Nat := 0                       -- COREB
  clu   : Nat := 0                       -- CLUB
  cbsz  : Nat := 0
  deriving DecidableEq, Repr

/-- How a stopped block is treated (R368, R379). -/
inductive Treat | save | halt | flush | drain | drop | discard
  deriving DecidableEq, Repr

/-- A block (R281). -/
structure Block where
  ctx    : Nat := 0
  part   : Nat := 0
  lid    : Option Nat := none            -- launch record; none for a cobbler or a system core
  set    : Nat := 0
  num    : Nat := 0                      -- block number in the set
  core   : Nat := 0
  lane   : Nat := 0                      -- lane base
  hdr    : Header := {}
  cbank  : W64 := 0                      -- constant bank pointer (CBANK)
  bank   : FMap Byte := []               -- the bank's bytes
  groups : List Nat := []                -- its group ids, in group-number order
  live   : Nat := 0                      -- groups that have not ended
  prio   : Nat := 0
  rl     : Bool := true                  -- relaunchable (R179)
  rs     : Bool := false                 -- restartable (R366)
  relaunched : Nat := 0                  -- R382
  placed : Nat := 0                      -- when last placed or restored
  ran    : Nat := 0                      -- e of R367, up to the last stop
  stop   : Option Treat := none          -- a treatment under way: its groups stop at run boundaries
  place  : Nat := 0                      -- the name of its core and lane allotments and frames
  cbase  : Nat := 0                      -- the name of its set's cluster allotment
  ngrp   : Nat := 1                      -- its groups, ended ones too
  pkt    : List W64 := []                -- the packet it was launched with (Table 12-3)
  mig    : Bool := false                 -- saved to move from a hot core (R310)
  scan   : Bool := false                 -- saved for the scan of its pair (R383)
  chosen : Nat := 0                      -- when the treatment under way was chosen
  tents  : Nat := 0                      -- tentative deliveries made to it (R146)
  seals  : List (Nat × Nat) := []        -- unverified seal groups, each with the number of its first delivery
  passedG : List Nat := []               -- numbers of its groups that have passed (R300)
  deriving DecidableEq, Repr

/-- What is kept of a block that is on no core, or of one halted in place of which a part has been spilt (R311, R369, R370). -/
structure Saved where
  from_  : Nat                           -- the core it was on
  restart : Bool := false                -- to start afresh: flushed, dropped (R368, R381)
  dropped : Bool := false                -- dropped: another cluster is tried first (R381)
  cut    : Bool := false                 -- halted in place: its allotment bytes have been spilt
  images : List (Nat × Nat) := []        -- its images in the save area: offset from SAVE, bytes
  deriving DecidableEq, Repr

/-! ## Cores, clusters and dies -/

/-- An instruction-cache line (R50). -/
structure ILine where
  ctx  : Nat
  ptr  : W64
  bits : BitVec 1536
  used : Nat := 0
  deriving DecidableEq, Repr

/-- An L1 line (R118): the bytes that a fill brought, each as served at the owner. -/
structure L1Line where
  mod    : Nat                           -- the module whose line it is
  tag    : Tag
  data   : FMap Byte                     -- the bytes held, by position in the line
  pois   : List Nat := []                -- poisoned sectors
  ctx    : Nat
  deriving DecidableEq, Repr

/-- A context-level label-cache entry (R70). -/
structure CLine where
  ctx  : Nat
  o    : Nat
  ent  : BitVec 128
  used : Nat := 0
  deriving DecidableEq, Repr

/-- One tile slot's element planes and counts (R254), row-major, keyed 256·row + column. -/
structure Plane where
  x  : FMap W64 := []                    -- F32 or F64 accumulators, or plane P
  n  : FMap W64 := []                    -- plane N
  cp : FMap Nat := []
  cn : FMap Nat := []
  pz : Bool := false
  own : Nat := 0                         -- the group that holds it
  rel : Bool := false                    -- its name has been released; it is free once no queued operation uses it
  deriving DecidableEq, Repr

/-- The kinds of engine operation (R259). -/
inductive MOp
  | mma (m : Mods.Mma) (k : Nat) (d : List W64)
  | dist (m : Mods.Mma) (k : Nat) (d : List W64)
  | topkReg (m : Mods.TopkReg) (d : Nat) (threads : List Nat)
  | topkMem (m : Mods.TopkMem) (p rs : W64)
  | zero (m : TMode)
  | pair (m : TMode)
  | ldt (m : TMode) (p rs : W64)
  | stt (p rs : W64)
  | drn (m : Mods.Drn) (p rs : W64) (ag : W64)
  deriving DecidableEq, Repr

/-- An engine operation, queued, running, or writing (R259); a failed one stays until a wait has reported it (R277). -/
structure EOp where
  gid    : Nat
  num    : Nat                           -- which of its group's engine operations it is
  unit   : Nat
  arr    : Nat := 0                      -- when it came to its array's queue: at issue, or at its restore
  ctx    : Nat
  blk    : Nat
  op     : MOp
  tile   : Nat := 0                      -- the tile name
  bind   : Tile                          -- its binding at issue
  locs   : List (Option Nat) := []       -- for each pointer, the SRAM byte of local address 0 where it has form 0x2
  pc     : W32
  org    : Origin
  begun  : Bool := false
  tileDone : Bool := false               -- the tile phase has ended
  done   : Bool := false
  cancelled : Bool := false
  ncan   : Nat := 0                      -- operations that its failure cancelled
  failed : Option (BitVec 256) := none   -- its fault record, zero if none
  prog   : W32 := 0                      -- %prog as it failed
  flags  : W32 := 0
  writes : List (W64 × Option Nat × List Byte) := []  -- what its memory phase has still to begin to write: pointer, SRAM base, bytes
  pz     : Bool := false                 -- what it writes is poisoned
  deriving DecidableEq, Repr

/-- One core (R4, R283): what is shared by its groups. Unit 1536 + n is system core n. (DESIGN CHOICE, log 3) -/
structure Core where
  icache : List ILine := []
  l1     : List L1Line := []
  lcache : List CLine := []
  slots  : FMap Plane := []              -- tile slots in use
  tmp    : Nat := 0                      -- temperature (Table 13-4)
  retired : Bool := false                -- R385
  scanning : Bool := false               -- out of service for a scan (R383)
  lids   : List Nat := []                -- launches run since the last pass, oldest first (R384)
  ovr    : Bool := false
  irq    : Nat := 0                      -- interrupts pending (a system core)
  dropped : List (Nat × Nat) := []       -- entries that an LINV of a system core has dropped, each with the name that was next (R75)
  barrier : Nat := 0                     -- queue entries older than this number stand before the last release (R321)
  deriving DecidableEq, Repr

/-- A lane: the slot of the group whose run holds it (R303), and the rotation's place (R308). -/
structure Lane where
  slot : Option Nat := none
  rctx : Nat := 0
  runs : Nat := 0
  deriving DecidableEq, Repr

/-- A copy in flight, or a failed one that no `WAITC` has met yet (R163, R165). -/
structure Copy where
  gid   : Nat
  blk   : Nat
  ctx   : Nat
  clu   : Nat                            -- the cluster whose engine runs it
  unit  : Nat                            -- the core that issued it
  num   : Nat                            -- which of its group's copies it is
  dst   : W64
  src   : W64
  dloc  : Option Nat := none             -- the SRAM byte of local address 0, for a pointer of form 0x2
  sloc  : Option Nat := none
  e     : Nat × Nat × Nat                -- E0, E1, E2
  ss    : Int × Int                      -- SS1, SS2
  ds    : Int × Int
  zf    : Bool
  lo    : Int                            -- bounding range of the destination's offsets
  hi    : Int
  promise : Nat
  left  : List (Nat × Nat)               -- pieces not yet moved: first byte, in the order x, y, z, and count
  begun : Bool := false
  failed : Option (BitVec 256) := none
  org   : Origin
  done  : Bool := false
  deriving DecidableEq, Repr

/-- The copy's 16-bit id (R163). -/
def Copy.id (c : Copy) : Nat := c.num % 65536

/-- A receive buffer (R346). -/
structure RBuf where
  die   : Nat
  ctx   : Nat
  sess  : Nat
  exp   : Nat
  hdr   : W64
  pay   : W64
  cap   : Nat
  ps    : Nat
  e     : Nat
  count : Nat := 0
  ends  : Nat := 0
  redir : Nat := 0
  isOpen : Bool := true
  pend  : Nat := 0                       -- placements not yet performed
  failed : Bool := false
  ended : Bool := false                  -- its `RPOST` has completed
  op    : Nat                            -- the network operation
  unit  : Nat                            -- the core that issued it
  org   : Origin
  deriving DecidableEq, Repr

/-- A session on its source die (R341): its current or last round. -/
structure Session where
  die   : Nat
  ctx   : Nat
  sess  : Nat
  map   : W64
  nexp  : Nat
  len   : Nat
  ovf   : W64
  ocap  : Nat
  sent  : Nat := 0
  ret   : Nat := 0
  drop  : Nat := 0
  acked : Nat := 0                       -- dispositions acknowledged
  isOpen : Bool := true                  -- the round has not ended
  flush : Option Nat := none             -- the network operation of its `RFLUSH`
  tos   : List (Nat × Nat × Nat) := []   -- the end markers to send: expert, module, die
  marks : Nat := 0                       -- end markers not acknowledged
  marked : Bool := false                 -- the end markers have been sent
  org   : Origin
  deriving DecidableEq, Repr

/-- Where a token or an end marker is (R345 to R347, R398). -/
inductive TokAt
  | list (module : Nat)                  -- in the send list of its source die
  | read (module : Nat)                  -- has left the list; its payload is being read
  | coming (die left : Nat)              -- arriving from another module: bytes of its payload still to come (R131)
  | way (die : Nat)                      -- on its way to an engine of this module
  | held (die : Nat)                     -- in a holding area
  | placing (buf slot : Nat) (pay : Bool) -- being written to a slot; `pay` once the payload has been
  | back                                 -- returned, on its way to its source die
  | overflow (slot : Nat)                    -- being written to an overflow slot
  | ack                                  -- disposed of, its acknowledgement on its way
  deriving DecidableEq, Repr

/-- A token (R342) or an end marker. -/
structure Token where
  die   : Nat                            -- source die
  src   : Nat                            -- source module
  ctx   : Nat
  sess  : Nat
  exp   : Nat                            -- the expert it is bound for
  hdr   : BitVec 256 := 0
  pay   : List (Byte × Bool) := []
  loc   : Option Nat := none             -- the SRAM byte of local address 0 of its payload pointer
  at_   : TokAt
  mark  : Bool := false                  -- an end marker
  since : Nat := 0
  org   : Origin
  deriving DecidableEq, Repr

/-- A collective of this member (R351). -/
structure Coll where
  op    : Nat                            -- the network operation
  unit  : Nat
  m     : Mods.Coll
  tag   : W32
  snd   : W64
  rcv   : W64
  rank  : Nat
  g     : Nat
  n     : Nat
  lst   : List Nat
  heard : List Nat := []                 -- ranks whose descriptor has come and agrees
  dest  : Nat := 0                       -- the rank whose part of SND is being read and sent
  pos   : Nat := 0                       -- the elements of that part already sent
  acc   : FMap (W64 × Bool) := []        -- the own block so far, with its poison
  got   : Nat := 0                       -- contributions of single elements combined into it
  done  : Nat := 0                       -- elements of RCV written
  org   : Origin
  deriving DecidableEq, Repr

/-- A collective's packet that has arrived and has not been taken. -/
structure CMsg where
  tag  : W32
  rank : Nat
  kind : Nat
  blk  : Nat
  first : Nat := 0                       -- of the block's elements
  vals : List (W64 × Bool)
  deriving DecidableEq, Repr

/-- What a network operation does (R346, R347, R351). -/
inductive NOp
  | post | flush | coll
  deriving DecidableEq, Repr

/-- A network operation, counted in NET; a failed one stays until a `WAITC.net` has met it. -/
structure NetOp where
  gid  : Nat
  num  : Nat                             -- which of its group's network operations it is
  what : NOp
  done : Bool := false
  fail : Option Nat := none              -- the trap's detail
  deriving DecidableEq, Repr

/-! ## The cache die and the stacks -/

/-- An L2 line (R106, R108). -/
structure L2Line where
  slice : Nat
  data  : FMap Byte := []                -- the bytes held, by position in the line: a position not listed is not valid
  dirty : List Nat := []                 -- dirty sectors
  pois  : List Nat := []                 -- poisoned sectors
  grant : Option (BitVec 33) := none
  wb    : Nat := 0                       -- write-backs issued and not applied
  used  : Nat := 0                       -- when it was last used
  deriving DecidableEq, Repr

/-- A write-back in flight (R107, R394): the dirty sectors as they stood at its issue. -/
structure WBack where
  tag   : Tag
  data  : List (Nat × Byte)
  pois  : List Nat
  inv   : Bool := false                  -- the line is dropped once this has been applied
  held  : Bool := false
  seq   : Nat
  rows  : List Nat := []                 -- the rows of the line that have not passed the stack level yet
  acks  : Nat := 0                       -- rows sent to another module and not applied there yet
  deriving DecidableEq, Repr

/-- An interleave domain (Table 5-1): staged and active values, and those that a running switch is to install. -/
structure Dom where
  slices : W64 := 0
  hm     : List W64 := [0, 0, 0, 0, 0, 0]
  en     : Bool := false
  aslices : W64 := 0
  ahm    : List W64 := [0, 0, 0, 0, 0, 0]
  act    : Bool := false
  nslices : W64 := 0                     -- the staged values as they were at GO
  nhm    : List W64 := [0, 0, 0, 0, 0, 0]
  nen    : Bool := false
  epoch  : Nat := 0
  owner  : Nat := 15
  busy   : Bool := false
  walking : Bool := false
  err    : Nat := 0
  deriving DecidableEq, Repr

/-- A replica set (Table 5-3). -/
structure Rep where
  w0    : W64 := 0
  mem   : FMap W32 := []                 -- member words
  stamp : W64 := 0
  deriving DecidableEq, Repr

/-- A rate bucket, memory or fabric (Table 5-6, Table 6-5): the balance in thousandths of a byte. -/
structure Bucket where
  rate  : Nat := 0
  burst : Nat := 64
  pol   : Nat := 0
  bal   : Int := 0
  held  : Nat := 0
  last  : Nat := 0                       -- when the balance was brought up to date
  waitCyc : Nat := 0                     -- cycles of waiting not yet counted in HELD
  deriving DecidableEq, Repr

/-- A move counter of the thrash detector (R99). -/
structure Mover where
  count : Nat := 0
  start : Nat := 0
  pin   : Option Nat := none
  deriving DecidableEq, Repr

/-- A relocation under way (R96). -/
structure Reloc where
  i     : Nat
  off   : Nat
  fwd   : Bool
  plc   : Nat
  gid   : Nat
  wd    : Nat
  begun  : Bool := false                 -- the writes of a forward have left the engine
  failed : Bool := false                 -- a write to its destination has been refused
  deriving DecidableEq, Repr

/-- A stack's base die (R86 to R104). (DESIGN CHOICE, log 3) -/
structure Stack where
  en    : Bool := true
  thr   : Nat := 500
  win   : Nat := 50
  n     : Nat := 4
  lost  : Nat := 0
  cec   : Nat := 0
  uec   : Nat := 0
  sen   : Bool := true
  sper  : Nat := 24
  pages : List (Nat × W64 × Nat) := []   -- page-entry cache: stack byte address, entry, region (R93)
  movers : FMap Mover := []
  reloc : Option Reloc := none
  scrubAt : Nat := 0
  views : FMap (Nat × Nat) := []         -- view copies: VIEW and PITCH of each stack entry (R105)
  retired : Bool := false
  deriving DecidableEq, Repr

/-! ## Launch -/

/-- A launch queue (Table 12-4). (DESIGN CHOICE, log 3) -/
structure LQueue where
  ring  : W64 := 0
  wixp  : W64 := 0
  en    : Bool := false
  err   : Bool := false
  part  : Nat := 0
  ctx   : Nat := 0
  qpri  : Nat := 0
  size  : Nat := 0
  rix   : Nat := 0
  wix   : Nat := 0                       -- the write index observed
  age   : Nat := 0
  starve : Nat := 0                      -- its starvation count (R305), as it stood
  seen   : Nat := 0                      -- when it was last brought up to date, and
  counts : Bool := false                 -- whether it has run on since
  open_ : List Nat := []                 -- delivered packets not complete (their LIDs), in order
  held  : Option (Origin × AKind × Refuse) := none  -- a refused read of its index or ring, retried after servicing (R292)
  deriving DecidableEq, Repr

/-- A launch record (R293). -/
structure LRec where
  q     : Nat
  ctx   : Nat
  part  : Nat
  hdr   : Header
  pkt   : List W64                       -- the eight words as delivered
  die   : Nat
  t     : Nat                            -- T
  count : Nat
  bps   : Nat                            -- blocks per set
  gpb   : Nat                            -- groups per block
  prio  : Nat
  launched : Nat := 0
  passed : Nat := 0
  ended : Nat := 0
  pennant : Bool := false
  done  : Bool := false
  suspect : Bool := false
  cores : List Nat := []                 -- cores that ran one of its blocks and have not passed a scan since
  silent : List (Nat × Nat × Nat) := []  -- groups that ended without a pennant and are not counted yet (R300): block, number, the name their writes go by
  deriving DecidableEq, Repr

/-- The virtual state of a context (Table 16-7). -/
inductive VSt | run | desched | paused | reset
  deriving DecidableEq, Repr

/-- A context: its descriptor pointer and descriptor, and what the device keeps for it. (DESIGN CHOICE, log 3) -/
structure Ctx where
  ptr   : W64 := 0                       -- the descriptor pointer (R365)
  ctab  : W64 := 0
  cwp   : Nat := 0                       -- chip-window R, W, A, bits 2, 1, 0
  cwb   : Nat := 0
  cws   : Nat := 0
  hcode : W64 := 0
  hent  : W32 := 0
  hlen  : W32 := 0
  fq    : W64 := 0
  evq   : W64 := 0
  save  : W64 := 0
  savesz : Nat := 0
  inc   : W32 := 0
  vst   : VSt := .reset
  cob   : BitVec 12 := 0
  part  : Nat := 0
  vf    : Nat := 0
  cobk  : W64 := 0
  w     : Nat := 1                       -- share weight (Table 13-4)
  hangEn : Bool := true
  hthr  : Nat := 100000
  hangAt : Nat := 0                      -- when the hang count last started again: at its trap (R338), or as a group of the context ended
  oldEvents : Bool := false              -- a reset has happened; events of older incarnations are removed at PSTART
  msix  : List Nat := []                 -- vectors pending while stopped (R371)
  imgEnd : Nat := 64                     -- save-area header: end of the last image
  imgs  : Nat := 0
  stopping : Bool := false               -- a PSTOP or PSTART is running
  starting : Bool := false               -- it is a PSTART
  shedding : Bool := false               -- it is being halted to shed power (R393)
  deriving DecidableEq, Repr

/-- A partition (Table 17-2). (DESIGN CHOICE, log 3) -/
structure Part where
  en    : Bool := false
  st    : Nat := 0
  stg   : BitVec 12 := 0
  goal  : BitVec 12 := 0                 -- the set that the change under way applies: STG as it was at GO (R389)
  err   : Nat := 0
  dies  : BitVec 12 := 0
  topo  : W32 := 0
  nclus : W32 := 0
  evq   : W64 := 0
  deriving DecidableEq, Repr

/-! ## The fabric -/

/-- A fabric port (Table 6-3). Counters are by VC: REQ, RSP, BLK, CTL. (DESIGN CHOICE, log 3; DESIGN CHOICE, log 105) -/
structure Port where
  cap   : Nat := 255
  vcmap : Nat := 0
  lanes : Nat := 0
  st    : Nat := 0
  lim   : List Nat := [96, 96, 48, 16]
  fecc  : Nat := 0
  lrty  : Nat := 0
  sgf   : Nat := 0
  leak  : Nat := 0
  qui   : Bool := false
  dead  : Bool := false                  -- retired at boot (R392)
  sent  : List Nat := [0, 0, 0, 0]
  freed : List Nat := [0, 0, 0, 0]
  recv   : List Nat := [0, 0, 0, 0]      -- flits received
  rfree  : List Nat := [0, 0, 0, 0]      -- buffer entries freed
  replay : List (Nat × Nat) := []        -- what the 64-flit replay buffer holds: first sequence number, flits (R128)
  lcache : List CLine := []              -- context-level label cache (R70)
  deriving DecidableEq, Repr

/-- A seal group: its packets, the port and VC it uses (R145). -/
structure Seal where
  id    : Nat
  peer  : Nat
  port  : Nat
  vc    : Nat
  pkts  : List Packet
  flits : Nat := 0
  left  : Nat := 0                       -- flits that wait for credit (R135)
  hdrs  : List (BitVec 128) := []        -- the headers of its flits, in order: the additional data of its tag (R145)
  closed : Bool := false
  deriving DecidableEq, Repr

/-- A flow with one peer, both directions (R132, R133, R149). (DESIGN CHOICE, log 3) -/
structure Flow where
  next   : Nat := 1                      -- next sequence number to send
  expect : Nat := 1                      -- next sequence number to apply
  ahead  : List Nat := []                -- packets above `expect` that have been applied or returned
  fep    : Nat := 0                      -- fault epoch of this receiver
  refs   : List (Nat × Nat) := []        -- refused writes of the flow: sequence number, the epoch produced
  seenFep : Nat := 0                     -- latest fault epoch received from the peer
  stopped : Bool := false                -- the peer has stopped the flow towards it (R149)
  deaf   : Bool := false                 -- this receiver has stopped the flow from the peer
  bad    : FMap Nat := []                -- failures in a row, by seal group: 2·number, plus 1 for a group received
  held   : List Packet := []             -- verified release-tagged packets waiting for older ones
  out    : List Seal := []               -- open seal group and the replay buffer
  in_    : List Seal := []               -- seal groups being collected
  wait   : List Packet := []             -- packets at egress
  mask   : BitVec 48 := BitVec.allOnes 48 -- planes that reach the peer (R130)
  recov  : Option Nat := none            -- in recovery since (R339)
  lost   : Bool := false                 -- its deadline has passed
  back   : Nat := 0                      -- when the peer last left recovery
  attested : Bool := false               -- SPDM session held (R141)
  unacked : List Nat := []               -- sequence numbers of writes sent and not acknowledged
  deriving DecidableEq, Repr

/-- A hoist under way (R150, R377). On a module that does not lead it, `op` is 4. -/
structure Hoist where
  op   : Nat                             -- 0 join, 1 leave, 2 evict, 3 rekey
  mod  : Nat
  gid  : Option Nat                      -- the leader's waiting system core
  wd   : Nat := 0
  start : Nat
  absent : List Nat := []                -- members evicted for missing the barrier (R151)
  deriving DecidableEq, Repr

/-! ## Records on their way to queues -/

/-- A record held for space in a full queue, or for a queue whose pointer is 0 (R360, R361). -/
structure Post where
  dst  : Nat                             -- 0..4095 a context's fault queue, 4096 the physical log, 4097 firmware
  rec_ : BitVec 256
  type : Nat
  wait : Bool
  who  : Option Nat := none              -- the held request it stands for: a request, write, copy or operation number
  deriving DecidableEq, Repr

/-- A fault-queue entry that awaits a response (R362). -/
structure Awaiting where
  dst : Nat
  seq : Nat
  who : Nat
  deriving DecidableEq, Repr

/-- A watch at a word's owner (R336). -/
structure Watch where
  gid  : Nat
  ptr  : W64
  b64  : Bool
  b    : W64
  wd   : Opd
  table : Bool := true                   -- it found room in the owner's table
  at_  : Nat := 0
  key  : Nat := 0                        -- the sector it names, at the owner
  own  : Nat := 0                        -- the slice, bank or SRAM unit whose table it stands in
  peer : Option Nat := none
  fired : Bool := false
  org  : Origin
  deriving DecidableEq, Repr

/-! ## The agenda -/

/-- What happens next, when the model is told: a step of the part, or the turn of a lane. (DESIGN CHOICE, log 1) -/
inductive Agendum
  | event (i : Instr)
  | turn (lane : Nat)
  deriving DecidableEq, Repr

/-- The module's own registers (Table 2-4, R391, Table 6-6, Table 13-2, Table 16-8, R388, R340). (DESIGN CHOICE, log 3) -/
structure Regs where
  cyc    : W64 := 0
  mod    : Option (BitVec 9) := none     -- none: no number assigned
  gen    : W32 := 0
  bstage : Nat := 0
  srcode : Nat := 0
  srcnt  : Nat := 0
  scen   : Bool := true
  rlim   : Nat := 3
  shed   : Bool := false
  srq    : Bool := false
  ready  : Bool := false
  srRing : FMap (BitVec 128) := []
  srNext : Nat := 0
  leader : Nat := 0
  lead   : Bool := false
  memb   : Bool := false
  mask   : BitVec 512 := 0
  hdl    : Nat := 100
  secret : List W64 := []                -- S(n), four words
  aget   : Nat := 2000
  minres : Nat := 5
  thot   : Nat := 95
  ten    : Bool := true
  pmode  : BitVec 16 := 0xFFFF
  drmax  : Nat := 20
  flmax  : Nat := 50
  pdl    : Nat := 2000
  plog   : W64 := 0
  fwq    : W64 := 0
  fwdrop : Nat := 0
  closed : BitVec 12 := 0
  rrq    : Nat := 0                      -- the last launch queue served (R305)
  power  : Bool := false                 -- power-good has come
  retain : BitVec 12 := 0                -- dies in retention (R393)
  badImage : Bool := false               -- boot has stopped at stage 1 (R392)
  deriving DecidableEq, Repr

/-- The state of the module. -/
structure State where
  regs   : Regs := {}
  mem    : List Host.Cell := []          -- every byte of HBM, chip, core, lane and cluster memory (Mem.lean lays them out)
  pois   : FMap Unit := []               -- poisoned sectors and words (R103, R157)
  groups : FMap Group := []              -- by unit·256 + slot
  blocks : FMap Block := []
  saved  : FMap Saved := []
  cores  : FMap Core := []
  lanes  : FMap Lane := []               -- by unit·32 + lane
  reqs   : FMap Req := []
  ops    : FMap Op := []
  wrs    : FMap Wr := []
  copies : FMap Copy := []
  eops   : FMap EOp := []
  tabs   : FMap (BitVec 128) := []       -- table entries and access-list rules (Labels.lean keys them)
  badTabs : FMap Unit := []              -- table entries lost to an uncorrectable error (R66, R103)
  counts : FMap Nat := []                -- in-flight counts, by entry
  ecache : FMap (List (Nat × BitVec 128 × Nat)) := []  -- entry caches of the slices: M, entry, last use
  l2     : FMap L2Line := []
  wbacks : FMap WBack := []
  doms   : FMap Dom := []
  reps   : FMap Rep := []
  mbkts  : FMap Bucket := []
  fbkts  : FMap Bucket := []
  hbm : FMap Stack := []
  queues : FMap LQueue := []
  recs   : FMap LRec := []
  boxes  : FMap (List (List W64)) := []  -- mailboxes, by die
  fins   : FMap (W64 × W64 × Nat) := []  -- of each LID's last completion: DONE pointer, record, context (R385)
  ctxs   : FMap Ctx := []
  parts  : FMap Part := []
  ports  : FMap Port := []
  flows  : FMap Flow := []
  lastPlane : Nat := 47                  -- the last plane that the egress chose (R130)
  hoist  : Option Hoist := none
  bufs   : FMap RBuf := []
  sess   : FMap Session := []            -- by (die·4096 + context)·65536 + session
  toks   : FMap Token := []              -- by order of append or arrival
  colls  : FMap Coll := []
  cmsgs  : FMap CMsg := []
  nops   : FMap NetOp := []
  watches : FMap Watch := []
  scanAt : FMap Nat := []                -- by die: the next pair of the rotation (R383)
  scanEnd : FMap Nat := []               -- by die: when the running scan ends
  posts  : List Post := []
  awaits : List Awaiting := []
  msix   : List (Nat × Nat) := []        -- interrupts sent: virtual function, vector
  spcache : List CLine := []             -- the storage port's label cache (R152)
  -- the model's own fields
  agenda : List Agendum := []
  cur    : Nat := 0                      -- the lane whose turn it is when the agenda is empty
  pace   : Nat := 1                      -- cycles a step takes
  fresh  : Nat := 0                      -- counter of free values
  nextId : Nat := 0                      -- counter of names
  deriving DecidableEq, Repr

/-- Why a step can stop the model as a fault. -/
inductive Fault
  /-- Raised by the meaning of an instruction word when the group that issues it names no block: a state that no run reaches. Safe: the model stops where the spec has no machine. -/
  | illFormed
  deriving DecidableEq, Repr

/-- Why a step is refused. -/
inductive Refusal
  /-- Raised by an arm of the dispatch whose instruction has no meaning yet. Safe: nothing is claimed of it. -/
  | notModelled (mnemonic : String)
  /-- Raised by the meaning of an instruction word when no group holds the lane whose turn it is: there is nothing to issue it. Safe: the hardware issues no word without a group. -/
  | noGroup
  /-- Raised by the step when the agenda names an instruction word as if it were a step of the part. Safe: only a group's run issues a word. -/
  | notAnEvent
  deriving DecidableEq, Repr

/-- The machine right after reset (R3, R391 and the reset columns of the register tables): every field as its default above. (DESIGN CHOICE, log 3) -/
def State.reset : State := {}

end Sys2Proof.Machine
end

