-- ==== Sys2Proof/Machine/Mem.lean ====
section
/-! DEFINITION. The bytes of the machine: one memory that holds every SRAM and DRAM byte at a model address, read and written little-endian (R9),
and the poison of its units (R103, R157). -/

namespace Sys2Proof

/-- The memory: every byte that differs from what an unlisted address reads as. -/
abbrev Memory := List Host.Cell

/-- What an address that nothing has written reads as: zero (R392 stage 4 for HBM; R403 for allotments). (DESIGN CHOICE, log 2) -/
def Memory.unlisted : Byte := 0
/-- The byte at an address. (DESIGN CHOICE, log 2) -/
def Memory.read (m : Memory) (a : Nat) : Byte := FMap.getD m a Memory.unlisted
/-- Write one byte, keeping the canonical form. -/
def Memory.write (m : Memory) (a : Nat) (b : Byte) : Memory := FMap.put m a b Memory.unlisted
/-- The canonical form: addresses strictly rising, no byte equal to what an unlisted address reads as. -/
def Memory.wf (m : Memory) : Bool := FMap.wf Memory.unlisted m

/-- `n` bytes from address `a`. -/
def Memory.readN (m : Memory) (a : Nat) : Nat → List Byte
  | 0 => []
  | n + 1 => m.read a :: Memory.readN m (a + 1) n

/-- Write bytes from address `a`. -/
def Memory.writeN (m : Memory) (a : Nat) : List Byte → Memory
  | [] => m
  | b :: bs => Memory.writeN (m.write a b) (a + 1) bs

/-- Write the bytes that a mask gives. -/
def Memory.writeMask (m : Memory) (a : Nat) : List (Option Byte) → Memory
  | [] => m
  | none :: bs => Memory.writeMask m (a + 1) bs
  | some b :: bs => Memory.writeMask (m.write a b) (a + 1) bs

/-- The value of bytes, the first the least significant (R9). -/
def leNat : List Byte → Nat
  | [] => 0
  | b :: bs => b.toNat + 256 * leNat bs

/-- The `n` bytes of a value, the least significant first (R9). -/
def leBytes : Nat → Nat → List Byte
  | 0, _ => []
  | n + 1, v => BitVec.ofNat 8 v :: leBytes n (v / 256)

end Sys2Proof

namespace Sys2Proof.Machine

open Sys2Proof

/-! ## Where the model keeps each byte -/

/-- Byte `x` of HBM stack `s` (R86). -/
def hbmAddr (s x : Nat) : Nat := s * 2 ^ 36 + x
/-- Byte `a` of the chip scratchpad (R117). -/
def chipAddr (a : Nat) : Nat := 2 ^ 41 + a
/-- Byte `a` of the SRAM that the name `id` stands for: allotments are kept under names, not under the SRAM rows that hold them (R153, R154). (DESIGN CHOICE, log 6) -/
def allotAddr (id a : Nat) : Nat := 2 ^ 60 + id * 2 ^ 24 + a
/-- Byte `a` of a core allotment (Table 7-1). (DESIGN CHOICE, log 6) -/
def coreAddr (id a : Nat) : Nat := allotAddr id a
/-- Byte `a` of the trap frame of group `num` of the block (R353). (DESIGN CHOICE, log 6) -/
def frameOf (id num a : Nat) : Nat := allotAddr id (2 ^ 20 + 64 * num + a)
/-- Byte `a` of the lane allotment that group `num` of the block reaches (Table 7-1): groups of one lane share it. (DESIGN CHOICE, log 6) -/
def laneAddr (id num a : Nat) : Nat := allotAddr id (2 ^ 22 + num % 32 * 2 ^ 13 + a)
/-- Byte `a` of a set's cluster allotment (R154). (DESIGN CHOICE, log 6) -/
def cluAddr (id a : Nat) : Nat := allotAddr id (2 ^ 23 + a)

/-- The size of the unit that ECC covers: a 32-byte sector in HBM and the chip scratchpad, an 8-byte word in the SRAM of cores and lanes (R102, R157). -/
def eccUnit (a : Nat) : Nat := if a < 2 ^ 42 then 32 else 8
/-- The address of the unit that holds `a`. -/
def unitOf (a : Nat) : Nat := a / eccUnit a * eccUnit a
/-- The byte lies in a poisoned unit. -/
def State.poisoned (s : State) (a : Nat) : Bool := (FMap.find? s.pois (unitOf a)).isSome
/-- Some of `n` bytes from `a` lie in a poisoned unit. -/
def State.anyPoison (s : State) (a n : Nat) : Bool := (List.range n).any fun i => s.poisoned (a + i)
/-- Mark the unit of a byte poisoned; it reads as zero bytes (R103). -/
def State.poison (s : State) (a : Nat) : State :=
  { s with pois := FMap.insert s.pois (unitOf a) (), mem := Memory.writeN s.mem (unitOf a) (List.replicate (eccUnit a) 0) }

/-- A byte of the machine. -/
def State.byte (s : State) (a : Nat) : Byte := Memory.read s.mem a
/-- `n` bytes of the machine. -/
def State.bytes (s : State) (a n : Nat) : List Byte := Memory.readN s.mem a n
/-- An `n`-byte little-endian value. -/
def State.le (s : State) (a n : Nat) : Nat := leNat (s.bytes a n)

/-- Every byte of the unit at `u` is written by the bytes from `a`. -/
def coversUnit (a : Nat) (bs : List (Option Byte)) (u : Nat) : Bool :=
  (List.range (eccUnit u)).all fun i => a ≤ u + i && ((bs[u + i - a]?).join).isSome

/-- The bytes of a write that its units let through: a partial write of a poisoned unit is discarded (R103). -/
def State.passMask (s : State) (a : Nat) (bs : List (Option Byte)) : List (Option Byte) :=
  bs.mapIdx fun i b => if s.poisoned (a + i) && !coversUnit a bs (unitOf (a + i)) then none else b

/-- The poisoned units that a write covers wholly, whose mark it clears (R103). -/
def State.cleared (s : State) (a : Nat) (bs : List (Option Byte)) : List Nat :=
  ((List.range bs.length).map fun i => unitOf (a + i)).filter fun u => s.poisoned u && coversUnit a bs u

/-- The poisoned units that a write meets in part, so that it is discarded there (R103). -/
def State.refusedUnits (s : State) (a : Nat) (bs : List (Option Byte)) : List Nat :=
  (((List.range bs.length).filter fun i => ((bs[i]?).join).isSome).map fun i => unitOf (a + i)).filter
    fun u => s.poisoned u && !coversUnit a bs u

/-- A byte of a trap frame, a group's or a system core's, that software does not write: all but RPC (R10, R354, Table 16-2). (DEDUCED, log 132) -/
def frameRo (a : Nat) : Bool :=
  (if 2 ^ 60 ≤ a then 2 ^ 20 ≤ a % 2 ^ 24 && a % 2 ^ 24 < 2 ^ 20 + 2 ^ 14 else chipAddr 0xFFFFE00 ≤ a && a < chipAddr 0x10000000)
    && (a % 64 < 4 || 8 ≤ a % 64)

/-- The name of the sector of an SRAM byte in the watch tables (R336). -/
def sramKey (a : Nat) : Nat := 2 ^ 100 + a / 32

/-- The watches after a write of `n` bytes from an SRAM byte: those of its sectors are to be told (R336). -/
def State.told (s : State) (a n : Nat) : FMap Watch :=
  FMap.mapVals s.watches fun _ w => if sramKey a ≤ w.key && w.key ≤ sramKey (a + n - 1) then { w with fired := true } else w

/-- Apply a masked write at its SRAM or DRAM, with the rules of poisoned units (R103, R157). -/
def State.applyBytes (s : State) (a : Nat) (bs : List (Option Byte)) : State :=
  { s with mem := Memory.writeMask s.mem a (s.passMask a bs), pois := (s.cleared a bs).foldl FMap.erase s.pois, watches := s.told a bs.length }

/-- Apply a whole write. -/
def State.applyAll (s : State) (a : Nat) (bs : List Byte) : State := s.applyBytes a (bs.map some)

/-- Zeros over `n` bytes, with fresh ECC: clears poison (R389, R403). -/
def State.zeroBytes (s : State) (a n : Nat) : State :=
  { s with mem := s.mem.filter fun c => !(a ≤ c.1 && c.1 < a + n), pois := s.pois.filter fun u => !(a ≤ u.1 && u.1 < a + n) }

/-- A fresh name. (DESIGN CHOICE, log 6) -/
def State.name (s : State) : State × Nat := ({ s with nextId := s.nextId + 1 }, s.nextId)

/-- The cycle counter as a number. -/
def State.now (s : State) : Nat := s.regs.cyc.toNat

end Sys2Proof.Machine
end

