-- ==== Sys2Proof/Machine/Labels.lean ====
section
/-! DEFINITION. Label pointers, entries, guidons, access lists and what each level decides about a request (R54 to R79, R87 to R92, R105, R109). -/

namespace Sys2Proof.Machine

open Sys2Proof

/-! ## Bit fields -/

/-- Bits [lo+n−1:lo] of a word, as a number. -/
def bf {w : Nat} (x : BitVec w) (lo n : Nat) : Nat := (x.toNat >>> lo) % 2 ^ n
/-- Bit `i` of a word. -/
def bt {w : Nat} (x : BitVec w) (i : Nat) : Bool := x.getLsbD i
/-- `x` with bits [lo+n−1:lo] replaced by `v`. -/
def setBf {w : Nat} (x : BitVec w) (lo n v : Nat) : BitVec w :=
  BitVec.ofNat w (x.toNat - bf x lo n * 2 ^ lo + v % 2 ^ n * 2 ^ lo)

/-! ## Pointers (R54 to R57) -/

/-- The form of a pointer (R54). -/
def pForm (p : W64) : Nat := bf p 60 4
/-- The outer label O (R55). -/
def pO (p : W64) : Nat := bf p 50 10
/-- The middle label M (R55). -/
def pM (p : W64) : Nat := bf p 38 12
/-- The inner label I (R55). -/
def pI (p : W64) : Nat := bf p 24 14
/-- The offset (R55). -/
def pOff (p : W64) : Nat := bf p 0 24
/-- A pointer moved to another offset. -/
def pAt (p : W64) (off : Nat) : W64 := setBf p 0 24 off
/-- A pointer moved on by `n` bytes, modulo the offset field. -/
def pPlus (p : W64) (n : Nat) : W64 := pAt p (pOff p + n)
/-- The label-stack pointer of four labels (R21). -/
def lbl (o m i off : Nat) : W64 := BitVec.ofNat 64 (2 ^ 60 + o % 1024 * 2 ^ 50 + m % 4096 * 2 ^ 38 + i % 16384 * 2 ^ 24 + off % 2 ^ 24)
/-- The level-0 check of a label-stack access of `n` bytes (R54, R57). -/
def checkLabel (p : W64) (n : Nat) : Option Reason :=
  if pForm p ≠ 1 then some .form else if 2 ^ 24 < pOff p + n then some .straddle else none

/-! ## Guidons (R67) -/

/-- The module's number as it appears in `%mod` and guidons; 0 bits where none is assigned. -/
def State.modNo (s : State) : Nat := match s.regs.mod with | some m => m.toNat | none => 0
/-- A guidon (Table 3-5). -/
def guidonOf (mod part ctx cls : Nat) (sup host : Bool) : BitVec 33 :=
  BitVec.ofNat 33 (mod * 2 ^ 24 + part % 16 * 2 ^ 20 + ctx % 4096 * 256 + cls % 16 * 16 + host.toNat * 2 + sup.toNat)
/-- The partition of a guidon. -/
def gPart (g : BitVec 33) : Nat := bf g 20 4
/-- The context of a guidon. -/
def gCtx (g : BitVec 33) : Nat := bf g 8 12
/-- The engine class of a guidon. -/
def gCls (g : BitVec 33) : Nat := bf g 4 4
/-- The supervisor flag of a guidon. -/
def gSup (g : BitVec 33) : Bool := bt g 0
/-- A guidon with another engine class (R184). -/
def gWithCls (g : BitVec 33) (c : Nat) : BitVec 33 := setBf g 4 4 c
/-- The guidon of the module acting for the system (partition 15), in a class. -/
def State.sysGuidon (s : State) (ctx cls : Nat) : BitVec 33 := guidonOf s.modNo 15 ctx cls false false

/-! ## Reasons, kinds and records -/

/-- Reason codes (Table 3-9). -/
def Reason.code : Reason → Nat
  | .absent => 1 | .permission => 2 | .gate => 3 | .poison => 4 | .straddle => 5 | .form => 6 | .forwardLimit => 7
  | .domainChanged => 8 | .domainLeft => 9
/-- Class codes that a guest sees (Table 3-9). -/
def Reason.cls : Reason → Nat
  | .absent => 1 | .permission => 2 | .gate => 3 | .poison => 4 | .straddle => 5 | .form => 5 | .forwardLimit => 1
  | .domainChanged => 0 | .domainLeft => 1
/-- Kind codes (Table 3-8). -/
def AKind.code : AKind → Nat
  | .read => 0 | .write => 1 | .atomic => 2 | .fetch => 3 | .pointer => 4
/-- The permission bit of an entry for a kind (Table 3-3). -/
def AKind.permBit : AKind → Nat
  | .write => 122 | .atomic => 121 | .fetch => 120 | _ => 123
/-- The GRANT bit of a rule for a kind (Table 3-6): R, W, A, X from bit 126 down. -/
def AKind.grantBit : AKind → Nat
  | .write => 125 | .atomic => 124 | .fetch => 123 | _ => 126

/-- The fault record of a refusal (Table 3-8). -/
def faultRec (o : Origin) (k : AKind) (r : Refuse) : BitVec 256 :=
  BitVec.ofNat 256
    (o.ptr.toNat + 2 ^ 64 * (o.pc.toNat + 2 ^ 32 *
      (r.label % 16384 + 2 ^ 20 + r.remote.toNat * 2 ^ 21 + k.code * 2 ^ 22 + r.level * 2 ^ 25 + r.reason.code * 2 ^ 28))
     + 2 ^ 128 * o.guidon.toNat
     + 2 ^ 192 * (o.unit % 2048 + o.slot % 256 * 2 ^ 11 + o.thread % 32 * 2 ^ 19 + r.fwd % 8 * 2 ^ 24 + r.module % 512 * 2 ^ 27))

/-- The guest-reduced record of a refusal (R79): DET = 0, REASON holds the class, and LABEL, FWD and MODULE are zero. -/
def guestRec (o : Origin) (k : AKind) (r : Refuse) : BitVec 256 :=
  BitVec.ofNat 256
    (o.ptr.toNat + 2 ^ 64 * (o.pc.toNat + 2 ^ 32 *
      (r.remote.toNat * 2 ^ 21 + k.code * 2 ^ 22 + r.level * 2 ^ 25 + r.reason.cls * 2 ^ 28))
     + 2 ^ 128 * o.guidon.toNat + 2 ^ 192 * (o.unit % 2048 + o.slot % 256 * 2 ^ 11 + o.thread % 32 * 2 ^ 19))

/-- The record that the context receives: full for levels 0 and 1, guest-reduced for levels 2 to 4 (R79, R395). -/
def ctxRec (o : Origin) (k : AKind) (r : Refuse) : BitVec 256 := if r.level ≤ 1 then faultRec o k r else guestRec o k r

/-! ## Tables (R64) -/

/-- The name of the table that holds a context's entries: its location, so that contexts whose descriptors give one location share it; a context
without a descriptor has a table of its own (R71). (DESIGN CHOICE, log 42) -/
def State.ctxTable (s : State) (ctx : Nat) : Nat :=
  let x := FMap.getD s.ctxs ctx {}
  if x.ctab = 0 then ctx else 4096 + x.ctab.toNat
/-- The key of entry `o` of a context table. (DESIGN CHOICE, log 42) -/
def keyOf (table o : Nat) : Nat := 2 ^ 80 + table * 1024 + o
/-- The key of a context's entry. (DESIGN CHOICE, log 42) -/
def State.keyCtx (s : State) (ctx o : Nat) : Nat := keyOf (s.ctxTable ctx) o
/-- The key of a port entry. (DESIGN CHOICE, log 42) -/
def keyPort (l : Nat) : Nat := 2 * 2 ^ 40 + l
/-- The key of a chip entry. (DESIGN CHOICE, log 42) -/
def keyChip (m : Nat) : Nat := 3 * 2 ^ 40 + m
/-- The key of a stack entry. (DESIGN CHOICE, log 42) -/
def keyStack (st i : Nat) : Nat := 4 * 2 ^ 40 + st * 16384 + i
/-- The key of a rule of an access list: level, context table or stack, list, rule. (DESIGN CHOICE, log 42) -/
def keyRule (lvl sel idx rule : Nat) : Nat := 2 ^ 160 + ((sel * 8 + lvl) * 65536 + idx) * 4 + rule
/-- An entry or rule as its table holds it; zero, which is ABSENT, where nothing was written (R64). -/
def State.tab (s : State) (key : Nat) : BitVec 128 := FMap.getD s.tabs key 0
/-- Write an entry or rule whole (R64), with fresh ECC. (DESIGN CHOICE, log 112) -/
def State.setTab (s : State) (key : Nat) (e : BitVec 128) : State := { s with tabs := FMap.put s.tabs key e 0, badTabs := FMap.erase s.badTabs key }
/-- An entry has been lost to an uncorrectable error: what reads it from its table is refused with "poison" (R66, R103). -/
def State.tabLost (s : State) (key : Nat) : Bool := (FMap.find? s.badTabs key).isSome
/-- Mark an entry lost. -/
def State.loseTab (s : State) (key : Nat) : State := { s with badTabs := FMap.insert s.badTabs key () }

/-- ST of an entry: 0 ABSENT, 1 VALID, 2 GATED, 3 FORWARD (Table 3-3). -/
def eST (e : BitVec 128) : Nat := bf e 126 2
/-- HS of an entry. -/
def eHS (e : BitVec 128) : Nat := bf e 124 2
/-- The access-list index of an entry. -/
def eACL (e : BitVec 128) : Nat := bf e 96 16
/-- The gate bound of an entry in cycles: 4 µs, or 2^n µs (Table 3-3); the clock runs at 1.000 GHz (R3). -/
def eGTO (e : BitVec 128) : Nat := let n := bf e 116 4; if n = 0 then 4000 else 1000 * 2 ^ n
/-- The in-flight count of an entry (R72). -/
def State.count (s : State) (key : Nat) : Nat := FMap.getD s.counts key 0
/-- Count one more request in flight at an entry. -/
def State.countUp (s : State) (key : Nat) : State := { s with counts := FMap.put s.counts key (s.count key + 1) 0 }
/-- Count requests out of their entries. -/
def State.countDown (s : State) (keys : List Nat) : State :=
  { s with counts := keys.foldl (fun c k => FMap.put c k (FMap.getD c k 0 - 1) 0) s.counts }

/-- The bits of the level word that Table 3-4 and Table 4-1 define, for a level (1 context, 2 port, 3 chip, 4 stack) and a state;
every other bit is reserved. -/
def lwMask (lvl st : Nat) (e : BitVec 128) : Nat :=
  let span (hi lo : Nat) : Nat := 2 ^ (hi + 1) - 2 ^ lo
  match lvl, st with
  | 1, 1 => if bt e 95 then span 95 76 else span 95 95
  | 2, 3 => span 84 66
  | 3, 1 => match bf e 94 2 with
    | 0 => span 95 94 + span 91 83
    | 1 => span 95 94 + span 75 56
    | 2 => span 95 94 + span 79 72
    | _ => 0
  | 3, 3 => span 84 64
  | 4, 1 => span 95 56
  | 4, 3 => span 89 62
  | _, _ => 0

/-- The rows of a tile view (Table 4-1): 2, 4, 8 or 16. -/
def viewRows (v : Nat) : Nat := 2 ^ v

/-- The view and pitch of a stack entry are ones that R88 allows. -/
def viewOk (view pitch : Nat) : Bool :=
  if view = 0 then pitch = 0 else view ≤ 4 && 256 / viewRows view ≤ 2 ^ pitch && viewRows view * 2 ^ pitch ≤ 2 ^ 24

/-- The values of an entry's state, level word and reserved bits are ones that the level defines (R66, R88). -/
def entryOk (lvl : Nat) (e : BitVec 128) : Bool :=
  let st := if eST e = 2 then eHS e else eST e
  eHS e ≠ 2 && bf e 112 4 = 0 &&
  (e.toNat % 2 ^ 96) &&& (2 ^ 96 - 1 - lwMask lvl st e) = 0 &&
  (match lvl, st with
   | 3, 1 => bf e 94 2 ≠ 3 && (bf e 94 2 ≠ 0 || bf e 83 5 ≤ 23)
   | 4, 1 => viewOk (bf e 93 3) (bf e 88 5)
   | 4, 3 => bf e 85 5 ≤ 23
   | _, _ => true)

/-! ## Access lists (R68) -/

/-- The bucket of the first rule that decides and grants, none where nothing is granted (R68, R69). A context-level list index of 256 or more grants nothing. -/
def State.grants (s : State) (lvl sel idx : Nat) (g : BitVec 33) (k : AKind) : Option Nat :=
  if lvl = 1 && 256 ≤ idx then none else
  let sel := if lvl = 1 then s.ctxTable sel else sel
  let decides (r : BitVec 128) : Bool := bt r 127 && ((g.toNat ^^^ bf r 33 33) &&& bf r 66 33) = 0
  match ((List.range 4).map fun i => s.tab (keyRule lvl sel idx i)).find? decides with
  | some r => if bt r k.grantBit then some (bf r 111 12) else none
  | none => none

/-! ## Views and lines (R89) -/

/-- Tile coordinates of an offset and the byte within its line (Table 4-2). -/
def coords (view pitch off : Nat) : Nat × Nat × Nat :=
  if view = 0 then (off / 256, 0, off % 256)
  else
    let r := viewRows view
    let w := 256 / r
    let x := off % 2 ^ pitch
    let y := off / 2 ^ pitch
    (x / w, y / r, (y % r) * w + x % w)

/-- The offset of a line's byte (Table 4-2, read back). -/
def lineOff (view pitch tx ty b : Nat) : Nat :=
  if view = 0 then tx * 256 + b
  else
    let r := viewRows view
    let w := 256 / r
    (ty * r + b / w) * 2 ^ pitch + tx * w + b % w

/-- The bytes of a line's row: of a line of a linear region there is one row (R88). -/
def rowSize (view : Nat) : Nat := if view = 0 then 256 else 256 / viewRows view

/-- How many bytes from an offset on lie one after the other in its line: to the end of its row, or of the line where the pitch is a row (R89, R94). -/
def lineLeft (view pitch off : Nat) : Nat :=
  if view ≠ 0 && 2 ^ pitch = rowSize view then 256 - off % 256 else rowSize view - off % rowSize view

/-- The view copy of a stack entry (R105): linear where the entry is not VALID; one that is GATED counts as the state it holds. (DESIGN CHOICE, log 113) -/
def State.view (s : State) (st i : Nat) : Nat × Nat :=
  match FMap.find? s.hbm st with
  | some k => FMap.getD k.views i (0, 0)
  | none => (0, 0)

/-- Parity of the bits of a number. -/
def parity : Nat → Nat → Bool
  | 0, _ => false
  | n + 1, x => xor (x % 2 = 1) (parity n (x / 2))

/-- The slices of a set, in ascending order (R109). -/
def slicesOf (x : W64) : List Nat := (List.range 64).filter fun i => bt x i

/-- The home slice of a tile in a set of slices under hash masks (R109). -/
def homeSlice (slices : W64) (hm : List W64) (t : Tag) : Nat :=
  let sl := slicesOf slices
  let key := t.i * 2 ^ 32 + t.ty * 2 ^ 16 + t.tx
  let k := Nat.log2 sl.length
  let h := (List.range k).foldl (fun h j => if parity 46 (key &&& ((hm[j]?).getD 0).toNat) then h + 2 ^ j else h) 0
  (sl[h]?).getD 0

/-- The key of a line in the L2. -/
def Tag.key (t : Tag) : Nat := ((t.stack * 16384 + t.i) * 65536 + t.tx) * 65536 + t.ty
/-- The tag that a key stands for. -/
def tagOf (k : Nat) : Tag := ⟨k / 2 ^ 46, k / 2 ^ 32 % 16384, k / 65536 % 65536, k % 65536⟩

/-! ## What a level decides -/

/-- The decision of a level about a request that has reached it. -/
inductive Dec
  | refuse (reason : Reason)
  | gated                                               -- held at the entry (R72)
  | full                                                -- the in-flight count stands at 65,535
  | chip (ptr : W64)                                    -- to this module's chip level
  | fabric (module label : Nat)                         -- over the fabric to a port level
  | portAgain (module label : Nat)                      -- a port-level forward
  | chipAgain (module : Nat) (ptr : W64)                -- a chip-level forward
  | target (bkt : Nat) (t : Target)                     -- the chip level's target, with the rule's bucket
  | stackAgain (module st i off : Nat)                  -- a stack-level or page forward
  | place (pa : Nat)                                    -- the stack byte
  deriving DecidableEq, Repr

/-- The state and count rules that every level applies first (R64, R72): the decision, or the entry's effective state to go on with. Ports and stacks
read their tables each time (R70), and meet a lost entry there. `held` lets a supervisor's range lookup pass a GATED chip entry under its held state (R122). -/
def stateRules (lvl : Nat) (s : State) (key : Nat) (e : BitVec 128) (underHeld : Bool) : Sum Dec Nat :=
  let st := if eST e = 2 && underHeld then eHS e else eST e
  if (lvl = 2 || lvl = 4) && s.tabLost key then .inl (.refuse .poison)
  else if st = 2 then .inl .gated
  else if st = 0 || !entryOk lvl e then .inl (.refuse .absent)
  else if 65535 ≤ s.count key then .inl .full
  else .inr st

/-- The context level (R59). -/
def decCtx (s : State) (g : BitVec 33) (k : AKind) (ptr : W64) (e : BitVec 128) : Dec :=
  let ctx := gCtx g
  match stateRules 1 s (s.keyCtx ctx (pO ptr)) e false with
  | .inl d => d
  | .inr st =>
    if st ≠ 1 then .refuse .absent
    else if !bt e k.permBit then .refuse .permission
    else match s.grants 1 ctx (eACL e) g k with
    | none => .refuse .permission
    | some _ =>
      if !bt e 95 then .chip ptr
      else if s.regs.mod.isNone then .refuse .absent
      else if !s.regs.mask.getLsbD (bf e 76 9) && s.regs.memb then .refuse .domainLeft
      else .fabric (bf e 76 9) (bf e 85 10)

/-- A FORWARD may name a module: any, once this module has a number; before that module 0, taken as this one (R126). -/
def State.mayForward (s : State) (m : Nat) : Bool := s.regs.mod.isSome || m = 0

/-- The port level (R60). -/
def decPort (s : State) (g : BitVec 33) (k : AKind) (label fwd : Nat) (ptr : W64) : Dec :=
  let e := s.tab (keyPort label)
  match stateRules 2 s (keyPort label) e false with
  | .inl d => d
  | .inr st =>
    if !bt e k.permBit then .refuse .permission
    else match s.grants 2 0 (eACL e) g k with
    | none => .refuse .permission
    | some _ =>
      if st = 1 then .chip ptr
      else if 4 ≤ fwd then .refuse .forwardLimit
      else .portAgain (bf e 76 9) (bf e 66 10)

/-- The chip level up to its grant (R61, R105): a granted request waits at its rule's bucket before its target is looked at. -/
def decChip (s : State) (g : BitVec 33) (k : AKind) (fwd : Nat) (ptr : W64) (e : BitVec 128) (underHeld : Bool) : Dec :=
  let key := keyChip (pM ptr)
  match stateRules 3 s key e underHeld with
  | .inl d => d
  | .inr st =>
    if !bt e k.permBit then .refuse .permission
    else match s.grants 3 0 (eACL e) g k with
    | none => .refuse .permission
    | some bkt =>
      if st = 3 then
        if 4 ≤ fwd then .refuse .forwardLimit
        else if !s.mayForward (bf e 76 9) then .refuse .absent
        else .chipAgain (bf e 76 9) (setBf ptr 38 12 (bf e 64 12))
      else .target bkt .entry

/-- The domain that a chip entry with target 0 names. -/
def domOf (e : BitVec 128) : Nat := bf e 88 4

/-- The target that a VALID chip entry gives a pointer's `len` bytes (R65, R105, R109, R115), or none: "absent". A scratchpad base and offset that
pass 256 MiB name further bytes of the scratchpad. (DESIGN CHOICE, log 114) -/
def State.chipTarget (s : State) (len : Nat) (ptr : W64) (e : BitVec 128) : Option Target :=
  match bf e 94 2 with
  | 0 =>
    let d := FMap.getD s.doms (domOf e) {}
    if !d.act then none
    else
      let st := bf e 83 5
      let v := s.view st (pI ptr)
      let c := coords v.1 v.2 (pOff ptr)
      some (.line ⟨st, pI ptr, c.1, c.2.1⟩ c.2.2 (pOff ptr) (homeSlice d.aslices d.ahm ⟨st, pI ptr, c.1, c.2.1⟩))
  | 1 =>
    if pI ptr ≠ 0 || (bf e 56 8 + 1) * 65536 < pOff ptr + len then none
    else some (.chip (bf e 64 12 * 65536 + pOff ptr))
  | _ =>
    let r := FMap.getD s.reps (bf e 72 8) {}
    if !bt r.w0 63 || bf r.w0 11 4 = 0 || 8 < bf r.w0 11 4 then none
    else some (.replica (bf e 72 8) (pI ptr) (pOff ptr))

/-! ## Replica sets (R114) -/

/-- HOME of a replica set. -/
def repHome (r : Rep) : Nat := bf r.w0 15 9
/-- The members of a replica set: module and chip label. -/
def repMembers (r : Rep) : List (Nat × Nat) :=
  (List.range (bf r.w0 11 4)).map fun j => let w := FMap.getD r.mem j 0; (bf w 12 9, bf w 0 12)
/-- The module's own replica label in a set. -/
def State.ownReplica (s : State) (set : Nat) : Option Nat :=
  ((repMembers (FMap.getD s.reps set {})).find? fun m => m.1 = s.modNo).map fun m => m.2
/-- The replica label of HOME's member. -/
def State.homeReplica (s : State) (set : Nat) : Nat :=
  let r := FMap.getD s.reps set {}
  (((repMembers r).find? fun y => y.1 = repHome r).map fun y => y.2).getD 0

/-- The bytes of a page of size code SZ (Table 4-3). -/
def pageSize : Nat → Nat
  | 0 => 4096 | 1 => 16384 | 2 => 65536 | 3 => 262144 | 4 => 2097152 | _ => 16777216

/-- The page entry at a stack byte address: as the page-entry cache holds it, else as the DRAM does (R93). -/
def State.pageEntry (s : State) (st a : Nat) : W64 :=
  match ((FMap.getD s.hbm st {}).pages.find? fun p => p.1 = a) with
  | some p => p.2.1
  | none => BitVec.ofNat 64 (s.le (hbmAddr st a) 8)

/-- A page entry's reserved bits are zero for its state (Table 4-4). -/
def pageOk (pe : W64) : Bool :=
  bf pe 48 9 = 0 && (if bf pe 62 2 = 1 then bf pe 24 24 = 0 else bf pe 0 8 = 0 && bf pe 43 5 ≤ 23)

/-- The stack level (R92), for a request of kind `k` at region offset `off`. A page table that runs past the top of its stack runs on in the model's
memory; a page entry whose sector is poisoned refuses even where its cached copy is older. (DESIGN CHOICE, log 115; DESIGN CHOICE, log 116) -/
def decStack (s : State) (g : BitVec 33) (k : AKind) (fwd st i off : Nat) (ungated : Bool) : Dec :=
  let key := keyStack st i
  let e := s.tab key
  match stateRules 4 s key e ungated with
  | .inl d => d
  | .inr es =>
    if !bt e k.permBit then .refuse .permission
    else match s.grants 4 st (eACL e) g k with
    | none => .refuse .permission
    | some _ =>
      if es = 3 then
        if 4 ≤ fwd then .refuse .forwardLimit else if !s.mayForward (bf e 76 9) then .refuse .absent else .stackAgain (bf e 76 9) (bf e 85 5) (bf e 62 14) off
      else
        let z := (bf e 80 8 + 1) * 65536
        if z ≤ off then .refuse .absent else
        let a := bf e 56 24 * 4096 + 8 * (off / 4096)
        if s.poisoned (hbmAddr st a) then .refuse .poison else
        let pe := s.pageEntry st a
        if bf pe 62 2 = 0 || bf pe 62 2 = 3 || 5 < bf pe 59 3 || !pageOk pe then .refuse .absent else
        let sz := pageSize (bf pe 59 3)
        if z < sz || (bf e 93 3 ≠ 0 && sz < viewRows (bf e 93 3) * 2 ^ bf e 88 5) then .refuse .absent else
        if (k = .write || k = .atomic) && bt pe 58 then .refuse .permission else
        if k = .fetch && bt pe 57 then .refuse .permission else
        if bf pe 62 2 = 2 then
          if bf pe 8 12 * 4096 % sz ≠ 0 then .refuse .absent
          else if 4 ≤ fwd then .refuse .forwardLimit
          else if !s.mayForward (bf pe 34 9) then .refuse .absent
          else .stackAgain (bf pe 34 9) (bf pe 43 5) (bf pe 20 14) (bf pe 8 12 * 4096 + off % sz)
        else
          if bf pe 0 24 % (sz / 4096) ≠ 0 then .refuse .absent
          else .place (hbmAddr st (bf pe 0 24 * 4096 + off % sz))

/-! ## The whole walk, taken at one moment

What the module's own units read and write at once (queues, rings, records, images) goes through every level in one step, as long as nothing
there makes it wait; a copy, an engine or a token always makes requests. -/

/-- A line that some slice holds. -/
def State.line? (s : State) (t : Tag) : Option L2Line := FMap.find? s.l2 t.key
/-- Every byte of a sector is held (R106). -/
def L2Line.whole (l : L2Line) (sec : Nat) : Bool := (List.range 32).all fun i => (FMap.find? l.data (32 * sec + i)).isSome
/-- The L2 serves an access of `len` bytes from byte `b` of a line without the stack level: a read whose sectors it holds whole (R106), a
write or atomic under the grant of its own guidon (R108). (DESIGN CHOICE, log 33) -/
def State.held (s : State) (g : BitVec 33) (k : AKind) (t : Tag) (b len : Nat) : Bool :=
  match s.line? t with
  | none => false
  | some l =>
    match k with
    | .write | .atomic => l.grant = some g
    | _ => (List.range 8).all fun i => !(32 * i < b + len && b < 32 * i + 32) || l.whole i

/-- The lines of a slice that stand in the set of a line (R106): which lines share one the spec does not say. (DESIGN CHOICE, log 32) -/
def State.sameSet (s : State) (t : Tag) (slice : Nat) : List (Nat × L2Line) :=
  s.l2.filter fun x => x.2.slice = slice && x.1 ≠ t.key && Config.l2Set x.1 % 2048 = Config.l2Set t.key % 2048
/-- A slice holds a line or has a way for it (R106): 16 to a set. -/
def State.hasWay (s : State) (t : Tag) (slice : Nat) : Bool :=
  (s.line? t).isSome || s.l2.length < 16 || (s.sameSet t slice).length < 16

/-- A bucket by its name: memory buckets 0 to 4,095, fabric buckets above (R69). -/
def State.bucket (s : State) (b : Nat) : Bucket := if b < 4096 then FMap.getD s.mbkts b {} else FMap.getD s.fbkts (b - 4096) {}

/-- The chip entry of M as its entry slice sees it: cached, or as the table holds it (R70). -/
def State.entrySeen (s : State) (m : Nat) : BitVec 128 :=
  match (FMap.getD s.ecache (m % 64) []).find? fun x => x.1 = m with
  | some x => x.2.1
  | none => s.tab (keyChip m)

/-- Where a walk ends: at a target, for a line with the stack byte where the stack level resolves it; where only a request can go on (another module, a
gate, a full count, a running switch, a rate bucket, a full set, a replica set); or refused. -/
inductive Walk
  | ok (t : Target) (pa : Option Nat)
  | away
  | refuse (r : Refuse)
  deriving DecidableEq, Repr

/-- The stack level and its forwards, with `fuel` forwards to go. -/
def walkStack (s : State) (g : BitVec 33) (k : AKind) (t : Target) : Nat → Nat → Nat → Nat → Nat → Walk
  | 0, fwd, _, i, _ => .refuse ⟨4, .forwardLimit, i, s.modNo, false, fwd⟩
  | n + 1, fwd, st, i, off =>
    match decStack s g k fwd st i off false with
    | .place pa => .ok t (some pa)
    | .stackAgain m st' i' off' => if m = s.modNo then walkStack s g k t n (fwd + 1) st' i' off' else .away
    | .refuse r => .refuse ⟨4, r, i, s.modNo, false, fwd⟩
    | _ => .away

/-- The chip level and what lies below it; a read of a replica set goes on to the own member (R115). -/
def walkChip (s : State) (g : BitVec 33) (k : AKind) (len : Nat) : Nat → Nat → W64 → Walk
  | 0, fwd, ptr => .refuse ⟨3, .forwardLimit, pM ptr, s.modNo, false, fwd⟩
  | n + 1, fwd, ptr =>
    let e := s.entrySeen (pM ptr)
    match decChip s g k fwd ptr e false with
    | .target b _ =>
      if (s.bucket b).rate ≠ 0 then .away else
      (match s.chipTarget len ptr e with
       | some (.line tag x off sl) =>
         if (FMap.getD s.doms (domOf e) {}).busy || !s.hasWay tag sl then .away
         else if s.held g k tag x len then .ok (.line tag x off sl) none
         else walkStack s g k (.line tag x off sl) 6 fwd tag.stack tag.i off
       | some (.replica set i off) =>
         (match k, s.ownReplica set with
          | .read, some m => walkChip s g k len n fwd (lbl (pO ptr) m i off)
          | _, _ => .away)
       | some t => .ok t none
       | none => .refuse ⟨3, .absent, pM ptr, s.modNo, false, fwd⟩)
    | .chipAgain m ptr' => if m = s.modNo then walkChip s g k len n (fwd + 1) ptr' else .away
    | .refuse r => .refuse ⟨3, r, pM ptr, s.modNo, false, fwd⟩
    | _ => .away

/-- The port level, its forwards within the module, and what lies below. -/
def walkPort (s : State) (g : BitVec 33) (k : AKind) (len : Nat) (ptr : W64) : Nat → Nat → Nat → Walk
  | 0, fwd, l => .refuse ⟨2, .forwardLimit, l, s.modNo, false, fwd⟩
  | n + 1, fwd, l =>
    match decPort s g k l fwd ptr with
    | .chip p => walkChip s g k len 6 fwd p
    | .portAgain m l' => if m = s.modNo then walkPort s g k len ptr n (fwd + 1) l' else .away
    | .refuse r => .refuse ⟨2, r, l, s.modNo, false, fwd⟩
    | _ => .away

/-- A walk from the context level (R58 to R63) of an access of `len` bytes that lies in one line. (DESIGN CHOICE, log 45) -/
def walk (s : State) (g : BitVec 33) (k : AKind) (len : Nat) (ptr : W64) : Walk :=
  match checkLabel ptr len with
  | some r => .refuse ⟨0, r, 0, s.modNo, false, 0⟩
  | none =>
    match decCtx s g k ptr (s.tab (s.keyCtx (gCtx g) (pO ptr))) with
    | .chip p => walkChip s g k len 6 0 p
    | .fabric m l => if m = s.modNo then walkPort s g k len ptr 6 0 l else .away
    | .refuse r => .refuse ⟨1, r, pO ptr, s.modNo, false, 0⟩
    | _ => .away

/-! ## The region behind a pointer, whatever it permits -/

/-- Where the labels of a pointer lead as the tables stand: an offset of a region of a stack of this module, a byte of its chip scratchpad, or another module
and its port label. -/
inductive Home
  | region (stack i off : Nat)
  | pad (a : Nat)
  | away (module label : Nat)
  | other
  deriving DecidableEq, Repr

/-- The state that an entry has or holds. -/
def eState (e : BitVec 128) : Nat := if eST e = 2 then eHS e else eST e

/-- The chip level and its forwards, for a name alone. -/
def State.homeChip (s : State) : Nat → W64 → Home
  | 0, _ => .other
  | n + 1, p =>
    let e := s.tab (keyChip (pM p))
    if eState e = 3 then (if bf e 76 9 = s.modNo then s.homeChip n (setBf p 38 12 (bf e 64 12)) else .away (bf e 76 9) (2 ^ 12 + bf e 64 12))
    else if eState e ≠ 1 then .other
    else match bf e 94 2 with
      | 0 => .region (bf e 83 5) (pI p) (pOff p)
      | 1 => .pad (bf e 64 12 * 65536 + pOff p)
      | 2 => (match s.ownReplica (bf e 72 8) with | some m => s.homeChip n (lbl (pO p) m (pI p) (pOff p)) | none => .other)
      | _ => .other

/-- The port level and its forwards, for a name alone. -/
def State.homePort (s : State) (p : W64) : Nat → Nat → Home
  | 0, _ => .other
  | n + 1, l =>
    let e := s.tab (keyPort l)
    if eState e = 1 then s.homeChip 6 p
    else if eState e = 3 then (if bf e 76 9 = s.modNo then s.homePort p n (bf e 66 10) else .away (bf e 76 9) (bf e 66 10))
    else .other

/-- A chip entry leads to a replica set, at once or by forwards within the module (R115). -/
def State.replicaChip (s : State) : Nat → W64 → Bool
  | 0, _ => false
  | n + 1, p =>
    let e := s.tab (keyChip (pM p))
    if eState e = 3 then bf e 76 9 = s.modNo && s.replicaChip n (setBf p 38 12 (bf e 64 12)) else eState e = 1 && bf e 94 2 = 2

/-- Where a context's pointer leads. -/
def State.homeOf (s : State) (ctx : Nat) (p : W64) : Home :=
  let e := s.tab (s.keyCtx ctx (pO p))
  if eState e ≠ 1 then .other
  else if !bt e 95 then s.homeChip 6 p
  else if bf e 76 9 = s.modNo then s.homePort p 6 (bf e 85 10)
  else .away (bf e 76 9) (bf e 85 10)

end Sys2Proof.Machine
end

