-- ==== Sys2Proof/Decode.lean ====
section
/-! DEFINITION. Decoding (R28 to R49, Table 2-6) and, after it, the encoder: both read the encoding tables of the spec, which stand here. -/

namespace Sys2Proof.Decode

open Sys2Proof

/-! ## Code numbers -/

/-- The formats in code order (Table 9-6). -/
def fmts : List Fmt :=
  [.f64, .f32, .f19, .bf16, .f16, .e4m3, .e5m2, .e3m2, .e2m3, .e2m1, .int8, .uint8, .int4, .uint4, .int2, .tern,
   .l6, .l8, .l4, .mxe4m3, .mxe2m1, .mxint8, .b16e2m1, .bl6]
/-- The code of a format (Table 9-6). -/
def fmtCode (f : Fmt) : Nat := f.ctorIdx
/-- The format of a code; none for 24 to 31. -/
def fmtOf (n : Nat) : Option Fmt := fmts[n]?
/-- Rounding mode of a code (R213). -/
def rmOf (n : Nat) : Option RM := [RM.rne, .rz, .ru, .rd, .rs][n]?
/-- Condition of a code (Table 10-5). -/
def cmpOf (n : Nat) : Option Cmp := [Cmp.eq, .ne, .lt, .le, .gt, .ge, .num, .nan][n]?
/-- Scope of a code (Table 2-2). -/
def scopeOf (n : Nat) : Option Scope := [Scope.grp, .core, .clu, .die, .mod, .dom][n]?
/-- Special register of a number (Table 2-4). -/
def sregOf (n : Nat) : Option SReg :=
  [SReg.cyc, .wid, .f0, .f1, .f2, .f3, .f4, .f5, .core, .clus, .die, .mod, .nclus, .topo, .cap, .ent, .prog, .gen, .fflags][n]?
/-- Type code TY (Table 8-2). -/
def tyCode : Ty → Nat
  | .fmt f => fmtCode f
  | .b8 => 24 | .b16 => 25 | .s8 => 26 | .s16 => 27 | .b32 => 28 | .b64 => 29 | .b128 => 30
/-- Type of a code TY; none for 31 (Table 8-2). -/
def tyOf (n : Nat) : Option Ty :=
  if n < 24 then (fmtOf n).map .fmt else [Ty.b8, .b16, .s8, .s16, .b32, .b64, .b128][n - 24]?

/-! ## Modifier words -/

/-- Bits [lo+w−1:lo] of a modifier word. -/
def fld (mw : BitVec 12) (lo w : Nat) : Nat := (mw.toNat >>> lo) % 2 ^ w
/-- Bit `i` of a modifier word. -/
def flag (mw : BitVec 12) (i : Nat) : Bool := mw.getLsbD i
/-- A modifier word from its value. -/
def mwd (n : Nat) : BitVec 12 := BitVec.ofNat 12 n

/-- A reading of a modifier word holds only if it encodes to that same word: a bit in no field is reserved (R36). -/
def canon {α : Type} (enc : α → BitVec 12) (mw : BitVec 12) (x : Option α) : Option α :=
  match x with
  | some a => if enc a = mw then some a else none
  | none => none

/-- An instruction whose modifier word has one value only. -/
def fixed (v mw : BitVec 12) (f : Args → Instr) : Option (Args → Instr) := if mw = v then some f else none

def encBit0 (m : Bool) : BitVec 12 := mwd m.toNat
def decBit0 (mw : BitVec 12) : Option Bool := canon encBit0 mw (some (flag mw 0))
/-- `.b64`, `.uns` of PADD, `.win` of PMK and the other one-bit modifiers in bit [0]. -/
def encB64 (m : Bool) : BitVec 12 := encBit0 m
def decB64 (mw : BitVec 12) : Option Bool := decBit0 mw
def encBit1 (m : Bool) : BitVec 12 := mwd (m.toNat * 2)
def decBit1 (mw : BitVec 12) : Option Bool := canon encBit1 mw (some (flag mw 1))
def encBit2 (m : Bool) : BitVec 12 := mwd (m.toNat * 4)
def decBit2 (mw : BitVec 12) : Option Bool := canon encBit2 mw (some (flag mw 2))
/-- [0] `.b64`, [1] `.uns` (R222). -/
def encUW (m : Mods.UW) : BitVec 12 := mwd (m.b64.toNat + m.uns.toNat * 2)
def decUW (mw : BitVec 12) : Option Mods.UW := canon encUW mw (some ⟨flag mw 1, flag mw 0⟩)
/-- [0] `.b64`, [7:4] PR (R222). -/
def encPW (m : Mods.PW) : BitVec 12 := mwd (m.b64.toNat + m.pr.val * 16)
def decPW (mw : BitVec 12) : Option Mods.PW :=
  canon encPW mw (if h : fld mw 4 4 < 15 then some ⟨⟨fld mw 4 4, h⟩, flag mw 0⟩ else none)
/-- [0] `.b64`, [1] `.uns`, [4:2] CMP (R222). -/
def encIcmp (m : Mods.Icmp) : BitVec 12 := mwd (m.b64.toNat + m.uns.toNat * 2 + m.cmp.ctorIdx * 4)
def decIcmp (mw : BitVec 12) : Option Mods.Icmp :=
  canon encIcmp mw ((cmpOf (fld mw 2 3)).map fun c => ⟨c, flag mw 1, flag mw 0⟩)
/-- As ICMP, and [6:5] CLASS (R222). -/
def encSetp (m : Mods.Setp) : BitVec 12 :=
  mwd (m.b64.toNat + m.uns.toNat * 2 + m.cmp.ctorIdx * 4 + m.cls.ctorIdx * 32)
def decSetp (mw : BitVec 12) : Option Mods.Setp :=
  canon encSetp mw ((cmpOf (fld mw 2 3)).bind fun c =>
    [SClass.int, .f32, .f64][fld mw 5 2]?.map fun k => ⟨k, c, flag mw 1, flag mw 0⟩)
/-- [0] `.b64`, [6:4] k (Table 10-3). -/
def encLea (m : Mods.Lea) : BitVec 12 := mwd (m.b64.toNat + m.k.toNat * 16)
def decLea (mw : BitVec 12) : Option Mods.Lea := canon encLea mw (some ⟨BitVec.ofNat 3 (fld mw 4 3), flag mw 0⟩)
/-- [2:0] field (Table 3-12). -/
def encPField (m : PField) : BitVec 12 := mwd m.ctorIdx
def decPField (mw : BitVec 12) : Option PField :=
  canon encPField mw ([PField.form, .outer, .middle, .inner, .off, .space, .addr][fld mw 0 3]?)
/-- [3:0] form of PFORM (Table 3-11). -/
def encNib (m : BitVec 4) : BitVec 12 := mwd m.toNat
def decNib (mw : BitVec 12) : Option (BitVec 4) := canon encNib mw (some (BitVec.ofNat 4 (fld mw 0 4)))
/-- [2:0] RM, [3] SAT (Table 10-6). -/
def encRmSat (m : Mods.RmSat) : BitVec 12 := mwd (m.rm.ctorIdx + m.sat.toNat * 8)
def decRmSat (mw : BitVec 12) : Option Mods.RmSat := canon encRmSat mw ((rmOf (fld mw 0 3)).map fun r => ⟨r, flag mw 3⟩)
/-- [2:0] CMP, [3] UNORD (Table 10-6). -/
def encFcmp (m : Mods.Fcmp) : BitVec 12 := mwd (m.cmp.ctorIdx + m.unord.toNat * 8)
def decFcmp (mw : BitVec 12) : Option Mods.Fcmp := canon encFcmp mw ((cmpOf (fld mw 0 3)).map fun r => ⟨r, flag mw 3⟩)
/-- [2:0] RM (Table 10-6). -/
def encRM (m : RM) : BitVec 12 := mwd m.ctorIdx
def decRM (mw : BitVec 12) : Option RM := canon encRM mw (rmOf (fld mw 0 3))
/-- [0] FMT, [3:1] RM, [4] SAT (Table 10-6). -/
def encHalf (m : Mods.Half) : BitVec 12 := mwd (m.hf.toNat + m.rm.ctorIdx * 2 + m.sat.toNat * 16)
def decHalf (mw : BitVec 12) : Option Mods.Half :=
  canon encHalf mw ((rmOf (fld mw 1 3)).map fun r => ⟨flag mw 0, r, flag mw 4⟩)
/-- [11:7] DST, [6:4] RM, [3] SAT (Table 10-7). -/
def encCvt (m : Mods.Cvt) : BitVec 12 := mwd (fmtCode m.dst * 128 + m.rm.ctorIdx * 16 + m.sat.toNat * 8)
def decCvt (mw : BitVec 12) : Option Mods.Cvt :=
  canon encCvt mw ((fmtOf (fld mw 7 5)).bind fun d => (rmOf (fld mw 4 3)).map fun r => ⟨d, r, flag mw 3⟩)
/-- [11] DIR, [10:9] INT, [8:4] FMT, [3:1] RM, [0] SAT (Table 10-7). -/
def encCvti (m : Mods.Cvti) : BitVec 12 :=
  mwd (m.f2i.toNat * 2048 + m.int.ctorIdx * 512 + fmtCode m.fmt * 16 + m.rm.ctorIdx * 2 + m.sat.toNat)
def decCvti (mw : BitVec 12) : Option Mods.Cvti :=
  canon encCvti mw ([IntTy.s32, .uint32, .s64, .uint64][fld mw 9 2]?.bind fun i =>
    (fmtOf (fld mw 4 5)).bind fun f => (rmOf (fld mw 1 3)).map fun r => ⟨flag mw 11, i, f, r, flag mw 0⟩)
/-- [11:7] DST (Table 10-7). -/
def encBlk (m : Fmt) : BitVec 12 := mwd (fmtCode m * 128)
def decBlk (mw : BitVec 12) : Option Fmt := canon encBlk mw (fmtOf (fld mw 7 5))
/-- [1:0] LF (R237). -/
def encLF (m : LF) : BitVec 12 := mwd m.ctorIdx
def decLF (mw : BitVec 12) : Option LF := canon encLF mw ([LF.l6, .l8, .l4][fld mw 0 2]?)
/-- [1:0] LF, [2] HI (R237). -/
def encLcvt (m : Mods.Lcvt) : BitVec 12 := mwd (m.lf.ctorIdx + m.hi.toNat * 4)
def decLcvt (mw : BitVec 12) : Option Mods.Lcvt :=
  canon encLcvt mw ([LF.l6, .l8, .l4][fld mw 0 2]?.map fun l => ⟨l, flag mw 2⟩)
/-- [1:0] mode, [2] `.b64` (Table 10-11). -/
def encXch (m : Mods.Xch) : BitVec 12 := mwd (m.mode.ctorIdx + m.b64.toNat * 4)
def decXch (mw : BitVec 12) : Option Mods.Xch :=
  canon encXch mw ([XMode.idx, .xor, .up, .down][fld mw 0 2]?.map fun x => ⟨x, flag mw 2⟩)
/-- [1:0] mode (Table 10-11). -/
def encVMode (m : VMode) : BitVec 12 := mwd m.ctorIdx
def decVMode (mw : BitVec 12) : Option VMode := canon encVMode mw ([VMode.ballot, .any, .all, .uni][fld mw 0 2]?)
/-- op codes of GRED and GSCN (R242). -/
def gopOf (n : Nat) : Option GOp := [GOp.add, .min, .max, .and, .or, .xor][n]?
/-- ty codes of GRED and GSCN (R242). -/
def gtyOf (n : Nat) : Option GTy := [GTy.s32, .uint32, .f32][n]?
/-- [2:0] op, [5:3] ty (Table 10-11). -/
def encGred (m : Mods.Gred) : BitVec 12 := mwd (m.op.ctorIdx + m.ty.ctorIdx * 8)
def decGred (mw : BitVec 12) : Option Mods.Gred :=
  canon encGred mw ((gopOf (fld mw 0 3)).bind fun o => (gtyOf (fld mw 3 3)).map fun t => ⟨o, t⟩)
/-- [2:0] op, [5:3] ty, [6] `.excl` (Table 10-11). -/
def encGscn (m : Mods.Gscn) : BitVec 12 := mwd (m.op.ctorIdx + m.ty.ctorIdx * 8 + m.excl.toNat * 64)
def decGscn (mw : BitVec 12) : Option Mods.Gscn :=
  canon encGscn mw ((gopOf (fld mw 0 3)).bind fun o => (gtyOf (fld mw 3 3)).map fun t => ⟨o, t, flag mw 6⟩)
/-- [6:0] k (Table 10-11). -/
def encReg7 (m : BitVec 7) : BitVec 12 := mwd m.toNat
def decReg7 (mw : BitVec 12) : Option (BitVec 7) := canon encReg7 mw (some (BitVec.ofNat 7 (fld mw 0 7)))
/-- [1:0] MODE (Table 10-13). -/
def encBMode (m : BMode) : BitVec 12 := mwd m.ctorIdx
def decBMode (mw : BitVec 12) : Option BMode := canon encBMode mw ([BMode.uni, .any, .all][fld mw 0 2]?)
/-- [11:7] TY, [6:5] CA, [4:2] scope (Table 8-3). -/
def encLd (m : Mods.Ld) : BitVec 12 :=
  mwd (tyCode m.ty * 128 + match m.ca with | .plain => 0 | .fresh => 32 | .const => 64 | .acq sc => 96 + sc.ctorIdx * 4)
def decLd (mw : BitVec 12) : Option Mods.Ld :=
  canon encLd mw ((tyOf (fld mw 7 5)).bind fun t =>
    match fld mw 5 2 with
    | 0 => some ⟨t, .plain⟩
    | 1 => some ⟨t, .fresh⟩
    | 2 => some ⟨t, .const⟩
    | _ => (scopeOf (fld mw 2 3)).map fun sc => ⟨t, .acq sc⟩)
/-- As LD, with CA = 3 reserved (Table 8-3). -/
def encLdv (m : Mods.Ld) : BitVec 12 := encLd m
def decLdv (mw : BitVec 12) : Option Mods.Ld := decLd mw
/-- [11:7] TY, [6:5] ORD, [4:2] scope (Table 8-3). -/
def encSt (m : Mods.St) : BitVec 12 :=
  mwd (tyCode m.ty * 128 + match m.rel with | none => 0 | some sc => 32 + sc.ctorIdx * 4)
def decSt (mw : BitVec 12) : Option Mods.St :=
  canon encSt mw ((tyOf (fld mw 7 5)).bind fun t =>
    match fld mw 5 2 with
    | 0 => some ⟨t, none⟩
    | 1 => (scopeOf (fld mw 2 3)).map fun sc => ⟨t, some sc⟩
    | _ => none)
/-- [11:7] FMT, [6] F, [5:3] width, [2] win, [1:0] space (Table 7-4). -/
def encLocal (m : Mods.Local) : BitVec 12 :=
  mwd ((match m.fmt with | none => 0 | some f => fmtCode f * 128 + 64) + m.width.ctorIdx * 8 +
    match m.space with | none => 4 | some sp => sp.ctorIdx)
def decLocal (mw : BitVec 12) : Option Mods.Local :=
  canon encLocal mw ([LWidth.b32, .b8, .b16, .s8, .s16, .b64, .b128][fld mw 3 3]?.bind fun w =>
    let sp := if flag mw 2 then none else [Space.lane, .core, .clu, .chip][fld mw 0 2]?
    if flag mw 6 then (fmtOf (fld mw 7 5)).map fun f => ⟨sp, some f, w⟩ else some ⟨sp, none, w⟩)
def encLocalSt (m : Mods.Local) : BitVec 12 := encLocal m
def decLocalSt (mw : BitVec 12) : Option Mods.Local := decLocal mw
/-- OP codes of ATOM (Table 8-3). -/
def aopOf (n : Nat) : Option AOp := [AOp.add, .min, .max, .and, .or, .xor, .exch, .cas][n]?
/-- TYPE codes of ATOM (Table 8-3). -/
def atyOf (n : Nat) : Option ATy := [ATy.u32, .s32, .u64, .s64, .f32, .f64, .bf16x2, .f16x2][n]?
/-- [11] V, [10:8] OP, [7:5] TYPE, [4:3] ORD, [2:0] scope (Table 8-3). -/
def encAtom (m : Mods.Atom) : BitVec 12 :=
  mwd (m.v.toNat * 2048 + m.op.ctorIdx * 256 + m.ty.ctorIdx * 32 + m.ord.ctorIdx * 8 + m.scope.ctorIdx)
def decAtom (mw : BitVec 12) : Option Mods.Atom :=
  canon encAtom mw ((aopOf (fld mw 8 3)).bind fun o => (atyOf (fld mw 5 3)).bind fun t =>
    [Ord.relaxed, .acq, .rel, .ar][fld mw 3 2]?.bind fun r => (scopeOf (fld mw 0 3)).map fun sc => ⟨flag mw 11, o, t, r, sc⟩)
/-- [10:8] OP, [7:5] TYPE, [4:3] ORD 0 or 2, [2:0] scope (Table 8-3). -/
def encRed (m : Mods.Red) : BitVec 12 :=
  mwd (m.op.ctorIdx * 256 + m.ty.ctorIdx * 32 + (if m.rel then 16 else 0) + m.scope.ctorIdx)
def decRed (mw : BitVec 12) : Option Mods.Red :=
  canon encRed mw ((aopOf (fld mw 8 3)).bind fun o => (atyOf (fld mw 5 3)).bind fun t =>
    (scopeOf (fld mw 0 3)).map fun sc => ⟨o, t, flag mw 4, sc⟩)
/-- [3] all, [2:0] scope (Table 2-9, Table 5-7). -/
def encInv (m : Mods.Inv) : BitVec 12 := mwd (m.all.toNat * 8 + m.scope.ctorIdx)
def decInv (mw : BitVec 12) : Option Mods.Inv := canon encInv mw ((scopeOf (fld mw 0 3)).map fun sc => ⟨flag mw 3, sc⟩)
/-- [4:3] ORD, [2:0] scope (Table 8-3). -/
def encFence (m : Mods.Fence) : BitVec 12 := mwd (m.ord.ctorIdx * 8 + m.scope.ctorIdx)
def decFence (mw : BitVec 12) : Option Mods.Fence :=
  canon encFence mw ([Ord.relaxed, .acq, .rel, .ar][fld mw 3 2]?.bind fun r => (scopeOf (fld mw 0 3)).map fun sc => ⟨r, sc⟩)
/-- [2:0] class (Table 7-5). -/
def encCClass (m : CClass) : BitVec 12 := mwd m.ctorIdx
def decCClass (mw : BitVec 12) : Option CClass := canon encCClass mw ([CClass.cpy, .mma, .gth, .net, .atm][fld mw 0 3]?)
/-- [11] PAIR, [10] WELT, [9:5] FMT (Table 11-2). -/
def encMma (m : Mods.Mma) : BitVec 12 := mwd (m.pair.toNat * 2048 + m.welt.toNat * 1024 + fmtCode m.fmt * 32)
def decMma (mw : BitVec 12) : Option Mods.Mma := canon encMma mw ((fmtOf (fld mw 5 5)).map fun f => ⟨flag mw 11, flag mw 10, f⟩)
def encMdist (m : Mods.Mma) : BitVec 12 := encMma m
def decMdist (mw : BitVec 12) : Option Mods.Mma := decMma mw
/-- [11:8] k − 1, [7] MAX, [6] VAL, [5] MEM = 0, [4] HI (Table 11-2). -/
def encTopkReg (m : Mods.TopkReg) : BitVec 12 :=
  mwd (m.k1.toNat * 256 + m.max.toNat * 128 + m.val.toNat * 64 + m.hi.toNat * 16)
def decTopkReg (mw : BitVec 12) : Option Mods.TopkReg :=
  canon encTopkReg mw (some ⟨BitVec.ofNat 4 (fld mw 8 4), flag mw 7, flag mw 6, flag mw 4⟩)
/-- [11:8] k − 1, [7] MAX, [6] VAL, [5] MEM = 1 (Table 11-2). -/
def encTopkMem (m : Mods.TopkMem) : BitVec 12 := mwd (m.k1.toNat * 256 + m.max.toNat * 128 + m.val.toNat * 64 + 32)
def decTopkMem (mw : BitVec 12) : Option Mods.TopkMem :=
  canon encTopkMem mw (some ⟨BitVec.ofNat 4 (fld mw 8 4), flag mw 7, flag mw 6⟩)
/-- [1:0] MODE (Table 11-2). -/
def encTMode (m : TMode) : BitVec 12 := mwd m.ctorIdx
def decTMode (mw : BitVec 12) : Option TMode := canon encTMode mw ([TMode.f32, .f64, .welt][fld mw 0 2]?)
/-- [11:10] MODE, [9:5] DST, [4:2] RM, [1] SAT (Table 11-2). -/
def encDrn (m : Mods.Drn) : BitVec 12 :=
  mwd (m.mode.ctorIdx * 1024 + fmtCode m.dst * 32 + m.rm.ctorIdx * 4 + m.sat.toNat * 2)
def decDrn (mw : BitVec 12) : Option Mods.Drn :=
  canon encDrn mw ([DMode.diff, .pn, .ratio, .gate][fld mw 10 2]?.bind fun d => (fmtOf (fld mw 5 5)).bind fun f =>
    (rmOf (fld mw 2 3)).map fun r => ⟨d, f, r, flag mw 1⟩)
/-- [0] SP (Table 15-2). -/
def encBSpace (m : BSpace) : BitVec 12 := mwd m.ctorIdx
def decBSpace (mw : BitVec 12) : Option BSpace := canon encBSpace mw ([BSpace.core, .clu][fld mw 0 1]?)
/-- [0] SP, [3:1] SC (Table 15-2). -/
def encBar (m : Mods.Bar) : BitVec 12 := mwd (m.sp.ctorIdx + m.scope.ctorIdx * 2)
def decBar (mw : BitVec 12) : Option Mods.Bar :=
  canon encBar mw ([BSpace.core, .clu][fld mw 0 1]?.bind fun p => (scopeOf (fld mw 1 3)).map fun sc => ⟨p, sc⟩)
/-- [0] `.b64`, [3:1] SC (Table 15-2). -/
def encWatch (m : Mods.Watch) : BitVec 12 := mwd (m.b64.toNat + m.scope.ctorIdx * 2)
def decWatch (mw : BitVec 12) : Option Mods.Watch := canon encWatch mw ((scopeOf (fld mw 1 3)).map fun sc => ⟨flag mw 0, sc⟩)
/-- [2:0] SEL (Table 15-9). -/
def encRSel (m : RSel) : BitVec 12 := mwd m.ctorIdx
def decRSel (mw : BitVec 12) : Option RSel := canon encRSel mw ([RSel.cnt, .ends, .sent, .ret, .drop, .redir][fld mw 0 3]?)
/-- [1:0] KIND, [4:2] TYPE, [6:5] OP (Table 15-9). -/
def encColl (m : Mods.Coll) : BitVec 12 := mwd (m.kind.ctorIdx + m.ty.ctorIdx * 4 + m.op.ctorIdx * 32)
def decColl (mw : BitVec 12) : Option Mods.Coll :=
  canon encColl mw ([CKind.allreduce, .allgather, .redscat, .alltoall][fld mw 0 2]?.bind fun k =>
    [CTy.f32, .bf16, .f16, .s32, .u32][fld mw 2 3]?.bind fun t => [COp.add, .min, .max][fld mw 5 2]?.map fun o => ⟨k, t, o⟩)
/-- [0] LVL, [1] ALLC, [4:2] scope (Table 16-12). -/
def encLinv (m : Mods.Linv) : BitVec 12 := mwd (m.chip.toNat + m.allc.toNat * 2 + m.scope.ctorIdx * 4)
def decLinv (mw : BitVec 12) : Option Mods.Linv :=
  canon encLinv mw ((scopeOf (fld mw 2 3)).map fun sc => ⟨flag mw 0, flag mw 1, sc⟩)
/-- [2:0] T (Table 16-12). -/
def encTTab (m : TTab) : BitVec 12 := mwd m.ctorIdx
def decTTab (mw : BitVec 12) : Option TTab := canon encTTab mw ([TTab.ctx, .port, .chip, .stack, .acl][fld mw 0 3]?)
/-- GATE levels (Table 16-12). -/
def glvlOf (n : Nat) : Option GLvl := [GLvl.ctx, .port, .chip, .stack][n]?
/-- [0] OPEN = 0, [3:1] LVL (Table 16-12). -/
def encGateC (m : GLvl) : BitVec 12 := mwd (m.ctorIdx * 2)
def decGateC (mw : BitVec 12) : Option GLvl := canon encGateC mw (glvlOf (fld mw 1 3))
/-- [0] OPEN = 1, [3:1] LVL (Table 16-12). -/
def encGateO (m : GLvl) : BitVec 12 := mwd (m.ctorIdx * 2 + 1)
def decGateO (mw : BitVec 12) : Option GLvl := canon encGateO mw (glvlOf (fld mw 1 3))

/-! ## The opcode map (Table 2-7) -/

/-- The instructions an opcode can stand for, read with its modifier word (R47): the operands are still to come. -/
def mk (op : Nat) (mw : BitVec 12) : Option (Args → Instr) :=
  match op with
  | 0x010 => (decB64 mw).map .iadd
  | 0x011 => (decB64 mw).map .isub
  | 0x012 => (decPW mw).map .iaddc
  | 0x013 => (decB64 mw).map .imul
  | 0x014 => (decUW mw).map .imulh
  | 0x015 => (decB64 mw).map .imad
  | 0x016 => (decUW mw).map .imin
  | 0x017 => (decUW mw).map .imax
  | 0x018 => (decB64 mw).map .iabs
  | 0x019 => (decB64 mw).map .ineg
  | 0x020 => (decB64 mw).map .and
  | 0x021 => (decB64 mw).map .or
  | 0x022 => (decB64 mw).map .xor
  | 0x023 => (decB64 mw).map .andn
  | 0x024 => (decB64 mw).map .not
  | 0x025 => (decB64 mw).map .shl
  | 0x026 => (decB64 mw).map .shr
  | 0x027 => (decB64 mw).map .sar
  | 0x028 => (decB64 mw).map .rotl
  | 0x029 => (decBit2 mw).map .funs
  | 0x02A => (decBit1 mw).map .bfx
  | 0x02B => fixed 0 mw .bfi
  | 0x02C => (decB64 mw).map .popc
  | 0x02D => (decB64 mw).map .clz
  | 0x02E => (decB64 mw).map .ctz
  | 0x02F => (decB64 mw).map .brev
  | 0x030 => fixed 0 mw .permb
  | 0x031 => (decPW mw).map .isel
  | 0x032 => (decIcmp mw).map .icmp
  | 0x033 => (decSetp mw).map .setp
  | 0x034 => (decB64 mw).map .mov
  | 0x035 => (decB64 mw).map .movi
  | 0x036 => (decLea mw).map .lea
  | 0x040 => (decB64 mw).map .pmk
  | 0x041 => (decB64 mw).map .padd
  | 0x042 => fixed 0 mw .pdif
  | 0x043 => (decPField mw).map .pget
  | 0x044 => (decPField mw).map .pset
  | 0x045 => (decNib mw).map .pform
  | 0x050 => (decRmSat mw).map .fadd
  | 0x051 => (decRmSat mw).map .fsub
  | 0x052 => (decRmSat mw).map .fmul
  | 0x053 => (decRmSat mw).map .ffma
  | 0x054 => (decRmSat mw).map .ffms
  | 0x055 => (decRmSat mw).map .fnma
  | 0x056 => fixed 0 mw .fmin
  | 0x057 => fixed 0 mw .fmax
  | 0x058 => (decFcmp mw).map .fcmp
  | 0x059 => fixed 0 mw .fclass
  | 0x05A => (decRM mw).map .frnd
  | 0x05B => (decRmSat mw).map .fscale
  | 0x05C => fixed 0 mw .fexpo
  | 0x060 => (decRmSat mw).map .dadd
  | 0x061 => (decRmSat mw).map .dmul
  | 0x062 => (decRmSat mw).map .dfma
  | 0x063 => (decFcmp mw).map .dcmp
  | 0x070 => (decHalf mw).map .hadd2
  | 0x071 => (decHalf mw).map .hmul2
  | 0x072 => (decHalf mw).map .hfma2
  | 0x073 => (decB64 mw).map .hmin2
  | 0x074 => (decB64 mw).map .hmax2
  | 0x080 => (decCvt mw).map .cvt
  | 0x081 => (decCvti mw).map .cvti
  | 0x082 => fixed 0 mw .pack2
  | 0x083 => fixed 0 mw .unpk2
  | 0x084 => (decBlk mw).map .scle
  | 0x085 => fixed 0 mw .fmtset
  | 0x086 => fixed 0 mw .fmtget
  | 0x090 => (decLF mw).map .lmul
  | 0x091 => (decLF mw).map .ladd
  | 0x092 => (decLcvt mw).map .lcvt
  | 0x0A0 => fixed 0 mw .frcp
  | 0x0A1 => fixed 0 mw .frsq
  | 0x0A2 => fixed 0 mw .fsqrt
  | 0x0A3 => fixed 0 mw .fex2
  | 0x0A4 => fixed 0 mw .flg2
  | 0x0A5 => fixed 0 mw .fsin
  | 0x0A6 => fixed 0 mw .fcos
  | 0x0A7 => fixed 0 mw .ftwid
  | 0x0A8 => fixed 0 mw .ftanh
  | 0x0A9 => fixed 0 mw .fsigm
  | 0x0B0 => (decXch mw).map .xch
  | 0x0B1 => (decB64 mw).map .bcst
  | 0x0B2 => (decVMode mw).map .vote
  | 0x0B3 => (decGred mw).map .gred
  | 0x0B4 => (decGscn mw).map .gscn
  | 0x0B5 => fixed 0 mw .elect
  | 0x0B6 => fixed 0 mw .movpPack <|> fixed 1 mw .movpUnpk
  | 0x0B7 => (decReg7 mw).map .srd
  | 0x0B8 => (decReg7 mw).map .swr
  | 0x0C0 => (decBMode mw).map .bra
  | 0x0C1 => fixed 0 mw .brai
  | 0x0C2 => (decBMode mw).map .call
  | 0x0C3 => fixed 0 mw .ret
  | 0x0C4 => fixed 0 mw .ifp
  | 0x0C5 => fixed 0 mw .elsp
  | 0x0C6 => fixed 0 mw .endp
  | 0x0C7 => fixed 0 mw .loopb
  | 0x0C8 => fixed 0 mw .loope
  | 0x0C9 => fixed 0 mw .brkp
  | 0x0CA => fixed 0 mw .contp
  | 0x0CB => fixed 0 mw .exit
  | 0x0CC => fixed 0 mw .nop
  | 0x0CD => fixed 0 mw .regn
  | 0x0CE => fixed 0 mw .yield
  | 0x0D0 => (decLd mw).map .ld
  | 0x0D1 => (decSt mw).map .st
  | 0x0D2 => (decLdv mw).map .ldv
  | 0x0D3 => (decSt mw).map .stv
  | 0x0D4 => (decLocal mw).map .lds
  | 0x0D5 => (decLocalSt mw).map .sts
  | 0x0D6 => (decAtom mw).map .atom
  | 0x0D7 => (decRed mw).map .red
  | 0x0D8 => (decB64 mw).map .pref
  | 0x0D9 => (decB64 mw).map .wbr
  | 0x0DA => (decInv mw).map .invl1
  | 0x0DB => (decInv mw).map .icinv
  | 0x0DC => (decFence mw).map .fence
  | 0x0DD => (decB64 mw).map .commit
  | 0x0E0 => fixed 0 mw .cpy
  | 0x0E1 => fixed 0 mw .cpys
  | 0x0E2 => (decB64 mw).map .sleept
  | 0x0E3 => (decCClass mw).map .waitc
  | 0x100 => (decMma mw).map .mma
  | 0x101 => (decMdist mw).map .mdist
  | 0x102 => (decTopkReg mw).map .mtopkReg <|> (decTopkMem mw).map .mtopkMem
  | 0x103 => (decTMode mw).map .mzero
  | 0x104 => (decTMode mw).map .mldt
  | 0x105 => fixed 0 mw .mstt
  | 0x106 => (decDrn mw).map .mdrn
  | 0x107 => fixed 0 mw .magr <|> fixed 1 mw .magrGet
  | 0x108 => fixed 0 mw .mprog
  | 0x109 => fixed 0 mw .mbatch
  | 0x10A => fixed 0 mw .mwait
  | 0x10B => (decTMode mw).map .mpair
  | 0x10C => (decB64 mw).map .mfree
  | 0x110 => (decBSpace mw).map .binit
  | 0x111 => (decBar mw).map .arv
  | 0x112 => (decBar mw).map .wtb
  | 0x113 => (decBar mw).map .arw
  | 0x114 => (decWatch mw).map .watch
  | 0x120 => fixed 0 mw .rsend
  | 0x121 => fixed 0 mw .rpost
  | 0x122 => fixed 0 mw .rflush
  | 0x123 => (decRSel mw).map .rstat
  | 0x124 => (decColl mw).map .coll
  | 0x130 => (decB64 mw).map .launch
  | 0x131 => (decB64 mw).map .mbxrd
  | 0x132 => (decB64 mw).map .mbxfwd
  | 0x133 => fixed 0 mw .pennant
  | 0x140 => fixed 0 mw .trap
  | 0x141 => (decB64 mw).map .rett
  | 0x142 => fixed 0 mw .halt
  | 0xF00 => (decLinv mw).map .linv
  | 0xF01 => fixed 0 mw .lsync
  | 0xF02 => (decTTab mw).map .ltwr
  | 0xF03 => (decGateC mw).map .gateClose <|> (decGateO mw).map .gateOpen
  | 0xF04 => fixed 0 mw .reloc
  | 0xF05 => fixed 0 mw .hoistJoin <|> fixed 1 mw .hoistLeave <|> fixed 2 mw .hoistEvict <|> fixed 3 mw .hoistRekey
  | 0xF06 => (decB64 mw).map .eqpop
  | 0xF07 => fixed 0 mw .pstopSave <|> fixed 1 mw .pstopHalt <|> fixed 2 mw .pstopPause <|> fixed 3 mw .pstopReset
  | 0xF08 => fixed 0 mw .pstart
  | _ => none

/-- The opcode and the modifier word of an instruction (R47); none for the steps of the part, which no word encodes. -/
def code : Instr → Option (Nat × BitVec 12)
  | .iadd m _ => some (0x010, encB64 m)
  | .isub m _ => some (0x011, encB64 m)
  | .iaddc m _ => some (0x012, encPW m)
  | .imul m _ => some (0x013, encB64 m)
  | .imulh m _ => some (0x014, encUW m)
  | .imad m _ => some (0x015, encB64 m)
  | .imin m _ => some (0x016, encUW m)
  | .imax m _ => some (0x017, encUW m)
  | .iabs m _ => some (0x018, encB64 m)
  | .ineg m _ => some (0x019, encB64 m)
  | .and m _ => some (0x020, encB64 m)
  | .or m _ => some (0x021, encB64 m)
  | .xor m _ => some (0x022, encB64 m)
  | .andn m _ => some (0x023, encB64 m)
  | .not m _ => some (0x024, encB64 m)
  | .shl m _ => some (0x025, encB64 m)
  | .shr m _ => some (0x026, encB64 m)
  | .sar m _ => some (0x027, encB64 m)
  | .rotl m _ => some (0x028, encB64 m)
  | .funs m _ => some (0x029, encBit2 m)
  | .bfx m _ => some (0x02A, encBit1 m)
  | .bfi _ => some (0x02B, 0)
  | .popc m _ => some (0x02C, encB64 m)
  | .clz m _ => some (0x02D, encB64 m)
  | .ctz m _ => some (0x02E, encB64 m)
  | .brev m _ => some (0x02F, encB64 m)
  | .permb _ => some (0x030, 0)
  | .isel m _ => some (0x031, encPW m)
  | .icmp m _ => some (0x032, encIcmp m)
  | .setp m _ => some (0x033, encSetp m)
  | .mov m _ => some (0x034, encB64 m)
  | .movi m _ => some (0x035, encB64 m)
  | .lea m _ => some (0x036, encLea m)
  | .pmk m _ => some (0x040, encB64 m)
  | .padd m _ => some (0x041, encB64 m)
  | .pdif _ => some (0x042, 0)
  | .pget m _ => some (0x043, encPField m)
  | .pset m _ => some (0x044, encPField m)
  | .pform m _ => some (0x045, encNib m)
  | .fadd m _ => some (0x050, encRmSat m)
  | .fsub m _ => some (0x051, encRmSat m)
  | .fmul m _ => some (0x052, encRmSat m)
  | .ffma m _ => some (0x053, encRmSat m)
  | .ffms m _ => some (0x054, encRmSat m)
  | .fnma m _ => some (0x055, encRmSat m)
  | .fmin _ => some (0x056, 0)
  | .fmax _ => some (0x057, 0)
  | .fcmp m _ => some (0x058, encFcmp m)
  | .fclass _ => some (0x059, 0)
  | .frnd m _ => some (0x05A, encRM m)
  | .fscale m _ => some (0x05B, encRmSat m)
  | .fexpo _ => some (0x05C, 0)
  | .dadd m _ => some (0x060, encRmSat m)
  | .dmul m _ => some (0x061, encRmSat m)
  | .dfma m _ => some (0x062, encRmSat m)
  | .dcmp m _ => some (0x063, encFcmp m)
  | .hadd2 m _ => some (0x070, encHalf m)
  | .hmul2 m _ => some (0x071, encHalf m)
  | .hfma2 m _ => some (0x072, encHalf m)
  | .hmin2 m _ => some (0x073, encB64 m)
  | .hmax2 m _ => some (0x074, encB64 m)
  | .cvt m _ => some (0x080, encCvt m)
  | .cvti m _ => some (0x081, encCvti m)
  | .pack2 _ => some (0x082, 0)
  | .unpk2 _ => some (0x083, 0)
  | .scle m _ => some (0x084, encBlk m)
  | .fmtset _ => some (0x085, 0)
  | .fmtget _ => some (0x086, 0)
  | .lmul m _ => some (0x090, encLF m)
  | .ladd m _ => some (0x091, encLF m)
  | .lcvt m _ => some (0x092, encLcvt m)
  | .frcp _ => some (0x0A0, 0)
  | .frsq _ => some (0x0A1, 0)
  | .fsqrt _ => some (0x0A2, 0)
  | .fex2 _ => some (0x0A3, 0)
  | .flg2 _ => some (0x0A4, 0)
  | .fsin _ => some (0x0A5, 0)
  | .fcos _ => some (0x0A6, 0)
  | .ftwid _ => some (0x0A7, 0)
  | .ftanh _ => some (0x0A8, 0)
  | .fsigm _ => some (0x0A9, 0)
  | .xch m _ => some (0x0B0, encXch m)
  | .bcst m _ => some (0x0B1, encB64 m)
  | .vote m _ => some (0x0B2, encVMode m)
  | .gred m _ => some (0x0B3, encGred m)
  | .gscn m _ => some (0x0B4, encGscn m)
  | .elect _ => some (0x0B5, 0)
  | .movpPack _ => some (0x0B6, 0)
  | .movpUnpk _ => some (0x0B6, 1)
  | .srd m _ => some (0x0B7, encReg7 m)
  | .swr m _ => some (0x0B8, encReg7 m)
  | .bra m _ => some (0x0C0, encBMode m)
  | .brai _ => some (0x0C1, 0)
  | .call m _ => some (0x0C2, encBMode m)
  | .ret _ => some (0x0C3, 0)
  | .ifp _ => some (0x0C4, 0)
  | .elsp _ => some (0x0C5, 0)
  | .endp _ => some (0x0C6, 0)
  | .loopb _ => some (0x0C7, 0)
  | .loope _ => some (0x0C8, 0)
  | .brkp _ => some (0x0C9, 0)
  | .contp _ => some (0x0CA, 0)
  | .exit _ => some (0x0CB, 0)
  | .nop _ => some (0x0CC, 0)
  | .regn _ => some (0x0CD, 0)
  | .yield _ => some (0x0CE, 0)
  | .ld m _ => some (0x0D0, encLd m)
  | .st m _ => some (0x0D1, encSt m)
  | .ldv m _ => some (0x0D2, encLdv m)
  | .stv m _ => some (0x0D3, encSt m)
  | .lds m _ => some (0x0D4, encLocal m)
  | .sts m _ => some (0x0D5, encLocalSt m)
  | .atom m _ => some (0x0D6, encAtom m)
  | .red m _ => some (0x0D7, encRed m)
  | .pref m _ => some (0x0D8, encB64 m)
  | .wbr m _ => some (0x0D9, encB64 m)
  | .invl1 m _ => some (0x0DA, encInv m)
  | .icinv m _ => some (0x0DB, encInv m)
  | .fence m _ => some (0x0DC, encFence m)
  | .commit m _ => some (0x0DD, encB64 m)
  | .cpy _ => some (0x0E0, 0)
  | .cpys _ => some (0x0E1, 0)
  | .sleept m _ => some (0x0E2, encB64 m)
  | .waitc m _ => some (0x0E3, encCClass m)
  | .mma m _ => some (0x100, encMma m)
  | .mdist m _ => some (0x101, encMdist m)
  | .mtopkReg m _ => some (0x102, encTopkReg m)
  | .mtopkMem m _ => some (0x102, encTopkMem m)
  | .mzero m _ => some (0x103, encTMode m)
  | .mldt m _ => some (0x104, encTMode m)
  | .mstt _ => some (0x105, 0)
  | .mdrn m _ => some (0x106, encDrn m)
  | .magr _ => some (0x107, 0)
  | .magrGet _ => some (0x107, 1)
  | .mprog _ => some (0x108, 0)
  | .mbatch _ => some (0x109, 0)
  | .mwait _ => some (0x10A, 0)
  | .mpair m _ => some (0x10B, encTMode m)
  | .mfree m _ => some (0x10C, encB64 m)
  | .binit m _ => some (0x110, encBSpace m)
  | .arv m _ => some (0x111, encBar m)
  | .wtb m _ => some (0x112, encBar m)
  | .arw m _ => some (0x113, encBar m)
  | .watch m _ => some (0x114, encWatch m)
  | .rsend _ => some (0x120, 0)
  | .rpost _ => some (0x121, 0)
  | .rflush _ => some (0x122, 0)
  | .rstat m _ => some (0x123, encRSel m)
  | .coll m _ => some (0x124, encColl m)
  | .launch m _ => some (0x130, encB64 m)
  | .mbxrd m _ => some (0x131, encB64 m)
  | .mbxfwd m _ => some (0x132, encB64 m)
  | .pennant _ => some (0x133, 0)
  | .trap _ => some (0x140, 0)
  | .rett m _ => some (0x141, encB64 m)
  | .halt _ => some (0x142, 0)
  | .linv m _ => some (0xF00, encLinv m)
  | .lsync _ => some (0xF01, 0)
  | .ltwr m _ => some (0xF02, encTTab m)
  | .gateClose m _ => some (0xF03, encGateC m)
  | .gateOpen m _ => some (0xF03, encGateO m)
  | .reloc _ => some (0xF04, 0)
  | .hoistJoin _ => some (0xF05, 0)
  | .hoistLeave _ => some (0xF05, 1)
  | .hoistEvict _ => some (0xF05, 2)
  | .hoistRekey _ => some (0xF05, 3)
  | .eqpop m _ => some (0xF06, encB64 m)
  | .pstopSave _ => some (0xF07, 0)
  | .pstopHalt _ => some (0xF07, 1)
  | .pstopPause _ => some (0xF07, 2)
  | .pstopReset _ => some (0xF07, 3)
  | .pstart _ => some (0xF08, 0)
  | .sfuResult _ => none
  | .mmaChunk _ => none
  | .engineOpComplete _ _ => none
  | .barrierWake _ => none
  | .watchReport _ => none
  | .sendListDepart _ => none
  | .tokenArrive _ => none
  | .tokenReturn _ => none
  | .endMarkerArrive _ => none
  | .tokenDispositionAck _ => none
  | .collContribution _ => none
  | .launchComplete _ => none
  | .relocDone _ _ => none
  | .hoistBarrier _ _ _ _ => none
  | .hoistDeadline _ => none
  | .runSelect _ => none
  | .icacheFill _ => none
  | .loadReturn _ => none
  | .atomReturn _ => none
  | .contextLevelLookup _ => none
  | .portLevelLookup _ => none
  | .chipLevelLookup _ => none
  | .stackLevelLookup _ => none
  | .gatedReread _ => none
  | .gateTimeout _ => none
  | .grantRequest _ => none
  | .writeApply _ => none
  | .homeSliceAtomic _ => none
  | .l2WriteBack _ _ => none
  | .replicaSequence _ => none
  | .bucketRelease _ => none
  | .wcqDrain _ => none
  | .storeBufferDrain _ => none
  | .sideLogEnter _ => none
  | .faultResponse _ => none
  | .faultQueueRidx _ => none
  | .copyComplete _ _ _ => none
  | .sleepWake _ => none
  | .hangDetect _ => none
  | .peerDeadline _ => none
  | .flowFlitIngress _ _ _ _ _ _ => none
  | .sealGroupVerify _ _ _ => none
  | .sealGroupFail _ _ _ => none
  | .releasePacketApply _ _ => none
  | .sealGroupClose _ _ => none
  | .linkReplay _ => none
  | .creditReturn _ _ => none
  | .creditAudit _ _ _ => none
  | .reachabilityNotice _ _ => none
  | .portDegrade _ _ _ => none
  | .portQuiesce _ => none
  | .spdmSession _ _ => none
  | .domainSwitchGo _ => none
  | .domainWalkBegin _ => none
  | .domainSwitchEnd _ => none
  | .domainChangedReplay _ => none
  | .pinExpiry _ _ => none
  | .patrolScrub _ _ _ => none
  | .frontEndDeliver _ => none
  | .doorbellWrite _ _ => none
  | .queueAgeing _ => none
  | .groupAgeing _ => none
  | .drainTimeout _ => none
  | .thermalMigration _ => none
  | .resourceClaim _ _ => none
  | .saveAreaFreed _ => none
  | .restoreRetry _ => none
  | .scanPair _ => none
  | .scanComplete _ _ _ => none
  | .partitionChange _ _ => none
  | .powerShed _ => none
  | .powerGood _ _ _ => none
  | .srqClear => none
  | .ovfClear _ => none
  | .bucketRateWrite _ _ _ => none
  | .portLimitWrite _ _ => none
  | .queueSizeWrite _ _ => none
  | .registerWrite _ _ _ => none
  | .moduleNumberAssignment _ => none
  | .portTrainingDone _ => none
  | .writeAcknowledgement _ => none
  | .queueEnableWrite _ _ => none

/-- The header and operands of an instruction word; none for the steps of the part. -/
def argsOf : Instr → Option Args
  | .iadd _ o => some o
  | .isub _ o => some o
  | .iaddc _ o => some o
  | .imul _ o => some o
  | .imulh _ o => some o
  | .imad _ o => some o
  | .imin _ o => some o
  | .imax _ o => some o
  | .iabs _ o => some o
  | .ineg _ o => some o
  | .and _ o => some o
  | .or _ o => some o
  | .xor _ o => some o
  | .andn _ o => some o
  | .not _ o => some o
  | .shl _ o => some o
  | .shr _ o => some o
  | .sar _ o => some o
  | .rotl _ o => some o
  | .funs _ o => some o
  | .bfx _ o => some o
  | .bfi o => some o
  | .popc _ o => some o
  | .clz _ o => some o
  | .ctz _ o => some o
  | .brev _ o => some o
  | .permb o => some o
  | .isel _ o => some o
  | .icmp _ o => some o
  | .setp _ o => some o
  | .mov _ o => some o
  | .movi _ o => some o
  | .lea _ o => some o
  | .pmk _ o => some o
  | .padd _ o => some o
  | .pdif o => some o
  | .pget _ o => some o
  | .pset _ o => some o
  | .pform _ o => some o
  | .fadd _ o => some o
  | .fsub _ o => some o
  | .fmul _ o => some o
  | .ffma _ o => some o
  | .ffms _ o => some o
  | .fnma _ o => some o
  | .fmin o => some o
  | .fmax o => some o
  | .fcmp _ o => some o
  | .fclass o => some o
  | .frnd _ o => some o
  | .fscale _ o => some o
  | .fexpo o => some o
  | .dadd _ o => some o
  | .dmul _ o => some o
  | .dfma _ o => some o
  | .dcmp _ o => some o
  | .hadd2 _ o => some o
  | .hmul2 _ o => some o
  | .hfma2 _ o => some o
  | .hmin2 _ o => some o
  | .hmax2 _ o => some o
  | .cvt _ o => some o
  | .cvti _ o => some o
  | .pack2 o => some o
  | .unpk2 o => some o
  | .scle _ o => some o
  | .fmtset o => some o
  | .fmtget o => some o
  | .lmul _ o => some o
  | .ladd _ o => some o
  | .lcvt _ o => some o
  | .frcp o => some o
  | .frsq o => some o
  | .fsqrt o => some o
  | .fex2 o => some o
  | .flg2 o => some o
  | .fsin o => some o
  | .fcos o => some o
  | .ftwid o => some o
  | .ftanh o => some o
  | .fsigm o => some o
  | .xch _ o => some o
  | .bcst _ o => some o
  | .vote _ o => some o
  | .gred _ o => some o
  | .gscn _ o => some o
  | .elect o => some o
  | .movpPack o => some o
  | .movpUnpk o => some o
  | .srd _ o => some o
  | .swr _ o => some o
  | .bra _ o => some o
  | .brai o => some o
  | .call _ o => some o
  | .ret o => some o
  | .ifp o => some o
  | .elsp o => some o
  | .endp o => some o
  | .loopb o => some o
  | .loope o => some o
  | .brkp o => some o
  | .contp o => some o
  | .exit o => some o
  | .nop o => some o
  | .regn o => some o
  | .yield o => some o
  | .ld _ o => some o
  | .st _ o => some o
  | .ldv _ o => some o
  | .stv _ o => some o
  | .lds _ o => some o
  | .sts _ o => some o
  | .atom _ o => some o
  | .red _ o => some o
  | .pref _ o => some o
  | .wbr _ o => some o
  | .invl1 _ o => some o
  | .icinv _ o => some o
  | .fence _ o => some o
  | .commit _ o => some o
  | .cpy o => some o
  | .cpys o => some o
  | .sleept _ o => some o
  | .waitc _ o => some o
  | .mma _ o => some o
  | .mdist _ o => some o
  | .mtopkReg _ o => some o
  | .mtopkMem _ o => some o
  | .mzero _ o => some o
  | .mldt _ o => some o
  | .mstt o => some o
  | .mdrn _ o => some o
  | .magr o => some o
  | .magrGet o => some o
  | .mprog o => some o
  | .mbatch o => some o
  | .mwait o => some o
  | .mpair _ o => some o
  | .mfree _ o => some o
  | .binit _ o => some o
  | .arv _ o => some o
  | .wtb _ o => some o
  | .arw _ o => some o
  | .watch _ o => some o
  | .rsend o => some o
  | .rpost o => some o
  | .rflush o => some o
  | .rstat _ o => some o
  | .coll _ o => some o
  | .launch _ o => some o
  | .mbxrd _ o => some o
  | .mbxfwd _ o => some o
  | .pennant o => some o
  | .trap o => some o
  | .rett _ o => some o
  | .halt o => some o
  | .linv _ o => some o
  | .lsync o => some o
  | .ltwr _ o => some o
  | .gateClose _ o => some o
  | .gateOpen _ o => some o
  | .reloc o => some o
  | .hoistJoin o => some o
  | .hoistLeave o => some o
  | .hoistEvict o => some o
  | .hoistRekey o => some o
  | .eqpop _ o => some o
  | .pstopSave o => some o
  | .pstopHalt o => some o
  | .pstopPause o => some o
  | .pstopReset o => some o
  | .pstart o => some o
  | .sfuResult _ => none
  | .mmaChunk _ => none
  | .engineOpComplete _ _ => none
  | .barrierWake _ => none
  | .watchReport _ => none
  | .sendListDepart _ => none
  | .tokenArrive _ => none
  | .tokenReturn _ => none
  | .endMarkerArrive _ => none
  | .tokenDispositionAck _ => none
  | .collContribution _ => none
  | .launchComplete _ => none
  | .relocDone _ _ => none
  | .hoistBarrier _ _ _ _ => none
  | .hoistDeadline _ => none
  | .runSelect _ => none
  | .icacheFill _ => none
  | .loadReturn _ => none
  | .atomReturn _ => none
  | .contextLevelLookup _ => none
  | .portLevelLookup _ => none
  | .chipLevelLookup _ => none
  | .stackLevelLookup _ => none
  | .gatedReread _ => none
  | .gateTimeout _ => none
  | .grantRequest _ => none
  | .writeApply _ => none
  | .homeSliceAtomic _ => none
  | .l2WriteBack _ _ => none
  | .replicaSequence _ => none
  | .bucketRelease _ => none
  | .wcqDrain _ => none
  | .storeBufferDrain _ => none
  | .sideLogEnter _ => none
  | .faultResponse _ => none
  | .faultQueueRidx _ => none
  | .copyComplete _ _ _ => none
  | .sleepWake _ => none
  | .hangDetect _ => none
  | .peerDeadline _ => none
  | .flowFlitIngress _ _ _ _ _ _ => none
  | .sealGroupVerify _ _ _ => none
  | .sealGroupFail _ _ _ => none
  | .releasePacketApply _ _ => none
  | .sealGroupClose _ _ => none
  | .linkReplay _ => none
  | .creditReturn _ _ => none
  | .creditAudit _ _ _ => none
  | .reachabilityNotice _ _ => none
  | .portDegrade _ _ _ => none
  | .portQuiesce _ => none
  | .spdmSession _ _ => none
  | .domainSwitchGo _ => none
  | .domainWalkBegin _ => none
  | .domainSwitchEnd _ => none
  | .domainChangedReplay _ => none
  | .pinExpiry _ _ => none
  | .patrolScrub _ _ _ => none
  | .frontEndDeliver _ => none
  | .doorbellWrite _ _ => none
  | .queueAgeing _ => none
  | .groupAgeing _ => none
  | .drainTimeout _ => none
  | .thermalMigration _ => none
  | .resourceClaim _ _ => none
  | .saveAreaFreed _ => none
  | .restoreRetry _ => none
  | .scanPair _ => none
  | .scanComplete _ _ _ => none
  | .partitionChange _ _ => none
  | .powerShed _ => none
  | .powerGood _ _ _ => none
  | .srqClear => none
  | .ovfClear _ => none
  | .bucketRateWrite _ _ _ => none
  | .portLimitWrite _ _ => none
  | .queueSizeWrite _ _ => none
  | .registerWrite _ _ _ => none
  | .moduleNumberAssignment _ => none
  | .portTrainingDone _ => none
  | .writeAcknowledgement _ => none
  | .queueEnableWrite _ _ => none

/-- The opcodes that Table 2-7 defines, as ranges (R47). -/
def opRanges : List (Nat × Nat) :=
  [(0x010, 0x019), (0x020, 0x02F), (0x030, 0x036), (0x040, 0x045), (0x050, 0x05C), (0x060, 0x063), (0x070, 0x074),
   (0x080, 0x086), (0x090, 0x092), (0x0A0, 0x0A9), (0x0B0, 0x0B8), (0x0C0, 0x0CE), (0x0D0, 0x0DD), (0x0E0, 0x0E3),
   (0x100, 0x10C), (0x110, 0x114), (0x120, 0x124), (0x130, 0x133), (0x140, 0x142), (0xF00, 0xF08)]
/-- Check 1: an opcode of Table 2-7. -/
def opDefined (op : Nat) : Bool := opRanges.any fun r => r.1 ≤ op && op ≤ r.2
/-- A supervisor opcode (R372). -/
def isSup (op : Nat) : Bool := 0xF00 ≤ op
/-- The families that do not run on a system core (Table 2-7, R48). -/
def sysAbsent (op : Nat) : Bool :=
  (0x0E0 ≤ op && op ≤ 0x0E3) || (0x100 ≤ op && op ≤ 0x113) || (0x120 ≤ op && op ≤ 0x133)
/-- Opcodes that take no guard (R248). -/
def noGuard (op : Nat) : Bool := 0x0C4 ≤ op && op ≤ 0x0CA

/-! ## What each operand position takes -/

/-- The kinds of operand a position can take, by description (Table 2-3). -/
inductive Kd | t | w | pr | tile | ag | sr | im | cb
  deriving DecidableEq, Repr

/-- How a 16-bit immediate is extended (R39, R228). -/
inductive Ext | zero | sign | f32 | f64 | h2
  deriving DecidableEq, Repr

/-- An operand position: the kinds it takes (none: unused), its width in bits, the extension of an immediate,
whether a thread instruction may name a uniform destination in it (R33), the uniform registers it takes (a multiple of `wmul`, at most `wmax`),
and whether it names an even uniform register for a pair (R158, R231). -/
structure Pos where
  ks    : List Kd
  width : Nat := 32
  ext   : Ext := .zero
  uni   : Bool := false
  wmul  : Nat := 1
  wmax  : Nat := 63
  wpair : Bool := false
  deriving DecidableEq, Repr

/-- Which values of U an instruction allows (R33, R221). -/
inductive UReq | any | thread | uniform
  deriving DecidableEq, Repr

/-- The description of an instruction's word: its operand positions and what it requires of U, of a long immediate (R40),
of D's empty-action bit (R43), and of `%fflags` in D (R44). -/
structure Spec where
  u      : UReq := .any
  d      : Pos := ⟨[], 32, .zero, false, 1, 63, false⟩
  a      : Pos := ⟨[], 32, .zero, false, 1, 63, false⟩
  b      : Pos := ⟨[], 32, .zero, false, 1, 63, false⟩
  readsD : Bool := false
  long   : Bool := false
  fflags : Bool := false
  deriving DecidableEq, Repr

/-- An unused position (R42). -/
def pU : Pos := ⟨[], 32, .zero, false, 1, 63, false⟩
/-- A register destination or source. -/
def pR (w : Nat := 32) (uni : Bool := false) : Pos := ⟨[.t, .w], w, .zero, uni, 1, 63, false⟩
/-- A data source of kinds 0, 1, 4, 5 and 6 (R221). -/
def pS (w : Nat := 32) (e : Ext := .zero) : Pos := ⟨[.t, .w, .sr, .im, .cb], w, e, false, 1, 63, false⟩
/-- A source of kinds 0, 1, 5 and 6. -/
def pA (w : Nat := 32) (e : Ext := .zero) : Pos := ⟨[.t, .w, .im, .cb], w, e, false, 1, 63, false⟩
/-- A pointer of kinds 0, 1 and 6. -/
def pP : Pos := ⟨[.t, .w, .cb], 64, .zero, false, 1, 63, false⟩
/-- A source of kinds 1, 5 and 6. -/
def pL (w : Nat := 32) (e : Ext := .zero) : Pos := ⟨[.w, .im, .cb], w, e, false, 1, 63, false⟩
/-- A 64-bit source of kinds 1 and 6. -/
def pG (w : Nat := 64) : Pos := ⟨[.w, .cb], w, .zero, false, 1, 63, false⟩
/-- A uniform register, a multiple of `mul` and at most `mx`. -/
def pW (mul : Nat := 1) (mx : Nat := 63) (w : Nat := 64) : Pos := ⟨[.w], w, .zero, true, mul, mx, false⟩
/-- A predicate. -/
def pPr (uni : Bool := false) : Pos := ⟨[.pr], 32, .zero, uni, 1, 63, false⟩
/-- A tile register. -/
def pTile : Pos := ⟨[.tile], 32, .zero, false, 1, 63, false⟩
/-- An agreement register. -/
def pAg : Pos := ⟨[.ag], 64, .zero, false, 1, 63, false⟩
/-- A thread register. -/
def pT (w : Nat := 32) : Pos := ⟨[.t], w, .zero, false, 1, 63, false⟩
/-- A displacement, kind 5, sign-extended. -/
def pDisp : Pos := ⟨[.im], 32, .sign, false, 1, 63, false⟩

/-- 64 with `.b64`, else 32. -/
def wd (b64 : Bool) : Nat := if b64 then 64 else 32
/-- The extension of an immediate by `.uns`. -/
def sg (uns : Bool) : Ext := if uns then .zero else .sign

/-- The register width of an access type: formats take 32 bits, FP64 takes 64 (R172). -/
def tyWidth : Ty → Nat
  | .fmt .f64 => 64 | .fmt _ => 32 | .b64 => 64 | .b128 => 128 | _ => 32
/-- The register width of a local access (Table 7-4). -/
def lwWidth : LWidth → Nat
  | .b64 => 64 | .b128 => 128 | _ => 32
/-- The width of an atomic type (R186). -/
def atyWidth : ATy → Nat
  | .u64 | .s64 | .f64 => 64 | _ => 32
/-- The width of an INT type (R231). -/
def intWidth : IntTy → Nat
  | .s64 | .uint64 => 64 | _ => 32
/-- Whether an INT type is signed. -/
def intSigned : IntTy → Bool
  | .s32 | .s64 => true | _ => false
/-- The register width of a format (R204). -/
def fmtWidth (f : Fmt) : Nat := if f = .f64 then 64 else 32
/-- A block format, 19 to 23 (R204). -/
def isBlock (f : Fmt) : Bool := 19 ≤ fmtCode f
/-- The extension of a float immediate for a reader of format `f` (R19, R228). -/
def fmtExt : Fmt → Ext
  | .f64 => .f64 | .f32 => .f32 | _ => .zero
/-- The extension of an atomic operand: sign for the signed types (Table 8-1). -/
def atyExt : ATy → Ext
  | .s32 | .s64 => .sign | _ => .zero

/-- The word description of an instruction, from the encoding tables of the spec. It reads the modifiers, and the operands only
where the tables do. (DEDUCED, log 24; DESIGN CHOICE, log 129) -/
def spec : Instr → Spec
  -- Table 10-3
  | .iadd m _ | .isub m _ | .imul m _ => { d := pR (wd m), a := pS (wd m) .sign, b := pS (wd m) .sign, fflags := !m }
  | .iaddc m _ | .isel m _ => { d := pR (wd m.b64), a := pS (wd m.b64) .sign, b := pS (wd m.b64) .sign, fflags := !m.b64 }
  | .imulh m _ | .imin m _ | .imax m _ =>
    { d := pR (wd m.b64), a := pS (wd m.b64) (sg m.uns), b := pS (wd m.b64) (sg m.uns), fflags := !m.b64 }
  | .imad m _ => { d := pR (wd m), a := pS (wd m) .sign, b := pS (wd m) .sign, readsD := true, fflags := !m }
  | .iabs m _ | .ineg m _ => { d := pR (wd m), a := pS (wd m) .sign, fflags := !m }
  | .and m _ | .or m _ | .xor m _ | .andn m _ => { d := pR (wd m), a := pS (wd m), b := pS (wd m), fflags := !m }
  | .not m _ | .brev m _ => { d := pR (wd m), a := pS (wd m), fflags := !m }
  | .shl m _ | .shr m _ | .sar m _ | .rotl m _ => { d := pR (wd m), a := pS (wd m), b := pS, fflags := !m }
  | .funs _ _ | .bfi _ | .permb _ => { d := pR, a := pS, b := pS, readsD := true, fflags := true }
  | .bfx _ _ => { d := pR, a := pS, b := pS, fflags := true }
  | .popc m _ | .clz m _ | .ctz m _ => { d := pR, a := pS (wd m), fflags := !m }
  | .icmp m _ => { d := pR (wd m.b64), a := pS (wd m.b64) (sg m.uns), b := pS (wd m.b64) (sg m.uns), fflags := !m.b64 }
  | .setp m _ =>
    match m.cls with
    | .int => { d := pPr, a := pS (wd m.b64) (sg m.uns), b := pS (wd m.b64) (sg m.uns) }
    | .f32 => { d := pPr, a := pS 32 .f32, b := pS 32 .f32 }
    | .f64 => { d := pPr, a := pS 64 .f64, b := pS 64 .f64 }
  | .mov m o =>
    let w := match o.d.x with | .w _ => 64 | _ => wd m     -- R227: the width is 64 when D is a uniform register
    { d := pR w, a := pS w .sign, fflags := !m }
  | .movi m _ => { d := pR (wd m), a := ⟨[.im], wd m, .sign, false, 1, 63, false⟩, long := true, fflags := !m }
  | .lea m _ => { d := pR (wd m.b64), a := pS (wd m.b64) .sign, b := pS (wd m.b64) .sign, fflags := !m.b64 }
  -- Table 3-11
  | .pmk _ _ => { d := pR 64, a := pP, b := pA }
  | .padd m _ => { d := pR 64, a := pP, b := pA 32 (sg m) }
  | .pdif _ => { d := pR, a := pP, b := pP }
  | .pget _ _ => { d := pR, a := pP }
  | .pset _ _ => { d := pR 64, a := pA, readsD := true, long := true }
  | .pform _ _ => { d := pPr, a := pP }
  -- Table 10-6
  | .fadd _ _ | .fsub _ _ | .fmul _ _ | .fmin _ | .fmax _ => { d := pR, a := pS 32 .f32, b := pS 32 .f32 }
  | .ffma _ _ | .ffms _ _ | .fnma _ _ => { d := pR, a := pS 32 .f32, b := pS 32 .f32, readsD := true }
  | .fcmp _ _ => { d := pPr, a := pS 32 .f32, b := pS 32 .f32 }
  | .fclass _ | .frnd _ _ | .fexpo _ => { d := pR, a := pS 32 .f32 }
  | .fscale _ _ => { d := pR, a := pS 32 .f32, b := pS 32 .sign }
  | .dadd _ _ | .dmul _ _ => { d := pR 64, a := pS 64 .f64, b := pS 64 .f64 }
  | .dfma _ _ => { d := pR 64, a := pS 64 .f64, b := pS 64 .f64, readsD := true }
  | .dcmp _ _ => { d := pPr, a := pS 64 .f64, b := pS 64 .f64 }
  | .hadd2 _ _ | .hmul2 _ _ | .hmin2 _ _ | .hmax2 _ _ => { d := pR, a := pS 32 .h2, b := pS 32 .h2 }
  | .hfma2 _ _ => { d := pR, a := pS 32 .h2, b := pS 32 .h2, readsD := true }
  -- Table 10-7
  | .cvt m _ => { d := pR (fmtWidth m.dst), a := pS, b := if m.rm = .rs then pW else pA }
  | .cvti m _ =>
    let wi := intWidth m.int
    let wf := fmtWidth m.fmt
    { d := pR (if m.f2i then wi else wf),
      a := if m.f2i then pS wf (fmtExt m.fmt) else pS wi (sg (!intSigned m.int)),
      b := if m.rm = .rs then pW else pU }
  | .pack2 _ => { d := pR, a := pS, b := pS }
  | .unpk2 _ => { d := { pR 64 with wpair := true }, a := pS }
  | .scle _ _ => { d := pR, a := pS 32 .f32 }
  | .fmtset _ => { d := pR, a := pA, readsD := true, long := true }
  | .fmtget _ => { d := pR, a := pR }
  -- R237
  | .lmul _ _ | .ladd _ _ => { d := pR, a := pS, b := pS }
  | .lcvt _ _ => { d := pR, a := pS, b := pS 32 .sign, readsD := true }
  -- R240
  | .frcp _ | .frsq _ | .fsqrt _ | .fex2 _ | .flg2 _ | .fsin _ | .fcos _ | .ftanh _ | .fsigm _ => { d := pR, a := pA 32 .f32 }
  | .ftwid _ => { d := pR 64, a := pS, b := pS }
  -- Table 10-11
  | .xch m _ => { u := .thread, d := pT (wd m.b64), a := pT (wd m.b64), b := pA }
  | .bcst m _ => { u := .thread, d := pR (wd m) true, a := pT (wd m), b := pL }
  | .vote m _ => { u := .thread, d := match m with | .ballot => pR 32 true | _ => pPr true, a := pPr }
  | .gred _ _ => { u := .thread, d := pR 32 true, a := pT }
  | .gscn _ _ => { u := .thread, d := pT, a := pT }
  | .elect _ => { u := .thread, d := pPr }
  | .movpPack _ => { d := pR }
  | .movpUnpk _ => { a := pR }
  | .srd _ _ => { u := .thread, d := pT, a := pL }
  | .swr _ _ => { u := .thread, a := pL, b := pT }
  -- Table 10-13
  | .bra _ _ => { a := pDisp, long := true }
  | .brai _ => { a := pL, b := pA }
  | .call _ _ => { d := pW, a := pDisp, long := true }
  | .ret _ => { a := pG 32 }
  | .ifp _ => { u := .thread, a := pPr, b := pDisp }
  | .elsp _ | .loopb _ => { u := .thread, b := pDisp }
  | .endp _ => { u := .thread }
  | .loope _ | .brkp _ | .contp _ => { u := .thread, a := pPr }
  | .exit _ | .nop _ | .regn _ | .yield _ => {}
  -- Table 8-1
  | .ld m _ => { d := pR (tyWidth m.ty), a := pP }
  | .st m _ => { a := pP, b := if tyWidth m.ty = 32 then pA else ⟨[.t, .w, .cb], tyWidth m.ty, .zero, false, 1, 63, false⟩ }
  | .ldv m _ => { u := .thread, d := pT (tyWidth m.ty), a := pG, b := pR }
  | .stv m _ => { u := .thread, d := pR 32 true, a := pG, b := pR (tyWidth m.ty), readsD := true }
  | .atom m _ =>
    { u := if m.v then .thread else .any, d := pR (atyWidth m.ty), a := if m.v then pG else pP,
      b := pA (atyWidth m.ty) (atyExt m.ty), readsD := m.v || m.op = .cas }
  | .red m _ => { a := pP, b := pA (atyWidth m.ty) (atyExt m.ty) }
  | .fence _ _ | .commit _ _ => {}
  -- Table 7-3
  | .lds m _ => { d := pR (lwWidth m.width), a := if m.space = none then pP else pA }
  | .sts m _ =>
    { a := if m.space = none then pP else pA,
      b := if lwWidth m.width = 32 then pA else ⟨[.t, .w, .cb], lwWidth m.width, .zero, false, 1, 63, false⟩ }
  -- Table 5-7, R52
  | .pref _ _ => { a := pP }
  | .wbr _ _ => { u := .uniform, a := pG, b := pL }
  | .invl1 m _ | .icinv m _ => if m.all then { u := .uniform } else { u := .uniform, a := pG, b := pL }
  -- Table 7-5
  | .cpy _ => { u := .uniform, d := pW, a := pW 1 62, b := pL }
  | .cpys _ => { u := .uniform, d := pW, a := pW 1 62, b := ⟨[.w, .cb], 64, .zero, false, 4, 60, false⟩ }
  | .sleept _ _ => { u := .uniform, a := pG }
  | .waitc _ _ => { u := .uniform, a := pL }
  -- Table 11-2
  | .mma m _ => { d := pTile, a := pW 1 (if isBlock m.fmt then 59 else 61), b := pL }
  | .mdist _ _ => { d := pTile, a := pW 1 61, b := pL }
  | .mtopkReg _ _ => { u := .thread, d := pT, a := pTile }
  | .mtopkMem _ _ => { a := pTile, b := pW 1 62 }
  | .mzero _ _ | .mpair _ _ => { d := pTile }
  | .mldt _ _ | .mstt _ => { d := pTile, a := pW 1 62 }
  | .mdrn m _ => { d := pTile, a := pW 1 62, b := if m.mode = .gate then pAg else pU }
  | .magr _ => { d := pAg, a := pG }
  | .magrGet _ => { d := pW, a := pAg }
  | .mprog _ => { a := pL, long := true }
  | .mbatch _ => { d := pW 1 63 32 }
  | .mwait _ => { a := pL }
  | .mfree m _ => if m then {} else { d := pTile }
  -- Table 15-2
  | .binit _ _ => { u := .uniform, a := pL, b := pL }
  | .arv _ _ | .arw _ _ => { u := .uniform, d := pW 1 63 32, a := pL, b := pL }
  | .wtb _ _ => { u := .uniform, a := pL, b := pL }
  | .watch m _ => { u := .uniform, d := pW 1 63 (wd m.b64), a := pG, b := pL (wd m.b64) }
  -- Table 15-9
  | .rsend _ => { u := .thread, d := pT 64, a := pR 64, b := pW 4 60, readsD := true }
  | .rpost _ => { u := .uniform, a := pW 4 60 }
  | .rflush _ => { u := .uniform, b := pW 4 60 }
  | .rstat _ _ => { u := .uniform, d := pW, a := pL }
  | .coll _ _ => { u := .uniform, a := pW 4 60, b := pL }
  -- Table 12-6
  | .launch _ _ | .mbxfwd _ _ => { u := .uniform, d := pW, a := pW 8 56, b := pL }
  | .mbxrd _ _ => { u := .uniform, d := pW 8 56 }
  -- Table 16-4
  | .trap _ => { a := pL }
  | .rett _ _ => { u := .uniform }
  | .halt _ => {}
  | .pennant _ => {}
  -- Table 16-12
  | .linv _ _ => { u := .uniform, a := pW }
  | .lsync _ => { u := .uniform }
  | .ltwr _ _ => { u := .uniform, d := pW, a := pW, b := pW 2 62 }
  | .gateClose _ _ | .gateOpen _ _ => { u := .uniform, d := pW, a := pW }
  | .reloc _ => { u := .uniform, d := pW, a := pW, b := pW }
  | .hoistJoin _ | .hoistLeave _ | .hoistEvict _ | .hoistRekey _ => { u := .uniform, d := pW, a := pW }
  | .eqpop _ _ => { u := .uniform, d := pW 8 56, a := pW }
  | .pstopSave _ | .pstopHalt _ | .pstopPause _ | .pstopReset _ | .pstart _ => { u := .uniform, d := pW, a := pW }
  | _ => {}

/-! ## The decode checks (Table 2-6) -/

/-- The traps that a decode check can take (Table 2-6). -/
inductive DTrap | illegal | privileged | unitAbsent
  deriving DecidableEq, Repr

/-- A failing check: its trap, its detail code, and the field that failed (0 none, 1 D, 2 A, 3 B; Table 16-2). -/
structure DErr where
  trap   : DTrap
  detail : Nat
  field  : Nat
  deriving DecidableEq, Repr

/-- What the checks know of the core and the running code: a system core or not (R48), the group's allotment of thread registers (R4),
and the size of the constant bank (R38). -/
structure Env where
  sys   : Bool
  allot : Nat
  cbsz  : Nat
  deriving DecidableEq, Repr

/-- Scopes 1 to 5 (Table 8-3). -/
def sc15 (s : Scope) : Bool := s ≠ .grp
/-- Scopes 1 to 4 (Table 2-9). -/
def sc14 (s : Scope) : Bool := s ≠ .grp && s ≠ .dom
/-- RM codes 0 to 3 (R228). -/
def rm03 (r : RM) : Bool := r ≠ .rs

/-- The pairs of OP and TYPE that ATOM and RED define (R173). -/
def atomPair (op : AOp) (ty : ATy) : Bool :=
  match op, ty with
  | .and, .f32 | .and, .f64 | .and, .bf16x2 | .and, .f16x2 => false
  | .or, .f32 | .or, .f64 | .or, .bf16x2 | .or, .f16x2 => false
  | .xor, .f32 | .xor, .f64 | .xor, .bf16x2 | .xor, .f16x2 => false
  | .exch, .bf16x2 | .exch, .f16x2 | .cas, .bf16x2 | .cas, .f16x2 => false
  | _, _ => true

/-- The SP and SC values that ARV, WTB and ARW define (R331). -/
def barOk (m : Mods.Bar) : Bool :=
  match m.scope with
  | .core => m.sp = .core
  | .clu | .die | .mod => true
  | _ => false

/-- LDS and STS (R158): the width a format modifier takes. -/
def localOk (m : Mods.Local) : Bool :=
  match m.fmt with
  | none => true
  | some f => m.width = (if f = .f64 then .b64 else .b32)

/-- Check 5, beyond the reading of the fields: the values and combinations that the descriptions leave reserved (R36, R37).
`sys` is a system core, on which LDS and STS accept the chip space and `.win` only (R48). -/
def modsOk (sys : Bool) (i : Instr) : Bool :=
  let u := match argsOf i with | some o => o.hdr.u | none => false
  match i with
  | .iaddc m _ | .isel m _ => !u || m.pr.val < 8
  | .icmp m _ => m.cmp ≠ .num && m.cmp ≠ .nan
  | .setp m _ => match m.cls with | .int => m.cmp ≠ .num && m.cmp ≠ .nan | _ => !m.uns && !m.b64
  | .pset m _ => m ≠ .form
  | .fadd m _ | .fsub m _ | .fmul m _ | .ffma m _ | .ffms m _ | .fnma m _ | .fscale m _ | .dadd m _ | .dmul m _ | .dfma m _ => rm03 m.rm
  | .fcmp m _ | .dcmp m _ => !(m.unord && (m.cmp = .ne || m.cmp = .num || m.cmp = .nan))
  | .frnd m _ => rm03 m
  | .hadd2 m _ | .hmul2 m _ | .hfma2 m _ => rm03 m.rm
  | .cvt m _ => !(m.rm = .rs && isBlock m.dst)
  | .cvti m _ => fmtCode m.fmt ≤ 9 || (16 ≤ fmtCode m.fmt && fmtCode m.fmt ≤ 18)
  | .scle m _ => isBlock m
  | .gred m _ => m.ty ≠ .f32 || m.op = .add || m.op = .min || m.op = .max
  | .gscn m _ => m.ty ≠ .f32 || m.op = .add || m.op = .min || m.op = .max
  | .bra m _ | .call m _ => !u || m = .uni
  | .ld m _ => match m.ca with | .acq sc => sc15 sc | _ => true
  | .ldv m _ => match m.ca with | .acq _ => false | _ => true
  | .st m _ | .stv m _ => m.ty ≠ .s8 && m.ty ≠ .s16 && (match m.rel with | some sc => sc15 sc | none => true)
  | .lds m _ => localOk m && (!sys || m.space = none || m.space = some .chip)
  | .sts m _ => localOk m && m.width ≠ .s8 && m.width ≠ .s16 && (!sys || m.space = none || m.space = some .chip)
  | .atom m _ => sc15 m.scope && atomPair m.op m.ty && !(m.op = .cas && m.v)
  | .red m _ => sc15 m.scope && atomPair m.op m.ty && m.op ≠ .exch && m.op ≠ .cas
  | .fence m _ => m.ord ≠ .relaxed
  | .invl1 m _ | .icinv m _ => sc14 m.scope
  | .mma m _ => !(m.welt && m.fmt = .f64)
  | .mdist m _ => !m.welt && !isBlock m.fmt
  | .mdrn m _ => !isBlock m.dst && rm03 m.rm
  | .arv m _ | .wtb m _ | .arw m _ => barOk m
  | .watch m _ => sc15 m.scope
  | .coll m _ => m.op = .add || !(m.kind = .allgather || m.kind = .alltoall)
  | .linv m _ => sc14 m.scope
  | _ => true

/-- The kind of an operand in a description; none for a long part and for an undefined field. -/
def kindOf : Opd → Option Kd
  | .t _ => some .t | .w _ => some .w | .p _ | .pt | .q _ => some .pr | .tile _ => some .tile | .ag _ => some .ag
  | .sr _ => some .sr | .imm _ => some .im | .cb _ => some .cb | .none | .long _ | .raw _ _ => none

/-- Check 6 for one field (R38, R42): the kind is one the position takes and the value is defined.
A long part passes; a special register in a used D passes (check 12 decides, R44); `pt` never stands in D. (DEDUCED, log 8) -/
def okKind (isD : Bool) (p : Pos) (x : Operand) : Bool :=
  match x.x with
  | .long _ => true
  | .none => p.ks = [] && !x.ea
  | .raw _ _ => false
  | .w n => p.ks.contains .w && n.val % p.wmul = 0 && n.val ≤ p.wmax
  | .sr _ => p.ks.contains .sr || (isD && p.ks ≠ [])
  | .pt => p.ks.contains .pr && !isD
  | y => match kindOf y with | some k => p.ks.contains k | none => false

/-- Check 7 for one field (R33). -/
def okU (isD u : Bool) (p : Pos) (x : Opd) : Bool :=
  match x with
  | .t _ | .p _ => !u
  | .w _ | .q _ => u || !isD || p.uni
  | .sr .wid | .sr .f0 => !u
  | _ => true

/-- Check 7 for B: the zero field with which an omitted B of CVT is encoded passes in every form (R231). (DEDUCED, log 15) -/
def okUB (u : Bool) (i : Instr) (p : Pos) (x : Operand) : Bool :=
  match i with
  | .cvt m _ => (m.rm ≠ .rs && x = { x := .t 0 }) || okU false u p x.x
  | _ => okU false u p x.x

/-- Check 8 for one field (R4, R39, R158): 0, or the detail code. (DEDUCED, log 9) -/
def regDetail (allot : Nat) (p : Pos) (x : Opd) : Nat :=
  let n := max 1 (p.width / 32)
  match x with
  | .t r => if allot ≤ r.val then 4 else if r.val % n ≠ 0 then 5 else if allot < r.val + n then 4 else 0
  | .w r => if (p.width = 128 || p.wpair) && r.val % 2 ≠ 0 then 5 else 0
  | _ => 0

/-- Check 10 for one field (R41). -/
def okEmpty (allowed : Bool) (x : Operand) : Bool :=
  !x.ea || (allowed && match x.x with | .t _ | .w _ => true | _ => false)

/-- Check 11 for one field (R20): aligned to its width and inside the bank. -/
def okBank (cbsz size align : Nat) (x : Opd) : Bool :=
  match x with
  | .cb off => off.toNat % align = 0 && off.toNat + size ≤ cbsz
  | _ => true

/-- The first field of D, A, B that fails a test, as 1, 2 or 3. -/
def firstBad (d a b : Bool) : Option Nat := if !d then some 1 else if !a then some 2 else if !b then some 3 else none

/-- The registers that the register form of MTOPK writes (R257): D to D + ⌈k/4⌉ + VAL·k − 1. -/
def topkRegs (m : Mods.TopkReg) : Nat := (m.k1.toNat + 1 + 3) / 4 + (if m.val then m.k1.toNat + 1 else 0)

/-- An immediate long part. -/
def isLong : Opd → Bool | .long _ => true | _ => false

/-- The B field beside a long part in A of an instruction that takes a long immediate and no B of its own: it is the other part. Check 6 accepts
any value of kinds 5 and 7 there, and check 9 judges the pairing (R40, R46). (DEDUCED, log 8) -/
def besideLong (sp : Spec) (o : Args) : Bool :=
  sp.long && sp.b.ks = [] && isLong o.a.x && (match o.b.x with | .imm _ | .long _ => true | _ => false)

/-- Checks 6 to 12 on an instruction read so far (Table 2-6), in order; the first that fails decides. A U bit that the instruction does not take
fails check 7 even where every field agrees with it: the record then names no field. (DEDUCED, log 8; DEDUCED, log 9; DESIGN CHOICE, log 109; DESIGN CHOICE, log 124) -/
def operandChecks (env : Env) (i : Instr) (o : Args) : Option DErr :=
  let sp := spec i
  let ill (n f : Nat) : Option DErr := some ⟨.illegal, n, f⟩
  let u := o.hdr.u
  let bl := besideLong sp o
  match firstBad (okKind true sp.d o.d) (okKind false sp.a o.a) (bl || okKind false sp.b o.b) with
  | some f => ill 3 f
  | none =>
  match firstBad (okU true u sp.d o.d.x) (okU false u sp.a o.a.x) (okUB u i sp.b o.b) with
  | some f => ill 11 f
  | none =>
  if (sp.u = .thread && u) || (sp.u = .uniform && !u) then ill 11 0 else
  let rd := match i with
    | .mtopkReg m _ => (match o.d.x with | .t r => if env.allot < r.val + topkRegs m then 4 else 0 | _ => 0)
    | _ => regDetail env.allot sp.d o.d.x
  let ra := regDetail env.allot sp.a o.a.x
  let rb := regDetail env.allot sp.b o.b.x
  if rd ≠ 0 then ill rd 1 else if ra ≠ 0 then ill ra 2 else if rb ≠ 0 then ill rb 3 else
  if isLong o.d.x then ill 6 1 else
  if isLong o.a.x && !(sp.long && isLong o.b.x) then ill 6 2 else
  if isLong o.b.x && !(sp.long && isLong o.a.x) then ill 6 3 else
  match firstBad (okEmpty sp.readsD o.d) (okEmpty true o.a) (okEmpty true o.b) with
  | some f => ill 7 f
  | none =>
  let bytes (p : Pos) : Nat := p.width / 8
  let bsz := match i with | .cpys _ => (32, 8) | _ => (bytes sp.b, bytes sp.b)
  match firstBad (okBank env.cbsz (bytes sp.d) (bytes sp.d) o.d.x) (okBank env.cbsz (bytes sp.a) (bytes sp.a) o.a.x)
      (okBank env.cbsz bsz.1 bsz.2 o.b.x) with
  | some f => ill 9 f
  | none =>
  match o.d.x with
  | .sr r => if sp.fflags && r = .fflags then none else ill 10 1
  | _ => none

/-! ## Reading the fields of a word (Table 2-1, Table 2-3) -/

/-- Bits [lo+w−1:lo] of an instruction word. -/
def field (w : W96) (lo n : Nat) : Nat := (w.toNat >>> lo) % 2 ^ n

/-- What a 20-bit operand field names (Table 2-3). -/
def readOpd (v : Nat) : Operand :=
  let n := v % 65536
  let k := (v >>> 16) % 8
  let r : Opd := .raw ⟨k, Nat.mod_lt _ (by decide)⟩ (BitVec.ofNat 16 n)
  { x := match k with
      | 0 => if h : n < 128 then .t ⟨n, h⟩ else r
      | 1 => if h : n < 64 then .w ⟨n, h⟩ else r
      | 2 => if h : n < 15 then .p ⟨n, h⟩ else if n = 15 then .pt
             else if h : n - 16 < 8 then .q ⟨n - 16, h⟩ else r
      | 3 => if h : n < 8 then .tile ⟨n, h⟩ else if h : n - 8 < 8 then .ag ⟨n - 8, h⟩ else r
      | 4 => match sregOf n with | some s => .sr s | none => r
      | 5 => .imm (BitVec.ofNat 16 n)
      | 6 => .cb (BitVec.ofNat 16 n)
      | _ => .long (BitVec.ofNat 16 n),
    ea := (v >>> 19) % 2 = 1 }

/-- A field of a position the instruction does not use: all zeros reads as no operand (R42). -/
def unusedOpd (p : Pos) (x : Operand) : Operand :=
  if p.ks = [] && x = ⟨.t 0, false⟩ then ⟨.none, false⟩ else x

/-- Check 4 and the guard it reads (R31, R32). -/
def readGuard (op : Nat) (u neg : Bool) (g : Nat) : Option Guard :=
  if noGuard op && (neg || g ≠ 15) then none
  else if h : g < 15 then (if u && 8 ≤ g then none else some (.on neg ⟨g, h⟩))
  else if neg then none else some .always

/-- Decode an instruction word (R46): the instruction, or the first check that fails. -/
def decodeWord (env : Env) (w : W96) : Except DErr Instr :=
  let op := field w 84 12
  let u := field w 78 1 = 1
  if !opDefined op then .error ⟨.illegal, 1, 0⟩
  else if isSup op && !env.sys then .error ⟨.privileged, 0, 0⟩
  else if env.sys && sysAbsent op then .error ⟨.unitAbsent, 0, 0⟩
  else match readGuard op u (field w 83 1 = 1) (field w 79 4) with
  | none => .error ⟨.illegal, 8, 0⟩
  | some g =>
  match mk op (BitVec.ofNat 12 (field w 60 12)) with
  | none => .error ⟨.illegal, 2, 0⟩
  | some f =>
  let h : Hdr := { guard := g, u := u, b := field w 77 1 = 1, reuseA := field w 76 1 = 1, reuseB := field w 75 1 = 1,
                   spacing := BitVec.ofNat 3 (field w 72 3) }
  let o : Args := ⟨h, readOpd (field w 40 20), readOpd (field w 20 20), readOpd (field w 0 20)⟩
  let sp := spec (f o)
  let o' : Args := ⟨h, unusedOpd sp.d o.d, unusedOpd sp.a o.a, unusedOpd sp.b o.b⟩
  let i := f o'
  if !modsOk env.sys i then .error ⟨.illegal, 2, 0⟩
  else match operandChecks env i o' with
  | some e => .error e
  | none => .ok i

/-! ## The encoder -/

/-- The 20 bits of an operand field (Table 2-3). -/
def opdBits (x : Operand) : Nat :=
  (if x.ea then 0x80000 else 0) + match x.x with
  | .none => 0
  | .t n => n.val
  | .w n => 0x10000 + n.val
  | .p n => 0x20000 + n.val
  | .pt => 0x2000F
  | .q n => 0x20010 + n.val
  | .tile n => 0x30000 + n.val
  | .ag n => 0x30008 + n.val
  | .sr r => 0x40000 + r.ctorIdx
  | .imm v => 0x50000 + v.toNat
  | .cb v => 0x60000 + v.toNat
  | .long v => 0x70000 + v.toNat
  | .raw k v => k.val * 65536 + v.toNat

/-- The guard bits [83:79] (Table 2-1). -/
def guardBits : Guard → Nat
  | .always => 15
  | .on neg n => neg.toNat * 16 + n.val

/-- The word of an instruction (Table 2-1); none for the steps of the part. -/
def encode (i : Instr) : Option W96 :=
  match code i, argsOf i with
  | some (op, mw), some o =>
    some (BitVec.ofNat 96
      (op * 2 ^ 84 + guardBits o.hdr.guard * 2 ^ 79 + o.hdr.u.toNat * 2 ^ 78 + o.hdr.b.toNat * 2 ^ 77 +
       o.hdr.reuseA.toNat * 2 ^ 76 + o.hdr.reuseB.toNat * 2 ^ 75 + o.hdr.spacing.toNat * 2 ^ 72 + mw.toNat * 2 ^ 60 +
       opdBits o.d * 2 ^ 40 + opdBits o.a * 2 ^ 20 + opdBits o.b))
  | _, _ => none

/-- The word of an instruction, zero for a step of the part. (DESIGN CHOICE, log 109) -/
def encodeW (i : Instr) : W96 := (encode i).getD 0

end Sys2Proof.Decode

namespace Sys2Proof

/-- The core and code that the table's words are read on: a system core for the supervisor opcodes, else a compute core;
the largest allotment and constant bank. -/
def tableEnv (w : W96) : Decode.Env := ⟨Decode.isSup (Decode.field w 84 12), 128, 65536⟩

/-- The instruction that the decoder reads from the bits of an opcode-table row (the bits above `nbits` are zero). -/
def decodeTableWord (nbits w : Nat) : Option Instr :=
  let x : W96 := BitVec.ofNat 96 (w % 2 ^ nbits)
  match Decode.decodeWord (tableEnv x) x with
  | .ok i => some i
  | .error _ => none

end Sys2Proof
end

