-- ==== Sys2Proof/Machine/Flags.lean ====
section
/-! DEFINITION. Exact values, the 24 formats, rounding, saturation and the flags (R204 to R218), and the arithmetic that the float
instructions share (R186, R206, R229). Values are exact fractions; every rounding goes through one function per kind of format. -/

namespace Sys2Proof.Machine

open Sys2Proof Sys2Proof.Decode

/-! ## Flags (Table 9-8) -/

/-- INVALID. -/
def flInvalid : Nat := 1
/-- OVER. -/
def flOver : Nat := 2
/-- UNDER. -/
def flUnder : Nat := 4
/-- INEXACT. -/
def flInexact : Nat := 8
/-- RATIO. -/
def flRatio : Nat := 16
/-- The flags of two operations, ORed (R218). -/
def orFlags (a b : Nat) : Nat := a ||| b

/-! ## Exact values -/

/-- What an element's code stands for (R205 to R212): a reserved code, a NaN (signalling or not), an infinity, or the fraction ±n/d. -/
inductive XV
  | rsv
  | nan (sig : Bool)
  | inf (neg : Bool)
  | fin (neg : Bool) (n d : Nat)
  deriving DecidableEq, Repr

/-- The exact value ±m·2^e. -/
def dyadic (neg : Bool) (m : Nat) (e : Int) : XV := if 0 ≤ e then .fin neg (m * 2 ^ e.toNat) 1 else .fin neg m (2 ^ (-e).toNat)
/-- The exact value of an integer. -/
def ofInt (x : Int) : XV := .fin (x < 0) x.natAbs 1
/-- A NaN or a reserved code. -/
def XV.bad : XV → Bool | .rsv | .nan _ => true | _ => false
/-- A signalling NaN (R206). -/
def XV.sig : XV → Bool | .nan s => s | _ => false
/-- The same value with the other sign. -/
def XV.neg : XV → XV
  | .inf s => .inf !s | .fin s n d => .fin (!s) n d | x => x

/-- ⌊log₂ (n/d)⌋ of a positive fraction. -/
def ilog2 (n d : Nat) : Int :=
  let e : Int := (Nat.log2 n : Int) - (Nat.log2 d : Int)
  if 0 ≤ e then (if d * 2 ^ e.toNat ≤ n then e else e - 1) else (if d ≤ n * 2 ^ (-e).toNat then e else e - 1)

/-- n1/d1 ≤ n2/d2. -/
def leFrac (n1 d1 n2 d2 : Nat) : Bool := n1 * d2 ≤ n2 * d1
/-- The fraction m·2^e as numerator and denominator. -/
def frac2 (m : Nat) (e : Int) : Nat × Nat := if 0 ≤ e then (m * 2 ^ e.toNat, 1) else (m, 2 ^ (-e).toNat)

/-! ## Formats (Table 9-6) -/

/-- How a float format spends its top exponent. -/
inductive Specials | ieee | oneNan | none
  deriving DecidableEq, Repr

/-- The parameters of a float format. -/
structure FPar where
  e    : Nat
  m    : Nat
  bias : Nat
  sp   : Specials
  deriving DecidableEq, Repr

/-- The element format of a format: block formats hold elements of another (R209 to R211). -/
def elemOf : Fmt → Fmt
  | .mxe4m3 => .e4m3 | .mxe2m1 => .e2m1 | .mxint8 => .int8 | .b16e2m1 => .e2m1 | .bl6 => .l6 | f => f

/-- Float parameters (Table 9-6). -/
def fpar : Fmt → Option FPar
  | .f64 => some ⟨11, 52, 1023, .ieee⟩ | .f32 => some ⟨8, 23, 127, .ieee⟩ | .f19 => some ⟨8, 10, 127, .ieee⟩
  | .bf16 => some ⟨8, 7, 127, .ieee⟩ | .f16 => some ⟨5, 10, 15, .ieee⟩ | .e4m3 => some ⟨4, 3, 7, .oneNan⟩
  | .e5m2 => some ⟨5, 2, 15, .ieee⟩ | .e3m2 => some ⟨3, 2, 3, .none⟩ | .e2m3 => some ⟨2, 3, 1, .none⟩ | .e2m1 => some ⟨2, 1, 1, .none⟩
  | _ => none

/-- Integer formats: least and largest value (Table 9-6). -/
def ipar : Fmt → Option (Int × Int)
  | .int8 => some (-128, 127) | .uint8 => some (0, 255) | .int4 => some (-8, 7) | .uint4 => some (0, 15)
  | .int2 => some (-2, 1) | .tern => some (-1, 1) | _ => none

/-- Log formats: fraction steps per octave, and bits of the field (R207). -/
def lpar : Fmt → Option (Nat × Nat)
  | .l6 => some (4, 5) | .l8 => some (8, 7) | .l4 => some (2, 3) | _ => none

/-- The bits of an element, as it is packed (R204): F19 takes its 32-bit container. -/
def elemBits (f : Fmt) : Nat :=
  match elemOf f with
  | .f64 => 64 | .f32 | .f19 => 32 | .bf16 | .f16 => 16 | .e4m3 | .e5m2 | .int8 | .uint8 | .l8 => 8
  | .e3m2 | .e2m3 | .l6 => 6 | .e2m1 | .int4 | .uint4 | .l4 => 4 | _ => 2

/-- A format whose register holds its elements in bits [23:0] (R204). -/
def sixBit (f : Fmt) : Bool := elemBits f = 6

/-- Element `i` of a register (R204). -/
def getElem (f : Fmt) (v i : Nat) : Nat := (v >>> (elemBits f * i)) % 2 ^ elemBits f
/-- A register with element `i` replaced; writers clear the unused bits (R204). -/
def setElem (f : Fmt) (v i x : Nat) : Nat :=
  let w := elemBits f
  let r := v - getElem f v i * 2 ^ (w * i) + x % 2 ^ w * 2 ^ (w * i)
  if sixBit f then r % 2 ^ 24 else if elemOf f = .f19 then r / 2 ^ 13 * 2 ^ 13 else r

/-- The canonical NaN of a format, where it has one (Table 9-6). -/
def canonNan : Fmt → Option Nat
  | .f64 => some 0x7FF8000000000000 | .f32 | .f19 => some 0x7FC00000 | .bf16 => some 0x7FC0 | .f16 => some 0x7E00
  | .e4m3 | .mxe4m3 => some 0x7F | .e5m2 => some 0x7E | _ => none

/-- T_8 (R208): 2^(k/8) to 24 fraction bits, rounded to nearest. -/
def t8 : Nat → Nat
  | 0 => 0x1000000 | 1 => 0x1172B84 | 2 => 0x1306FE1 | 3 => 0x14BFDAD | 4 => 0x16A09E6 | 5 => 0x18ACE54 | 6 => 0x1AE89FA | _ => 0x1D5818E
/-- The table value of field `F` with `q` steps per octave: a 24-bit fraction and a power of two (R208). -/
def logVal (q : Nat) (F : Int) : Nat × Nat := frac2 (t8 ((F % q).toNat * (8 / q))) (F / q - 24)

/-- The two's-complement value of the low `n` bits. -/
def sext (n v : Nat) : Int := let x := v % 2 ^ n; if x < 2 ^ (n - 1) then x else (x : Int) - 2 ^ n

/-- The value of a float code (R205, R206). -/
def decFloat (p : FPar) (v : Nat) : XV :=
  let s := v / 2 ^ (p.e + p.m) % 2 = 1
  let x := v / 2 ^ p.m % 2 ^ p.e
  let m := v % 2 ^ p.m
  let top := 2 ^ p.e - 1
  if p.sp = .ieee && x = top then (if m = 0 then .inf s else .nan (m / 2 ^ (p.m - 1) = 0))
  else if p.sp = .oneNan && x = top && m = 2 ^ p.m - 1 then .nan false
  else if x = 0 then dyadic s m (1 - (p.bias : Int) - p.m)
  else dyadic s (2 ^ p.m + m) ((x : Int) - p.bias - p.m)

/-- The value of a log code under an offset in steps (R207, R211). -/
def decLog (q fb : Nat) (o : Int) (v : Nat) : XV :=
  let s := v / 2 ^ fb % 2 = 1
  let F := sext fb v
  if F = -(2 ^ (fb - 1)) then (if s then .rsv else .fin false 0 1)
  else let t := logVal q (F + o); .fin s t.1 t.2

/-- The value of an element's code, without any scale (R205 to R209). F19 is read from its container. -/
def decElem (f : Fmt) (v : Nat) : XV :=
  match fpar (elemOf f), ipar (elemOf f), lpar (elemOf f) with
  | some p, _, _ => decFloat p (if elemOf f = .f19 then v / 2 ^ 13 else v)
  | _, some (lo, _), _ =>
    let x : Int := if lo < 0 then sext (elemBits f) v else v % 2 ^ elemBits f
    if elemOf f = .tern && v % 4 = 2 then .rsv
    else if f = .mxint8 then dyadic (x < 0) x.natAbs (-6) else ofInt x
  | _, _, some (q, fb) => decLog q fb 0 v
  | _, _, _ => .rsv

/-- The value of a scale byte (R209, R210): E8M0 for 19 to 21, E4M3 for 22. -/
def decScale (f : Fmt) (b : Nat) : XV :=
  if f = .b16e2m1 then decElem .e4m3 b
  else if b % 256 = 255 then .nan false else dyadic false 1 ((b % 256 : Nat) - 127)

/-- The value of an element of a block format under its scale byte (R209 to R211), or of any other format. -/
def decScaled (f : Fmt) (v b : Nat) : XV :=
  if f = .bl6 then decLog 4 5 (sext 8 b) v
  else if !isBlock f then decElem f v
  else match decScale f b, decElem f v with
    | .fin s n d, x =>
      if s then .rsv else
      (match x with
       | .fin t m e => .fin t (m * n) (e * d)
       | y => y)
    | .rsv, _ => .rsv
    | _, _ => if f = .b16e2m1 then .rsv else .nan false

/-! ## Rounding (R213 to R217) -/

/-- A rounding: the mode and, for `.rs`, the 16-bit draw u (R215). -/
structure Rnd where
  rm : RM := .rne
  u  : Nat := 0
  deriving DecidableEq, Repr

/-- The draw of R215 for a seed, a thread and an element. -/
def draw (seed t e : Nat) : Nat :=
  let z := (seed + 0x9E3779B97F4A7C15 * (1 + 32 * e + t)) % 2 ^ 64
  let z := ((z ^^^ (z >>> 30)) * 0xBF58476D1CE4E5B9) % 2 ^ 64
  let z := ((z ^^^ (z >>> 27)) * 0x94D049BB133111EB) % 2 ^ 64
  (z ^^^ (z >>> 31)) % 65536

/-- Whether a magnitude strictly between two neighbours, at r/d of their distance, takes the upper one; `odd` is the lower one's parity (R213 to R215). -/
def roundUp (c : Rnd) (neg odd : Bool) (r d : Nat) : Bool :=
  r ≠ 0 && match c.rm with
    | .rne => d < 2 * r || (2 * r = d && odd)
    | .rz => false
    | .ru => !neg
    | .rd => neg
    | .rs => c.u < r * 65536 / d

/-- n/d in units of 2^qe, rounded to an integer; and whether it was changed. -/
def roundUnits (c : Rnd) (neg : Bool) (n d : Nat) (qe : Int) : Nat × Bool :=
  let n' := if 0 ≤ qe then n else n * 2 ^ (-qe).toNat
  let d' := if 0 ≤ qe then d * 2 ^ qe.toNat else d
  let k := n' / d'
  let r := n' % d'
  (if roundUp c neg (k % 2 = 1) r d' then k + 1 else k, r ≠ 0)

/-- The largest finite magnitude of a float format: m·2^e (Table 9-6). -/
def maxFloat (p : FPar) : Nat × Int :=
  match p.sp with
  | .ieee => (2 ^ (p.m + 1) - 1, 2 ^ p.e - 2 - (p.bias : Int) - p.m)
  | .oneNan => (2 ^ (p.m + 1) - 2, 2 ^ p.e - 1 - (p.bias : Int) - p.m)
  | .none => (2 ^ (p.m + 1) - 1, 2 ^ p.e - 1 - (p.bias : Int) - p.m)

/-- The code of a float magnitude k·2^qe, with qe at least the subnormals' unit. -/
def encMag (p : FPar) (neg : Bool) (k : Nat) (qe : Int) : Nat :=
  neg.toNat * 2 ^ (p.e + p.m) + k + (qe - (1 - (p.bias : Int) - p.m)).toNat * 2 ^ p.m

/-- What a float overflow delivers (Table 9-7). -/
def overFloat (p : FPar) (c : Rnd) (sat neg : Bool) : Nat :=
  let away := match c.rm with | .rz => false | .ru => !neg | .rd => neg | _ => true
  let mx := maxFloat p
  if sat || !away then encMag p neg mx.1 mx.2
  else match p.sp with
    | .ieee => neg.toNat * 2 ^ (p.e + p.m) + (2 ^ p.e - 1) * 2 ^ p.m
    | .oneNan => 2 ^ (p.e + p.m) - 1
    | .none => encMag p neg mx.1 mx.2

/-- A nonzero fraction rounded to a float format: code and flags (R214 to R217). -/
def roundFloat (p : FPar) (c : Rnd) (sat neg : Bool) (n d : Nat) : Nat × Nat :=
  let emin : Int := 1 - p.bias
  let mx := maxFloat p
  let mf := frac2 mx.1 mx.2
  let c := if c.rm = .rs && !leFrac n d mf.1 mf.2 then { c with rm := .rne } else c
  let e := ilog2 n d
  let qe := max e emin - (p.m : Int)
  let k := roundUnits c neg n d qe
  let kf := frac2 k.1 qe
  if !leFrac kf.1 kf.2 mf.1 mf.2 then (overFloat p c sat neg, flOver + flInexact)
  else
    let w := roundUnits c neg n d (e - p.m)               -- R217: the exponent range unbounded
    let wf := frac2 w.1 (e - p.m)
    let tf := frac2 1 emin
    let tiny := !leFrac tf.1 tf.2 wf.1 wf.2
    (encMag p neg k.1 qe, if k.2 then flInexact + (if tiny then flUnder else 0) else 0)

/-- A fraction rounded to an integer within bounds: beyond them the nearer end, with invalid (R216). (DEDUCED, log 14) -/
def roundInt (c : Rnd) (lo hi : Int) (neg : Bool) (n d : Nat) : Int × Nat :=
  let lim := if neg && lo ≠ 0 then (-lo).toNat else hi.toNat
  let c := if c.rm = .rs && !leFrac n d lim 1 then { c with rm := .rne } else c
  let k := roundUnits c neg n d 0
  let x : Int := if neg then -(k.1 : Int) else k.1
  if x < lo then (lo, flInvalid) else if hi < x then (hi, flInvalid) else (x, if k.2 then flInexact else 0)

/-- The largest field whose table value under the offset is at most n/d, the fields unbounded. (DEDUCED, log 17) -/
def logLow (q : Nat) (o : Int) (n d : Nat) : Int :=
  let f0 : Int := q * ilog2 n d
  let below := (List.range q).filter fun (k : Nat) => 0 < k && (let t := logVal q (f0 + k); leFrac t.1 t.2 n d)
  f0 + below.length - o

/-- A fraction between the fields `F` and `F + 1` of unbounded log codes, rounded to one of them; and whether it was changed. (DEDUCED, log 17) -/
def roundField (c : Rnd) (q : Nat) (o F : Int) (neg : Bool) (n d : Nat) : Int × Bool :=
  let lo := logVal q (F + o)
  let hi := logVal q (F + 1 + o)
  -- (x − lo)/(hi − lo) as a fraction
  let r := (n * lo.2 - lo.1 * d) * hi.2
  let w := (hi.1 * lo.2 - lo.1 * hi.2) * d
  (if roundUp c neg (F % 2 = 1) r w then F + 1 else F, r ≠ 0)

/-- A nonzero fraction rounded to a log format under an offset: code and flags (R214, R216, R217, R238). (DEDUCED, log 17) -/
def roundLog (q fb : Nat) (o : Int) (c : Rnd) (neg : Bool) (n d : Nat) : Nat × Nat :=
  let fmax : Int := 2 ^ (fb - 1) - 1
  let fmin : Int := -fmax
  let zcode := 2 ^ (fb - 1)
  let code (F : Int) : Nat := neg.toNat * 2 ^ fb + (F % 2 ^ fb).toNat
  let top := logVal q (fmax + o)
  let low := logVal q (fmin + o)
  let c := if c.rm = .rs && !leFrac n d top.1 top.2 then { c with rm := .rne } else c
  if leFrac low.1 low.2 n d then
    let r := roundField c q o (logLow q o n d) neg n d
    if fmax < r.1 then (code fmax, flOver + flInexact) else (code r.1, if r.2 then flInexact else 0)
  else
    -- the neighbours are zero, an even field, and the smallest code
    let up := roundUp c neg false (n * low.2) (low.1 * d)
    let u := roundField c q o (logLow q o n d) neg n d
    (if up then code fmin else zcode, flInexact + (if u.1 < fmin then flUnder else 0))

/-- How a result is delivered: the rounding, SAT, and the offset of a BL6 block (R214, R216). -/
structure Deliver where
  rnd : Rnd := {}
  sat : Bool := false
  off : Int := 0
  deriving DecidableEq, Repr

/-- A two's-complement code of `w` bits. (DEDUCED, log 14) -/
def intCode (w : Nat) (x : Int) : Nat := (x % 2 ^ w).toNat

/-- An exact value delivered in an element of format `f`: code and flags (R206, R212, R214 to R217, Table 9-7). A block element is
delivered as its element format; MX-INT8 counts units of 2^−6. -/
def deliver (f : Fmt) (c : Deliver) (x : XV) : Nat × Nat :=
  match x with
  | .fin neg n d =>
    (match fpar (elemOf f), ipar (elemOf f), lpar (elemOf f) with
     | some p, _, _ =>
       let r := if n = 0 then (encMag p neg 0 (1 - (p.bias : Int) - p.m), 0) else roundFloat p c.rnd c.sat neg n d
       (if elemOf f = .f19 then r.1 * 2 ^ 13 else r.1, r.2)
     | _, some (lo, hi), _ =>
       let r := roundInt c.rnd lo hi neg (if f = .mxint8 then 64 * n else n) d
       (intCode (elemBits f) r.1, r.2)
     | _, _, some (q, fb) => if n = 0 then (2 ^ (fb - 1), 0) else roundLog q fb (if f = .bl6 then c.off else 0) c.rnd neg n d
     | _, _, _ => (0, 0))
  | .inf neg =>
    (match canonNan f, fpar (elemOf f), ipar (elemOf f), lpar (elemOf f) with
     | _, some p, _, _ =>
       let s := neg.toNat * 2 ^ (p.e + p.m)
       (match p.sp with
        | .ieee => let r := s + (2 ^ p.e - 1) * 2 ^ p.m; (if elemOf f = .f19 then r * 2 ^ 13 else r, 0)
        | .oneNan => (0x7F, 0)
        | .none => (s + 2 ^ (p.e + p.m) - 1, 0))
     | _, _, some (lo, hi), _ => (intCode (elemBits f) (if neg then lo else hi), flInvalid)
     | _, _, _, some (_, fb) => (neg.toNat * 2 ^ fb + 2 ^ (fb - 1) - 1, 0)
     | _, _, _, _ => (0, 0))
  | y =>
    let bad := match y with | .nan s => s | _ => true
    match canonNan f with
    | some n => (n, if bad then flInvalid else 0)
    | none => (match lpar (elemOf f) with | some (_, fb) => 2 ^ (fb - 1) | none => 0, flInvalid)

/-! ## Float arithmetic (R206, R229) -/

/-- Signed numerator of a finite value over a given denominator. -/
def signedNum (s : Bool) (n : Nat) : Int := if s then -(n : Int) else n

/-- The exact product; none for Inf × 0, which IEEE 754 calls invalid. NaNs are treated by the caller. -/
def mulX : XV → XV → Option XV
  | .fin s n d, .fin t m e => some (.fin (s != t) (n * m) (d * e))
  | .inf s, .inf t => some (.inf (s != t))
  | .inf s, .fin t m _ => if m = 0 then none else some (.inf (s != t))
  | .fin s n _, .inf t => if n = 0 then none else some (.inf (s != t))
  | x, _ => some x

/-- The exact sum, with the sign of an exact zero that R229 gives under the rounding mode; none for Inf − Inf. -/
def addX (rm : RM) : XV → XV → Option XV
  | .fin s n d, .fin t m e =>
    let z := signedNum s n * e + signedNum t m * d
    if z = 0 then some (.fin (if n = 0 && m = 0 && s = t then s else rm = .rd) 0 1) else some (.fin (z < 0) z.natAbs (d * e))
  | .inf s, .inf t => if s = t then some (.inf s) else none
  | .inf s, _ => some (.inf s)
  | _, .inf t => some (.inf t)
  | x, _ => some x

/-- The comparison of two values that are no NaN; −0 equals +0 (R229). -/
def cmpX : XV → XV → Ordering
  | .fin s n d, .fin t m e => compare (signedNum s n * e) (signedNum t m * d)
  | .inf s, .inf t => if s = t then .eq else if s then .lt else .gt
  | .inf s, _ => if s then .lt else .gt
  | _, .inf t => if t then .gt else .lt
  | _, _ => .eq

/-- The operations of float arithmetic. -/
inductive FOp | add | sub | mul | fma | fms | fnma
  deriving DecidableEq, Repr

/-- Float arithmetic in one format: the exact result rounded once; code and flags (R229, R206). `c` is read by the fused operations only. -/
def farith (f : Fmt) (op : FOp) (rm : RM) (sat : Bool) (a b c : Nat) : Nat × Nat :=
  let x := decElem f a
  let y := decElem f b
  let z := decElem f c
  let fused := op = .fma || op = .fms || op = .fnma
  let nanBits := (canonNan f).getD 0
  let sg := if x.sig || y.sig || (fused && z.sig) then flInvalid else 0
  if x.bad || y.bad || (fused && z.bad) then (nanBits, sg)
  else
    let r : Option XV := match op with
      | .add => addX rm x y
      | .sub => addX rm x y.neg
      | .mul => mulX x y
      | .fma => (mulX x y).bind fun p => addX rm p z
      | .fms => (mulX x y).bind fun p => addX rm p z.neg
      | .fnma => (mulX x y).bind fun p => addX rm p.neg z
    match r with
    | none => (nanBits, flInvalid)
    | some v => deliver f { rnd := { rm := rm }, sat := sat } v

/-- minimumNumber and maximumNumber (R186): a NaN operand gives the other operand, −0 lies below +0; a signalling NaN sets invalid (R206). -/
def fminmax (f : Fmt) (mx : Bool) (a b : Nat) : Nat × Nat :=
  let x := decElem f a
  let y := decElem f b
  let fl := if x.sig || y.sig then flInvalid else 0
  if x.bad && y.bad then ((canonNan f).getD 0, fl)
  else if x.bad then (b, fl)
  else if y.bad then (a, fl)
  else
    let less := match cmpX x y with
      | .lt => true
      | .gt => false
      | .eq => match x, y with | .fin s _ _, .fin t _ _ => s && !t | _, _ => false
    (if less != mx then a else b, fl)

/-- A condition on two float codes (Table 10-5, R229): its value and flags. `quiet` is the rule of `.eq`, of SETP and of the rest. -/
def fcond (f : Fmt) (c : Cmp) (unord quiet : Bool) (a b : Nat) : Bool × Nat :=
  let x := decElem f a
  let y := decElem f b
  let un := x.bad || y.bad
  let rel := match c with | .lt | .le | .gt | .ge => true | _ => false
  let fl := if x.sig || y.sig || (un && rel && !quiet) then flInvalid else 0
  let o := cmpX x y
  let v := match c with
    | .eq => !un && o = .eq
    | .ne => un || o ≠ .eq
    | .lt => !un && o = .lt
    | .le => !un && o ≠ .gt
    | .gt => !un && o = .gt
    | .ge => !un && o ≠ .lt
    | .num => !un
    | .nan => un
  (v || (unord && un), fl)

end Sys2Proof.Machine
end

