-- ==== Sys2Proof/Machine/Operands.lean ====
section
/-! DEFINITION. Reading and writing registers, and every operand form (R32, R33, R38 to R44, R192 to R202). -/

namespace Sys2Proof.Machine

open Sys2Proof Sys2Proof.Decode

/-! ## Register states -/

/-- The state of what is read or computed from two sources (R198 to R200): EMPTY shows first, then POIS, then TENT, the later mark counting. (DEDUCED, log 19) -/
def RState.join : RState → RState → RState
  | .empty, _ => .empty
  | _, .empty => .empty
  | .pois, _ => .pois
  | _, .pois => .pois
  | .tent m, .tent n => .tent (max m n)
  | .tent m, .full => .tent m
  | .full, x => x

/-- The state is TENT. -/
def RState.isTent : RState → Bool | .tent _ => true | _ => false
/-- The mark of a TENT state. -/
def RState.mark : RState → Option Nat | .tent m => some m | _ => none

/-- The state of a register written when its block had had `n` tentative deliveries: FULL once all that came before have verified (R146). -/
def RState.asOf (n : Nat) : RState → RState | .tent _ => .tent n | st => st

/-- The state of a value that has been on its way, as it is delivered: TENT only where a seal group that it may rest on has not verified (R146). -/
def Block.settle (b : Block) (st : RState) : RState :=
  match st with
  | .tent m => if b.seals.any fun x => x.2 ≤ m then st.asOf b.tents else .full
  | x => x

/-- A value as an operand: its bits, the tags of its first and last register, and its state. -/
structure Val where
  v    : Nat := 0
  tag  : Nat := 31
  tag2 : Nat := 31
  st   : RState := .full
  deriving DecidableEq, Repr

/-- The untyped, FULL value of immediates, constants and special registers (R194, R221). -/
def Val.raw (v : Nat) : Val := { v := v }

/-- The number of 32-bit registers that hold a width. -/
def regsOf (w : Nat) : Nat := max 1 (w / 32)

/-! ## The registers of a group -/

/-- Thread register `k` of thread `t` (R192). -/
def Group.treg (g : Group) (t k : Nat) : TReg := FMap.getD g.t (128 * t + k) {}
/-- Uniform register `k`. -/
def Group.ureg (g : Group) (k : Nat) : UReg := FMap.getD g.w k {}
/-- Predicate `k` of thread `t`; 15 is `pt`, which reads true. -/
def Group.pred (g : Group) (t k : Nat) : PReg := if k = 15 then { v := true } else FMap.getD g.p (16 * t + k) {}
/-- Uniform predicate `k`; 15 is `pt`. -/
def Group.upred (g : Group) (k : Nat) : PReg := if k = 15 then { v := true } else FMap.getD g.q k {}

/-- Write a thread register. -/
def Group.setT (g : Group) (t k : Nat) (r : TReg) : Group := { g with t := FMap.put g.t (128 * t + k) r {} }
/-- Write a uniform register. -/
def Group.setW (g : Group) (k : Nat) (r : UReg) : Group := { g with w := FMap.put g.w k r {} }
/-- Write a predicate. -/
def Group.setP (g : Group) (t k : Nat) (r : PReg) : Group := { g with p := FMap.put g.p (16 * t + k) r {} }
/-- Write a uniform predicate. -/
def Group.setQ (g : Group) (k : Nat) (r : PReg) : Group := { g with q := FMap.put g.q k r {} }

/-- The tag of a register as its readers see it: a register in POIS carries 31 (R194, R195). -/
def tagSeen (tag : Nat) (st : RState) : Nat := if st = .pois then 31 else tag

/-- A thread operand of width `w` (R39, R196): registers upward, the first the least significant. (DEDUCED, log 18; DEDUCED, log 19) -/
def Group.readT (g : Group) (t k : Nat) : Nat → Val
  | 64 =>
    let a := g.treg t k
    let b := g.treg t (k + 1)
    ⟨a.v.toNat + b.v.toNat * 2 ^ 32, (tagSeen a.tag a.st), (tagSeen b.tag b.st), a.st.join b.st⟩
  | 128 =>
    let a := g.treg t k
    let b := g.treg t (k + 1)
    let c := g.treg t (k + 2)
    let d := g.treg t (k + 3)
    ⟨a.v.toNat + b.v.toNat * 2 ^ 32 + c.v.toNat * 2 ^ 64 + d.v.toNat * 2 ^ 96, (tagSeen a.tag a.st), (tagSeen d.tag d.st), (a.st.join b.st).join (c.st.join d.st)⟩
  | _ => let a := g.treg t k; ⟨a.v.toNat, (tagSeen a.tag a.st), (tagSeen a.tag a.st), a.st⟩

/-- A uniform operand of width `w` (R39): bits [31:0] in a 32-bit position. -/
def Group.readW (g : Group) (k : Nat) : Nat → Val
  | 64 => let a := g.ureg k; ⟨a.v.toNat, (tagSeen a.tag a.st), (tagSeen a.tag a.st), a.st⟩
  | 128 =>
    let a := g.ureg k
    let b := g.ureg (k + 1)
    ⟨a.v.toNat + b.v.toNat * 2 ^ 64, (tagSeen a.tag a.st), (tagSeen b.tag b.st), a.st.join b.st⟩
  | _ => let a := g.ureg k; ⟨a.v.toNat % 2 ^ 32, (tagSeen a.tag a.st), (tagSeen a.tag a.st), a.st⟩

/-- Write a thread operand of width `w`: each register takes the tag and the state (R196). (DEDUCED, log 18) -/
def Group.writeT (g : Group) (t k : Nat) (x : Val) : Nat → Group
  | 64 => (g.setT t k ⟨BitVec.ofNat 32 x.v, x.tag, x.st⟩).setT t (k + 1) ⟨BitVec.ofNat 32 (x.v / 2 ^ 32), x.tag, x.st⟩
  | 128 =>
    (((g.setT t k ⟨BitVec.ofNat 32 x.v, x.tag, x.st⟩).setT t (k + 1) ⟨BitVec.ofNat 32 (x.v / 2 ^ 32), x.tag, x.st⟩).setT t (k + 2)
      ⟨BitVec.ofNat 32 (x.v / 2 ^ 64), x.tag, x.st⟩).setT t (k + 3) ⟨BitVec.ofNat 32 (x.v / 2 ^ 96), x.tag, x.st⟩
  | _ => g.setT t k ⟨BitVec.ofNat 32 x.v, x.tag, x.st⟩

/-- Write a uniform operand of width `w`: a 32-bit result clears bits [63:32] (R39). -/
def Group.writeW (g : Group) (k : Nat) (x : Val) : Nat → Group
  | 64 => g.setW k ⟨BitVec.ofNat 64 x.v, x.tag, x.st⟩
  | 128 => (g.setW k ⟨BitVec.ofNat 64 x.v, x.tag, x.st⟩).setW (k + 1) ⟨BitVec.ofNat 64 (x.v / 2 ^ 64), x.tag, x.st⟩
  | _ => g.setW k ⟨BitVec.ofNat 64 (x.v % 2 ^ 32), x.tag, x.st⟩

/-- OR flags into `%fflags` (R218). -/
def Group.flag (g : Group) (fl : Nat) : Group := { g with fflags := g.fflags ||| BitVec.ofNat 32 (fl % 32) }

/-! ## Groups and their places -/

/-- The core or system core of a group (R281). -/
def unitOfGid (gid : Nat) : Nat := gid / 256
/-- The slot of a group. -/
def slotOfGid (gid : Nat) : Nat := gid % 256
/-- The first of the names under which a block that is on no core is kept as if it were on one (R369): 65,536 + 2·k for block k. -/
def offCore : Nat := 65536
/-- A unit is a system core. -/
def isSys (unit : Nat) : Bool := 1536 ≤ unit && unit < offCore
/-- The cluster of a core (R284). -/
def clusterOf (unit : Nat) : Nat := unit / 8
/-- The compute die of a core (R284). -/
def dieOf (unit : Nat) : Nat := unit / 128
/-- The lane of a group: lane base plus group number (R281). -/
def laneOf (b : Block) (g : Group) : Nat := (b.lane + g.num) % 32
/-- The row of the lanes table that a group issues on. -/
def laneKey (b : Block) (g : Group) (unit : Nat) : Nat := unit * 32 + laneOf b g
/-- The number of a unit in fault records and guidons (R363). -/
def unitNo (unit : Nat) : Nat := if isSys unit then 1777 + (unit - 1536) else unit

/-- A group of the state; a group no slot holds reads as an empty record. -/
def State.grp (s : State) (gid : Nat) : Group := FMap.getD s.groups gid { blk := 0 }
/-- A block of the state. -/
def State.blk (s : State) (k : Nat) : Block := FMap.getD s.blocks k {}
/-- A context. -/
def State.ctx (s : State) (c : Nat) : Ctx := FMap.getD s.ctxs c {}
/-- A core. -/
def State.core (s : State) (u : Nat) : Core := FMap.getD s.cores u {}
/-- Write a group. -/
def State.setGrp (s : State) (gid : Nat) (g : Group) : State := { s with groups := FMap.insert s.groups gid g }
/-- Write a block. -/
def State.setBlk (s : State) (k : Nat) (b : Block) : State := { s with blocks := FMap.insert s.blocks k b }
/-- Write a context. -/
def State.setCtx (s : State) (c : Nat) (x : Ctx) : State := { s with ctxs := FMap.put s.ctxs c x {} }
/-- Write a core. -/
def State.setCore (s : State) (u : Nat) (c : Core) : State := { s with cores := FMap.put s.cores u c {} }
/-- Change a group that is resident. -/
def State.onGrp (s : State) (gid : Nat) (f : Group → Group) : State := { s with groups := FMap.modify s.groups gid f }
/-- Change a block that is resident. -/
def State.onBlk (s : State) (k : Nat) (f : Block → Block) : State := { s with blocks := FMap.modify s.blocks k f }
/-- Change a core. -/
def State.onCore (s : State) (u : Nat) (f : Core → Core) : State := s.setCore u (f (s.core u))

/-! ## Operand forms -/

/-- What an instruction is issued with: the state, its group and block. -/
structure Iss where
  s   : State
  gid : Nat
  g   : Group
  b   : Block
  deriving DecidableEq, Repr

/-- The value of a special register (Table 2-4, R284, R285, R387). (DESIGN CHOICE, log 23) -/
def sregVal (c : Iss) (t : Nat) : SReg → Nat
  | .cyc => c.s.regs.cyc.toNat
  | .wid => c.g.wid.toNat + t
  | .f0 => t
  | .f1 => (FMap.getD c.g.f 1 0).toNat
  | .f2 => (FMap.getD c.g.f 2 0).toNat
  | .f3 => (FMap.getD c.g.f 3 0).toNat
  | .f4 => (FMap.getD c.g.f 4 0).toNat
  | .f5 => (FMap.getD c.g.f 5 0).toNat
  | .core => if isSys c.b.core then (Config.sysPlacement 0 (c.b.core - 1536)).toNat else c.b.core
  | .clus => if isSys c.b.core then (Config.sysPlacement 1 (c.b.core - 1536)).toNat else clusterOf c.b.core
  | .die => if isSys c.b.core then (Config.sysPlacement 2 (c.b.core - 1536)).toNat else dieOf c.b.core
  | .mod => match c.s.regs.mod with | some m => m.toNat | none => 512
  | .nclus => (FMap.getD c.s.parts c.b.part {}).nclus.toNat
  | .topo => (FMap.getD c.s.parts c.b.part {}).topo.toNat
  | .cap => 7
  | .ent => c.g.ent.toNat
  | .prog => c.g.prog.toNat
  | .gen => c.s.regs.gen.toNat
  | .fflags => c.g.fflags.toNat

/-- A 16-bit immediate extended to a position of width `w` (R39, R228). (DEDUCED, log 13) -/
def extImm (e : Ext) (w : Nat) (v : Nat) : Nat :=
  match e with
  | .zero => v
  | .sign => if v < 2 ^ 15 then v else v + (2 ^ w - 2 ^ 16)
  | .f32 => v * 2 ^ 16
  | .f64 => v * 2 ^ 48
  | .h2 => v + v * 2 ^ 16

/-- The 32-bit value of a long immediate, extended to a position of width `w` (R40). -/
def extLong (e : Ext) (w : Nat) (hi lo : BitVec 16) : Nat :=
  let v := hi.toNat * 2 ^ 16 + lo.toNat
  match e with
  | .sign => if v < 2 ^ 31 then v else v + (2 ^ w - 2 ^ 32)
  | _ => v

/-- The bytes of the constant bank at an offset (R38). -/
def bankVal (b : Block) (off w : Nat) : Nat := leNat ((List.range (w / 8)).map fun i => FMap.getD b.bank (off + i) 0)

/-- The value an operand supplies to thread `t` in position `p`; `lo` is the low part where it is a long immediate. -/
def readOp (c : Iss) (t : Nat) (p : Pos) (x lo : Opd) : Val :=
  match x with
  | .t n => c.g.readT t n.val p.width
  | .w n => c.g.readW n.val p.width
  | .sr r => Val.raw (sregVal c t r % 2 ^ p.width)
  | .imm v => Val.raw (extImm p.ext p.width v.toNat)
  | .cb off => Val.raw (bankVal c.b off.toNat p.width)
  | .long hi => (match lo with | .long l => Val.raw (extLong p.ext p.width hi l) | _ => Val.raw 0)
  | _ => Val.raw 0

/-- A predicate operand as thread `t` reads it (R33). -/
def readPr (c : Iss) (t : Nat) (x : Opd) : PReg :=
  match x with
  | .p n => c.g.pred t n.val
  | .q n => c.g.upred n.val
  | _ => { v := true }

/-- Predicate `n` of a modifier or a guard: `p`n of a thread, `q`n in a uniform instruction. -/
def modPr (c : Iss) (u : Bool) (t n : Nat) : PReg := if u then c.g.upred n else c.g.pred t n

/-! ## Guards and acting threads (R32, R33) -/

/-- The threads of the active mask, in index order. -/
def activeThreads (g : Group) : List Nat := (List.range g.ext0).filter fun t => g.act.getLsbD t

/-- The guard as thread `t` reads it: its value after inversion, and its state. -/
def guardAt (c : Iss) (h : Hdr) (t : Nat) : Bool × RState :=
  match h.guard with
  | .always => (true, .full)
  | .on neg n => let r := modPr c h.u t n.val; (r.v != neg, r.st)

/-- Who reads the guard: every active thread, or the group once. -/
def guardThreads (c : Iss) (h : Hdr) : List Nat := if h.u then [0] else activeThreads c.g

/-- The threads for which the instruction acts; a uniform one acts once, as thread 0. -/
def acting (c : Iss) (h : Hdr) : List Nat := (guardThreads c h).filter fun t => (guardAt c h t).1

/-! ## Destinations -/

/-- The registers of a destination hold a value whose producer is still outstanding (R198). -/
def dstEmpty (c : Iss) (ts : List Nat) (w : Nat) (d : Opd) : Bool :=
  match d with
  | .t n => ts.any fun t => (c.g.readT t n.val w).st = .empty
  | .w n => ts ≠ [] && (c.g.readW n.val w).st = .empty
  | _ => false

/-- Deliver a value of thread `t` to a destination of width `w`: a register takes bits, tag and state; a POIS register takes tag 31
(R194); a predicate takes bit 0; D of kind 4 sets `%fflags` (R218). -/
def writeOp (g : Group) (t w : Nat) (d : Opd) (x : Val) : Group :=
  let x := if x.st = .pois then { x with tag := 31, tag2 := 31 } else x
  match d with
  | .t n => g.writeT t n.val x w
  | .w n => g.writeW n.val x w
  | .p n => g.setP t n.val ⟨x.v % 2 = 1, x.st⟩
  | .q n => g.setQ n.val ⟨x.v % 2 = 1, x.st⟩
  | .sr .fflags => { g with fflags := BitVec.ofNat 32 (x.v % 32) }
  | _ => g

/-- Mark a destination EMPTY (R198). -/
def emptyOp (g : Group) (t w : Nat) (d : Opd) : Group :=
  match d with
  | .t n => (List.range (regsOf w)).foldl (fun g i => g.setT t (n.val + i) { g.treg t (n.val + i) with st := .empty }) g
  | .w n => (List.range (max 1 (w / 64))).foldl (fun g i => g.setW (n.val + i) { g.ureg (n.val + i) with st := .empty }) g
  | _ => g

/-- The destination registers of an outstanding producer. -/
def destOf (w : Nat) : Opd → Option Dest
  | .t n => some ⟨false, n.val, w⟩
  | .w n => some ⟨true, n.val, w⟩
  | _ => none

/-- Deliver to the destination of an outstanding producer. -/
def deliverDest (g : Group) (t : Nat) (d : Dest) (x : Val) : Group :=
  let x := if x.st = .pois then { x with tag := 31, tag2 := 31 } else x
  if d.uni then g.writeW d.num x d.width else g.writeT t d.num x d.width

end Sys2Proof.Machine
end

