-- ==== Sys2Proof/Machine/L2.lean ====
section
/-! DEFINITION. Bytes at their owners: L2 lines over DRAM, chip scratchpad banks, replicas; and the reads and writes that the module's own
units make through the levels (R86 to R93, R103, R106, R108, R113 to R117). -/

namespace Sys2Proof.Machine

open Sys2Proof

/-- Each value once, in order of first appearance. -/
def distinct (l : List Nat) : List Nat := l.foldl (fun acc x => if acc.contains x then acc else acc ++ [x]) []

/-! ## Sectors and watches (R336) -/

/-- The name of the 32-byte sector that holds byte `b` of a line. -/
def sectorOfLine (t : Tag) (b : Nat) : Nat := t.key * 8 + b / 32
/-- The name of the sector that holds a chip-scratchpad byte. -/
def sectorOfChip (a : Nat) : Nat := sramKey (chipAddr a)
/-- Tell the watches of some sectors that they have been written (R336). -/
def State.touch (s : State) (keys : List Nat) : State :=
  { s with watches := FMap.mapVals s.watches fun _ w => if keys.contains w.key then { w with fired := true } else w }

/-! ## L2 lines (R106 to R108) -/

/-- A byte of a line as its owner holds it, and whether it is poisoned: the slice's copy where it holds the byte, completed from the stack byte `pa`. -/
def State.ownerRead (s : State) (t : Tag) (b : Nat) (pa : Option Nat) : Byte × Bool :=
  let dram : Byte × Bool := match pa with | some a => (s.byte a, s.poisoned a) | none => (0, false)
  match s.line? t with
  | none => dram
  | some l =>
    if l.pois.contains (b / 32) then (0, true)
    else match FMap.find? l.data b with
      | some x => if l.whole (b / 32) then (x, false) else if dram.2 then (0, true) else (x, false)
      | none => dram

/-- Every byte of a sector of a line is among the bytes written. -/
def coversSec (bs : List (Nat × Byte)) (sec : Nat) : Bool := (List.range 32).all fun i => bs.any fun x => x.1 = 32 * sec + i

/-- The sectors of a line whose poison discards a write of these bytes (R103). -/
def State.lineRefuses (s : State) (t : Tag) (bs : List (Nat × Byte)) : List Nat :=
  match s.line? t with
  | none => []
  | some l => (distinct (bs.map fun x => x.1 / 32)).filter fun sec => l.pois.contains sec && !coversSec bs sec

/-- A line has just been used (R106). -/
def State.useLine (s : State) (t : Tag) : State := { s with l2 := FMap.modify s.l2 t.key fun l => { l with used := s.now } }

/-- Apply bytes to a line at its home slice, under a guidon whose write the stack level has granted (R106, R108, R103): the line is
allocated without reading memory, and the sectors written become dirty. -/
def State.lineApply (s : State) (t : Tag) (slice : Nat) (g : BitVec 33) (bs : List (Nat × Byte)) : State :=
  let l := (s.line? t).getD { slice := slice }
  let ref := s.lineRefuses t bs
  let secs := (distinct (bs.map fun x => x.1 / 32)).filter fun sec => !ref.contains sec
  let l' := { l with
    data := bs.foldl (fun d x => if ref.contains (x.1 / 32) then d else FMap.insert d x.1 x.2) l.data
    dirty := l.dirty ++ secs.filter fun sec => !l.dirty.contains sec
    pois := l.pois.filter fun sec => !secs.contains sec
    grant := some g
    used := s.now }
  { s with l2 := FMap.insert s.l2 t.key l' }.touch (secs.map fun sec => t.key * 8 + sec)

/-- Mark sectors of a line poisoned (R103, R163). -/
def State.poisonLine (s : State) (t : Tag) (secs : List Nat) : State :=
  { s with l2 := FMap.modify s.l2 t.key fun l => { l with pois := l.pois ++ (distinct secs).filter fun x => !l.pois.contains x } }

/-- The rows of a line of a view, by number (R89). -/
def rowsOf (view : Nat) : List Nat := List.range (256 / rowSize view)

/-- Issue the write-back of a line's dirty sectors as they stand; `inv` drops the line once it has been applied, a clean line at once (R107, R124). -/
def State.writeBack (s : State) (t : Tag) (inv : Bool) : State :=
  match s.line? t with
  | none => s
  | some l =>
    if l.dirty.isEmpty then (if inv && l.wb = 0 then { s with l2 := FMap.erase s.l2 t.key } else s)
    else
      { s with
        wbacks := FMap.insert s.wbacks s.nextId
          { tag := t, data := l.data.filter fun x => l.dirty.contains (x.1 / 32), pois := l.pois.filter fun x => l.dirty.contains x, inv := inv, seq := s.nextId
            rows := rowsOf (s.view t.stack t.i).1 }
        nextId := s.nextId + 1
        l2 := FMap.insert s.l2 t.key { l with dirty := [], wb := l.wb + 1 } }

/-- Drop a line, with whatever it holds. -/
def State.lineDrop (s : State) (t : Tag) : State := { s with l2 := FMap.erase s.l2 t.key }

/-- The stack byte behind a region offset as the tables stand, whatever they permit (R92, R108), if it is in this module: used to complete a line
that has been granted or read. -/
def translate (s : State) : Nat → Nat → Nat → Nat → Option Nat
  | 0, _, _, _ => none
  | n + 1, st, i, off =>
    let e := s.tab (keyStack st i)
    let es := if eST e = 2 then eHS e else eST e
    if es = 3 then (if bf e 76 9 = s.modNo then translate s n (bf e 85 5) (bf e 62 14) off else none)
    else if es ≠ 1 then none
    else
      let pe := s.pageEntry st (bf e 56 24 * 4096 + 8 * (off / 4096))
      let sz := pageSize (bf pe 59 3)
      if bf pe 62 2 = 1 then some (hbmAddr st (bf pe 0 24 * 4096 + off % sz))
      else if bf pe 62 2 = 2 then (if bf pe 34 9 = s.modNo then translate s n (bf pe 43 5) (bf pe 20 14) (bf pe 8 12 * 4096 + off % sz) else none)
      else none

/-- The stack byte behind byte `b` of a line. -/
def State.lineByteAddr (s : State) (t : Tag) (b : Nat) : Option Nat :=
  let v := s.view t.stack t.i
  translate s 6 t.stack t.i (lineOff v.1 v.2 t.tx t.ty b)

/-- A byte of a line as its owner holds it, with no further lookup (R108). -/
def State.lineByte (s : State) (t : Tag) (b : Nat) : Byte × Bool := s.ownerRead t b (s.lineByteAddr t b)

/-- Every byte of an access is at hand at a line: held by the slice, or in a stack of this module. -/
def State.atHand (s : State) (t : Tag) (b n : Nat) : Bool :=
  (List.range n).all fun i => (match s.line? t with | some l => (FMap.find? l.data (b + i)).isSome || l.pois.contains ((b + i) / 32) | none => false)
    || (s.lineByteAddr t (b + i)).isSome

/-! ## L1 lines (R118) -/

/-- Drop a line of this module from one core's L1. -/
def State.l1Drop (s : State) (u : Nat) (t : Tag) : State :=
  if (s.core u).l1.any (fun l => l.mod = s.modNo && l.tag = t) then
    s.onCore u fun c => { c with l1 := c.l1.filter fun l => !(l.mod = s.modNo && l.tag = t) }
  else s
/-- Drop every line from every L1 (R301). (DEDUCED, log 83) -/
def State.l1DropAll (s : State) : State := { s with cores := FMap.mapVals s.cores fun _ c => { c with l1 := [] } }
/-- Drop a context's lines from a core's L1 (R298, R328). -/
def State.l1DropCtx (s : State) (u ctx : Nat) : State := s.onCore u fun c => { c with l1 := c.l1.filter fun l => l.ctx ≠ ctx }

/-! ## Packets to another module (R132) -/

/-- A flow with a peer. -/
def State.flow (s : State) (peer : Nat) : Flow := FMap.getD s.flows peer {}
/-- The name of a packet of a flow: its generation and sequence number, so that no restart of the flow repeats one. -/
def packetName (gen seq : Nat) : Nat := gen * 2 ^ 64 + seq
/-- Put a packet at egress to a peer, under the flow's next sequence number. An RSP packet carries this receiver's fault epoch, any other the latest
that the peer has sent (Table 6-1, R133). -/
def State.send (s : State) (peer vc : Nat) (body : PBody) (rel : Bool) : State :=
  let f := s.flow peer
  { s with flows := FMap.put s.flows peer { f with
      next := f.next + 1
      wait := f.wait ++ [{ seq := f.next, rel := rel, fep := if vc = 1 then f.fep else f.seenFep, vc := vc, gen := s.regs.gen.toNat, body := body }] } {} }

/-! ## Requests -/

/-- A new request, an access of its own. -/
def State.newReq (s : State) (q : Req) : State :=
  { s with reqs := FMap.insert s.reqs s.nextId { q with arrived := s.nextId, fam := s.nextId, share := s.nextId, ptr0 := q.ptr }, nextId := s.nextId + 1 }

/-- Replace a request. -/
def State.setReq (s : State) (id : Nat) (q : Req) : State := { s with reqs := FMap.insert s.reqs id q }
/-- A request comes to a station, behind whatever has come to it before. -/
def State.arrive (s : State) (id : Nat) (q : Req) (st : Stage) : State :=
  { (s.setReq id { q with stage := st, arrived := s.nextId }) with nextId := s.nextId + 1 }
/-- Run a step on a request that exists. -/
def State.onReq (s : State) (id : Nat) (f : Req → State) : State := match FMap.find? s.reqs id with | some q => f q | none => s

/-- What a request counts at falls: its own entries, and those above a split once no other part of its access counts there (R72, R94). -/
def State.uncount (s : State) (id : Nat) (q : Req) : State :=
  let s := s.countDown q.entries
  if s.reqs.any fun x => x.1 ≠ id && x.2.share = q.share && x.2.shared ≠ [] then s else s.countDown q.shared
/-- Drop a request and the counts it holds. -/
def State.dropReq (s : State) (id : Nat) : State :=
  match FMap.find? s.reqs id with | some q => { (s.uncount id q) with reqs := FMap.erase s.reqs id } | none => s
/-- A request of one of the module's own units has been performed: its counts fall, and it stays until its unit takes note. -/
def State.performed (s : State) (id : Nat) (q : Req) : State :=
  (s.uncount id q).setReq id { q with stage := .ready (.remote 0), entries := [], shared := [], served := true }

/-- Insert a request by its first byte. -/
def byByte (x : Nat × Req) : List (Nat × Req) → List (Nat × Req)
  | [] => [x]
  | y :: ys => if x.2.ptr0.toNat ≤ y.2.ptr0.toNat then x :: y :: ys else y :: byByte x ys
/-- The parts of an access, in the order of their bytes. -/
def State.famParts (s : State) (fam : Nat) : List (Nat × Req) := (s.reqs.filter fun x => x.2.fam = fam).foldr byByte []
/-- Drop every part of an access. -/
def State.dropFam (s : State) (fam : Nat) : State := (s.famParts fam).foldl (fun s x => s.dropReq x.1) s
/-- The bytes that a request has brought: those that its unit took at issue stand before what the owner served (R260). -/
def Req.bytes (q : Req) : List (Byte × Bool) := q.result.mapIdx fun i b => match (q.got[i]?).join with | some x => (x, false) | none => b
/-- The bytes that an access has brought, once every part of it has been performed. -/
def State.brought (s : State) (fam : Nat) : Option (List (Byte × Bool)) :=
  let ps := s.famParts fam
  if ps.all fun x => x.2.served then some (ps.flatMap fun x => x.2.bytes) else none

/-- The origin of a request that one of the module's own units makes. -/
def unitOrigin (g : BitVec 33) (ptr : W64) : Origin := { ptr := ptr, guidon := g, unit := 0 }

/-! ## Reads and writes of the module's own units -/

/-- One byte read through every level: the byte and whether it is poisoned, or where the walk stopped. -/
def State.rd1 (s : State) (g : BitVec 33) (ptr : W64) : Except Walk (Byte × Bool) :=
  match walk s g .read 1 ptr with
  | .ok (.line t b _ _) pa => .ok (s.ownerRead t b pa)
  | .ok (.chip a) _ => .ok (s.byte (chipAddr a), s.poisoned (chipAddr a))
  | w => .error w

/-- Bytes read one after the other through every level; the first that stops decides. -/
def State.rdEach (s : State) (g : BitVec 33) (ptr : W64) : Nat → Except Walk (List (Byte × Bool))
  | 0 => .ok []
  | n + 1 =>
    match s.rd1 g ptr with
    | .ok x => (match s.rdEach g (pPlus ptr 1) n with | .ok xs => .ok (x :: xs) | .error w => .error w)
    | .error w => .error w

/-- The level-0 check of an access of one of the module's own units (R54, R57). -/
def State.level0 (s : State) (ptr : W64) (n : Nat) : Option Walk := (checkLabel ptr n).map fun r => .refuse ⟨0, r, 0, s.modNo, false, 0⟩

/-- `n` bytes read through every level from a pointer. (DESIGN CHOICE, log 45) -/
def State.rdN (s : State) (g : BitVec 33) (ptr : W64) (n : Nat) : Except Walk (List (Byte × Bool)) :=
  match s.level0 ptr n with | some w => .error w | none => s.rdEach g ptr n

/-- A little-endian value read through every level; its poison is set aside. -/
def State.rdLe (s : State) (g : BitVec 33) (ptr : W64) (n : Nat) : Except Walk Nat :=
  match s.rdN g ptr n with
  | .ok xs => .ok (leNat (xs.map fun x => x.1))
  | .error w => .error w

/-- The targets of bytes to be written; the first that stops decides, and nothing is written. -/
def State.wrTargets (s : State) (g : BitVec 33) : List (W64 × Byte) → Except Walk (List (Target × Byte))
  | [] => .ok []
  | (p, b) :: xs =>
    match walk s g .write 1 p with
    | .ok t _ => (match s.wrTargets g xs with | .ok ts => .ok ((t, b) :: ts) | .error w => .error w)
    | w => .error w

/-- The bytes bound for a line. -/
def bytesFor (t : Tag) (xs : List (Target × Byte)) : List (Nat × Byte) :=
  xs.filterMap fun x => match x.1 with | .line t' b _ _ => if t' = t then some (b, x.2) else none | _ => none
/-- The distinct lines among some targets, with their slices. -/
def linesOf (xs : List (Target × Byte)) : List (Tag × Nat) :=
  xs.foldl (fun acc x => match x.1 with
    | .line t _ _ sl => if acc.any fun a => a.1 = t then acc else acc ++ [(t, sl)]
    | _ => acc) []
/-- The bytes bound for a sector of the chip scratchpad, as a mask. -/
def chipMask (sec : Nat) (xs : List (Target × Byte)) : List (Option Byte) :=
  (List.range 32).map fun i => xs.foldl (fun acc x => match x.1 with | .chip a => if a = 32 * sec + i then some x.2 else acc | _ => acc) none
/-- The distinct chip sectors among some targets. -/
def chipSecs (xs : List (Target × Byte)) : List Nat :=
  distinct (xs.filterMap fun x => match x.1 with | .chip a => some (a / 32) | _ => none)

/-- Apply bytes at lines and banks of this module. -/
def State.applyTargets (s : State) (g : BitVec 33) (xs : List (Target × Byte)) : State :=
  let s := (linesOf xs).foldl (fun s l => s.lineApply l.1 l.2 g (bytesFor l.1 xs)) s
  (chipSecs xs).foldl (fun s sec => (s.applyBytes (chipAddr (32 * sec)) (chipMask sec xs)).touch [sectorOfChip (32 * sec)]) s

/-- Bytes from a pointer upward. -/
def ptrBytes (ptr : W64) (bs : List Byte) : List (W64 × Byte) := bs.mapIdx fun i b => (pPlus ptr i, b)

/-- A write of one of the module's own units that has to wait on its way, or to leave the module: a request like any other, which nothing waits for (R72, R292, R294). -/
def State.posted (s : State) (g : BitVec 33) (ptr : W64) (bs : List Byte) : State :=
  s.newReq { client := .posted, kind := .write, org := unitOrigin g ptr, ptr := ptr, len := bs.length, pay := .store (bs.map some), stage := .context }

/-- Bytes written from a pointer upward: at once where every level lets them through, else as a request; a refusal writes nothing. (DESIGN CHOICE, log 45; DEDUCED, log 107) -/
def State.wrN (s : State) (g : BitVec 33) (ptr : W64) (bs : List Byte) : Except Walk State :=
  match s.level0 ptr bs.length with
  | some w => .error w
  | none =>
    match s.wrTargets g (ptrBytes ptr bs) with
    | .ok xs => .ok (s.applyTargets g xs)
    | .error .away => .ok (s.posted g ptr bs)
    | .error w => .error w

/-- A refusal as a walk reports it, if it ended in one. -/
def Walk.refusal : Walk → Option Refuse
  | .refuse r => some r | _ => none

end Sys2Proof.Machine
end

