-- ==== Sys2Proof/Machine/Post.lean ====
section
/-! DEFINITION. What the hardware writes to queues: fault queues, the physical log and the firmware queue (R360, R361), event queues
(R371), virtual error queues (R386), the service-request ring (R391); and the context descriptor in memory (R365). -/

namespace Sys2Proof.Machine

open Sys2Proof

/-! ## Queues (Table 16-5) -/

/-- The name of the physical log as a destination. -/
def dstPlog : Nat := 4096
/-- The name of the firmware fault queue as a destination. -/
def dstFw : Nat := 4097

/-- The header of a destination's queue: a context's, the physical log's or firmware's (R360). -/
def State.queuePtr (s : State) (dst : Nat) : W64 :=
  if dst = dstPlog then s.regs.plog else if dst = dstFw then s.regs.fwq else (s.ctx dst).fq
/-- The guidon under which the hardware reaches a destination's queue: the system, in the context whose labels name it. -/
def State.queueGuidon (s : State) (dst : Nat) : BitVec 33 := s.sysGuidon (if dst < 4096 then dst else 0) 6

/-- A word of memory, zero where a level refuses it. -/
def State.peek (s : State) (g : BitVec 33) (p : W64) (n : Nat) : Nat := match s.rdLe g p n with | .ok x => x | .error _ => 0
/-- Write a little-endian value; nothing where a level refuses it. -/
def State.poke (s : State) (g : BitVec 33) (p : W64) (n v : Nat) : State := match s.wrN g p (leBytes n v) with | .ok s' => s' | .error _ => s

/-- SIZE, WIDX and RIDX of a queue. -/
def State.queueIdx (s : State) (g : BitVec 33) (q : W64) : Nat × Nat × Nat := (s.peek g q 4, s.peek g (pPlus q 8) 8, s.peek g (pPlus q 16) 8)

/-- The queue of a destination can take a record now: its pointer is set, its header readable, and it is not full (R360, R361). -/
def State.queueRoom (s : State) (dst : Nat) : Bool :=
  let q := s.queuePtr dst
  let x := s.queueIdx (s.queueGuidon dst) q
  q ≠ 0 && x.1 ≠ 0 && x.2.1 - x.2.2 < x.1

/-- Write an entry and then WIDX (R360): the entry lies at header + 64 + 64·(i mod SIZE). (DEDUCED, log 107) -/
def State.putEntry (s : State) (dst : Nat) (rec_ : BitVec 256) (type : Nat) (wait : Bool) : State :=
  let q := s.queuePtr dst
  let g := s.queueGuidon dst
  let x := s.queueIdx g q
  let e := pPlus q (64 + 64 * (x.2.1 % x.1))
  let s := match s.wrN g e (leBytes 32 rec_.toNat ++ leBytes 8 (type % 256 + x.2.1 % 2 ^ 32 * 2 ^ 32) ++ leBytes 8 wait.toNat ++ leBytes 16 0) with
    | .ok s' => s' | .error _ => s
  s.poke g (pPlus q 8) 8 (x.2.1 + 1)

/-- Send an MSI-X to a context's virtual function, or hold it while the context is stopped (R371). -/
def State.msixTo (s : State) (c v : Nat) : State :=
  let x := s.ctx c
  match x.vst with
  | .run => { s with msix := s.msix ++ [(x.vf, v)] }
  | .reset => s
  | _ => s.setCtx c { x with msix := if x.msix.contains v then x.msix else x.msix ++ [v] }

/-- Raise an interrupt of a system core (R358): its first group that waits for one goes on, else it stays pending. (DESIGN CHOICE, log 39) -/
def State.irqTo (s : State) (n : Nat) : State :=
  match List.find? (fun p : Nat × Group => unitOfGid p.1 = 1536 + n && p.2.wait = .irq) s.groups with
  | some p => s.setGrp p.1 { p.2 with wait := .none, readyAt := s.now }
  | none => s.onCore (1536 + n) fun c => { c with irq := c.irq + 1 }

/-- Write an event to a context's event queue (R371, Table 16-13): counted as dropped in a reset context; an entry that finds the queue full is counted there too. (DEDUCED, log 40) -/
def State.postEvent (s : State) (c type v : Nat) (w1 w2 w3 : Nat) : State :=
  let x := s.ctx c
  let g := s.sysGuidon c 6
  let q := x.evq
  let dropped (s : State) : State := s.poke g (pPlus q 24) 8 (s.peek g (pPlus q 24) 8 + 1)
  if q = 0 then s.msixTo c v
  else if x.vst = .reset then dropped s
  else
    let i := s.queueIdx g q
    if i.1 = 0 || i.1 ≤ i.2.1 - i.2.2 then (dropped s).msixTo c v
    else
      let e := pPlus q (64 + 32 * (i.2.1 % i.1))
      let s := match s.wrN g e (leBytes 8 (v % 65536 + type % 65536 * 65536 + x.inc.toNat * 2 ^ 32) ++ leBytes 8 w1 ++ leBytes 8 w2 ++ leBytes 8 w3) with
        | .ok s' => s' | .error _ => s
      (s.poke g (pPlus q 8) 8 (i.2.1 + 1)).msixTo c v

/-- Count a record held for a full queue: HELD, OVF, and the interrupt (R361). (DESIGN CHOICE, log 39) -/
def State.queueFull (s : State) (dst : Nat) : State :=
  let q := s.queuePtr dst
  if q = 0 then s else
  let g := s.queueGuidon dst
  let h := s.peek g (pPlus q 28) 4 + 1
  let s := s.poke g (pPlus q 28) 4 h
  let s := s.poke g (pPlus q 24) 4 (s.peek g (pPlus q 24) 4 ||| 1)
  if dst < 4096 then s.postEvent dst 3 1 q.toNat h 0 else s.irqTo 0

/-- Post a full record to a destination's queue, or hold it behind the records held before it (R360, R361). -/
def State.post (s : State) (dst : Nat) (rec_ : BitVec 256) (type : Nat) (wait : Bool) (who : Option Nat) : State :=
  if s.posts.any (fun p => p.dst = dst) || !s.queueRoom dst then
    let held : State := { s with posts := s.posts ++ [⟨dst, rec_, type, wait, who⟩] }
    held.queueFull dst
  else
    let seq := (s.queueIdx (s.queueGuidon dst) (s.queuePtr dst)).2.1
    let s := s.putEntry dst rec_ type wait
    match wait, who with
    | true, some w => { s with awaits := s.awaits ++ [{ dst := dst, seq := seq % 2 ^ 32, who := w }] }
    | _, _ => s

/-- Post a guest-reduced copy: dropped and counted in DROP where the queue is full (R361). -/
def State.postCopy (s : State) (dst : Nat) (rec_ : BitVec 256) (type : Nat) : State :=
  if s.queueRoom dst then s.putEntry dst rec_ type false
  else
    let q := s.queuePtr dst
    if q = 0 then s else
    let g := s.queueGuidon dst
    let x := s.peek g (pPlus q 24) 4
    s.poke g (pPlus q 24) 4 (if x / 4 = 2 ^ 30 - 1 then x else x + 4)

/-- A notice about a thing to the firmware fault queue (R360 type 2). (DESIGN CHOICE, log 38; DEDUCED, log 107) -/
def State.notice (s : State) (kind about : Nat) : State := s.post dstFw (Config.noticeRec kind about) 2 false none

/-- Kinds of notice. (DESIGN CHOICE, log 38) -/
def ntPoison : Nat := 0
def ntDiscarded : Nat := 1
def ntPin : Nat := 2
def ntLeak : Nat := 3
def ntLostWriteBack : Nat := 4
def ntBlockDropped : Nat := 5
def ntFirewall : Nat := 6
def ntRing : Nat := 7

/-- An entry of a partition's virtual error queue (R386): dropped and counted where the queue is full. -/
def State.virtualError (s : State) (type ctx : Nat) (ptr : W64) (lid : Nat) : State :=
  let p := FMap.getD s.parts (s.ctx ctx).part {}
  let g := s.sysGuidon ctx 6
  let q := p.evq
  if q = 0 then s else
  let i := s.queueIdx g q
  if i.1 = 0 || i.1 ≤ i.2.1 - i.2.2 then
    let x := s.peek g (pPlus q 24) 4
    s.poke g (pPlus q 24) 4 (if x / 4 = 2 ^ 30 - 1 then x else x + 4)
  else
    let e := pPlus q (64 + 32 * (i.2.1 % i.1))
    let s := match s.wrN g e (leBytes 8 (type * 2 ^ 48 + ctx % 4096 * 2 ^ 36) ++ leBytes 8 ptr.toNat ++ leBytes 8 (lid % 2 ^ 14 * 2 ^ 50)
        ++ leBytes 8 s.regs.cyc.toNat) with
      | .ok s' => s' | .error _ => s
    s.poke g (pPlus q 8) 8 (i.2.1 + 1)

/-- A service request with a reason (R391): SRQ, SRCNT, SRCODE and a record of the ring. -/
def State.service (s : State) (reason unit : Nat) : State :=
  { s with regs := { s.regs with
      srq := true
      srcnt := min 65535 (s.regs.srcnt + 1)
      srcode := reason
      srRing := FMap.put s.regs.srRing s.regs.srNext
        (BitVec.ofNat 128 (reason % 65536 + unit % 2 ^ 48 * 2 ^ 16 + s.regs.cyc.toNat * 2 ^ 64)) 0
      srNext := (s.regs.srNext + 1) % 16 } }

/-! ## Refusals (Table 3-10) -/

/-- Deliver the records of a refusal: the full record to its owner, with WAIT where a request is held for it, and the context's own copy.
A refusal by another module leaves its full record there; the physical log here has one too, and answers for it. -/
def State.report (s : State) (o : Origin) (k : AKind) (r : Refuse) (who : Option Nat) : State :=
  let c := gCtx o.guidon
  let w := who.isSome
  let full := faultRec o k r
  if r.level ≤ 1 then s.post c full 0 w who
  else
    let s := if r.remote then s.post dstPlog full 0 w who
      else if r.level = 4 then s.post dstFw full 0 w who else s.post dstPlog full 0 w who
    s.postCopy c (guestRec o k r) 0

/-! ## Context descriptors (R365) -/

/-- The guidon under which the device reads and writes descriptors. -/
def State.descGuidon (s : State) : BitVec 33 := s.sysGuidon 0 6

/-- VST codes (Table 16-7). -/
def VSt.code : VSt → Nat | .run => 0 | .desched => 1 | .paused => 2 | .reset => 3

/-- Read a context's descriptor again: the device does so when its pointer is written and at `PSTART`; the hypervisor writes it only while
the context is stopped. INC and VST are the device's own. (DEDUCED, log 96) -/
def State.loadDesc (s : State) (c : Nat) : State :=
  let x := s.ctx c
  if x.ptr = 0 then s else
  match s.rdN s.descGuidon x.ptr 80 with
  | .error _ => s
  | .ok bs =>
    let w (i : Nat) : Nat := leNat (((bs.map fun b => b.1).drop (8 * i)).take 8)
    s.setCtx c { x with
      ctab := BitVec.ofNat 64 (w 0)
      cwp := w 1 / 2 ^ 32 % 8, cwb := w 1 / 2 ^ 16 % 2 ^ 16, cws := w 1 % 2 ^ 16
      hcode := BitVec.ofNat 64 (w 2)
      hent := BitVec.ofNat 32 (w 3 / 2 ^ 32), hlen := BitVec.ofNat 32 (w 3)
      fq := BitVec.ofNat 64 (w 4), evq := BitVec.ofNat 64 (w 5), save := BitVec.ofNat 64 (w 6)
      cob := BitVec.ofNat 12 (w 7 / 2 ^ 18), part := w 7 / 2 ^ 12 % 16, vf := w 7 % 2 ^ 12
      cobk := BitVec.ofNat 64 (w 8), savesz := w 9 % 2 ^ 32 }

/-- Write INC and VST of a context to its descriptor. -/
def State.storeDesc (s : State) (c : Nat) : State :=
  let x := s.ctx c
  if x.ptr = 0 then s
  else s.poke s.descGuidon (pPlus x.ptr 0x38) 8
    (x.vf + x.part * 2 ^ 12 + x.cob.toNat * 2 ^ 18 + x.vst.code * 2 ^ 30 + x.inc.toNat * 2 ^ 32)

end Sys2Proof.Machine
end

