-- ==== Sys2Proof/Machine/Ops.lean ====
section
/-! DEFINITION. What every instruction goes through: the run-time checks in their order (R203), the end of a run (R303), commit points
(R180), taking a trap and returning from it (R352 to R358), the end of a group (R252) and the drop of a block (R329, R381, R382). -/

namespace Sys2Proof.Machine

open Sys2Proof Sys2Proof.Decode

/-! ## Codes of causes (Table 16-1) -/

/-- The code of a cause. -/
def Cause.code (c : Cause) : Nat := c.ctorIdx + 1

/-! ## Runs (R303, R304) -/

/-- The group whose run holds the lane whose turn it is. -/
def State.issuer (s : State) : Option Nat :=
  match FMap.find? s.lanes s.cur with
  | some l =>
    (match l.slot with
     | some k => let gid := s.cur / 32 * 256 + k; if (FMap.find? s.groups gid).isSome then some gid else none
     | none => none)
  | none => none

/-- Free the lane of a group that holds it. -/
def State.freeLane (s : State) (key slot : Nat) : State :=
  match FMap.find? s.lanes key with
  | some l => if l.slot = some slot then { s with lanes := FMap.put s.lanes key { l with slot := none } {} } else s
  | none => s

/-- End a group's run: the lane arbitrates before its next instruction (R303). -/
def State.endRun (s : State) (gid : Nat) : State :=
  let g := s.grp gid
  (s.setGrp gid { g with run := 0, lastEnd := some s.now, readyAt := s.now }).freeLane (laneKey (s.blk g.blk) g (unitOfGid gid)) (slotOfGid gid)

/-! ## Commit points (R180) -/

/-- A commit point: the block is past its containment window, and its held entries may drain. -/
def State.commit (s : State) (k : Nat) : State := s.onBlk k fun b => { b with rl := false }

/-- Clear the restartable flag of a block (R366). -/
def State.noRestart (s : State) (k : Nat) : State := s.onBlk k fun b => { b with rs := false }

/-- The entries of a block's store buffer (R178), by number. -/
def State.bufferOf (s : State) (k : Nat) : FMap Wr := FMap.keep s.wrs fun _ w => w.blk = k && w.place = WPlace.buffer

/-! ## Taking a trap (R352 to R356) -/

/-- The memory of a group's trap frame (R353, R354). -/
def State.frameAddr (s : State) (gid : Nat) : Nat :=
  let u := unitOfGid gid
  let g := s.grp gid
  if isSys u then chipAddr (0xFFFFE00 + 64 * (u - 1536)) else frameOf (s.blk g.blk).place g.num 0

/-- The first 32 bytes of a trap frame (Table 16-2). -/
def frameWords (g : Group) (t : Trap) (rpc : W32) : List Byte :=
  leBytes 8 (g.pc.toNat + rpc.toNat * 2 ^ 32)
  ++ leBytes 8 (t.cause.code + t.detail % 256 * 2 ^ 8 + t.field % 4 * 2 ^ 16 + t.thread % 32 * 2 ^ 18 + g.rgn.isSome.toNat * 2 ^ 23 + g.ent.toNat * 2 ^ 32)
  ++ leBytes 8 (g.act.toNat + t.aux0.toNat * 2 ^ 32)
  ++ leBytes 8 t.aux1.toNat

/-- The trap frame of a trap (Table 16-2, Table 16-3): 64 bytes. -/
def frameBytes (g : Group) (t : Trap) (rpc : W32) : List Byte := frameWords g t rpc ++ leBytes 32 t.frec.toNat

/-- The record of a nested trap (R356): the first 16 bytes of the frame that stands and of the frame that the nested trap would have written. (DEDUCED, log 101) -/
def nestedRec (s : State) (gid : Nat) (t : Trap) (rpc : W32) : BitVec 256 :=
  BitVec.ofNat 256 (leNat (s.bytes (s.frameAddr gid) 16 ++ (frameWords (s.grp gid) t rpc).take 16))

/-- The resume index of a trap: after the instruction for a software trap, which has retired (Table 16-1). -/
def trapRpc (g : Group) (t : Trap) : W32 := if t.cause = .software then g.pc + 1 else g.pc

/-- Take a trap in a group (R352 to R356): its frame and shadow are written, its in-handler flag set, and the context's handler starts
with the mask unchanged; inside a handler, and where the context has none, the trap is nested and the group stops. It ends the group's wait and its run. -/
def State.takeTrap (s : State) (gid : Nat) (t : Trap) : State :=
  let g := s.grp gid
  let x := s.ctx (s.blk g.blk).ctx
  let rpc := trapRpc g t
  if g.inH || x.hlen = 0 then
    let r := nestedRec s gid t rpc
    let s := s.setGrp gid { g with pc := rpc, wait := .nested, since := s.now, cont := none, stuck := none, hkind := 0 }
    ((s.endRun gid).post (s.blk g.blk).ctx r 5 false none).post dstPlog r 5 false none
  else
    let s := { s with
      mem := Memory.writeN s.mem (s.frameAddr gid) (frameBytes g t rpc)
      pois := ((List.range 64).map fun i => unitOf (s.frameAddr gid + i)).foldl FMap.erase s.pois }
    let s := s.setGrp gid { g with
      shadow := ⟨g.code, g.len, g.act, g.stack.length, g.cont⟩
      inH := true, code := x.hcode, len := x.hlen, pc := x.hent
      wait := .none, cont := none, stuck := none, hkind := 0 }
    s.endRun gid

/-- Make a trap due at a group's next instruction; a parked, sleeping or waiting group leaves its wait for it (R352). -/
def State.dueTrap (s : State) (gid : Nat) (t : Trap) : State :=
  s.onGrp gid fun g => { g with
    due := g.due ++ [t]
    wait := match g.wait with | .halted => .halted | .nested => .nested | _ => .none
    readyAt := match g.wait with | .none | .halted | .nested => g.readyAt | _ => s.now }

/-! ## The end of a group (R252) -/

/-- The resident groups of a block. -/
def State.groupsOf (s : State) (k : Nat) : List Nat := (s.groups.filter fun p => p.2.blk = k).map fun p => p.1

/-- A request reads for a group alone: an instruction line, bytes that an instruction needs at issue, or a watched word. -/
def State.readsFor (s : State) (gid : Nat) (q : Req) : Bool :=
  match q.client with
  | .fetch g | .range g => g = gid
  | .watch w => (match FMap.find? s.watches w with | some x => decide (x.gid = gid) | none => true)
  | _ => false

/-- Discard what a group still waits for: its outstanding results, its watches, its fetches (R252). (DEDUCED, log 26) -/
def State.dropOps (s : State) (gid : Nat) : State :=
  let s := (s.reqs.filter fun x => s.readsFor gid x.2).foldl (fun s x => s.dropReq x.1) s
  { s with
    ops := FMap.keep s.ops fun _ o => match o with
      | .load l => l.gid ≠ gid | .atom _ => true | .sfu a => a.gid ≠ gid | .srd a => a.gid ≠ gid | .gth a => a.gid ≠ gid
    watches := FMap.keep s.watches fun _ w => w.gid ≠ gid }

/-- A name of no group, under which whatever an ended group has issued goes on: on a unit that no core or block has. (DEDUCED, log 26) -/
def deadName (n : Nat) : Nat := (offCore + 2 * n + 1) * 256
/-- The name is that of a group that has ended. (DEDUCED, log 26) -/
def isDead (gid : Nat) : Bool := offCore ≤ unitOfGid gid && unitOfGid gid % 2 = 1
/-- The name of an ended group that nothing else tells of. (DEDUCED, log 26) -/
def orphan : Nat := deadName 0

/-- An operation under another group's name. -/
def Op.regid (o : Op) (f : Nat → Nat) : Op :=
  match o with
  | .load x => .load { x with gid := f x.gid }
  | .atom x => .atom { x with gid := f x.gid }
  | .sfu x => .sfu { x with gid := f x.gid }
  | .srd x => .srd { x with gid := f x.gid }
  | .gth x => .gth { x with gid := f x.gid }

/-- A request's client under another group's name. -/
def Client.regid (c : Client) (f : Nat → Nat) : Client :=
  match c with | .fetch g => .fetch (f g) | .range g => .range (f g) | c => c

/-- Everything that a group has issued, under another name: its slot has gone, or it has moved. -/
def State.regid (s : State) (old new : Nat) : State :=
  let f (g : Nat) : Nat := if g = old then new else g
  { s with
    reqs := FMap.mapVals s.reqs fun _ q => { q with client := q.client.regid f }
    ops := FMap.mapVals s.ops fun _ o => o.regid f
    wrs := FMap.mapVals s.wrs fun _ w => { w with src := w.src.map (fun x => { x with gid := f x.gid }), seen := w.seen.map f, cover := w.cover.map fun x => { x with gid := f x.gid } }
    copies := FMap.mapVals s.copies fun _ c => { c with gid := f c.gid }
    eops := FMap.mapVals s.eops fun _ e => { e with gid := f e.gid }
    nops := FMap.mapVals s.nops fun _ n => { n with gid := f n.gid }
    watches := FMap.mapVals s.watches fun _ w => { w with gid := f w.gid }
    cores := FMap.mapVals s.cores fun _ c => { c with slots := FMap.mapVals c.slots fun _ p => { p with own := f p.own } }
    hbm := FMap.mapVals s.hbm fun _ k => { k with reloc := k.reloc.map fun r => { r with gid := f r.gid } }
    hoist := s.hoist.map fun h => { h with gid := h.gid.map f } }

/-- Everything that an ended group has issued goes on under a name of its own. (DEDUCED, log 26) -/
def State.bury (s : State) (gid : Nat) : State := { (s.regid gid (deadName (s.nextId + 1))) with nextId := s.nextId + 1 }

/-- An engine operation still has a use for a tile slot of a core. -/
def EOp.uses (e : EOp) (u slot : Nat) : Bool :=
  !e.tileDone && ((e.unit = u && e.bind.slot = slot) || (e.bind.pair && e.unit + 1 = u && e.bind.slot2 = slot))

/-- Free the tile slots whose names have been released and which no queued operation uses (R255, R259). -/
def State.sweepSlots (s : State) : State :=
  { s with cores := FMap.mapVals s.cores fun u c => { c with slots := FMap.keep c.slots fun k p => !(p.rel && !s.eops.any fun e => e.2.uses u k) } }

/-- Release every tile name of a group (R255). -/
def State.releaseTiles (s : State) (gid : Nat) : State :=
  State.sweepSlots { s with cores := FMap.mapVals s.cores fun _ c => { c with slots := FMap.mapVals c.slots fun _ p => if p.own = gid then { p with rel := true } else p } }

/-- The hang count of a context starts again: one of R337's conditions has failed. (DEDUCED, log 99) -/
def State.hangAgain (s : State) (c : Nat) : State := s.setCtx c { s.ctx c with hangAt := s.now }

/-- End a group: its slot and lane are free, the results it awaits are discarded, everything it has issued goes on; the end of the
block's last group is a commit point (R252, R180). A group that never passed its pennant is noted for its launch (R300). (DEDUCED, log 26) -/
def State.endGroup (s : State) (gid : Nat) : State :=
  let g := s.grp gid
  let b := s.blk g.blk
  let s := (s.hangAgain b.ctx).freeLane (laneKey b g (unitOfGid gid)) (slotOfGid gid)
  let s := { s.dropOps gid with
    groups := FMap.erase s.groups gid
    copies := FMap.keep s.copies fun _ c => !(c.gid = gid && c.done)
    nops := FMap.keep s.nops fun _ n => !(n.gid = gid && n.done)
    eops := FMap.keep s.eops fun _ e => !(e.gid = gid && e.done) }
  let s := s.releaseTiles gid
  let name := deadName (s.nextId + 1)
  let s := s.bury gid
  let s := s.onBlk g.blk fun b => { b with live := b.live - 1, groups := b.groups.filter fun x => x ≠ gid }
  let s := match b.lid with
    | some l => { s with recs := FMap.modify s.recs l fun r => { r with
        ended := r.ended + 1
        silent := if b.passedG.contains g.num then r.silent else r.silent ++ [(g.blk, g.num, name)] } }
    | none => s
  if b.live ≤ 1 then s.commit g.blk else s

/-! ## Dropping a block (R381, R382) -/

/-- Relaunches that a block is allowed (R391): 0 is taken as 1. -/
def State.rlimit (s : State) : Nat := max 1 s.regs.rlim

/-- Every TENT register of a group becomes POIS, with tag 31 (R382, R194). -/
def Group.poisonTent (g : Group) : Group :=
  { g with
    t := FMap.mapVals g.t fun _ r => if r.st.isTent then { r with st := .pois, tag := 31 } else r
    w := FMap.mapVals g.w fun _ r => if r.st.isTent then { r with st := .pois, tag := 31 } else r
    p := FMap.mapVals g.p fun _ r => if r.st.isTent then { r with st := .pois } else r
    q := FMap.mapVals g.q fun _ r => if r.st.isTent then { r with st := .pois } else r }

/-- Results on their way to some groups: those that are TENT become POIS (R199, R382). -/
def Op.poisonTent (gids : List Nat) : Op → Op
  | .sfu a => .sfu (if gids.contains a.gid then { a with vals := a.vals.map fun x => if x.2.2.1.isTent then (x.1, x.2.1, .pois, x.2.2.2) else x } else a)
  | .srd a => .srd (if gids.contains a.gid then { a with vals := a.vals.map fun x => if x.2.st.isTent then (x.1, { x.2 with st := .pois, tag := 31 }) else x } else a)
  | o => o

/-- The name under which a block on no core is kept as if it were on one; its follower core has the next. -/
def offUnit (k : Nat) : Nat := offCore + 2 * k
/-- A block is on a core. -/
def Block.onCore (b : Block) : Bool := b.core < offCore

/-- A block as its restart finds it: its place in the launch kept, everything it did gone (R381, R298). -/
def Block.fresh (b : Block) : Block :=
  { b with groups := [], live := 0, rl := true, rs := b.hdr.idem, ran := 0, stop := none, tents := 0, seals := [] }

/-- Remove a block's groups and what they hold on the core: registers, tiles, outstanding results, operations, copies, held writes. -/
def State.clearBlock (s : State) (k : Nat) : State :=
  let gids := s.groupsOf k
  let s := s.hangAgain (s.blk k).ctx
  let s := gids.foldl (fun s gid => (s.freeLane (laneKey (s.blk k) (s.grp gid) (unitOfGid gid)) (slotOfGid gid)).dropOps gid) s
  let s := (s.reqs.filter fun x => match x.2.client with
      | .copy j _ => (match FMap.find? s.copies j with | some c => gids.contains c.gid | none => false)
      | .eop j _ => (match FMap.find? s.eops j with | some e => gids.contains e.gid | none => false)
      | _ => false).foldl (fun s x => s.dropReq x.1) s
  let s := { s with
    groups := FMap.keep s.groups fun _ g => g.blk ≠ k
    wrs := FMap.keep s.wrs fun _ w => !(w.blk = k && (w.place = WPlace.buffer || w.place = WPlace.log))
    copies := FMap.keep s.copies fun _ c => !gids.contains c.gid
    eops := FMap.keep s.eops fun _ e => !gids.contains e.gid
    ops := FMap.keep s.ops fun _ o => match o with | .atom a => !gids.contains a.gid | _ => true
    cores := FMap.mapVals s.cores fun _ c => { c with slots := FMap.keep c.slots fun _ p => !gids.contains p.own } }
  gids.foldl State.bury s

/-- Send a block back to the placement path, to start afresh (R368, R381). -/
def State.requeue (s : State) (k : Nat) (b : Block) : State :=
  let old := s.blk k
  { s with
    recs := match b.lid with
      | some l => FMap.modify s.recs l fun r => { r with ended := r.ended - (b.ngrp - old.live), silent := r.silent.filter fun x => x.1 ≠ k }
      | none => s.recs
    blocks := FMap.insert s.blocks k { b with core := offUnit k }
    saved := FMap.insert s.saved k { from_ := if b.onCore then b.core else ((FMap.find? s.saved k).map fun x => x.from_).getD 0, restart := true } }

/-- Drop a block inside its containment window, or, past its relaunches or its first commit point, make "uncontained error" due in each of
its groups (R381, R382, R148). -/
def State.dropBlock (s : State) (k : Nat) : State :=
  let b := s.blk k
  if b.rl && b.relaunched < s.rlimit then
    let s := s.clearBlock k
    let s := s.requeue k { b.fresh with relaunched := b.relaunched + 1 }
    let s := { s with saved := FMap.modify s.saved k fun v => { v with dropped := true } }
    (s.notice ntBlockDropped k).virtualError 4 b.ctx 0 (b.lid.getD 0)
  else
    let gids := s.groupsOf k
    let s := { s with
      wrs := FMap.keep s.wrs fun _ w => !(w.blk = k && ((w.place = WPlace.buffer && b.rl) || w.tent.isSome))
      ops := FMap.mapVals s.ops fun _ o => o.poisonTent gids }
    let s := gids.foldl (fun s gid => (s.onGrp gid Group.poisonTent).dueTrap gid { cause := .uncontained }) s
    s.virtualError 5 b.ctx 0 (b.lid.getD 0)

/-! ## The checks of an instruction (R203) -/

/-- How a position uses its source (R195, R199 to R202): not at all; as data, under a reader's format or untyped; as the data of a write
that leaves the registers; as an address operand; as a control decision. -/
inductive Role | unused | data (f : Option Fmt) | out (f : Option Fmt) | addr | ctrl
  deriving DecidableEq, Repr

/-- The format that ATOM and RED read their data in (Table 9-2). -/
def atyFmt : ATy → Option Fmt
  | .f32 => some .f32 | .f64 => some .f64 | .bf16x2 => some .bf16 | .f16x2 => some .f16 | _ => none
/-- The format of an access type. -/
def tyFmt : Ty → Option Fmt | .fmt f => some f | _ => none
/-- The log format a modifier names. -/
def lfFmt : LF → Fmt | .l6 => .l6 | .l8 => .l8 | .l4 => .l4
/-- The format of packed arithmetic. -/
def hfFmt (hf : Bool) : Fmt := if hf then .f16 else .bf16

/-- The roles of D, A and B (Table 9-2, R199, R201). D is a source only where the instruction reads it. (DEDUCED, log 13) -/
def roles : Instr → Role × Role × Role
  | .setp m _ => let f := match m.cls with | .int => none | .f32 => some Fmt.f32 | .f64 => some Fmt.f64; (.unused, .data f, .data f)
  | .pmk _ _ | .padd _ _ | .pdif _ => (.unused, .addr, .addr)
  | .pget _ _ | .pform _ _ => (.unused, .addr, .unused)
  | .pset _ _ => (.addr, .addr, .unused)
  | .fadd _ _ | .fsub _ _ | .fmul _ _ | .fmin _ | .fmax _ | .fcmp _ _ => (.unused, .data (some .f32), .data (some .f32))
  | .ffma _ _ | .ffms _ _ | .fnma _ _ => (.data (some .f32), .data (some .f32), .data (some .f32))
  | .fclass _ | .frnd _ _ | .fexpo _ | .scle _ _ => (.unused, .data (some .f32), .unused)
  | .fscale _ _ => (.unused, .data (some .f32), .data none)
  | .dadd _ _ | .dmul _ _ | .dcmp _ _ => (.unused, .data (some .f64), .data (some .f64))
  | .dfma _ _ => (.data (some .f64), .data (some .f64), .data (some .f64))
  | .hadd2 m _ | .hmul2 m _ => (.unused, .data (some (hfFmt m.hf)), .data (some (hfFmt m.hf)))
  | .hmin2 m _ | .hmax2 m _ => (.unused, .data (some (hfFmt m)), .data (some (hfFmt m)))
  | .hfma2 m _ => let f := some (hfFmt m.hf); (.data f, .data f, .data f)
  | .cvti m _ => (.unused, .data (if m.f2i then some m.fmt else none), if m.rm = .rs then .data none else .unused)
  | .lmul m _ | .ladd m _ => (.unused, .data (some (lfFmt m)), .data (some (lfFmt m)))
  | .frcp _ | .frsq _ | .fsqrt _ | .fex2 _ | .flg2 _ | .fsin _ | .fcos _ | .ftanh _ | .fsigm _ => (.unused, .data (some .f32), .unused)
  | .gred m _ => (.unused, .data (if m.ty = .f32 then some .f32 else none), .unused)
  | .gscn m _ => (.unused, .data (if m.ty = .f32 then some .f32 else none), .unused)
  | .brai _ => (.unused, .ctrl, .ctrl)
  | .ret _ => (.unused, .ctrl, .unused)
  | .ifp _ | .loope _ | .brkp _ | .contp _ => (.unused, .ctrl, .unused)
  | .ld _ _ | .lds _ _ | .pref _ _ => (.unused, .addr, .unused)
  | .st m _ => (.unused, .addr, .out (tyFmt m.ty))
  | .ldv _ _ => (.unused, .addr, .addr)
  | .stv m _ => (.addr, .addr, .out (tyFmt m.ty))
  | .sts m _ => (.unused, .addr, .out m.fmt)
  | .atom m _ => (if m.v then .addr else if m.op = .cas then .out (atyFmt m.ty) else .unused, .addr, .out (atyFmt m.ty))
  | .red m _ => (.unused, .addr, .out (atyFmt m.ty))
  | .wbr _ _ => (.unused, .addr, .addr)
  | .invl1 m _ | .icinv m _ => if m.all then (.unused, .unused, .unused) else (.unused, .addr, .addr)
  | .cpy _ | .cpys _ => (.unused, .addr, .addr)
  | .sleept _ _ | .waitc _ _ => (.unused, .addr, .unused)
  | .mma _ _ | .mdist _ _ => (.unused, .addr, .addr)
  | .magr _ | .mprog _ | .mwait _ => (.unused, .addr, .unused)
  | .mtopkMem _ _ => (.unused, .unused, .addr)
  | .mldt _ _ | .mstt _ | .mdrn _ _ => (.unused, .addr, .unused)
  | .arv _ _ | .wtb _ _ | .arw _ _ | .binit _ _ => (.unused, .addr, .addr)
  | .watch _ _ => (.unused, .addr, .addr)
  | .rsend _ => (.addr, .addr, .addr)
  | .rpost _ => (.unused, .addr, .unused)
  | .rflush _ => (.unused, .unused, .addr)
  | .coll _ _ => (.unused, .addr, .addr)
  | .launch _ _ | .mbxfwd _ _ => (.unused, .addr, .addr)
  | .reloc _ | .ltwr _ _ => (.unused, .addr, .addr)
  | .linv _ _ | .gateClose _ _ | .gateOpen _ _ | .hoistJoin _ | .hoistLeave _ | .hoistEvict _ | .hoistRekey _ | .eqpop _ _
  | .pstopSave _ | .pstopHalt _ | .pstopPause _ | .pstopReset _ | .pstart _ => (.unused, .addr, .unused)
  | i =>
    let sp := spec i
    let r (p : Pos) : Role := if p.ks = [] || p.ks = [.tile] || p.ks = [.ag] then .unused else .data none
    (if sp.readsD then .data none else .unused, r sp.a, r sp.b)

/-- A source as the checks see it: its field (1 D, 2 A, 3 B), its empty-action bit, its role, and its value for each acting thread. -/
structure Read where
  field : Nat
  ea    : Bool
  role  : Role
  vals  : List (Nat × Val)
  deriving DecidableEq, Repr

/-- The value of a source of kind 2 as a value. -/
def prVal (r : PReg) : Val := { v := r.v.toNat, st := r.st }

/-- The value of an operand for a thread, of whatever kind. -/
def srcVal (c : Iss) (t : Nat) (p : Pos) (x lo : Opd) : Val :=
  if p.ks = [.pr] then prVal (readPr c t x) else readOp c t p x lo

/-- The sources of an instruction in the order D, A, B, for some acting threads. -/
def reads (c : Iss) (i : Instr) (o : Args) (ts : List Nat) : List Read :=
  let sp := spec i
  let r := roles i
  let mk (n : Nat) (role : Role) (p : Pos) (x lo : Operand) : List Read :=
    if role = .unused then [] else [⟨n, x.ea, role, ts.map fun t => (t, srcVal c t p x.x lo.x)⟩]
  mk 1 r.1 sp.d o.d o.d ++ mk 2 r.2.1 sp.a o.a o.b ++ mk 3 r.2.2 sp.b o.b o.a

/-- What ends an instruction before its effect: a trap, a wait (from a state that a forced commit may have changed), or poison consumed
inside the containment window. -/
inductive Stop
  | trap (t : Trap)
  | wait (s : State)
  | hang (s : State) (kind : Nat)        -- a wait that is a hang wait of a kind (R337)
  | drop
  deriving DecidableEq, Repr

/-- A tag is accepted by a reader (R194, R195): a reserved tag only by untyped readers. A register in POIS, whose tag is 31, is
accepted by every reader; both halves of a pair must be. -/
def tagFits (f : Option Fmt) (x : Val) : Bool :=
  match f with | none => true | some f => (x.tag = fmtCode f || x.tag = 31) && (x.tag2 = fmtCode f || x.tag2 = 31)

/-- The format that a role reads in. -/
def Role.fmt : Role → Option Fmt | .data f | .out f => f | _ => none
/-- A role whose TENT source waits before acting (R199, R147). -/
def Role.waits : Role → Bool | .addr | .ctrl => true | _ => false
/-- A role that consumes poison (R200). -/
def Role.consumes : Role → Bool | .out _ | .addr | .ctrl => true | _ => false

/-- Check 1: an EMPTY source waits, or traps under empty-action 1 (R198). -/
def checkEmpty (c : Iss) (rs : List Read) : Option Stop :=
  match rs.find? fun r => r.vals.any fun x => x.2.st = .empty with
  | none => none
  | some r =>
    if r.ea then
      match r.vals.find? fun x => x.2.st = .empty with
      | some x => some (.trap { cause := .emptyRead, field := r.field, thread := x.1 })
      | none => none
    else some (.wait c.s)

/-- Check 2: tags (R195). (DEDUCED, log 19) -/
def checkTags (rs : List Read) : Option Stop :=
  match rs.find? fun r => r.vals.any fun x => !tagFits r.role.fmt x.2 with
  | none => none
  | some r =>
    match r.role.fmt, r.vals.find? fun x => !tagFits r.role.fmt x.2 with
    | some f, some x =>
      let found := if x.2.tag = fmtCode f || x.2.tag = 31 then x.2.tag2 else x.2.tag
      some (.trap { cause := .formatMismatch, field := r.field, thread := x.1, aux0 := BitVec.ofNat 32 (fmtCode f * 256 + found) })
    | _, _ => none

/-- The states that a guard has for its readers. -/
def guardStates (c : Iss) (h : Hdr) : List (Nat × RState) := (guardThreads c h).map fun t => (t, (guardAt c h t).2)

/-- Check 3: a TENT guard, address operand or control decision waits (R199, R147). -/
def checkTent (c : Iss) (h : Hdr) (rs : List Read) : Option Stop :=
  if (guardStates c h).any (fun x => x.2.isTent) || rs.any (fun r => r.role.waits && r.vals.any fun x => x.2.st.isTent)
  then some (.wait c.s) else none

/-- Consumed poison: inside the window the block is dropped, past it the instruction traps (R200). -/
def consume (c : Iss) (thread : Nat) : Stop := if c.b.rl then .drop else .trap { cause := .poisonConsumed, thread := thread }

/-- Check 4: consumption (R200). -/
def checkPois (c : Iss) (h : Hdr) (rs : List Read) : Option Stop :=
  let ts := ((guardStates c h).filter fun x => x.2 = .pois).map (fun x => x.1)
    ++ rs.flatMap fun r => if r.role.consumes then (r.vals.filter fun x => x.2.st = .pois).map fun x => x.1 else []
  match ts with
  | [] => none
  | t :: rest => some (consume c (rest.foldl min t))

/-- The checks of R203 in order, over the sources given; the destination that is still EMPTY waits (R198). `own` is what a tag check of the instruction's
own finds. -/
def runChecks (c : Iss) (h : Hdr) (rs : List Read) (dst : Bool) (own : Option Stop := none) : Option Stop :=
  match checkEmpty c rs with
  | some x => some x
  | none =>
  if dst then some (.wait c.s) else
  match checkTags rs with
  | some x => some x
  | none =>
  match own with
  | some x => some x
  | none =>
  match checkTent c h rs with
  | some x => some x
  | none => checkPois c h rs

/-- The checks of an instruction whose sources are its operands: the acting threads, or what stops it. -/
def start (c : Iss) (i : Instr) (o : Args) (own : Option Stop := none) : Except Stop (List Nat) :=
  let ts := acting c o.hdr
  match runChecks c o.hdr (reads c i o ts) (dstEmpty c ts (spec i).d.width o.d.x) own with
  | some x => .error x
  | none => .ok ts

/-! ## Issuing a word -/

/-- After an instruction: the count of the run, the rule for an empty mask (R250), and the end of the run (R303). A group that has ended is gone. -/
def State.retire (s : State) (gid : Nat) (h : Hdr) (jumps ends : Bool) : State :=
  match FMap.find? s.groups gid with
  | none => s
  | some g =>
    let g := { g with pc := if jumps then g.pc else g.pc + 1, run := g.run + 1, stuck := none, hkind := 0 }
    let past := ends || h.b || 24 ≤ g.run || g.wait ≠ .none
    if g.act = 0 then
      match g.stack with
      | [] => s.endGroup gid
      | e :: _ => let s := s.setGrp gid { g with pc := e.res }; if past then s.endRun gid else s
    else
      let s := s.setGrp gid g
      if past then s.endRun gid else s

/-- The instruction retires; the next index follows. -/
def State.pass (s : State) (gid : Nat) : State := s.onGrp gid fun g => { g with pc := g.pc + 1, cont := none }

/-- A group's instruction waits at issue, in a hang wait of a kind or none (R337). -/
def State.stick (s : State) (gid kind : Nat) : State :=
  s.onGrp gid fun g => { g with stuck := match g.stuck with | some t => some t | none => some s.now, hkind := kind }

/-- What becomes of a stopped instruction: it has not issued, and the run has ended (R303, R352, R381). -/
def State.stopped (s : State) (gid : Nat) : Stop → State
  | .trap t => s.takeTrap gid t
  | .wait s' => (s'.stick gid 0).endRun gid
  | .hang s' k => (s'.stick gid k).endRun gid
  | .drop => (s.endRun gid).dropBlock (s.grp gid).blk

/-- Issue a word that may also end in a state of its own: a trap taken after a change of state. -/
def issueOr (o : Args) (s : State) (jumps ends : Bool) (f : Iss → Except Stop (Except State State)) : Host.Outcome State Fault Refusal :=
  match s.issuer with
  | none => .refused .noGroup
  | some gid =>
    let g := s.grp gid
    match f ⟨s, gid, g, s.blk g.blk⟩ with
    | .ok (.ok s') => .next (s'.retire gid o.hdr jumps ends)
    | .ok (.error s') => .next s'
    | .error x => .next (s.stopped gid x)

/-- Issue a word for the group that holds the lane: its effect, or what stopped it. `jumps` where the effect sets the pc itself, `ends`
where the instruction always ends its run (R303). -/
def issue (o : Args) (s : State) (jumps ends : Bool) (f : Iss → Except Stop State) : Host.Outcome State Fault Refusal :=
  match s.issuer with
  | none => .refused .noGroup
  | some gid =>
    let g := s.grp gid
    match f ⟨s, gid, g, s.blk g.blk⟩ with
    | .ok s' => .next (s'.retire gid o.hdr jumps ends)
    | .error x => .next (s.stopped gid x)

/-- One more producer in flight (R198). -/
def State.addOp (s : State) (o : Op) : State := { s with ops := FMap.insert s.ops s.nextId o, nextId := s.nextId + 1 }

/-- A result: bits, tag, flags. -/
structure Res where
  v   : Nat
  tag : Nat := 31
  fl  : Nat := 0
  deriving DecidableEq, Repr

/-- Deliver results to a destination, after `n` tentative deliveries to the block: each thread's value and flags; a POIS thread sets no flag (R200). -/
def putResults (n : Nat) (g : Group) (w : Nat) (d : Opd) (rs : List (Nat × Val × Nat)) : Group :=
  rs.foldl (fun g r => (writeOp g r.1 w d { r.2.1 with st := r.2.1.st.asOf n }).flag (if r.2.1.st = .pois then 0 else r.2.2)) g

/-- The sources of one thread: D, A, B (unused ones read as zero, FULL). -/
def srcs (c : Iss) (i : Instr) (o : Args) (t : Nat) : Val × Val × Val :=
  let sp := spec i
  let r := roles i
  (if r.1 = .unused then {} else srcVal c t sp.d o.d.x o.d.x,
   if r.2.1 = .unused then {} else srcVal c t sp.a o.a.x o.b.x,
   if r.2.2 = .unused then {} else srcVal c t sp.b o.b.x o.a.x)

/-- The worst state of the sources (R199, R200). -/
def worst (x : Val × Val × Val) : RState := (x.1.st.join x.2.1.st).join x.2.2.st

/-- An instruction that computes one result for each acting thread from its own sources, D, A and B, and delivers it to D (R219), with a tag check of its own. -/
def aluTags (i : Instr) (o : Args) (s : State) (own : Iss → Option Stop) (f : Nat → Val → Val → Val → Res) : Host.Outcome State Fault Refusal :=
  issue o s false false fun c =>
    match start c i o (own c) with
    | .error x => .error x
    | .ok ts =>
      let rs := ts.map fun t =>
        let x := srcs c i o t
        let r := f t x.1 x.2.1 x.2.2
        (t, ({ v := r.v, tag := r.tag, tag2 := r.tag, st := worst x } : Val), r.fl)
      .ok (c.s.setGrp c.gid (putResults c.b.tents c.g (spec i).d.width o.d.x rs))

/-- An instruction that computes one result for each acting thread, whose tags the reader classes alone check (R195, R219). -/
def alu (i : Instr) (o : Args) (s : State) (f : Nat → Val → Val → Val → Res) : Host.Outcome State Fault Refusal := aluTags i o s (fun _ => none) f

/-! ## Who issues an access (R67, R77) -/

/-- The guidon of a group's accesses in an engine class; a system core's is that of partition 15 with the supervisor flag, class 6 (Table 3-5). -/
def State.groupGuidon (s : State) (gid cls : Nat) : BitVec 33 :=
  let b := s.blk (s.grp gid).blk
  if isSys (unitOfGid gid) then guidonOf s.modNo 15 b.ctx (if cls = 0 || cls = 3 then 6 else cls) true false else guidonOf s.modNo b.part b.ctx cls false false

/-- The origin of an access of a thread (Table 3-8). -/
def originOf (c : Iss) (t : Nat) (ptr : W64) (cls : Nat) : Origin :=
  { ptr := ptr, pc := c.g.pc, guidon := c.s.groupGuidon c.gid cls, unit := unitNo (unitOfGid c.gid), slot := slotOfGid c.gid, thread := t }

/-- The precise "pointer fault" of level 0 (Table 3-10). -/
def pointerFault (c : Iss) (t : Nat) (ptr : W64) (k : AKind) (r : Reason) : Stop :=
  .trap { cause := .pointerFault, thread := t, frec := faultRec (originOf c t ptr 0) k ⟨0, r, 0, c.s.modNo, false, 0⟩ }

/-- The first thing that stops one of a list of threads. -/
def firstStop {α : Type} (f : α → Except Stop Unit) : List α → Except Stop Unit
  | [] => .ok ()
  | x :: xs => match f x with | .ok _ => firstStop f xs | .error e => .error e

/-- An instruction whose results can each raise a precise trap: the lowest thread's counts, and nothing is performed for any. -/
def aluTrap (i : Instr) (o : Args) (s : State) (f : Iss → Nat → Val → Val → Val → Except Stop Res) : Host.Outcome State Fault Refusal :=
  issue o s false false fun c =>
    match start c i o with
    | .error x => .error x
    | .ok ts =>
      let out := ts.map fun t => let x := srcs c i o t; (t, worst x, f c t x.1 x.2.1 x.2.2)
      match firstStop (fun r => match r.2.2 with | .ok _ => .ok () | .error e => .error e) out with
      | .error e => .error e
      | .ok _ =>
        .ok (c.s.setGrp c.gid (putResults c.b.tents c.g (spec i).d.width o.d.x (out.filterMap fun r =>
          match r.2.2 with
          | .ok x => some (r.1, ({ v := x.v, tag := x.tag, tag2 := x.tag, st := r.2.1 } : Val), x.fl)
          | .error _ => none)))

end Sys2Proof.Machine
end

