-- ==== Sys2Proof/Machine/Access.lean ====
section
/-! DEFINITION. Accesses of threads to labelled and local memory: level-0 checks (R57, R155 to R157, R174), missed promises (R168), the
store buffer and the write-combining queue as loads and stores meet them (R175 to R181, R185, R315, R325), releases (R176, R190) and the requests
that leave the core. A group issues its accesses in program order (R314), and no issue waits for a load but as R320 says. -/

namespace Sys2Proof.Machine

open Sys2Proof Sys2Proof.Decode

/-! ## Bytes named by pointers -/

/-- The label part of a pointer, with its form. -/
def labelOf (p : W64) : Nat := p.toNat / 2 ^ 24
/-- `n` bytes from `p` and `m` bytes from `q` share a byte, as the same label stack or the same local space, as written. -/
def overlap (p : W64) (n : Nat) (q : W64) (m : Nat) : Bool :=
  if pForm p = 2 then p.toNat / 2 ^ 32 = q.toNat / 2 ^ 32 && bf p 0 32 < bf q 0 32 + m && bf q 0 32 < bf p 0 32 + n
  else labelOf p = labelOf q && pOff p < pOff q + m && pOff q < pOff p + n

/-- The pointer range of a write (R178). -/
def WData.range : WData → W64 × Nat
  | .bytes b d => (b, d.length)
  | .red _ ty p _ => (p, match ty with | .u64 | .s64 | .f64 => 8 | _ => 4)
  | .atom _ _ p n => (p, n)
/-- The data is that of a store. -/
def WData.isStore : WData → Bool | .bytes _ _ => true | _ => false
/-- The bytes of a store between two positions of its mask. -/
def maskSlice (d : List (Option Byte)) (a n : Nat) : List (Option Byte) := (d.drop a).take n
/-- A masked store really holds a byte of a range. -/
def WData.meets (w : WData) (p : W64) (n : Nat) : Bool :=
  match w with
  | .bytes b d => overlap b d.length p n && (List.range n).any fun i => pOff b ≤ pOff p + i && ((d[pOff p + i - pOff b]?).join).isSome
  | _ => overlap w.range.1 w.range.2 p n
/-- The groups whose accesses a write holds. -/
def Wr.gids (w : Wr) : List Nat := w.src.map fun x => x.gid
/-- The write waits in its core: its store buffer or its queue. -/
def Wr.onCore (w : Wr) : Bool := w.place = WPlace.queue || w.place = WPlace.flight

/-- The core whose number an origin's `unit` stands for. -/
def unitFromNo (n : Nat) : Nat := if n < 1536 then n else 1536 + (n - 1777)

/-! ## Level 0 (R54, R57, R153 to R157, R174) -/

/-- An allotment's extent rounded up to 256 bytes (R154). -/
def extent256 (n : Nat) : Nat := (n + 255) / 256 * 256

/-- Where an access that passes level 0 goes. -/
inductive Place
  | label
  | sram (space addr : Nat)       -- a byte of the machine's memory
  | window (addr : Nat)           -- a management register window (R380)
  deriving DecidableEq, Repr

/-- The windows that a system core reaches above the chip scratchpad (R380). -/
def isWindow (a n : Nat) : Bool :=
  (0x10000000 ≤ a && a + n ≤ 0x11000000) || (0x11000000 ≤ a && a + n ≤ 0x11180000) || (0x12000000 ≤ a && a + n ≤ 0x12040000)

/-- Check 3 of Table 7-2: the byte of memory behind a local address, if every byte lies within the allotment, the chip window or, for `LDS`
and `STS` in a handler, the frame window (R153 to R155, R354). -/
def localPlace (c : Iss) (sp a n : Nat) (ls : Bool) : Option Place :=
  let u := unitOfGid c.gid
  match sp with
  | 0 => if a + n ≤ extent256 c.b.hdr.lane then some (.sram 0 (laneAddr c.b.place c.g.num a)) else none
  | 1 =>
    if ls && c.g.inH && 0xFFFFFFC0 ≤ a then some (.sram 1 (frameOf c.b.place c.g.num (a - 0xFFFFFFC0)))
    else if a + n ≤ extent256 c.b.hdr.core then some (.sram 1 (coreAddr c.b.place a)) else none
  | 2 => if a + n ≤ extent256 c.b.hdr.clu then some (.sram 2 (cluAddr c.b.cbase a)) else none
  | _ =>
    if isSys u then
      if a + n ≤ 2 ^ 28 then some (.sram 3 (chipAddr a))
      else if ls && isWindow a n then some (.window a) else none
    else
      let x := c.s.ctx c.b.ctx
      if x.cwb * 65536 ≤ a && a + n ≤ (x.cwb + x.cws) * 65536 && a + n ≤ 2 ^ 28 then some (.sram 3 (chipAddr a)) else none

/-- The chip-window permission of a context for a kind: R, W, A in bits 2, 1, 0 (R155). -/
def cwpBit : AKind → Nat | .write => 1 | .atomic => 0 | _ => 2

/-- The checks of Table 7-2, in order. -/
def localCheck (c : Iss) (p : W64) (n : Nat) (k : AKind) (ls : Bool) : Except Reason Place :=
  let sp := bf p 56 4
  let u := unitOfGid c.gid
  if pForm p ≠ 2 || 3 < sp || bf p 32 24 ≠ 0 || (isSys u && sp ≠ 3) then .error .form
  else if bf p 0 32 % n ≠ 0 then .error .straddle
  else match localPlace c sp (bf p 0 32) n ls with
  | none => .error .absent
  | some x => if sp = 3 && !isSys u && !((c.s.ctx c.b.ctx).cwp.testBit (cwpBit k)) then .error .permission else .ok x

/-- The level-0 check of an access of `n` bytes; `al` where its pointer must be a multiple of its width (R174). -/
def checkAccess (c : Iss) (t : Nat) (p : W64) (n : Nat) (k : AKind) (al : Bool) : Except Stop Place :=
  if pForm p = 2 then
    match localCheck c p n k false with
    | .ok x => .ok x
    | .error r => .error (pointerFault c t p k r)
  else
    match checkLabel p n with
    | some r => .error (pointerFault c t p k r)
    | none => if al && pOff p % n ≠ 0 then .error (pointerFault c t p k .straddle) else .ok .label

/-! ## Missed promises (R168) -/

/-- The bounding range of a copy's destination, as a pointer and a length. -/
def Copy.bound (x : Copy) : W64 × Nat :=
  (BitVec.ofNat 64 (x.dst.toNat - (if pForm x.dst = 2 then bf x.dst 0 32 else pOff x.dst) + x.lo.toNat), (x.hi - x.lo + 1).toNat)

/-- A promise made at a time: some later time, or that one, never an earlier one (R166). (DESIGN CHOICE, log 46) -/
def promiseFrom (now k : Nat) : Nat := now + Config.promiseDelay k % (2 ^ 64 - now)

/-- An access meets a copy of its group that is late: "promise missed", for the first such copy in issue order. (DESIGN CHOICE, log 46) -/
def latePromise (c : Iss) (t : Nat) (p : W64) (n : Nat) : Except Stop Unit :=
  match List.find? (fun x : Nat × Copy => x.2.gid = c.gid && !x.2.done && x.2.promise ≤ c.s.now && overlap x.2.bound.1 x.2.bound.2 p n) c.s.copies with
  | none => .ok ()
  | some x => .error (.trap
      { cause := .promiseMissed, thread := t, aux0 := BitVec.ofNat 32 x.2.id, aux1 := BitVec.ofNat 64 x.2.promise,
        frec := BitVec.ofNat 256 (promiseFrom c.s.now (2 * c.s.now + 1)) })

/-! ## What holds a group's accesses -/

/-- An outstanding operation of the group that later accesses wait for (R175, R188). -/
def State.acquiring (s : State) (gid : Nat) : Bool := s.ops.any fun p => match p.2 with
  | .load o => o.gid = gid && o.acq.isSome | .atom o => o.gid = gid && o.acq.isSome | _ => false

/-- A refused write of the group still waits to enter its core's full side log (R183). (DEDUCED, log 29) -/
def State.logBlocked (s : State) (gid : Nat) : Bool := s.reqs.any fun p => match p.2.stage, p.2.client with
  | .refused _ _, .write w => (match FMap.find? s.wrs w with | some x => x.gids.contains gid | none => false)
  | _, _ => false

/-- The requests that a group's instructions make, its engines' among them. -/
def Client.ofGroup : Client → Bool
  | .load _ | .write _ | .watch _ | .copy .. | .eop .. | .range _ => true
  | _ => false

/-- How many requests of a context wait at rate buckets for a core (R312). (DEDUCED, log 131) -/
def State.atBuckets (s : State) (u ctx : Nat) : Nat :=
  (s.reqs.filter fun x => x.2.core = u && gCtx x.2.org.guidon = ctx && x.2.client.ofGroup && (match x.2.stage with | .bucket .. => true | _ => false)).length

/-- As many requests of its context as a core lets wait at rate buckets do: the context's next one waits at issue (R312). (DEDUCED, log 131) -/
def Iss.bucketsFull (c : Iss) : Bool := 64 ≤ c.s.atBuckets (unitOfGid c.gid) c.b.ctx

/-- Accesses of the group, to a local space, issue only now (R175, R183, R188). -/
def localGate (c : Iss) (write : Bool) : Option Stop :=
  if c.s.acquiring c.gid || (write && c.s.logBlocked c.gid) then some (.wait c.s) else none

/-- Accesses of the group issue only now (R175, R183, R188, R312). -/
def accessGate (c : Iss) (write : Bool) : Option Stop := if c.bucketsFull then some (.wait c.s) else localGate c write

/-! ## Lines as the core names them -/

/-- A pointer leads to a replica set of this module's (R115). -/
def State.isReplica (s : State) (ctx : Nat) (p : W64) : Bool :=
  let e := s.tab (s.keyCtx ctx (pO p))
  eState e = 1 && !bt e 95 && s.replicaChip 6 p

/-- The module that a context entry sends a pointer to, if not this one. -/
def State.remoteOf (s : State) (ctx : Nat) (p : W64) : Option Nat :=
  let e := s.tab (s.keyCtx ctx (pO p))
  if eState e = 1 && bt e 95 && bf e 76 9 ≠ s.modNo then some (bf e 76 9) else none

/-- The tag of the line that holds a byte of a region (R90). -/
def State.tagAt (s : State) (st i off : Nat) : Tag := let v := s.view st i; let x := coords v.1 v.2 off; ⟨st, i, x.1, x.2.1⟩

/-- The tag under which another module's line stands in an L1: this module sees no tile coordinates of it. (DESIGN CHOICE, log 118) -/
def remoteTag (p : W64) (label : Nat) : Tag := ⟨label, pM p * 16384 + pI p, pOff p / 256, 0⟩

/-- The line that a pointer's byte lies in, as the L1 tags it: its module and tag (R118). -/
def State.lineTag (s : State) (ctx : Nat) (p : W64) : Option (Nat × Tag) :=
  match s.homeOf ctx p with
  | .region st i off => some (s.modNo, s.tagAt st i off)
  | .away m l => some (m, remoteTag p l)
  | .pad _ | .other => none

/-- The line that a pointer's byte lies in, as a name. -/
def State.lineName (s : State) (ctx : Nat) (p : W64) : Nat × Nat :=
  match s.homeOf ctx p with
  | .region st i off => (0, (s.tagAt st i off).key)
  | _ => (ctx + 1, p.toNat / 256)

/-- How many bytes lie one after the other from the first of a pointer's row of its line, and how many of them precede the pointer (R89): what one
request can bring to the line. -/
def State.rowAt (s : State) (ctx : Nat) (p : W64) : Nat × Nat :=
  match s.homeOf ctx p with
  | .region st i off =>
    let v := s.view st i
    let n := if v.1 ≠ 0 && 2 ^ v.2 = rowSize v.1 then 256 else rowSize v.1
    (n, off % n)
  | _ => (256, pOff p % 256)

/-! ## Bytes that a load meets on its way (R175, R185) -/

/-- A byte of a store, if it holds the one at `p`. -/
def WData.byteAt (w : WData) (p : W64) : Option Byte :=
  match w with
  | .bytes b d => if labelOf b = labelOf p && pOff b ≤ pOff p then (d[pOff p - pOff b]?).join else none
  | _ => none

/-- The newest byte at `p` of the block's store buffer, else of the core's queue: the byte, the write that holds it, its tentative mark. -/
def State.forward (s : State) (blk unit ctx : Nat) (p : W64) : Option (Byte × Nat × Option Nat) :=
  let newest (f : Wr → Bool) : Option (Byte × Nat × Option Nat) :=
    s.wrs.foldl (fun acc x => if f x.2 && x.2.loc.isNone then (match x.2.data.byteAt p with | some b => some (b, x.1, x.2.tent) | none => acc) else acc) none
  match newest fun w => w.place = WPlace.buffer && w.blk = blk with
  | some x => some x
  | none => newest fun w => w.onCore && !w.rep && w.unit = unit && w.ctx = ctx

/-- A load must wait at issue: it overlaps a write of its group in the side log, an atomic or reduction of its block's buffer or its core's queue, or a
replica store on its way (R116). In the buffer that is a commit point (R180). -/
def loadWaits (c : Iss) (p : W64) (n : Nat) : Option Stop :=
  if c.s.wrs.any fun x => x.2.place = WPlace.log && x.2.gids.contains c.gid && x.2.loc.isNone && x.2.data.meets p n then some (.wait c.s)
  else if c.s.wrs.any fun x => !x.2.data.isStore && x.2.loc.isNone && x.2.place = WPlace.buffer && x.2.blk = c.g.blk && x.2.data.meets p n then
    some (.wait (c.s.commit c.g.blk))
  else if c.s.wrs.any fun x => (!x.2.data.isStore || x.2.rep) && x.2.onCore && x.2.unit = unitOfGid c.gid && x.2.ctx = c.b.ctx && x.2.data.meets p n then
    some (.wait c.s)
  else none

/-- A local load must wait: it overlaps an atomic or reduction held in the block's buffer, which commits (R180). -/
def localWaits (c : Iss) (a n : Nat) : Option Stop :=
  if c.s.wrs.any fun x => !x.2.data.isStore && x.2.place = WPlace.buffer && x.2.blk = c.g.blk
      && (match x.2.loc with | some l => l < a + n && a < l + x.2.data.range.2 | none => false) then
    some (.wait (c.s.commit c.g.blk))
  else none

/-! ## The L1 as a load meets it (R118) -/

/-- The line that a read comes to by the chip level as it stands, whatever its bucket says. -/
def l1Chip (s : State) (g : BitVec 33) : Nat → Nat → W64 → Option (Tag × Nat)
  | 0, _, _ => none
  | n + 1, fwd, p =>
    let e := s.tab (keyChip (pM p))
    match decChip s g .read fwd p e false with
    | .target _ _ =>
      (match s.chipTarget 1 p e with
       | some (.line t b _ _) => some (t, b)
       | some (.replica set i off) => (s.ownReplica set).bind fun m => l1Chip s g n fwd (lbl (pO p) m i off)
       | _ => none)
    | .chipAgain m q => if m = s.modNo then l1Chip s g n (fwd + 1) q else none
    | _ => none

/-- The same by the port level of this module. -/
def l1Port (s : State) (g : BitVec 33) (p : W64) : Nat → Nat → Nat → Option (Tag × Nat)
  | 0, _, _ => none
  | n + 1, fwd, l =>
    match decPort s g .read l fwd p with
    | .chip q => l1Chip s g 6 fwd q
    | .portAgain m l' => if m = s.modNo then l1Port s g p n (fwd + 1) l' else none
    | _ => none

/-- The L1 line that holds the byte at `p`, with its position: only where the levels above the stack grant the read as they stand. (DESIGN CHOICE, log 31) -/
def l1Find (c : Iss) (p : W64) (const : Bool) : Option (L1Line × Nat) :=
  let g := c.s.groupGuidon c.gid 0
  let look (m : Nat) (t : Tag) (b : Nat) : Option (L1Line × Nat) :=
    ((c.s.core (unitOfGid c.gid)).l1.find? fun l => l.mod = m && l.tag = t).map fun l => (l, b)
  match decCtx c.s g .read p (c.s.tab (c.s.keyCtx (gCtx g) (pO p))) with
  | .chip q => (l1Chip c.s g 6 0 q).bind fun x => look c.s.modNo x.1 x.2
  | .fabric m l =>
    if m = c.s.modNo then (l1Port c.s g p 6 0 l).bind fun x => look m x.1 x.2
    else if const then look m (remoteTag p l) (pOff p % 256) else none
  | _ => none

/-- The byte at `p` in the L1, and whether its sector is poisoned there. -/
def l1Byte (c : Iss) (p : W64) (const : Bool) : Option (Byte × Bool) :=
  match l1Find c p const with
  | some (l, b) => if l.pois.contains (b / 32) then some (0, true) else (FMap.find? l.data b).map fun x => (x, false)
  | none => none

/-! ## Requests -/

/-- Accept a register result of a width and an access type: the value, extended (Table 8-2), and its tag. -/
def tyValue (ty : Ty) (bytes : List Byte) : Nat × Nat :=
  let v := leNat bytes
  match ty with
  | .fmt f => (v, fmtCode f)
  | .s8 => (BitVec.ofInt 32 (sext 8 v)).toNat |> fun x => (x, 31)
  | .s16 => (BitVec.ofInt 32 (sext 16 v)).toNat |> fun x => (x, 31)
  | _ => (v, 31)

/-- The bytes of a type. -/
def tyBytes : Ty → Nat
  | .fmt .f64 => 8 | .fmt _ => 4 | .b8 | .s8 => 1 | .b16 | .s16 => 2 | .b32 => 4 | .b64 => 8 | .b128 => 16

/-- A source register that waits to be FULL counts as tentative under its mark; FULL data under none. -/
def Val.mark (x : Val) : Option Nat := x.st.mark
/-- The later of two marks. -/
def joinMark : Option Nat → Option Nat → Option Nat
  | none, y => y | x, none => x | some a, some b => some (max a b)

/-- A group's engine counter would pass 255 (R169). -/
def counterFull (n : Nat) : Bool := 255 ≤ n

/-! ## Loads (R175, R177) -/

/-- What a load operation takes at issue: for each byte, from the store buffer, the queue or the L1; the writes it has observed; poison;
the tentative mark. -/
def captured (c : Iss) (s : State) (p : W64) (n : Nat) (ca : CA) (l1 : Bool) : List (Option Byte × Option Nat × Bool × Option Nat) :=
  (List.range n).map fun i =>
    match s.forward c.g.blk (unitOfGid c.gid) c.b.ctx (pPlus p i) with
    | some (b, w, m) => (some b, some w, false, m)
    | none =>
      match ca with
      | .fresh | .acq _ => (none, none, false, none)
      | _ => if !l1 then (none, none, false, none) else
        (match l1Byte c (pPlus p i) (ca = .const) with
         | some (b, po) => (some b, none, po, none)
         | none => (none, none, false, none))

/-- Record that a group has observed some writes (R190). -/
def State.observe (s : State) (gid : Nat) (ws : List Nat) : State :=
  { s with wrs := ws.foldl (fun m w => FMap.modify m w fun x => if x.seen.contains gid then x else { x with seen := x.seen ++ [gid] }) s.wrs }

/-- An older load of the group that overlaps is outstanding (R318). (DEDUCED, log 30) -/
def State.olderLoad (s : State) (gid : Nat) (p : W64) (n id : Nat) : Bool := s.ops.any fun x => match x.2 with
  | .load o => x.1 < id && o.gid = gid && overlap o.org.ptr o.bytes.length p n
  | _ => false

/-- Issue one load of one thread through a label stack: its destination EMPTY, its operation, and its request unless every byte was taken. (DESIGN CHOICE, log 31) -/
def issueLoad (c : Iss) (d : Opd) (w : Nat) (ty : Ty) (ca : CA) (gth : Option Nat) (s : State) (x : Nat × W64) : State :=
  let n := tyBytes ty
  let keep := Config.l1Keeps s.fresh && !s.olderLoad c.gid x.2 n s.nextId
  let got := captured c s x.2 n ca keep
  let o : LoadOp :=
    { gid := c.gid, thread := x.1, dst := (destOf w d).getD ⟨false, 0, w⟩, ty := ty
      bytes := got.map fun r => r.1, pois := got.any fun r => r.2.2.1
      tent := got.foldl (fun m r => joinMark m r.2.2.2) none
      acq := (match ca with | .acq sc => some sc | _ => none), gth := gth, org := originOf c x.1 x.2 0 }
  let id := s.nextId
  let s := (s.onGrp c.gid fun g => emptyOp g x.1 w d).observe c.gid (distinct (got.filterMap fun r => r.2.1))
  let s := { s with ops := FMap.insert s.ops id (.load o), nextId := id + 1, fresh := s.fresh + 1 }
  if o.bytes.all Option.isSome then s
  else s.newReq
    { client := .load id, kind := .read, org := o.org, ptr := x.2, len := n, stage := .context, core := unitOfGid c.gid
      fresh := ca ≠ .plain && ca ≠ .const, const := ca = .const, fill := true }

/-- Take the next number for a vector packet and count it (R177). (DESIGN CHOICE, log 36) -/
def State.vector (s : State) (gid n : Nat) : State × Nat :=
  ({ (s.onGrp gid fun g => { g with gth := g.gth + 1, gthN := g.gthN + 1 }) with
     ops := FMap.insert s.ops s.nextId (.gth ⟨gid, n, (s.grp gid).gthN⟩), nextId := s.nextId + 1 }, s.nextId)

/-- The label-stack part of a load instruction, for some threads and their pointers. (DESIGN CHOICE, log 36) -/
def labelLoads (c : Iss) (s : State) (d : Opd) (w : Nat) (ty : Ty) (ca : CA) (gth : Option Nat) (xs : List (Nat × W64)) : State :=
  xs.foldl (issueLoad c d w ty ca gth) s

/-! ## Local loads (R159) -/

/-- The bytes of a local load: the block's own store-buffer entries first, newest first, then SRAM (R157); and whether some is poisoned. -/
def localRead (blk : Nat) (s : State) (a n : Nat) : List Byte × Bool × Option Nat × List Nat :=
  let one (i : Nat) : Byte × Bool × Option Nat × Option Nat :=
    match s.wrs.foldl (fun acc x =>
        if x.2.place = WPlace.buffer && x.2.blk = blk then
          (match x.2.loc, x.2.data with
           | some l, .bytes _ d => if l ≤ a + i then (match (d[a + i - l]?).join with | some b => some (b, x.2.tent, x.1) | none => acc) else acc
           | _, _ => acc)
        else acc) none with
    | some (b, m, id) => (b, false, m, some id)
    | none => (s.byte (a + i), s.poisoned (a + i), none, none)
  let r := (List.range n).map one
  (r.map (fun x => x.1), r.any (fun x => x.2.1), r.foldl (fun m x => joinMark m x.2.2.1) none, distinct (r.filterMap fun x => x.2.2.2))

/-- Issue one local load: its bytes are read now, in program order, and delivered when it returns (R157). (DEDUCED, log 34) -/
def issueLocal (c : Iss) (d : Opd) (w : Nat) (ty : Ty) (tag : Option Fmt) (org : Origin) (t : Nat) (bytes : List Byte) (pois : Bool) (tent : Option Nat)
    (acq : Option Scope) (ws : List Nat) (loc : Option Nat) (s : State) : State :=
  let ty := match tag with | some f => Ty.fmt f | none => ty
  let o : LoadOp := { gid := c.gid, thread := t, dst := (destOf w d).getD ⟨false, 0, w⟩, ty := ty, bytes := bytes.map some, pois := pois, tent := tent
                      acq := acq, loc := loc, org := org }
  let s := (s.onGrp c.gid fun g => emptyOp g t w d).observe c.gid ws
  { s with ops := FMap.insert s.ops s.nextId (.load o), nextId := s.nextId + 1 }

/-! ## Stores into the buffer (R178, R181, R316) -/

/-- The parts of `n` bytes from offset `off` at multiples of `k`: offset and length. -/
def partsOf (k off n : Nat) : List (Nat × Nat) :=
  ((List.range (n / k + 2)).map fun j =>
    let lo := max off ((off / k + j) * k)
    let hi := min (off + n) ((off / k + j + 1) * k)
    (lo, hi - lo)).filter fun x => 0 < x.2

/-- `a` overlaid with the bytes of `b` from position `at_`. -/
def overlay (a : List (Option Byte)) (at_ : Nat) (b : List (Option Byte)) : List (Option Byte) :=
  a.mapIdx fun i x => if at_ ≤ i then (match (b[i - at_]?).join with | some y => some y | none => x) else x

/-- An empty mask of `n` bytes. -/
def noBytes (n : Nat) : List (Option Byte) := List.replicate n none

/-- The newest buffer entry of a block for a sector. -/
def State.sectorEntry (s : State) (k : Nat) (loc : Option Nat) (base : W64) : Option (Nat × Wr) :=
  s.wrs.foldl (fun acc x =>
    if x.2.place = WPlace.buffer && x.2.blk = k && (match loc, x.2.loc with
        | some a, some b => a / 32 = b / 32
        | none, none => x.2.data.range.1.toNat / 32 = base.toNat / 32
        | _, _ => false) then some x else acc) none

/-- Put bytes of one sector into the store buffer: merged into the sector's entry unless that is a reduction (R178). -/
def putSector (c : Iss) (base : W64) (loc : Option Nat) (at_ : Nat) (bs : List (Option Byte)) (tent : Option Nat) (src : WSrc) (rel : Option Scope) (s : State) : State :=
  if !bs.any Option.isSome then s else
  let src : WSrc := { src with off := at_, len := bs.length }
  let fresh : Wr :=
    { data := .bytes base (overlay (noBytes 32) at_ bs), ctx := c.b.ctx, blk := c.g.blk, src := [src], unit := unitOfGid c.gid, place := .buffer
      tent := tent, remote := if loc.isSome then none else s.remoteOf c.b.ctx base, rel := rel, loc := loc }
  match s.sectorEntry c.g.blk loc base with
  | some (k, w) =>
    (match w.data with
     | .bytes b d =>
       { s with wrs := FMap.insert s.wrs k { w with data := .bytes b (overlay d at_ bs), src := w.src ++ [src], tent := joinMark w.tent tent
                                                    rel := match rel with | some sc => some sc | none => w.rel } }
     | _ => { s with wrs := FMap.insert s.wrs s.nextId fresh, nextId := s.nextId + 1 })
  | none => { s with wrs := FMap.insert s.wrs s.nextId fresh, nextId := s.nextId + 1 }

/-- A group has a side-log entry for the line of a pointer (R181). -/
def State.logged (s : State) (gid ctx : Nat) (p : W64) : Bool :=
  s.wrs.any fun x => x.2.place = WPlace.log && x.2.gids.contains gid && x.2.loc.isNone && s.lineName ctx x.2.data.range.1 = s.lineName ctx p

/-- How many entries a core's side log holds (R183). -/
def State.logSize (s : State) (unit : Nat) : Nat := (s.wrs.filter fun x => x.2.place = WPlace.log && x.2.unit = unit).length
/-- How many entries a block's store buffer holds (R178). -/
def State.bufSize (s : State) (k : Nat) : Nat := (s.bufferOf k).length

/-- Append a write behind the group's side-log entries, without issue (R185). -/
def State.appendLog (s : State) (w : Wr) : State :=
  { s with wrs := FMap.insert s.wrs s.nextId { w with place := .log }, nextId := s.nextId + 1 }

/-- How many entries of the write-combining queue are in use (R119): one for each line, and one for each atomic or reduction. -/
def State.queueSize (s : State) (u : Nat) : Nat :=
  (s.wrs.foldl (fun (acc : List (Nat × Nat) × Nat) x =>
    if x.2.onCore && !x.2.rep && x.2.unit = u && x.2.loc.isNone then
      if x.2.data.isStore then (let k := s.lineName x.2.ctx x.2.data.range.1; if acc.1.contains k then acc else (k :: acc.1, acc.2)) else (acc.1, acc.2 + 1)
    else acc) ([], 0)) |> fun r => r.1.length + r.2

/-- The queue holds a line, or has an entry for it. -/
def State.queueTakes (s : State) (u ctx : Nat) (p : W64) : Bool :=
  s.queueSize u < 32 || s.wrs.any fun x => x.2.onCore && !x.2.rep && x.2.unit = u && x.2.loc.isNone && x.2.data.isStore
    && s.lineName x.2.ctx x.2.data.range.1 = s.lineName ctx p

/-- A write may enter now: its block's buffer is not full, and, where it goes on to the queue, neither is that (R181, R119). -/
def admits (c : Iss) (s : State) (label : Option W64) : Bool :=
  s.bufSize c.g.blk < 256 && (match label with | some p => c.b.rl || s.isReplica c.b.ctx p || s.queueTakes (unitOfGid c.gid) c.b.ctx p | none => true)

/-- One more write of an instruction, if it may enter: else none of them does yet. (DEDUCED, log 29) -/
def letIn (c : Iss) (label : Option W64) (f : State → State) (s : Option State) : Option State :=
  s.bind fun s => if admits c s label then some (f s) else none

/-- One thread's store of some bytes through a label stack (R181), split at sectors. -/
def putLabel (c : Iss) (p : W64) (bytes : List (Option Byte)) (tent : Option Nat) (src : WSrc) (rel : Option Scope) (s : Option State) : Option State :=
  let xs := partsOf 32 (pOff p) bytes.length
  let src : WSrc := { src with acc := match s with | some t => if 1 < xs.length then t.nextId + 1 else 0 | none => 0 }
  xs.foldl (fun s x =>
    let bs := maskSlice bytes (x.1 - pOff p) x.2
    if !bs.any Option.isSome then s else
    letIn c (some (pAt p x.1)) (fun s =>
      if s.logged c.gid c.b.ctx (pAt p x.1) then
        s.appendLog { data := .bytes (pAt p x.1) bs, ctx := c.b.ctx, blk := c.g.blk, src := [{ src with off := 0, len := x.2 }]
                      unit := unitOfGid c.gid, place := .log, tent := tent, rel := rel }
      else putSector c (pAt p (x.1 / 32 * 32)) none (x.1 % 32) bs tent src rel s) s) (s.map fun s => { s with nextId := s.nextId + 1 })

/-- Drop the line of a byte from a core's L1. -/
def State.l1Store (s : State) (unit ctx : Nat) (p : W64) : State :=
  match s.lineTag ctx p with
  | some x => if (s.core unit).l1.any (fun l => l.mod = x.1 && l.tag = x.2) then
      s.onCore unit fun c => { c with l1 := c.l1.filter fun l => !(l.mod = x.1 && l.tag = x.2) } else s
  | none => s

/-- Drop the lines of a range of bytes from a core's L1: a store or atomic of the core (R118, R113). -/
def State.l1StoreN (s : State) (unit ctx : Nat) (p : W64) (n : Nat) : State :=
  (s.l1Store unit ctx p).l1Store unit ctx (pPlus p (n - 1))

/-- A thread's store: the thread, its pointer and where that leads, its bytes, and the mark of tentative data. -/
structure Store where
  t    : Nat
  ptr  : W64
  at_  : Place
  data : List (Option Byte)
  tent : Option Nat
  gth  : Option Nat := none
  deriving DecidableEq, Repr

/-- Two stores of one instruction write the byte that stands at position `i` of the first. -/
def Store.hits (x y : Store) (i : Nat) : Bool :=
  match x.at_, y.at_ with
  | .label, .label => labelOf x.ptr = labelOf y.ptr && pOff y.ptr ≤ pOff x.ptr + i && pOff x.ptr + i < pOff y.ptr + y.data.length
  | .sram _ a, .sram _ b => b ≤ a + i && a + i < b + y.data.length
  | .window a, .window b => b ≤ a + i && a + i < b + y.data.length
  | _, _ => false

/-- The stores of one instruction, in thread order: of threads that write one byte only the last one's enters (R316). -/
def lastWins : List Store → List Store
  | [] => []
  | x :: xs => { x with data := x.data.mapIdx fun i b => if xs.any (fun y => x.hits y i) then none else b } :: lastWins xs

/-- A local write straight into SRAM (R157), but for a trap frame's read-only bytes (R10); a part that a poisoned word discards is reported (R104). -/
def State.writeLocal (s : State) (a : Nat) (bs : List (Option Byte)) : State :=
  let bs := bs.mapIdx fun i b => if frameRo (a + i) then none else b
  (distinct (s.refusedUnits a bs)).foldl (fun s u => s.notice ntDiscarded u) (s.applyBytes a bs)

/-- One thread's store: to labelled memory or `.clu` and `.chip` through the buffer, to `.lane` and `.core` directly into SRAM (R157, R178). (DEDUCED, log 34) -/
def putStore (c : Iss) (rel : Option Scope) (s : Option State) (x : Store) : Option State :=
  let src : WSrc := { gid := c.gid, org := originOf c x.t x.ptr 0, gth := x.gth }
  match x.at_ with
  | .label => (putLabel c x.ptr x.data x.tent src rel s).map fun s => s.l1StoreN (unitOfGid c.gid) c.b.ctx x.ptr x.data.length
  | .sram sp a =>
    if sp < 2 then s.map fun s => s.writeLocal a x.data
    else letIn c none (putSector c x.ptr (some (a / 32 * 32)) (a % 32) x.data x.tent src rel) s
  | .window _ => s

/-- TENT data for `.lane` or `.core`, which bypass the buffer, waits at issue (R147). -/
def Store.waits (x : Store) : Bool :=
  match x.at_ with | .sram sp _ => sp < 2 && x.tent.isSome | .window _ => x.tent.isSome | .label => false

/-- What an instruction's writes come to: all have entered, or one of them found the buffer full, which commits the block, or the queue, and the
instruction waits at issue; it waits too where the core's side log would hold more than 64 (R180, R181, R183). -/
def fits (c : Iss) (before : State) (after : Option State) : Except Stop State :=
  match after with
  | none => .error (.wait (before.commit c.g.blk))
  | some after =>
    if 64 < after.logSize (unitOfGid c.gid) && before.logSize (unitOfGid c.gid) < after.logSize (unitOfGid c.gid) then .error (.wait before)
    else .ok after

/-! ## Releases (R176, R190, R134) -/

/-- A write still stands before a scope: it is not performed there (Table 8-4, R326). -/
def Wr.before (w : Wr) (sc : Scope) : Bool :=
  match sc with
  | .grp => false
  | .core => w.place = WPlace.buffer || w.place = WPlace.log
  | _ => true

/-- Every earlier write of the group, and every write it has observed, is performed at a scope, and no side-log entry of the group is left (R185, R190). -/
def State.released (s : State) (gid : Nat) (sc : Scope) : Bool :=
  s.wrs.all fun x => !((x.2.gids.contains gid || x.2.seen.contains gid) && x.2.before sc) && !(x.2.gids.contains gid && x.2.place = WPlace.log)

/-- Every request of a write has been sent, so that it has its sequence number (R134). -/
def State.allSent (s : State) (w : Nat) : Bool :=
  s.reqs.all fun x => match x.2.client with | .write k => k ≠ w || x.2.served || (match x.2.stage with | .sent _ _ => true | _ => false) | _ => true

/-- The wait of a release-tagged store or atomic to another module (R134): earlier writes to the same module are sequenced, those to any other
are performed. -/
def State.releasedTo (s : State) (gid m : Nat) : Bool :=
  s.wrs.all fun x => !(x.2.gids.contains gid || x.2.seen.contains gid)
    || (x.2.remote = some m && (x.2.place = WPlace.flight || x.2.place = WPlace.engine) && s.allSent x.1)

/-- The release before an instruction's writes: an implicit commit, then the wait (R176). -/
def release (c : Iss) (sc : Scope) (targets : List W64) : Except Stop State :=
  let s := c.s.commit c.g.blk
  let ok := if sc = .dom then
      s.released c.gid .dom || !targets.isEmpty && targets.all fun p => match s.remoteOf c.b.ctx p with | some m => s.releasedTo c.gid m | none => false
    else s.released c.gid sc
  if ok then .ok s else .error (.wait s)

/-- The context of an instruction, with another state. -/
def Iss.at (c : Iss) (s : State) : Iss := { c with s := s, g := s.grp c.gid, b := s.blk c.g.blk }

/-! ## Atomic operations (R186, R187) -/

/-- The bytes of a type. -/
def atyBytes : ATy → Nat | .u64 | .s64 | .f64 => 8 | _ => 4

/-- A float result: an invalid one is the canonical NaN (R186). -/
def atomFloat (f : Fmt) (op : AOp) (v c : Nat) : Nat :=
  match op with
  | .add => (farith f .add .rne false v c 0).1
  | .min => (fminmax f false v c).1
  | .max => (fminmax f true v c).1
  | _ => c

/-- g(v, c) of Table 8-6; `d` is the compare value of `.cas`. -/
def atomFn (op : AOp) (ty : ATy) (v c d : Nat) : Nat :=
  let w := 8 * atyBytes ty
  match op with
  | .exch => c
  | .cas => if v = d then c else v
  | .and => v &&& c
  | .or => v ||| c
  | .xor => v ^^^ c
  | _ =>
    match ty with
    | .f32 => atomFloat .f32 op v c
    | .f64 => atomFloat .f64 op v c
    | .bf16x2 => atomFloat .bf16 op (v % 65536) (c % 65536) + atomFloat .bf16 op (v / 65536) (c / 65536) * 65536
    | .f16x2 => atomFloat .f16 op (v % 65536) (c % 65536) + atomFloat .f16 op (v / 65536) (c / 65536) * 65536
    | .s32 | .s64 =>
      (match op with
       | .add => (v + c) % 2 ^ w
       | .min => if sext w v ≤ sext w c then v else c
       | _ => if sext w v ≤ sext w c then c else v)
    | _ =>
      (match op with
       | .add => (v + c) % 2 ^ w
       | .min => min v c
       | _ => max v c)

/-- The prefix operands Σ_1, Σ_2, …, Σ_n of a location's threads (R187). -/
def prefixes (op : AOp) (ty : ATy) : List Nat → List Nat
  | [] => []
  | c :: cs => cs.foldl (fun acc x => acc ++ [atomFn op ty ((acc.getLast?).getD 0) x 0]) [c]

/-- The tag of an atomic's result (R186). -/
def atyTag (ty : ATy) : Nat := match atyFmt ty with | some f => fmtCode f | none => 31

/-- What one request performs on an old value: the new value and the old values it returns. `.cas` runs its threads one after the other. -/
def performAtom (op : AOp) (ty : ATy) (v : Nat) : List (Nat × Nat) → Nat × List Nat
  | [] => (v, [])
  | (c, d) :: xs =>
    if op = .cas then
      let r := performAtom op ty (atomFn op ty v c d) xs
      (r.1, v :: r.2)
    else (atomFn op ty v c d, [v])

/-- The values that the threads of a location receive (R187). -/
def threadValues (op : AOp) (ty : ATy) (old : List Nat) (cs : List Nat) : List Nat :=
  if op = .cas then old
  else
    let v0 := (old.head?).getD 0
    (List.range cs.length).map fun k => if k = 0 then v0 else atomFn op ty v0 (((prefixes op ty cs)[k - 1]?).getD 0) 0

/-- The operands of a location's request: Σ_n alone, or every compare-and-swap in thread order. -/
def requestVals (op : AOp) (ty : ATy) (xs : List (Nat × W64 × W64)) : List (W64 × W64) :=
  if op = .cas then xs.map fun x => (x.2.1, x.2.2)
  else [(BitVec.ofNat 64 (((prefixes op ty (xs.map fun x => x.2.1.toNat)).getLast?).getD 0), 0)]

/-- Perform an atomic at bytes of the machine's memory (a local space, a scratchpad bank): poison is met whole and leaves it as it is (R189). -/
def State.atomAt (s : State) (a : Nat) (op : AOp) (ty : ATy) (vals : List (W64 × W64)) : State × List Nat × Bool :=
  let n := atyBytes ty
  if s.anyPoison a n then (s, List.replicate vals.length 0, true)
  else
    let r := performAtom op ty (s.le a n) (vals.map fun x => (x.1.toNat, x.2.toNat))
    (s.applyAll a (leBytes n r.1), r.2, false)

end Sys2Proof.Machine
end

