-- ==== Sys2Proof/Machine/Memory.lean ====
section
/-! DEFINITION. Loads, stores, vector packets, atomics, reductions, fences and commits (R171 to R191), and the cache-control instructions
(R52, R122 to R125). -/

namespace Sys2Proof.Machine

open Sys2Proof Sys2Proof.Decode

/-! ## Loads -/

/-- One thread's load, wherever its pointer leads. -/
def loadOne (c : Iss) (d : Opd) (w : Nat) (ty : Ty) (ca : CA) (gth : Option Nat) (s : State) (x : Nat × W64) : State :=
  match checkAccess c x.1 x.2 (tyBytes ty) .read false with
  | .ok (.sram _ a) =>
    let r := localRead c.g.blk s a (tyBytes ty)
    issueLocal c d w ty none (originOf c x.1 x.2 0) x.1 r.1 r.2.1 r.2.2.1 (match ca with | .acq sc => some sc | _ => none) r.2.2.2 (some a) s
  | _ => issueLoad c d w ty ca gth s x

/-- The checks that a load makes before anything issues: pointers, promises, writes that it must wait for. (DEDUCED, log 35) -/
def loadChecks (c : Iss) (n : Nat) (xs : List (Nat × W64)) : Except Stop Unit :=
  match firstStop (fun x => match checkAccess c x.1 x.2 n .read false with | .ok _ => .ok () | .error e => .error e) xs with
  | .error e => .error e
  | .ok _ =>
  match firstStop (fun x => latePromise c x.1 x.2 n) xs with
  | .error e => .error e
  | .ok _ =>
    firstStop (fun x => match checkAccess c x.1 x.2 n .read false with
      | .ok (.sram sp a) => if sp < 2 then .ok () else (match localWaits c a n with | some e => .error e | none => .ok ())
      | _ => (match loadWaits c x.2 n with | some e => .error e | none => .ok ())) xs

/-- LD for the acting threads (R175). -/
def loadAll (c : Iss) (d : Opd) (w : Nat) (ty : Ty) (ca : CA) (xs : List (Nat × W64)) : Except Stop State :=
  if xs.isEmpty then .ok c.s else
  match accessGate c false with
  | some e => .error e
  | none =>
    match loadChecks c (tyBytes ty) xs with
    | .error e => .error e
    | .ok _ => .ok (xs.foldl (loadOne c d w ty ca none) c.s)

/-- The pointer of a thread's A operand. (DEDUCED, log 35) -/
def ptrA (c : Iss) (i : Instr) (o : Args) (t : Nat) : W64 := BitVec.ofNat 64 (srcs c i o t).2.1.v

/-- LD (R175). -/
def execLd (m : Mods.Ld) (o : Args) (s : State) : Host.Outcome State Fault Refusal :=
  issue o s false false fun c =>
    match start c (.ld m o) o with
    | .error x => .error x
    | .ok ts => loadAll c o.d.x (spec (.ld m o)).d.width m.ty m.ca (ts.map fun t => (t, ptrA c (.ld m o) o t))

/-- The element addresses of a vector packet from its base and each thread's offset (R177): the base must be a label stack, and each element
of `n` bytes must lie in its region; a straddle reports the base, which alone can be written as a pointer. (DESIGN CHOICE, log 36) -/
def elements (c : Iss) (n : Nat) (k : AKind) (al : Bool) (xs : List (Nat × W64 × Nat)) : Except Stop (List (Nat × W64)) :=
  match firstStop (fun x : Nat × W64 × Nat =>
      if pForm x.2.1 ≠ 1 then .error (pointerFault c x.1 x.2.1 k .form)
      else if 2 ^ 24 < pOff x.2.1 + x.2.2 % 65536 + n || (al && (pOff x.2.1 + x.2.2 % 65536) % n ≠ 0) then .error (pointerFault c x.1 x.2.1 k .straddle)
      else .ok ()) xs with
  | .error e => .error e
  | .ok _ => .ok (xs.map fun x => (x.1, pPlus x.2.1 (x.2.2 % 65536)))

/-- LDV (R177): each acting thread's element loads into its D; the packet counts in GTH until every element has returned. -/
def execLdv (m : Mods.Ld) (o : Args) (s : State) : Host.Outcome State Fault Refusal :=
  issue o s false false fun c =>
    match start c (.ldv m o) o with
    | .error x => .error x
    | .ok ts =>
      if ts.isEmpty then .ok c.s else
      match accessGate c false with
      | some e => .error e
      | none =>
        let n := tyBytes m.ty
        match elements c n .read false (ts.map fun t => let x := srcs c (.ldv m o) o t; (t, BitVec.ofNat 64 x.2.1.v, x.2.2.v)) with
        | .error e => .error e
        | .ok xs =>
          match loadChecks c n xs with
          | .error e => .error e
          | .ok _ =>
            if counterFull c.g.gth then .error (.wait c.s) else
            let v := c.s.vector c.gid xs.length
            .ok (xs.foldl (loadOne c o.d.x (spec (.ldv m o)).d.width m.ty m.ca (some v.2)) v.1)

/-! ## Stores -/

/-- The low bytes of a value as the data of a store. -/
def storeBytes (n v : Nat) : List (Option Byte) := (leBytes n v).map some

/-- The stores of some threads, once their pointers have passed level 0. (DEDUCED, log 35) -/
def placeStores (c : Iss) (n : Nat) (gth : Option Nat) (xs : List (Nat × W64 × Val)) : Except Stop (List Store) :=
  match firstStop (fun x : Nat × W64 × Val => match checkAccess c x.1 x.2.1 n .write false with | .ok _ => .ok () | .error e => .error e) xs with
  | .error e => .error e
  | .ok _ => .ok (xs.filterMap fun x => match checkAccess c x.1 x.2.1 n .write false with
      | .ok p => some ⟨x.1, x.2.1, p, storeBytes n x.2.2.v, x.2.2.mark, gth⟩ | .error _ => none)

/-- How many elements of a vector operation are under way in writes. -/
def State.gthLeft (s : State) (v : Nat) : Nat := (s.wrs.map fun x => (x.2.src.filter fun y => y.gth = some v).length).foldl (· + ·) 0

/-- Store for some threads: promises, TENT data for SRAM, the release, then the buffer (R176, R181). -/
def storeAll (c : Iss) (n : Nat) (rel : Option Scope) (gth : Option Nat) (before : State) (xs : List Store) : Except Stop State :=
  if xs.isEmpty then .ok before else
  match accessGate c true with
  | some e => .error e
  | none =>
    match firstStop (fun x : Store => latePromise c x.t x.ptr n) xs with
    | .error e => .error e
    | .ok _ =>
      if xs.any Store.waits then .error (.wait c.s) else
      match (match rel with | some sc => release c sc (xs.map fun x : Store => x.ptr) | none => .ok c.s) with
      | .error e => .error e
      | .ok _ =>
        let s := if rel.isSome then before.commit c.g.blk else before
        fits c c.s ((lastWins (xs.map fun x : Store => { x with gth := gth })).foldl (putStore c rel) (some s))

/-- ST (R176). -/
def execSt (m : Mods.St) (o : Args) (s : State) : Host.Outcome State Fault Refusal :=
  issue o s false false fun c =>
    match start c (.st m o) o with
    | .error x => .error x
    | .ok ts =>
      let n := tyBytes m.ty
      match placeStores c n none (ts.map fun t => let x := srcs c (.st m o) o t; (t, BitVec.ofNat 64 x.2.1.v, x.2.2)) with
      | .error e => .error e
      | .ok xs => storeAll c n m.rel none c.s xs

/-- STV (R177): D supplies the offsets, B the data; the release, where there is one, is taken once. -/
def execStv (m : Mods.St) (o : Args) (s : State) : Host.Outcome State Fault Refusal :=
  issue o s false false fun c =>
    match start c (.stv m o) o with
    | .error x => .error x
    | .ok ts =>
      if ts.isEmpty then .ok c.s else
      let n := tyBytes m.ty
      match elements c n .write false (ts.map fun t => let x := srcs c (.stv m o) o t; (t, BitVec.ofNat 64 x.2.1.v, x.1.v)) with
      | .error e => .error e
      | .ok ps =>
        if counterFull c.g.gth then .error (.wait c.s) else
        let xs := ps.map fun p => (⟨p.1, p.2, .label, storeBytes n (srcs c (.stv m o) o p.1).2.2.v, (srcs c (.stv m o) o p.1).2.2.mark, none⟩ : Store)
        let v := c.s.vector c.gid xs.length
        match storeAll c n m.rel (some v.2) v.1 xs with
        | .error e => .error e
        | .ok s => .ok { s with ops := FMap.insert s.ops v.2 (.gth ⟨c.gid, s.gthLeft v.2, c.g.gthN⟩) }

/-! ## Atomics and reductions -/

/-- A thread's part of an atomic: thread, pointer, where it leads, operand, compare value, tentative mark. -/
structure APart where
  t    : Nat
  ptr  : W64
  at_  : Place
  val  : W64
  cmp  : W64
  tent : Option Nat
  deriving DecidableEq, Repr

/-- The parts grouped by equal pointers, in the order of their lowest threads (R187). -/
def byPointer (xs : List APart) : List (List APart) :=
  xs.foldl (fun acc x => if acc.any (fun g => g.any fun y => y.ptr = x.ptr) then acc.map (fun g => if g.any (fun y => y.ptr = x.ptr) then g ++ [x] else g)
    else acc ++ [[x]]) []

/-- The place lies outside `.lane` and `.core` (R180, R366). -/
def Place.shared : Place → Bool | .sram sp _ => 2 ≤ sp | _ => true
/-- The SRAM byte of a place. -/
def Place.loc : Place → Option Nat | .sram _ a => some a | _ => none

/-- Send one location's atomic or reduction on its way: to the buffer, behind the group's side-log entries (a reduction), or, in `.lane` and
`.core`, to the scratchpad's ALU at once (R157). (DEDUCED, log 29) -/
def putAtomLoc (c : Iss) (op : AOp) (ty : ATy) (opId : Option Nat) (rel : Option Scope) (gth : Option Nat) (s : Option State) (x : Nat × List APart) : Option State :=
  match x.2 with
  | [] => s
  | p :: _ =>
    let ths := x.2.map fun y => (y.t, y.val, y.cmp)
    let vals := requestVals op ty ths
    let w : Wr :=
      { data := match opId with | some k => .atom k x.1 p.ptr (atyBytes ty) | none => .red op ty p.ptr ((vals.head?).getD (0, 0)).1
        ctx := c.b.ctx, blk := c.g.blk, src := [{ gid := c.gid, org := originOf c p.t p.ptr 0, len := atyBytes ty, gth := gth }], unit := unitOfGid c.gid
        place := .buffer, tent := x.2.foldl (fun m y => joinMark m y.tent) none
        remote := if p.at_ = .label then c.s.remoteOf c.b.ctx p.ptr else none, rel := rel, loc := p.at_.loc }
    let buffered (s : State) : State := { s with wrs := FMap.insert s.wrs s.nextId w, nextId := s.nextId + 1 }
    match p.at_ with
    | .sram sp a =>
      if sp < 2 then s.map fun s =>
        let r := s.atomAt a op ty vals
        match opId with
        | some k => { r.1 with ops := FMap.modify r.1.ops k fun o => match o with
            | .atom z => .atom { z with locs := z.locs.mapIdx fun i l => if i = x.1 then { l with result := some (r.2.1.map (BitVec.ofNat 64)), pois := r.2.2 } else l }
            | o => o }
        | none => if r.2.2 then (r.1.notice ntPoison a).virtualError 3 c.b.ctx p.ptr (c.b.lid.getD 0) else r.1
      else letIn c none buffered s
    | _ => letIn c (some p.ptr) (fun s =>
        let s := s.l1StoreN (unitOfGid c.gid) c.b.ctx p.ptr (atyBytes ty)
        if s.logged c.gid c.b.ctx p.ptr then s.appendLog w else buffered s) s

/-- The level-0 checks of an atomic's threads, and their places (R174). -/
def placeAtoms (c : Iss) (n : Nat) (xs : List (Nat × W64 × Val × Val)) : Except Stop (List APart) :=
  match firstStop (fun x : Nat × W64 × Val × Val => match checkAccess c x.1 x.2.1 n .atomic true with | .ok _ => .ok () | .error e => .error e) xs with
  | .error e => .error e
  | .ok _ => .ok (xs.filterMap fun x => match checkAccess c x.1 x.2.1 n .atomic true with
      | .ok p => some ⟨x.1, x.2.1, p, BitVec.ofNat 64 (x.2.2.1.v % 2 ^ (8 * n)), BitVec.ofNat 64 (x.2.2.2.v % 2 ^ (8 * n)), joinMark x.2.2.1.mark x.2.2.2.mark⟩
      | .error _ => none)

/-- What holds an atomic or reduction at issue: an earlier acquire, a late copy, tentative data for SRAM, a side-log entry that an `ATOM`, which
the log does not take, would have to follow. (DEDUCED, log 29) -/
def atomWaits (c : Iss) (n : Nat) (red : Bool) (xs : List APart) : Except Stop Unit :=
  match accessGate c true with
  | some e => .error e
  | none =>
    match firstStop (fun x : APart => latePromise c x.t x.ptr n) xs with
    | .error e => .error e
    | .ok _ =>
      if xs.any (fun x => (!x.at_.shared && x.tent.isSome) || (!red && x.at_ = .label && c.s.logged c.gid c.b.ctx x.ptr)) then .error (.wait c.s) else .ok ()

/-- ATOM and RED for their threads, placed (R186 to R188). `d` is where ATOM delivers. -/
def atomAll (c : Iss) (op : AOp) (ty : ATy) (ord : Sys2Proof.Ord) (sc : Scope) (d : Option Opd) (w : Nat) (vec : Bool) (xs : List APart) : Except Stop State :=
  if xs.isEmpty then .ok c.s else
  match atomWaits c (atyBytes ty) d.isNone xs with
  | .error e => .error e
  | .ok _ =>
    let rel := if ord = .rel || ord = .ar then some sc else none
    match (match rel with | some sc => release c sc (xs.map fun x : APart => x.ptr) | none => .ok c.s) with
    | .error e => .error e
    | .ok s0 =>
      if d.isSome && (if vec then counterFull c.g.gth else counterFull c.g.atm) then .error (.wait c.s) else
      let out := xs.any fun x => x.at_.shared
      let s := if out then s0.noRestart c.g.blk else s0
      let s := if out && d.isSome then s.commit c.g.blk else s
      let groups : List (List APart) := byPointer xs
      match d with
      | none => fits c c.s ((groups.mapIdx fun i g => (i, g)).foldl (putAtomLoc c op ty none rel none) (some s))
      | some d =>
        let k := s.nextId
        let gth := if vec then some (k + 1) else none
        let s := { s with nextId := k + 2 }
        let s := s.onGrp c.gid fun g => xs.foldl (fun g (x : APart) => emptyOp g x.t w d) (if vec then { g with gth := g.gth + 1, gthN := g.gthN + 1 } else { g with atm := g.atm + 1, atmN := g.atmN + 1 })
        let a : AtomOp :=
          { gid := c.gid, dst := destOf w d, op := op, ty := ty, gth := gth, num := c.g.atmN
            acq := if ord = Sys2Proof.Ord.acq || ord = Sys2Proof.Ord.ar then some sc else none
            org := originOf c ((xs.head?.map fun x : APart => x.t).getD 0) ((xs.head?.map fun x : APart => x.ptr).getD 0) 0
            locs := groups.map fun (g : List APart) => { ptr := ((g.head?).map fun x : APart => x.ptr).getD 0, threads := g.map fun x => (x.t, x.val, x.cmp) } }
        let s := { s with ops := FMap.insert s.ops k (.atom a) }
        let s := match gth with | some v => { s with ops := FMap.insert s.ops v (.gth ⟨c.gid, 1, c.g.gthN⟩) } | none => s
        fits c c.s ((groups.mapIdx fun i g => (i, g)).foldl (putAtomLoc c op ty (some k) rel none) (some s))

/-- ATOM (R186 to R188); with `.v`, D supplies each thread's offset from the base. -/
def execAtom (m : Mods.Atom) (o : Args) (s : State) : Host.Outcome State Fault Refusal :=
  issue o s false false fun c =>
    match start c (.atom m o) o with
    | .error x => .error x
    | .ok ts =>
      let n := atyBytes m.ty
      let vs := ts.map fun t => (t, srcs c (.atom m o) o t)
      match (if m.v then elements c n .atomic true (vs.map fun x => (x.1, BitVec.ofNat 64 x.2.2.1.v, x.2.1.v))
             else .ok (vs.map fun x => (x.1, BitVec.ofNat 64 x.2.2.1.v))) with
      | .error e => .error e
      | .ok ps =>
        match placeAtoms c n (ps.map fun p => let x := srcs c (.atom m o) o p.1; (p.1, p.2, x.2.2, if m.v then {} else x.1)) with
        | .error e => .error e
        | .ok xs => atomAll c m.op m.ty m.ord m.scope (some o.d.x) (spec (.atom m o)).d.width m.v xs

/-- RED (R186, R188). -/
def execRed (m : Mods.Red) (o : Args) (s : State) : Host.Outcome State Fault Refusal :=
  issue o s false false fun c =>
    match start c (.red m o) o with
    | .error x => .error x
    | .ok ts =>
      match placeAtoms c (atyBytes m.ty) (ts.map fun t => let x := srcs c (.red m o) o t; (t, BitVec.ofNat 64 x.2.1.v, x.2.2, {})) with
      | .error e => .error e
      | .ok xs => atomAll c m.op m.ty (if m.rel then .rel else .relaxed) m.scope none 32 false xs

/-! ## Fences and commits -/

/-- Some load or atomic result of the group has not returned (R191). -/
def State.awaitsLoads (s : State) (gid : Nat) : Bool := s.ops.any fun p => match p.2 with
  | .load o => o.gid = gid | .atom o => o.gid = gid && o.dst.isSome | _ => false

/-- Finish a two-part instruction. -/
def State.endCont (s : State) (gid : Nat) : State := s.onGrp gid fun g => { g with cont := none }

/-- An instruction has begun to wait for writes or loads: a pre-emption waits for it (R52, R122, R191). -/
def Iss.await (c : Iss) (s : State) : Except Stop State := .error (.wait (s.onGrp c.gid fun g => { g with cont := some .await }))

/-- FENCE (R191), once for the group. The queue holds a release as a barrier from here on (R321). -/
def execFence (m : Mods.Fence) (o : Args) (s : State) : Host.Outcome State Fault Refusal :=
  issue o s false false fun c =>
    match start c (.fence m o) o with
    | .error x => .error x
    | .ok ts =>
      if ts.isEmpty then .ok c.s else
      let rel := m.ord = .rel || m.ord = .ar
      let s := if rel && m.scope ≠ .grp then c.s.commit c.g.blk else c.s
      if rel && !s.released c.gid m.scope then c.await s
      else if (m.ord = .acq || m.ord = .ar) && s.awaitsLoads c.gid then c.await s
      else .ok ((if rel && m.scope ≠ .grp then s.onCore (unitOfGid c.gid) fun k => { k with barrier := s.nextId } else s).endCont c.gid)

/-- Some register of the block is TENT. -/
def State.tentRegs (s : State) (k : Nat) : Bool := s.groups.any fun p => p.2.blk = k &&
  (p.2.t.any (fun r => r.2.st.isTent) || p.2.w.any (fun r => r.2.st.isTent) || p.2.p.any (fun r => r.2.st.isTent) || p.2.q.any fun r => r.2.st.isTent)

/-- COMMIT (R182), once for the group. -/
def execCommit (vfy : Bool) (o : Args) (s : State) : Host.Outcome State Fault Refusal :=
  issue o s false false fun c =>
    match start c (.commit vfy o) o with
    | .error x => .error x
    | .ok ts =>
      if ts.isEmpty then .ok c.s
      else if vfy && (c.s.tentRegs c.g.blk || c.s.wrs.any fun x => x.2.place = WPlace.buffer && x.2.blk = c.g.blk && x.2.tent.isSome) then .error (.wait c.s)
      else .ok (c.s.commit c.g.blk)

/-! ## Cache control -/

/-- PREF (R123): one request for each acting thread; it never faults, posts nothing and holds nothing. -/
def execPref (l1 : Bool) (o : Args) (s : State) : Host.Outcome State Fault Refusal :=
  issue o s false false fun c =>
    match start c (.pref l1 o) o with
    | .error x => .error x
    | .ok ts =>
      .ok (ts.foldl (fun s t =>
        let p := ptrA c (.pref l1 o) o t
        if pForm p ≠ 1 then s
        else s.newReq { client := .prefetch l1, kind := .read, org := originOf c t p 0, ptr := p, len := 1, stage := .context, core := unitOfGid c.gid
                        const := l1, fill := l1 }) c.s)

/-- The cores within a scope of a core (Table 2-2, R8): a system core's narrower scopes reach itself alone; `.mod` reaches every one. -/
def inScope (sc : Scope) (u v : Nat) : Bool :=
  match sc with
  | .grp | .core => u = v
  | .clu => if isSys u then u = v else !isSys v && clusterOf u = clusterOf v
  | .die => if isSys u then u = v else !isSys v && dieOf u = dieOf v
  | .mod | .dom => true

/-- Writes of the group, and those it has observed, that have left the store buffer are performed at a scope, and no side-log entry of it is
left (R52, R124). -/
def State.fenced (s : State) (gid : Nat) (sc : Scope) : Bool :=
  s.wrs.all fun x => !((x.2.gids.contains gid || x.2.seen.contains gid) && x.2.place ≠ WPlace.buffer && x.2.before sc)

/-- The level-0 check of a range (R52, R122). The record's kind is read for `ICINV` too. (DESIGN CHOICE, log 11) -/
def rangeCheck (c : Iss) (p : W64) (len : Nat) : Except Stop Unit :=
  if pForm p ≠ 1 then .error (pointerFault c 0 p .read .form)
  else if len ≠ 0 && 2 ^ 24 < pOff p + len then .error (pointerFault c 0 p .read .straddle)
  else .ok ()

/-- A fetch that is under way no longer fills its core's cache: what it has read may be older than the write that an `ICINV` follows (R53). -/
def Req.unfetch (q : Req) : Req :=
  match q.client, q.stage with
  | .fetch _, .refused _ _ => q
  | .fetch _, _ => { q with client := .prefetch false }
  | _, _ => q

/-- ICINV (R52, R53): the release fence, then the matching lines of every instruction cache in scope go, with the fills that are under way. It always ends
the run. (DESIGN CHOICE, log 11) -/
def execIcinv (m : Mods.Inv) (o : Args) (s : State) : Host.Outcome State Fault Refusal :=
  issue o s false true fun c =>
    match start c (.icinv m o) o with
    | .error x => .error x
    | .ok ts =>
      if ts.isEmpty then .ok c.s else
      let p := ptrA c (.icinv m o) o 0
      let len := (srcs c (.icinv m o) o 0).2.2.v
      match (if m.all then .ok () else rangeCheck c p len) with
      | .error e => .error e
      | .ok _ =>
        if !c.s.fenced c.gid m.scope then c.await c.s else
        let u := unitOfGid c.gid
        let hit (ctx : Nat) (ptr : W64) : Bool :=
          if m.all then isSys u || ctx = c.b.ctx else ctx = c.b.ctx && len ≠ 0 && overlap ptr 192 p len
        .ok ({ c.s with
          cores := FMap.mapVals c.s.cores fun v k => if inScope m.scope u v then { k with icache := k.icache.filter fun l => !hit l.ctx l.ptr } else k
          reqs := FMap.mapVals c.s.reqs fun _ q => if inScope m.scope u q.core && hit (gCtx q.org.guidon) q.org.ptr then q.unfetch else q }.endCont c.gid)

/-- The lines of a region that hold a byte of a range of offsets (R122). -/
def State.inRange (s : State) (st i off len : Nat) (t : Tag) : Bool :=
  let v := s.view st i
  t.stack = st && t.i = i && (List.range 256).any fun b => let f := lineOff v.1 v.2 t.tx t.ty b; off ≤ f && f < off + len

/-- The lines of a range that the L2 holds. -/
def State.rangeLines (s : State) (st i off len : Nat) : List Tag := (s.l2.map fun x => tagOf x.1).filter (s.inRange st i off len)

/-- Drop the lines of a range from the L1s of the cores in scope. -/
def State.l1Range (s : State) (sc : Scope) (u : Nat) (st i off len : Nat) : State :=
  { s with cores := FMap.mapVals s.cores fun v k =>
      if inScope sc u v then { k with l1 := k.l1.filter fun l => !(l.mod = s.modNo && s.inRange st i off len l.tag) } else k }

/-- Drop the L1s of the cores in scope: whole from a system core, else the context's own lines (R125). -/
def State.l1All (s : State) (sc : Scope) (u ctx : Nat) : State :=
  { s with cores := FMap.mapVals s.cores fun v k => if inScope sc u v then { k with l1 := k.l1.filter fun l => !(isSys u || l.ctx = ctx) } else k }

/-- The request of a range lookup (R122). (DEDUCED, log 37) -/
def rangeReq (c : Iss) (p : W64) (len op : Nat) : Req :=
  { client := .range c.gid, kind := .read, org := originOf c 0 p 0, ptr := p, len := len, pay := .range op, stage := .context, core := unitOfGid c.gid }

/-- Begin the range lookup: the group waits for it at its instruction. (DEDUCED, log 37) -/
def beginRange (c : Iss) (p : W64) (len op : Nat) : Stop :=
  .wait ((c.s.newReq (rangeReq c p len op)).onGrp c.gid fun g => { g with cont := some (.range c.s.nextId) })

/-- What a range lookup has come to: the region and offset it names in this module, nothing to do here, or still under way. (DEDUCED, log 37) -/
inductive RangeAt
  | region (stack i off : Nat)
  | elsewhere
  | pending
  deriving DecidableEq, Repr

/-- Where a range lookup stands. (DEDUCED, log 37; DEDUCED, log 106) -/
def State.rangeAt (s : State) (id : Nat) : Option RangeAt :=
  match FMap.find? s.reqs id with
  | none => none
  | some q =>
    match q.stage with
    | .ready (.line t _ off _) => some (.region t.stack t.i off)
    | .ready _ => some .elsewhere
    | _ => some .pending

/-- WBR (R122, R124): the fence; the range lookup; then every dirty line of the range is written back, and dropped with `.inv`; it retires when
every write-back has been applied. (DEDUCED, log 37) -/
def execWbr (inv : Bool) (o : Args) (s : State) : Host.Outcome State Fault Refusal :=
  issue o s false false fun c =>
    match start c (.wbr inv o) o with
    | .error x => .error x
    | .ok ts =>
      if ts.isEmpty then .ok c.s else
      let p := ptrA c (.wbr inv o) o 0
      let len := (srcs c (.wbr inv o) o 0).2.2.v
      let first : Except Stop State :=
        if !c.s.fenced c.gid .mod || c.s.wrs.any (fun x => x.2.onCore && x.2.unit = unitOfGid c.gid) then c.await c.s
        else match rangeCheck c p len with
        | .error e => .error e
        | .ok _ => if len = 0 then .ok (c.s.endCont c.gid) else .error (beginRange c p len inv.toNat)
      match c.g.cont with
      | some (.wbr ids) => if ids.any fun k => (FMap.find? c.s.wbacks k).isSome then .error (.wait c.s) else .ok (c.s.endCont c.gid)
      | some (.range r) =>
        (match c.s.rangeAt r with
         | none => first
         | some .pending => .error (.wait c.s)
         | some .elsewhere => .ok ((c.s.dropReq r).endCont c.gid)
         | some (.region st i off) =>
           let ls := c.s.rangeLines st i off len
           if ls.any (fun t => match c.s.line? t with | some l => l.wb ≠ 0 | none => false) then .error (.wait c.s) else
           let s := ls.foldl (fun s t => s.writeBack t inv) (c.s.dropReq r)
           .error (.wait (s.onGrp c.gid fun g => { g with cont := some (.wbr ((List.range (s.nextId - c.s.nextId)).map fun k => c.s.nextId + k)) })))
      | _ => first

/-- INVL1 (R122, R125): lines leave the L1s of every core in scope. (DEDUCED, log 37) -/
def execInvl1 (m : Mods.Inv) (o : Args) (s : State) : Host.Outcome State Fault Refusal :=
  issue o s false false fun c =>
    match start c (.invl1 m o) o with
    | .error x => .error x
    | .ok ts =>
      if ts.isEmpty then .ok c.s else
      let u := unitOfGid c.gid
      if m.all then .ok (c.s.l1All m.scope u c.b.ctx)
      else
        let p := ptrA c (.invl1 m o) o 0
        let len := (srcs c (.invl1 m o) o 0).2.2.v
        let first : Except Stop State :=
          match rangeCheck c p len with
          | .error e => .error e
          | .ok _ => if len = 0 then .ok c.s else .error (beginRange c p len 2)
        match c.g.cont with
        | some (.range r) =>
          (match c.s.rangeAt r with
           | none => first
           | some .pending => .error (.wait c.s)
           | some .elsewhere => .ok ((c.s.dropReq r).endCont c.gid)
           | some (.region st i off) => .ok (((c.s.dropReq r).l1Range m.scope u st i off len).endCont c.gid))
        | _ => first

end Sys2Proof.Machine
end

