-- ==== Sys2Proof/Machine/Path.lean ====
section
/-! DEFINITION. The memory path as steps of the part: lookups at the four levels, gates, buckets, home slices, sequencers, replies, and the writes that
leave store buffers, queues and side logs (R58 to R73, R92 to R94, R102 to R121, R178 to R189). A step whose condition does not hold changes
nothing. What a store meets during a relocation (R76), and what every party sees of an applied write and of an atomic (R322, R323), follow from it. -/

namespace Sys2Proof.Machine

open Sys2Proof Sys2Proof.Decode

/-! ## Poison found on the way (R102 to R104) -/

/-- The rows of a table from a key on, `n` keys long, that are listed. -/
def State.tabsFrom (s : State) (lo n : Nat) : List (Nat × BitVec 128) := s.tabs.filter fun x => lo ≤ x.1 && x.1 < lo + n
/-- A level's entry lets a guidon read. -/
def State.letsRead (s : State) (lvl sel : Nat) (e : BitVec 128) (g : BitVec 33) : Bool := bt e AKind.read.permBit && (s.grants lvl sel (eACL e) g .read).isSome

/-- The contexts to which a region of a stack is mapped (R104), each with the first outer and middle labels that reach it: their entries name the stack and
let the context read. (DESIGN CHOICE, log 119) -/
def State.mappedTo (s : State) (st i : Nat) : List (Nat × Nat × Nat) :=
  if eState (s.tab (keyStack st i)) ≠ 1 then [] else
  s.ctxs.filterMap fun c =>
    let g := guidonOf s.modNo c.2.part c.1 0 false false
    let o := (s.tabsFrom (s.keyCtx c.1 0) 1024).find? fun x => eState x.2 = 1 && !bt x.2 95 && s.letsRead 1 c.1 x.2 g
    let m := (s.tabsFrom (keyChip 0) 4096).find? fun x => eState x.2 = 1 && bf x.2 94 2 = 0 && bf x.2 83 5 = st && s.letsRead 3 0 x.2 g
    match o, m with
    | some o, some m => if s.letsRead 4 st (s.tab (keyStack st i)) g then some (c.1, o.1 - s.keyCtx c.1 0, m.1 - keyChip 0) else none
    | _, _ => none

/-- The places of a stack's regions that a frame of the stack lies behind: region and offset. (DESIGN CHOICE, log 119) -/
def State.placesOf (s : State) (st frame : Nat) : List (Nat × Nat) :=
  (s.tabsFrom (keyStack st 0) 16384).flatMap fun x =>
    if eState x.2 ≠ 1 then [] else
    (List.range ((bf x.2 80 8 + 1) * 16)).filterMap fun k =>
      let pe := s.pageEntry st (bf x.2 56 24 * 4096 + 8 * k)
      if bf pe 62 2 = 1 && bf pe 0 24 + k % (pageSize (bf pe 59 3) / 4096) = frame then some (x.1 - keyStack st 0, k * 4096) else none

/-- Tell the partitions of the contexts to which a stack byte's page is mapped of an error there (R104, R386). -/
def State.tellMapped (s : State) (type pa : Nat) : State :=
  let st := pa / 2 ^ 36
  (s.placesOf st (pa % 2 ^ 36 / 4096)).foldl (fun s x =>
    (s.mappedTo st x.1).foldl (fun s c => s.virtualError type c.1 (lbl c.2.1 c.2.2 x.1 (x.2 + pa % 4096)) 0) s) s

/-- The sector of a stack byte returns an error that cannot be corrected (R103, R104). -/
def State.newPoison (s : State) (pa : Nat) : State :=
  if s.poisoned pa then s else
  let st := pa / 2 ^ 36
  let k := FMap.getD s.hbm st {}
  ((({ s with hbm := FMap.insert s.hbm st { k with uec := min (2 ^ 32 - 1) (k.uec + 1) } }).poison pa).notice ntPoison pa).tellMapped 1 pa

/-- The sector of a stack byte is read: without error, corrected, or lost (R102, R103). (DESIGN CHOICE, log 112) -/
def State.eccRead (s : State) (pa : Nat) (lost : Option Bool) : State :=
  match lost with
  | none => s
  | some true => s.newPoison pa
  | some false =>
    let k := FMap.getD s.hbm (pa / 2 ^ 36) {}
    { s with hbm := FMap.insert s.hbm (pa / 2 ^ 36) { k with cec := min (2 ^ 32 - 1) (k.cec + 1) } }

/-- What an ECC outcome says of the data read. -/
def Ecc.ofData : Ecc → Option Bool | .data l => some l | _ => none
/-- What an ECC outcome says of the page entry read. -/
def Ecc.ofPage : Ecc → Option Bool | .page l => some l | _ => none

/-- An entry is read from its table: none where its sector is lost (R66, R103). -/
def State.readTab (s : State) (key : Nat) (e : Ecc) : State × Option (BitVec 128) :=
  let s := if e = .entry && !s.tabLost key then (s.loseTab key).notice ntPoison key else s
  (s, if s.tabLost key then none else some (s.tab key))

/-- An SRAM word or scratchpad sector is read: an error that cannot be corrected poisons it (R117, R157). -/
def State.sramRead (s : State) (a : Nat) (e : Ecc) : State := if e = .data true && !s.poisoned a then (s.poison a).notice ntPoison a else s

/-! ## Buckets (R120, R121, R140) -/

/-- Bring a bucket's balance up to a moment; `waiting` where some request has waited at it since the last (R120, HELD of Table 5-6). -/
def Bucket.refill (b : Bucket) (now : Nat) (waiting : Bool) : Bucket :=
  let cap : Int := (max 1 b.burst * 1024 * 1000 : Nat)
  let w := b.waitCyc + (if waiting then now - b.last else 0)
  { b with bal := min cap (b.bal + b.rate * (now - b.last)), last := now, waitCyc := w % 1024, held := min (2 ^ 32 - 1) (b.held + w / 1024) }

/-- A request passes a bucket as its policy says (R120). -/
def Bucket.passes (b : Bucket) : Bool :=
  match b.pol with
  | 1 => -((max 1 b.burst * 1024 * 1000 : Nat) : Int) < b.bal
  | 2 => true
  | _ => 0 < b.bal

/-- Charge a bucket some bytes. -/
def Bucket.charge (b : Bucket) (bytes : Nat) : Bucket := { b with bal := b.bal - bytes * 1000 }

/-- Write a bucket. -/
def State.setBucket (s : State) (b : Nat) (x : Bucket) : State :=
  if b < 4096 then { s with mbkts := FMap.put s.mbkts b x {} } else { s with fbkts := FMap.put s.fbkts (b - 4096) x {} }

/-- Some request waits at a bucket. -/
def State.waitsAt (s : State) (b : Nat) : Bool := s.reqs.any fun r => match r.2.stage with | .bucket b' _ _ => decide (b' = b) | _ => false
/-- Bring a bucket up to the present moment. -/
def State.tickBucket (s : State) (b : Nat) : State := s.setBucket b ((s.bucket b).refill s.now (s.waitsAt b))

/-- The payload bytes of a request's packet: what it writes, or the operands of an atomic; a vector packet's offsets (R131). -/
def Payload.bytes : Payload → Nat
  | .store b _ => b.length
  | .atomic _ ty v => atyBytes ty * v.length
  | _ => 0
/-- The flits that hold some payload bytes (R127). -/
def flitsFor (n : Nat) : Nat := max 1 ((n + 239) / 240)

/-- A request's charge at the chip level (R120): whole sectors, or 256 bytes for a line fill. -/
def chargeOf (q : Req) : Nat := if bf q.ent 94 2 = 0 && (q.kind = .fetch || (q.kind = .read && q.fill)) then 256 else (q.len + 31) / 32 * 32

/-! ## Leaving for another module -/

/-- The flow to a peer takes packets now: no hoist runs, and the flow is neither stopped nor in recovery nor lost (R149 to R151). -/
def State.flowOpen (s : State) (m : Nat) : Bool :=
  let f := s.flow m
  s.regs.mod.isSome && s.hoist.isNone && !f.stopped && f.recov.isNone && !f.lost

/-- The `LDV` or vector `ATOM` whose element a request is (R131). -/
def State.vecOf (s : State) (q : Req) : Option Nat :=
  match q.client with
  | .load op => (match FMap.find? s.ops op with | some (.load o) => o.gth | _ => none)
  | .write w => (FMap.find? s.wrs w).bind fun x => match x.data with | .atom .. => (x.src.head?).bind fun y => y.gth | _ => none
  | _ => none

/-- The other elements of a vector packet that stand at egress with a request. -/
def State.mates (s : State) (id : Nat) (q : Req) (m : Nat) : List (Nat × Req) :=
  match s.vecOf q with
  | none => []
  | some v => s.reqs.filter fun x => x.1 ≠ id && s.vecOf x.2 = some v && (match x.2.stage with | .egress m' 2 => decide (m' = m) | _ => false)

/-- Other elements of a request's vector packet are still on their way to egress: in the core, at the context level or at its bucket. -/
def State.matesComing (s : State) (id : Nat) (q : Req) : Bool :=
  match s.vecOf q with
  | none => false
  | some v =>
    s.reqs.any (fun x => x.1 ≠ id && s.vecOf x.2 = some v && (match x.2.stage with
      | .context | .held 1 _ _ _ => true | .bucket b _ _ => decide (4096 ≤ b) | _ => false)) ||
    s.wrs.any fun x => (x.2.place = WPlace.buffer || x.2.place = WPlace.queue) && (match x.2.data with | .atom .. => x.2.src.any fun y => y.gth = some v | _ => false)

/-- What a request to another module is charged at its context rule's bucket (R140): its packet's flits; a vector packet is charged with its first element. -/
def State.egressCharge (s : State) (id : Nat) (q : Req) (m : Nat) : Nat :=
  match s.vecOf q with
  | some v => if s.reqs.any (fun x => x.1 ≠ id && s.vecOf x.2 = some v && (match x.2.stage with | .egress m' 2 => m' = m | .bucket _ _ (.remote m') => m' = m | _ => false))
      then 0 else 256
  | none => 256 * flitsFor q.pay.bytes

/-- Where the bytes of a request of another module stand, as a reply names them: the element and the offset as they came. -/
def Req.wireOff (q : Req) : Nat := q.elem * 2 ^ 24 + pOff q.ptr0
/-- The same of a request sent to another module, as its replies will name them. -/
def Req.sentOff (q : Req) : Nat := q.sub * 2 ^ 24 + pOff q.ptr

/-- What a request carries to another module: a write or atomic whose home slice is here asks for its grant alone (R108). -/
def Req.cargo (q : Req) : Payload :=
  match q.home, q.pay with
  | some _, .store .. => .grant 0
  | some _, .atomic _ ty _ => .grant (atyBytes ty)
  | _, p => p

/-- One element of a vector operation is done; the last one brings GTH down (R177). -/
def State.elementDone (s : State) (v : Nat) : State :=
  match FMap.find? s.ops v with
  | some (.gth o) =>
    if o.left ≤ 1 then { (s.onGrp o.gid fun g => { g with gth := g.gth - 1 }) with ops := FMap.erase s.ops v }
    else { s with ops := FMap.insert s.ops v (.gth { o with left := o.left - 1 }) }
  | _ => s

/-- A write has its sequence number: a store's vector elements are done (R177, R134). -/
def State.sequenced (s : State) (c : Client) : State :=
  match c with
  | .write w =>
    (match FMap.find? s.wrs w with
     | some x => if x.data.isStore then
         (x.src.filterMap fun y => y.gth).foldl State.elementDone { s with wrs := FMap.insert s.wrs w { x with src := x.src.map fun y => { y with gth := none } } }
       else s
     | none => s)
  | _ => s

/-- The VC of a request's packet (R129): copy and collective traffic, and that of the storage port, travels on BLK. -/
def reqVC (g : BitVec 33) : Nat := if gCls g = 1 || gCls g = 3 || gCls g = 4 then 2 else 0

/-- Hand a request to egress for a level of another module, under the flow's next sequence number, with the other elements of its vector packet; where the
flow takes nothing, or elements are still to come, it waits there. (DESIGN CHOICE, log 36) -/
def State.depart (s : State) (id : Nat) (q : Req) (m lvl : Nat) : State :=
  if s.flowOpen m && (lvl ≠ 2 || !s.matesComing id q) then
    let seq := packetName s.regs.gen.toNat (s.flow m).next
    let ms := if lvl = 2 then s.mates id q m else []
    let s := s.send m (reqVC q.org.guidon) (.req q.kind lvl q.ptr q.label q.len q.cargo q.org q.fwd (ms.map fun x => (x.2.ptr, x.2.len, x.2.cargo, x.2.org)))
      (match q.rel with | some .dom => true | _ => false)
    let s := if q.kind = .read || q.kind = .fetch then s
      else { s with flows := FMap.put s.flows m { s.flow m with unacked := (s.flow m).unacked ++ [seq] } {} }
    let s := ms.zipIdx.foldl (fun s x => s.setReq x.1.1 { x.1.2 with stage := .sent m seq, sub := x.2 + 1 }) (s.setReq id { q with stage := .sent m seq, sub := 0 })
    if lvl = 2 then s.sequenced q.client else s
  else s.arrive id q (.egress m lvl)

/-! ## Completion -/

/-- A write is performed at its owner: it leaves its core, its vector elements are done, and its core's L1 drops the line (R118). -/
def State.writeDone (s : State) (w : Nat) : State :=
  match FMap.find? s.wrs w with
  | none => s
  | some x =>
    let s := { s with wrs := FMap.erase s.wrs w }
    let s := (x.src.filterMap fun y => y.gth).foldl State.elementDone s
    if x.loc.isSome then s else s.l1StoreN x.unit x.ctx x.data.range.1 (max 1 x.data.range.2)

/-- One request of a write is done. -/
def State.writePart (s : State) (w : Nat) : State :=
  match FMap.find? s.wrs w with
  | none => s
  | some x => if x.reqs ≤ 1 then s.writeDone w else { s with wrs := FMap.insert s.wrs w { x with reqs := x.reqs - 1 } }

/-- Record what an atomic's request returned (R187). -/
def State.atomResult (s : State) (op loc : Nat) (vals : List Nat) (pois : Bool) (tent : Option Nat) : State :=
  { s with ops := FMap.modify s.ops op fun o => match o with
      | .atom a => .atom { a with
          tent := joinMark a.tent tent
          locs := a.locs.mapIdx fun i l => if i = loc then { l with result := some (vals.map (BitVec.ofNat 64)), pois := pois } else l }
      | o => o }

/-- Bytes that no error is known of. -/
def clean (bs : List Byte) : List (Byte × Bool) := bs.map fun b => (b, false)
/-- The values of an atomic as the bytes of a reply. -/
def replyBytes (n : Nat) (vals : List Nat) (pois : Bool) : List (Byte × Bool) := (vals.flatMap (leBytes n)).map fun b => (b, pois)
/-- The values of an atomic's reply. -/
def valuesOf (n : Nat) (bs : List Byte) : List Nat := (List.range (bs.length / max 1 n)).map fun i => leNat ((bs.drop (n * i)).take n)
/-- The bytes of one value of a request's atomic. -/
def Req.unitBytes (q : Req) : Nat := match q.pay with | .atomic _ ty _ => atyBytes ty | _ => 1

/-- A write-back none of whose rows is left has been applied (R107): its line is dropped, or counts one fewer. -/
def State.backCheck (s : State) (id : Nat) : State :=
  match FMap.find? s.wbacks id with
  | none => s
  | some w =>
    if w.rows ≠ [] || w.acks ≠ 0 then s else
    let s := { s with wbacks := FMap.erase s.wbacks id }
    match s.line? w.tag with
    | none => s
    | some l =>
      if w.inv && l.dirty.isEmpty && l.wb ≤ 1 then s.lineDrop w.tag else { s with l2 := FMap.insert s.l2 w.tag.key { l with wb := l.wb - 1 } }

/-- One row of a write-back has been applied at another module, or refused there. -/
def State.backRow (s : State) (id : Nat) : State :=
  ({ s with wbacks := FMap.modify s.wbacks id fun w => { w with acks := w.acks - 1 } }).backCheck id

/-- What becomes of a request once its owner has performed it: a reply to another module, its write's part is done, or its unit finds it done. -/
def State.finish (s : State) (id : Nat) (q : Req) (vals : List Nat) (pois : Bool) : State :=
  match q.client with
  | .foreign src seq =>
    let s := if q.mcast.isSome then (s.uncount id q).setReq id { q with served := true, entries := [], shared := [] } else s.dropReq id
    (match q.pay with
     | .atomic _ ty _ => s.send src 1 (.data seq q.wireOff (replyBytes (atyBytes ty) vals pois)) false
     | _ => s.send src 1 (.ack seq q.wireOff q.len) false)
  | .write w =>
    let s := s.dropReq id
    (match (FMap.find? s.wrs w).map (fun x : Wr => x.data) with
     | some (.atom op loc _ _) => (s.atomResult op loc vals pois q.tent).writePart w
     | some (.red _ _ p _) => if pois then ((s.notice ntPoison p.toNat).virtualError 3 (gCtx q.org.guidon) q.org.ptr 0).writePart w else s.writePart w
     | _ => s.writePart w)
  | .copy .. | .eop .. | .tok _ | .coll .. => s.performed id q
  | .wback w => (s.dropReq id).backRow w
  | .member _ => (s.uncount id q).setReq id { q with
      served := true, entries := [], shared := [], result := replyBytes q.unitBytes vals pois, poison := pois
      stage := match q.stage with | .ready t => .ready t | .slice t => .ready t | _ => .ready (.remote 0) }
  | _ => s.dropReq id

/-! ## Refusals (R77 to R79, R183, R188) -/

/-- The write of a client is an atomic with return, which holds its group (R188). -/
def State.isAtom (s : State) (w : Nat) : Bool :=
  match FMap.find? s.wrs w with | some x => (match x.data with | .atom .. => true | _ => false) | none => false

/-- A refusal that holds an engine's request until its fault has been serviced (R165, R277, R346). -/
def Refuse.services (r : Refuse) : Bool := r.reason = .absent || r.reason = .gate

/-- Hold a refused request where it is, its counts given up: `told` where its record has been posted (R361). -/
def State.holdRefused (s : State) (id : Nat) (q : Req) (r : Refuse) (told : Bool) : State :=
  (s.uncount id q).setReq id { q with stage := .refused r told, entries := [], shared := [], served := false, home := none, result := [] }

/-- Answer another module that its request, or a part of one, has been refused here: the full record stays here, and the flow's fault epoch rises for a
write (R79, R115, R133). -/
def State.refuseForeign (s : State) (q : Req) (src seq : Nat) (r : Refuse) : State :=
  let f := s.flow src
  let s := if q.kind = .write || q.kind = .atomic then
      { s with flows := FMap.put s.flows src { f with fep := (f.fep + 1) % 65536, refs := f.refs ++ [(seq % 2 ^ 64, (f.fep + 1) % 65536)] } {} }
    else s
  let s := s.post (if r.level = 4 && q.mcast.isNone then dstFw else dstPlog) (faultRec q.org q.kind r) 0 false none
  s.send src 1 (.refusal seq q.wireOff q.len r) false

/-- A level refuses a request: a prefetch is dropped, another module is answered; a write waits to enter the side log; an engine's request of a reason that
no service mends ends its operation; anything else is held, and its record is posted. Its counts fall. (DEDUCED, log 10) -/
def State.refuse (s : State) (id : Nat) (q : Req) (r : Refuse) : State :=
  match q.client with
  | .prefetch _ => s.dropReq id
  | _ =>
  let s := if r.reason = .poison && !r.remote then s.service 7 r.label else s
  match q.client with
  | .foreign src seq => (s.dropReq id).refuseForeign q src seq { r with remote := true }
  | .write w => if s.isAtom w then (s.holdRefused id q r true).report q.org q.kind r (some id) else s.holdRefused id q r false
  | .copy .. | .eop .. | .tok _ | .coll .. => (s.holdRefused id q r true).report q.org q.kind r (if r.services then some id else none)
  | .member _ =>
    if q.kind = .atomic then s.holdRefused id q r true
    else ((if r.remote then s.dropReq id else (s.dropReq id).post dstPlog (faultRec q.org q.kind r) 0 false none)).service 4 0
  | .wback w => ((s.dropReq id).notice ntLostWriteBack (((FMap.find? s.wbacks w).map fun x => x.tag.key).getD 0)).backRow w
  | .reloc st => { s.dropReq id with hbm := FMap.modify s.hbm st fun k => { k with reloc := k.reloc.map fun x => { x with failed := true } } }
  | .posted => (s.dropReq id).report q.org q.kind r none
  | _ => (s.holdRefused id q r true).report q.org q.kind r (some id)

/-! ## The context level (R59, R70) -/

/-- Where a context-level label cache is: in a core, a network port, or the storage port. -/
inductive Cache | core (u : Nat) | port (p : Nat) | storage
  deriving DecidableEq, Repr

/-- The entries of a context-level label cache. -/
def State.cached (s : State) : Cache → List CLine
  | .core u => (s.core u).lcache
  | .port p => (FMap.getD s.ports p {}).lcache
  | .storage => s.spcache
/-- Write the entries of a context-level label cache. -/
def State.setCached (s : State) (k : Cache) (l : List CLine) : State :=
  match k with
  | .core u => s.onCore u fun c => { c with lcache := l }
  | .port p => { s with ports := FMap.put s.ports p { FMap.getD s.ports p {} with lcache := l } {} }
  | .storage => { s with spcache := l }
/-- How many entries a context-level label cache holds (R70). -/
def Cache.size : Cache → Nat | .core _ => 64 | _ => 256

/-- Drop the least recently used of some cached entries. -/
def dropLru : List CLine → List CLine
  | [] => []
  | x :: xs => let m := xs.foldl (fun m y => if y.used < m.used then y else m) x; (x :: xs).filter fun y => y ≠ m

/-- The entry of a label as a context-level cache holds it; on a miss, or without a cache, the table's, which is cached if VALID or FORWARD (R70). None
where its sector is lost. -/
def State.ctxEntry (s : State) (k : Option Cache) (ctx o : Nat) (e : Ecc) : State × Option (BitVec 128) :=
  let l := match k with | some k => s.cached k | none => []
  match k, l.find? fun x => x.ctx = ctx && x.o = o with
  | some k, some x => (s.setCached k (l.map fun y => if y.ctx = ctx && y.o = o then { y with used := s.now } else y), some x.ent)
  | k, _ =>
    let r := s.readTab (s.keyCtx ctx o) e
    match k, r.2 with
    | some k, some x => if eST x = 1 || eST x = 3 then (r.1.setCached k ((if k.size ≤ l.length then dropLru l else l) ++ [⟨ctx, o, x, s.now⟩]), some x) else (r.1, some x)
    | _, x => (r.1, x)

/-- A request goes through the storage port: a copy's, or a system core's, to a storage endpoint (R152). (DESIGN CHOICE, log 69) -/
def State.storage (s : State) (q : Req) : Bool :=
  let e := s.tab (s.keyCtx (gCtx q.org.guidon) (pO q.ptr))
  bt e 95 && (gCls q.org.guidon = 1 || gCls q.org.guidon = 4 || isSys q.core) && Config.storageEndpoint (bf e 76 9)

/-- The label cache that a request is looked up in: the storage port's, its routing engine's network port, or its core's; none for the module's own
units. (DESIGN CHOICE, log 69; DESIGN CHOICE, log 105) -/
def State.cacheFor (s : State) (q : Req) : Option Cache :=
  if s.storage q then some .storage
  else match q.client with
  | .tok _ | .coll .. => some (.port (4 * (q.org.unit - 1786)))
  | .posted => none
  | _ => some (.core q.core)

/-- The cycle until which an entry's gate holds what arrives now: the bound is the one in GTO at the arrival (R72). (DEDUCED, log 111) -/
def State.gateEnd (s : State) (key : Nat) : Nat := s.now + eGTO (s.tab key)

/-- Hold a request at a gated entry, to be looked up afresh from where it stands (R72). -/
def State.holdAt (s : State) (id : Nat) (q : Req) (lvl key : Nat) : State := s.arrive id q (.held lvl key (s.gateEnd key) q.stage)

/-- A load whose group has an older load outstanding that overlaps it: it waits, so that the older one is served first (R318). (DEDUCED, log 30) -/
def State.loadBehind (s : State) (q : Req) : Bool :=
  match q.client with
  | .load op =>
    (match FMap.find? s.ops op with
     | some (.load o) => s.ops.any fun x => match x.2 with
         | .load p => x.1 < op && p.gid = o.gid && !(p.gth.isSome && p.gth = o.gth) && overlap p.org.ptr p.bytes.length o.org.ptr o.bytes.length
         | _ => false
     | _ => false)
  | _ => false

/-- CONTEXT_LEVEL_LOOKUP (R59, R69). -/
def State.contextLookup (s : State) (id : Nat) (e : Ecc) : State := s.onReq id fun q =>
  if q.stage ≠ .context || s.loadBehind q then s else
  let q := if s.storage q then { q with org := { q.org with guidon := gWithCls q.org.guidon 4 } } else q
  let g := q.org.guidon
  let key := s.keyCtx (gCtx g) (pO q.ptr)
  let x := s.ctxEntry (s.cacheFor q) (gCtx g) (pO q.ptr) e
  let q' := { q with shared := q.shared ++ [key] }
  match x.2 with
  | none => x.1.refuse id q ⟨1, .poison, pO q.ptr, s.modNo, false, q.fwd⟩
  | some ent =>
    match decCtx s g q.kind q.ptr ent with
    | .refuse r => x.1.refuse id q ⟨1, r, pO q.ptr, s.modNo, false, q.fwd⟩
    | .gated => x.1.holdAt id q 1 key
    | .chip _ => (x.1.countUp key).setReq id { q' with stage := .chip }
    | .fabric m l =>
      if m = s.modNo then (x.1.countUp key).setReq id { q' with stage := .port, label := l }
      else
        let b := 4096 + (s.grants 1 (gCtx g) (eACL ent) g q.kind).getD 0
        if (s.bucket b).rate = 0 then (x.1.countUp key).depart id { q' with label := l } m 2
        else ((x.1.countUp key).tickBucket b).arrive id { q' with label := l } (.bucket b (s.egressCharge id q m) (.remote m))
    | _ => s

/-! ## The port level (R60) -/

/-- PORT_LEVEL_LOOKUP: ports read their table (R70). -/
def State.portLookup (s : State) (id : Nat) (e : Ecc) : State := s.onReq id fun q =>
  if q.stage ≠ .port then s else
  let key := keyPort q.label
  let s := (s.readTab key e).1
  let q' := { q with shared := q.shared ++ [key] }
  match decPort s q.org.guidon q.kind q.label q.fwd q.ptr with
  | .refuse r => s.refuse id q ⟨2, r, q.label, s.modNo, false, q.fwd⟩
  | .gated => s.holdAt id q 2 key
  | .chip _ => (s.countUp key).setReq id { q' with stage := .chip }
  | .portAgain m l =>
    let q' := { q' with label := l, fwd := q.fwd + 1 }
    if m = s.modNo then (s.countUp key).setReq id q' else (s.countUp key).depart id q' m 2
  | _ => s

/-! ## The chip level (R61, R94, R105) -/

/-- The least recently used of some cached chip entries leaves. -/
def dropLruChip : List (Nat × BitVec 128 × Nat) → List (Nat × BitVec 128 × Nat)
  | [] => []
  | x :: xs => let k := xs.foldl (fun k y => if y.2.2 < k.2.2 then y else k) x; (x :: xs).filter fun y => y ≠ k

/-- The chip entry of M as its entry slice caches it; on a miss the table's, cached if VALID or FORWARD (R70). None where its sector is lost. -/
def State.chipEntry (s : State) (m : Nat) (e : Ecc) : State × Option (BitVec 128) :=
  let l := FMap.getD s.ecache (m % 64) []
  match l.find? fun x => x.1 = m with
  | some x => ({ s with ecache := FMap.put s.ecache (m % 64) (l.map fun y => if y.1 = m then (m, x.2.1, s.now) else y) [] }, some x.2.1)
  | none =>
    let r := s.readTab (keyChip m) e
    match r.2 with
    | some x => if eST x = 1 || eST x = 3 then
        ({ r.1 with ecache := FMap.put r.1.ecache (m % 64) ((if l.length < 128 then l else dropLruChip l) ++ [(m, x, s.now)]) [] }, some x) else (r.1, some x)
    | none => (r.1, none)

/-- A request acts on a range of lines (R122). -/
def Payload.isRange : Payload → Bool | .range _ => true | _ => false

/-- How many of a request's bytes its first part has, at a chip entry (R94, R95, R122). -/
def State.firstPart (s : State) (q : Req) (ent : BitVec 128) : Nat :=
  if q.pay.isRange || q.kind = .atomic then q.len else
  match bf ent 94 2 with
  | 0 => let v := s.view (bf ent 83 5) (pI q.ptr); min q.len (lineLeft v.1 v.2 (pOff q.ptr))
  | 1 => min q.len (256 - pOff q.ptr % 256)
  | _ => q.len

/-- The payload of a part of a request. -/
def Payload.part (p : Payload) (a n : Nat) : Payload :=
  match p with | .store b ps => .store (maskSlice b a n) ((ps.filter fun i => a ≤ i && i < a + n).map fun i => i - a) | p => p
/-- A payload names bytes to move; a masked store's part may name none. -/
def Payload.moves : Payload → Bool | .store b _ => b.any Option.isSome | _ => true

/-- One more part of whatever a client waits for. -/
def State.onePart (s : State) : Client → State
  | .write w => { s with wrs := FMap.modify s.wrs w fun x => { x with reqs := x.reqs + 1 } }
  | .wback w => { s with wbacks := FMap.modify s.wbacks w fun x => { x with acks := x.acks + 1 } }
  | _ => s

/-- Split a request after its first `n` bytes: each part is looked up at the chip level by itself; the entries that have granted the whole keep one count
for both (R94). -/
def State.splitReq (s : State) (id : Nat) (q : Req) (n : Nat) : State :=
  let q := { q with shared := q.shared ++ q.entries, entries := [] }
  let a := { q with len := n, pay := q.pay.part 0 n, got := q.got.take n }
  let b := { q with ptr := pPlus q.ptr n, ptr0 := pPlus q.ptr0 n, len := q.len - n, pay := q.pay.part n (q.len - n), got := q.got.drop n }
  match a.pay.moves, b.pay.moves with
  | true, true => { ((s.setReq id a).setReq s.nextId { b with arrived := s.nextId }).onePart q.client with nextId := s.nextId + 1 }
  | true, false => s.setReq id a
  | _, _ => s.setReq id b

/-- Issue at the chip level, past the bucket: to the home slice, stamped with its domain's epoch, to a scratchpad bank, or on the way of a replica set
(R105, R111, R115). A domain whose switch runs holds the request. -/
def State.issueTo (s : State) (id : Nat) (q : Req) : State :=
  let d := domOf q.ent
  let no (r : Reason) : State := s.refuse id q ⟨3, r, pM q.ptr, s.modNo, false, q.fwd⟩
  if bf q.ent 94 2 = 0 && (FMap.getD s.doms d {}).busy then s.arrive id q (.domainHeld d)
  else match s.chipTarget q.len q.ptr q.ent with
  | none => no .absent
  | some (.replica set i off) =>
    if !q.pay.isRange && (q.kind = .write || q.kind = .atomic) then s.arrive id { q with turn := s.nextId } (.slice (.replica set i off))
    else
      (match s.ownReplica set with
       | some m => s.arrive id { q with ptr := lbl (pO q.ptr) m i off } .chip
       | none =>
         let h := repHome (FMap.getD s.reps set {})
         if q.pay.isRange then s.arrive id q (.ready (.remote 0))
         else if h = s.modNo then no .absent
         else if 4 ≤ q.fwd then no .forwardLimit
         else s.depart id { q with ptr := lbl (pO q.ptr) (s.homeReplica set) i off, fwd := q.fwd + 1 } h 3)
  | some t =>
    let line := match t with | .line .. => true | _ => false
    s.arrive id { q with stamp := if line then some (d, (FMap.getD s.doms d {}).epoch) else none, turn := s.nextId } (if q.pay.isRange then .ready t else .slice t)

/-- CHIP_LEVEL_LOOKUP (R105): the entry grants; an access that crosses a line there is split; then it waits at its rule's bucket, counted from here on. -/
def State.chipLookup (s : State) (id : Nat) (e : Ecc) : State := s.onReq id fun q =>
  if q.stage ≠ .chip then s else
  let key := keyChip (pM q.ptr)
  let x := s.chipEntry (pM q.ptr) e
  let q' := { q with entries := q.entries ++ [key] }
  match x.2 with
  | none => x.1.refuse id q ⟨3, .poison, pM q.ptr, s.modNo, false, q.fwd⟩
  | some ent =>
    match decChip s q.org.guidon q.kind q.fwd q.ptr ent (q.pay.isRange && gSup q.org.guidon) with
    | .refuse r => x.1.refuse id q ⟨3, r, pM q.ptr, s.modNo, false, q.fwd⟩
    | .gated => x.1.holdAt id q 3 key
    | .chipAgain m p =>
      let q' := { q' with ptr := p, fwd := q.fwd + 1 }
      if m = s.modNo then (x.1.countUp key).setReq id q' else (x.1.countUp key).depart id q' m 3
    | .target b _ =>
      if s.firstPart q ent < q.len then x.1.splitReq id q (s.firstPart q ent) else
      let q' := { q' with ent := ent, fwd0 := q.fwd, ptrC := q.ptr }
      let s := x.1.countUp key
      if q.pay.isRange || (s.bucket b).rate = 0 then s.issueTo id q' else (s.tickBucket b).arrive id q' (.bucket b (chargeOf q') .entry)
    | _ => s

/-- BUCKET_RELEASE (R120, R140): the balance is brought up to date, and the request passes if the policy lets it and none that came earlier waits; an open
bucket neither holds nor charges. It also lets a request go that waits at egress for a flow. -/
def State.bucketRelease (s : State) (id : Nat) : State := s.onReq id fun q =>
  match q.stage with
  | .bucket b n t =>
    if s.reqs.any fun r => (match r.2.stage with | .bucket b' _ _ => decide (b' = b) | _ => false) && r.2.arrived < q.arrived then s else
    let x := (s.bucket b).refill s.now true
    let go (s : State) : State := match t with | .remote m => s.depart id q m 2 | _ => s.issueTo id q
    if x.rate = 0 then go s else if x.passes then go (s.setBucket b (x.charge n)) else s.setBucket b x
  | .egress m lvl => if s.flowOpen m then s.depart id q m lvl else s
  | _ => s

/-! ## Home slices (R106, R108, R110, R111) -/

/-- The operation is a packed atomic of which one half has been performed (R186). -/
def Req.half (q : Req) : Bool := match q.pay with | .atomic .. => !q.served && !q.result.isEmpty | _ => false

/-- A request may be served at its slice: its stamp is its domain's epoch, and no walk holds it there (R111, R396). -/
def State.stampOk (s : State) (q : Req) : Bool :=
  match q.stamp with
  | none => true
  | some (d, e) => let x := FMap.getD s.doms d {}; x.epoch = e && !x.walking

/-- The line at whose home slice a request waits, there or in its stack level. -/
def Req.atLine (q : Req) : Option Tag :=
  match q.home, q.stage with
  | some (.line t ..), _ => some t
  | _, .slice (.line t ..) | _, .stack _ _ _ (.line t ..) | _, .held _ _ _ (.slice (.line t ..)) | _, .held _ _ _ (.stack _ _ _ (.line t ..)) => some t
  | _, _ => none

/-- No write or atomic that came to the line before a request is still to be performed (R108, R113). -/
def State.firstAt (s : State) (q : Req) (t : Tag) : Bool :=
  !s.reqs.any fun x => (x.2.kind = .write || x.2.kind = .atomic) && !x.2.served && x.2.turn < q.turn && x.2.atLine = some t

/-- A sequencer's store has its turn at its member: none with an earlier stamp is still to be applied there (R115). -/
def State.inStamp (s : State) (q : Req) : Bool :=
  match q.mcast with
  | none => true
  | some (h, n) => !s.reqs.any fun x => !x.2.served && (match x.2.mcast with | some (h', n') => h' = h && n' / 2 ^ 64 = n / 2 ^ 64 && n' < n | none => false)

/-- A line holds a sequencer's store that some member has not applied: no load returns it yet (R116). -/
def State.frozen (s : State) (t : Tag) : Bool :=
  s.reqs.any fun x => x.2.mcast.isSome && x.2.served && (match x.2.stage with | .ready (.line t' ..) => decide (t' = t) | _ => false)

/-- The address of a line's byte, where the row of byte `b` lies at `pa`: the rows of a tile may lie apart (R89, R90). -/
def State.rowAddr (s : State) (t : Tag) (b pa x : Nat) : Option Nat :=
  let n := rowSize (s.view t.stack t.i).1
  if x / n = b / n then some (pa + x % n - b % n) else s.lineByteAddr t x

/-- Fill a line's missing bytes from its pages, the row of byte `b` from `pa` (R106): a sector any of whose bytes come from poison is poisoned; bytes whose
page lies in another module stay absent. -/
def State.fillLine (s : State) (t : Tag) (slice b pa : Nat) : State :=
  let l := (s.line? t).getD { slice := slice }
  let missing := (List.range 256).filterMap fun x => if (FMap.find? l.data x).isSome then none else (s.rowAddr t b pa x).map fun a => (x, a)
  let bad := distinct ((missing.filter fun x => s.poisoned x.2).map fun x => x.1 / 32)
  { s with l2 := FMap.insert s.l2 t.key { l with
      data := missing.foldl (fun d x => FMap.insert d x.1 (s.byte x.2)) l.data
      pois := l.pois ++ bad.filter fun x => !l.pois.contains x
      used := s.now } }

/-- Install in a core's L1 what the L2 holds of a line (R118). (DESIGN CHOICE, log 31) -/
def State.l1Install (s : State) (u ctx : Nat) (t : Tag) : State :=
  match s.line? t with
  | none => s
  | some l =>
    s.onCore u fun c =>
      let keep := c.l1.filter fun x => !(x.mod = s.modNo && x.tag = t)
      let keep := if 512 ≤ keep.length then keep.drop 1 else keep
      { c with l1 := keep ++ [{ mod := s.modNo, tag := t, data := l.data.filter (fun x => l.whole (x.1 / 32) && !l.pois.contains (x.1 / 32)), pois := l.pois, ctx := ctx }] }

/-- The bytes of a read at its line, as held there, each with its poison mark. -/
def State.lineBytes (s : State) (t : Tag) (b n : Nat) : List (Byte × Bool) :=
  match s.line? t with
  | none => List.replicate n (0, false)
  | some l => (List.range n).map fun i => if l.pois.contains ((b + i) / 32) then (0, true) else (FMap.getD l.data (b + i) 0, false)

/-- A read's data has been taken; its entries count it until the data has returned (R72). -/
def State.taken (s : State) (id : Nat) (q : Req) (t : Target) (bs : List (Byte × Bool)) : State :=
  s.setReq id { q with served := true, result := bs, stage := .ready t, home := none }

/-- A prefetch, as against a read. -/
def Client.isPrefetch : Client → Bool | .prefetch _ => true | _ => false

/-- A read is served at its line: its bytes are taken, and the issuing core's L1 is filled (R118); a prefetch that meets poison is dropped (R123). -/
def State.serveLine (s : State) (id : Nat) (q : Req) (t : Tag) (b : Nat) : State :=
  let r := s.lineBytes t b q.len
  if q.client.isPrefetch && r.any (fun x => x.2) then s.dropReq id else
  let s := if q.fill then s.l1Install q.core (gCtx q.org.guidon) t else s
  (s.useLine t).taken id q (.line t b 0 0) r

/-- Bytes of memory, each with its poison mark. (DEDUCED, log 58) -/
def State.marked (s : State) (a n : Nat) : List (Byte × Bool) := (List.range n).map fun i => (s.byte (a + i), s.poisoned (a + i))

/-- A lookup meets the page-entry cache (R93): an entry it may have lost is read anew, with what the ECC of its sector says, and what is read is cached.
(DESIGN CHOICE, log 32) -/
def State.pageTurn (s : State) (st i off : Nat) (e : Ecc) : State :=
  let ent := s.tab (keyStack st i)
  if eST ent ≠ 1 then s else
  let a := bf ent 56 24 * 4096 + 8 * (off / 4096)
  let k := FMap.getD s.hbm st {}
  let pages := if Config.pageKeeps s.fresh then k.pages else k.pages.filter fun p => p.1 ≠ a
  let s := { s with fresh := s.fresh + 1 }
  if pages.any fun p => p.1 = a then { s with hbm := FMap.insert s.hbm st { k with pages := pages } }
  else
    let s := s.eccRead (hbmAddr st a) e.ofPage
    let k := FMap.getD s.hbm st {}
    { s with hbm := FMap.insert s.hbm st { k with
        pages := (if 1024 ≤ pages.length then pages.drop 1 else pages) ++ [(a, BitVec.ofNat 64 (s.le (hbmAddr st a) 8), i)] } }

/-- Report a partial write that poison discarded, made by an access of a context (R103, R104). -/
def State.discarded (s : State) (q : Req) (n : Nat) : State :=
  if n = 0 then s else (s.notice ntDiscarded q.org.ptr.toNat).virtualError 2 (gCtx q.org.guidon) q.org.ptr 0

/-- A request has been performed at its owner: its counts fall; the report of it is still to reach its unit (R72, R190). -/
def State.applied (s : State) (id : Nat) (q : Req) (t : Target) : State :=
  (s.uncount id q).setReq id { q with stage := .ready t, served := true, entries := [], shared := [], home := none }

/-! ### Read-only fields of structures in memory (R10) -/

/-- A byte of a structure in memory some of whose bits software does not write: where it is, the bits that are read-only, and those that writing 1 clears. -/
structure RoByte where
  at_ : Nat
  ro  : Nat := 255
  w1c : Nat := 0
  deriving DecidableEq, Repr

/-- Where the byte behind a context's pointer lies in this module. -/
def State.placeOf (s : State) (ctx : Nat) (p : W64) : List Nat :=
  match s.homeOf ctx p with | .region st i off => (translate s 6 st i off).toList | .pad a => [chipAddr a] | _ => []

/-- Bytes `first` to `first + n - 1` of a structure are read-only. -/
def State.roSpan (s : State) (ctx : Nat) (p : W64) (first n : Nat) : List RoByte :=
  (List.range n).flatMap fun i => (s.placeOf ctx (pPlus p (first + i))).map fun a => { at_ := a }

/-- The read-only fields of a queue's header: WIDX, HELD and DROP, with OVF cleared by writing 1 in a fault queue or virtual error queue; the dropped count of
an event queue (Table 16-5, R371, R386). -/
def State.roHeader (s : State) (ctx : Nat) (q : W64) (ovf : Bool) : List RoByte :=
  if q = 0 then [] else
  s.roSpan ctx q 8 8 ++ s.roSpan ctx q 25 7 ++ (s.placeOf ctx (pPlus q 24)).map fun a => if ovf then ⟨a, 254, 1⟩ else ⟨a, 255, 0⟩

/-- The read-only fields of a context descriptor: INC and VST (Table 16-7). -/
def State.roDesc (s : State) (p : W64) : List RoByte :=
  if p = 0 then [] else s.roSpan 0 p 0x3C 4 ++ (s.placeOf 0 (pPlus p 0x3B)).map fun a => ⟨a, 0xC0, 0⟩

/-- The read-only fields of the structures in memory that the device keeps. (DEDUCED, log 132) -/
def State.roBytes (s : State) : List RoByte :=
  s.roHeader 0 s.regs.plog true ++ s.roHeader 0 s.regs.fwq true ++ s.ctxs.flatMap fun c =>
    s.roDesc c.2.ptr ++ s.roHeader c.1 c.2.fq true ++ s.roHeader c.1 c.2.evq false ++ s.roHeader c.1 (FMap.getD s.parts c.2.part {}).evq true

/-- What software's write of a byte to such a structure leaves to be written there. -/
def RoByte.masks (r : RoByte) (old new : Byte) : Option Byte :=
  if r.ro = 255 then none else some (old &&& BitVec.ofNat 8 r.ro ||| new &&& ~~~BitVec.ofNat 8 (r.ro ||| r.w1c) ||| old &&& BitVec.ofNat 8 r.w1c &&& ~~~new)

/-- What a request may write: `at_` tells where a byte of it goes and what stands there. The device's own writes are not held to R10. (DEDUCED, log 132) -/
def State.mayWrite (s : State) (q : Req) (at_ : Nat → Option Nat × Byte) (m : List (Option Byte)) : List (Option Byte) :=
  match q.client with
  | .posted | .reloc _ => m
  | _ =>
    let rs := s.roBytes
    m.mapIdx fun i b => match b, (at_ i).1 with
      | some v, some a =>
        if frameRo a then none else
        (match rs.find? fun r => r.at_ = a with | some r => r.masks (at_ i).2 v | none => some v)
      | _, _ => b

/-- Where a request's bytes go in a line, and what stands there. -/
def State.lineAt (s : State) (t : Tag) (b i : Nat) : Option Nat × Byte := (s.lineByteAddr t (b + i), (s.lineByte t (b + i)).1)
/-- Where a request's bytes go from an address, and what stands there. -/
def State.addrAt (s : State) (a i : Nat) : Option Nat × Byte := (some (a + i), s.byte (a + i))

/-- Write bytes at their SRAM or DRAM, some of which carry the poison mark (R103, R163); what poison discards is reported. -/
def State.putMarked (s : State) (q : Req) (a : Nat) (m : List (Option Byte)) (ps : List Nat) : State :=
  let n := (s.refusedUnits a m).length
  (ps.foldl (fun s i => s.poison (a + i)) (s.applyBytes a m)).discarded q n

/-- What an atomic does next at its location, whose value is `v`: the new value, the old values so far, and whether it is done. The halves of a packed type
are atomics of their own, one after the other (R186). (DESIGN CHOICE, log 117) -/
def Req.performs (q : Req) (id : Nat) (op : AOp) (ty : ATy) (vals : List (W64 × W64)) (v : Nat) : Nat × List Nat × Bool :=
  let r := performAtom op ty v (vals.map fun x => (x.1.toNat, x.2.toNat))
  match ty with
  | .bf16x2 | .f16x2 =>
    let hi := xor (Config.highFirst id) q.half
    let part (x : Nat) : Nat := if hi then x / 65536 * 65536 else x % 65536
    let olds := r.2.map part
    (part r.1 + (v - part v), if q.half then (valuesOf 4 (q.result.map fun x => x.1)).zipWith (· + ·) olds else olds, q.half)
  | _ => (r.1, r.2, true)

/-- Perform an atomic, or a half of it, at bytes of the machine's memory (R113, R117, R189). -/
def State.atomStep (s : State) (id : Nat) (q : Req) (a : Nat) (op : AOp) (ty : ATy) (vals : List (W64 × W64)) : State :=
  let n := atyBytes ty
  if s.anyPoison a n then s.finish id q (List.replicate vals.length 0) true
  else
    let r := q.performs id op ty vals (s.le a n)
    let s := s.applyBytes a (s.mayWrite q (s.addrAt a) ((leBytes n r.1).map some))
    if r.2.2 then s.finish id q r.2.1 false else s.setReq id { q with result := replyBytes n r.2.1 false }

/-- A request that another module has forwarded to a stack here, or a sector that RELOC moves, is performed at the stack byte; a grant brings the bytes that
an atomic is to work on (R96, R98, R108). -/
def State.stackServe (s : State) (id : Nat) (q : Req) (pa : Nat) (e : Ecc) : State :=
  match q.pay with
  | .store m ps =>
    let s := s.putMarked q pa m ps
    (match q.client with | .reloc _ => s.dropReq id | _ => s.applied id q (.remote 0))
  | .atomic op ty vals => (s.eccRead pa e.ofData).atomStep id q pa op ty vals
  | .grant n =>
    let s := if n = 0 then s else s.eccRead pa e.ofData
    (match q.client with
     | .foreign src seq => (s.dropReq id).send src 1 (.data seq q.wireOff (s.marked pa n)) false
     | _ => s.dropReq id)
  | _ => let s := s.eccRead pa e.ofData; s.taken id q (.remote 0) (s.marked pa q.len)

/-- A key is that of a stack entry. -/
def isStackKey (k : Nat) : Bool := 4 * 2 ^ 40 ≤ k && k < 5 * 2 ^ 40

/-- A write's grant has come back to its home slice: the stack entries that gave it no longer count it (R108). -/
def State.granted (s : State) (id : Nat) (q : Req) (t : Tag) (slice : Nat) (tg : Target) : State :=
  let l := (s.line? t).getD { slice := slice }
  let s := s.countDown (q.entries.filter isStackKey)
  { s with l2 := FMap.insert s.l2 t.key { l with grant := some q.org.guidon, used := s.now } }.setReq id
    { q with stage := .slice tg, entries := q.entries.filter fun k => !isStackKey k, fwd := q.fwd0, ptr := q.ptrC, home := none }

/-- A request passes the stack level at a region's offset (R92): placed here; forwarded within the module; or away to another module's stack level, its home
slice waiting for what comes back (R98). -/
def State.stackTurn (s : State) (id : Nat) (q : Req) (e : Ecc) (st i off : Nat) (tg : Target) : State :=
  let key := keyStack st i
  let s' := ((s.readTab key e).1).pageTurn st i off e
  match decStack s' q.org.guidon q.kind q.fwd st i off false with
  | .refuse r => s'.refuse id { q with home := none } ⟨4, r, i, s.modNo, false, q.fwd⟩
  | .gated => s'.holdAt id q 4 key
  | .stackAgain m st' i' off' =>
    let q' := { q with fwd := q.fwd + 1, entries := q.entries ++ [key] }
    if m = s.modNo then (s'.countUp key).setReq id { q' with stage := .stack st' i' off' tg }
    else (s'.countUp key).depart id { q' with ptr := lbl 0 st' i' off', home := (match tg with | .line .. => some tg | _ => none) } m 4
  | .place pa =>
    (match tg with
     | .line t b _ sl =>
       if !s.hasWay t sl then s
       else if q.kind = .write || q.kind = .atomic then s'.granted id q t sl tg
       else ((s'.eccRead pa e.ofData).fillLine t sl b pa).serveLine id q t b
     | .remote _ => s'.stackServe id q pa e
     | _ => s)
  | _ => s

/-- STACK_LEVEL_LOOKUP (R92): a read that its slice cannot serve from the line, or a request forwarded between stacks. -/
def State.stackLookup (s : State) (id : Nat) (e : Ecc) : State := s.onReq id fun q =>
  match q.stage with
  | .slice (.line t b off sl) =>
    if (q.kind = .read || q.kind = .fetch) && s.stampOk q && !s.frozen t && !s.held q.org.guidon q.kind t b q.len then
      s.stackTurn id q e t.stack t.i off (.line t b off sl)
    else s
  | .stack st i off tg => if s.stampOk q && (match tg with | .line t .. => !s.frozen t || q.kind = .write || q.kind = .atomic | _ => true) then s.stackTurn id q e st i off tg else s
  | _ => s

/-- GRANT_REQUEST (R108): a write or atomic whose line holds no grant of its guidon, or an atomic some of whose bytes lie in another module, passes the stack
level first, behind the earlier writes of the line. (DESIGN CHOICE, log 33) -/
def State.grantRequest (s : State) (id : Nat) (e : Ecc) : State := s.onReq id fun q =>
  match q.stage with
  | .slice (.line t b off sl) =>
    if (q.kind = .write || q.kind = .atomic) && s.stampOk q && s.firstAt q t && !q.half
        && (!s.held q.org.guidon q.kind t b q.len || (q.kind = .atomic && !s.atHand t b q.len)) then
      s.stackTurn id q e t.stack t.i off (.line t b off sl)
    else s
  | _ => s

/-- The bytes of a store's mask as bytes of a line. -/
def maskBytes (b : Nat) (m : List (Option Byte)) : List (Nat × Byte) := (m.mapIdx fun i x => (b + i, x)).filterMap fun x => x.2.map fun y => (x.1, y)

/-- A store's report may go out: at a member, whoever sequenced the store hears of it at once (R115). -/
def State.storeDone (s : State) (id : Nat) (q : Req) (t : Target) : State :=
  if q.mcast.isSome then s.finish id { q with stage := .ready t } [] false else s.applied id q t

/-- WRITE_APPLY (R113): a granted store is applied at its home slice, a scratchpad store at its bank (R117). -/
def State.writeApply (s : State) (id : Nat) : State := s.onReq id fun q =>
  match q.stage, q.pay with
  | .slice (.line t b off sl), .store m ps =>
    if s.stampOk q && s.held q.org.guidon .write t b q.len && s.firstAt q t && s.inStamp q then
      let bs := maskBytes b (s.mayWrite q (s.lineAt t b) m)
      let n := (s.lineRefuses t bs).length
      (((s.lineApply t sl q.org.guidon bs).poisonLine t (ps.map fun i => (b + i) / 32)).discarded q n).storeDone id q (.line t b off sl)
    else s
  | .slice (.chip a), .store m ps =>
    ((s.putMarked q (chipAddr a) (s.mayWrite q (s.addrAt (chipAddr a)) m) ps).touch (distinct ((List.range q.len).map fun i => sectorOfChip (a + i)))).storeDone id q (.chip a)
  | _, _ => s

/-- HOME_SLICE_ATOMIC (R113, R187, R189): the slice's or bank's ALU reads, computes and writes in one step; bytes that the line does not hold come from the
stack under the grant (R108). -/
def State.homeAtomic (s : State) (id : Nat) : State := s.onReq id fun q =>
  match q.stage, q.pay with
  | .slice (.line t b off sl), .atomic op ty vals =>
    let n := atyBytes ty
    if s.stampOk q && s.firstAt q t && s.inStamp q && (q.half || s.held q.org.guidon .atomic t b q.len) && s.atHand t b n then
      let v := (List.range n).map fun i => s.lineByte t (b + i)
      let q' := { q with stage := Stage.ready (.line t b off sl) }
      if v.any fun x => x.2 then s.finish id q' (List.replicate vals.length 0) true
      else
        let r := q.performs id op ty vals (leNat (v.map fun x => x.1))
        let s := s.lineApply t sl q.org.guidon (maskBytes b (s.mayWrite q (s.lineAt t b) ((leBytes n r.1).map some)))
        if r.2.2 then s.finish id q' r.2.1 false else s.setReq id { q with result := replyBytes n r.2.1 false }
    else s
  | .slice (.chip a), .atomic op ty vals => (s.atomStep id q (chipAddr a) op ty vals).touch [sectorOfChip a]
  | _, _ => s

/-! ## Replica sets (R115, R116) -/

/-- The members' parts of a sequenced request. -/
def State.partsAt (s : State) (id : Nat) : List (Nat × Req) := s.reqs.filter fun x => match x.2.client with | .member k => decide (k = id) | _ => false

/-- One member's part of a sequenced request, in this module at its chip level. -/
def State.toOwn (s : State) (id : Nat) (q : Req) (m i off stamp : Nat) (pay : Payload) (k : AKind) : State :=
  s.newReq { client := .member id, kind := k, org := q.org, ptr := lbl (pO q.ptr) m i off, len := q.len, pay := pay, stage := .chip
             core := q.core, mcast := some (s.modNo, stamp) }

/-- A stamp as packets and members name it: each set has its own (Table 5-3). -/
def stampName (set n : Nat) : Nat := set * 2 ^ 64 + n

/-- Stamp a store and multicast it to the other members (R115): each part bypasses the port level, and its packet carries the stamp. -/
def State.multicast (s : State) (id : Nat) (q : Req) (set i off : Nat) (pay : Payload) : State :=
  let r := FMap.getD s.reps set {}
  let s := { s with reps := FMap.insert s.reps set { r with stamp := r.stamp + 1 } }
  ((repMembers r).filter fun m => m.1 ≠ s.modNo).foldl (fun s m =>
    (s.newReq { client := .member id, kind := .write, org := q.org, ptr := lbl (pO q.ptr) m.2 i off, len := q.len, pay := pay
                stage := .egress m.1 6, label := stampName set (r.stamp.toNat + 1) }).onReq s.nextId fun x =>
      ({ s.setReq s.nextId x with nextId := s.nextId + 1 }).depart s.nextId x m.1 6) s

/-- The sequencer of this module is at work on another request (R115: every member applies the stores of one sequencer in stamp order). -/
def State.sequencing (s : State) : Bool := s.reqs.any fun x => match x.2.stage with | .members _ => true | _ => false

/-- REPLICA_SEQUENCE (R115): a store, atomic or reduction on a replica set goes to its HOME sequencer, which takes one after the other: it stamps a store and
multicasts it; an atomic is first performed against HOME's own replica. -/
def State.replicaSeq (s : State) (id : Nat) : State := s.onReq id fun q =>
  match q.stage with
  | .slice (.replica set i off) =>
    let r := FMap.getD s.reps set {}
    if repHome r ≠ s.modNo then s.depart id { q with label := set } (repHome r) 5
    else if s.sequencing || s.reqs.any (fun x => (match x.2.stage with | .slice (.replica ..) => true | _ => false) && x.2.turn < q.turn) then s
    else
      match s.ownReplica set with
      | none => s.refuse id q ⟨3, .absent, pM q.ptr, s.modNo, false, q.fwd⟩
      | some m =>
        if !bt r.w0 63 || bf r.w0 11 4 = 0 || 8 < bf r.w0 11 4 then s.refuse id q ⟨3, .absent, pM q.ptr, s.modNo, false, q.fwd⟩
        else match q.pay with
        | .store .. =>
          let s := (s.toOwn id q m i off (stampName set (r.stamp.toNat + 1)) q.pay .write).multicast id q set i off q.pay
          s.arrive id { q with label := set } (.members true)
        | .atomic .. =>
          let s := s.toOwn id q m i off (stampName set (r.stamp.toNat + 1)) q.pay .atomic
          s.arrive id { q with label := set, ptr := lbl (pO q.ptr) (pM q.ptr) i off } (.members false)
        | _ => s
  | _ => s

/-- Every member has applied a sequenced request: the other members hear of it, so that their loads may return it (R116), and the request is done. -/
def State.allApplied (s : State) (id : Nat) (q : Req) : State :=
  let r := FMap.getD s.reps q.label {}
  let s := (s.partsAt id).foldl (fun s x => s.dropReq x.1) s
  let s := ((repMembers r).filter fun m => m.1 ≠ s.modNo).foldl (fun s m => s.send m.1 1 (.stamped s.modNo (stampName q.label r.stamp.toNat)) false) s
  s.finish id q (valuesOf q.unitBytes (q.result.map fun x => x.1)) q.poison

/-- A step of a sequenced request: once HOME's own member has performed an atomic, its result is stamped and multicast; once every member has applied the
stores, the request is done (R115, R116). -/
def State.memberTurn (s : State) (id : Nat) (q : Req) (told : Bool) : State :=
  let ps := s.partsAt id
  if told then (if ps.all fun x => x.2.served then s.allApplied id q else s)
  else
    match ps, q.pay with
    | x :: _, .atomic op ty vals =>
      (match x.2.stage with
       | .refused r _ => (s.dropReq x.1).refuse id q r
       | _ =>
         if !x.2.served then s
         else if x.2.poison then (s.dropReq x.1).finish id q (List.replicate vals.length 0) true
         else
           let n := atyBytes ty
           let old := leNat ((x.2.result.take n).map fun y => y.1)
           let new := (performAtom op ty old (vals.map fun y => (y.1.toNat, y.2.toNat))).1
           (s.multicast id q q.label (pI q.ptr) (pOff q.ptr) (.store ((leBytes n new).map some))).arrive id { q with result := x.2.result } (.members true))
    | _, _ => s

/-- WRITE_ACKNOWLEDGEMENT (R190, R115): the owner's report that a write is applied, or the next step of a sequenced request. -/
def State.writeAck (s : State) (id : Nat) : State := s.onReq id fun q =>
  match q.stage with
  | .members told => s.memberTurn id q told
  | .ready _ => if q.served && q.kind = .write && q.mcast.isNone then s.finish id q [] false else s
  | _ => s

/-! ## Write-backs (R107, R394) -/

/-- Where a row of a write-back comes to: a stack byte; another module, by what pointer, after how many forwards, and the entries that count it; a gate or a
full count; a refusal (R97, R107). -/
inductive Row
  | place (pa : Nat)
  | away (module : Nat) (ptr : W64) (fwd : Nat) (keys : List Nat)
  | wait
  | lost
  deriving DecidableEq, Repr

/-- A row of a write-back passes the stack level, class 7 under partition 15, and its forwards. -/
def State.rowWalk (s : State) : Nat → Nat → List Nat → Nat → Nat → Nat → Row
  | 0, _, _, _, _, _ => .lost
  | n + 1, fwd, keys, st, i, off =>
    match decStack s (s.sysGuidon 0 7) .write fwd st i off false with
    | .place pa => .place pa
    | .stackAgain m st' i' off' =>
      let keys := keys ++ [keyStack st i]
      if m = s.modNo then s.rowWalk n (fwd + 1) keys st' i' off' else .away m (lbl 0 st' i' off') (fwd + 1) keys
    | .refuse _ => .lost
    | _ => .wait

/-- The bytes of row `k`, of `n` bytes, of a write-back. -/
def WBack.row (w : WBack) (n k : Nat) : List (Option Byte) :=
  (List.range n).map fun x => if w.pois.contains ((n * k + x) / 32) then none else (w.data.find? fun y => y.1 = n * k + x).map fun y => y.2
/-- The positions of a row that lie in poisoned sectors. -/
def WBack.rowPois (w : WBack) (n k : Nat) : List Nat := (List.range n).filter fun x => w.pois.contains ((n * k + x) / 32)

/-- A row is applied at its stack; what poison discards there is reported (R103, R104). -/
def State.rowApply (s : State) (pa : Nat) (m : List (Option Byte)) (ps : List Nat) : State :=
  let us := distinct (s.refusedUnits pa m)
  us.foldl (fun s u => (s.notice ntDiscarded u).tellMapped 2 u) (ps.foldl (fun s i => s.poison (pa + i)) (s.applyBytes pa m))

/-- A row of a write-back has passed the stack level, or was lost there; `away` where its application is still to be heard of. -/
def State.rowPast (s : State) (id k : Nat) (away : Bool) : State :=
  { s with wbacks := FMap.modify s.wbacks id fun w => { w with rows := w.rows.filter fun x => x ≠ k, acks := w.acks + away.toNat, held := false } }

/-- One row of a write-back: a gated entry holds it without bound, any other refusal loses its data (R107). -/
def State.rowTurn (s : State) (id : Nat) (w : WBack) (k : Nat) : State :=
  let v := s.view w.tag.stack w.tag.i
  let n := rowSize v.1
  let m := w.row n k
  let ps := w.rowPois n k
  if !m.any Option.isSome && ps.isEmpty then s.rowPast id k false
  else match s.rowWalk 6 0 [] w.tag.stack w.tag.i (lineOff v.1 v.2 w.tag.tx w.tag.ty (n * k)) with
  | .place pa => (s.rowApply pa m ps).rowPast id k false
  | .away mod ptr fwd keys =>
    let s := (keys.foldl State.countUp s).rowPast id k true
    let q : Req := { client := .wback id, kind := .write, org := unitOrigin (s.sysGuidon 0 7) ptr, ptr := ptr, len := n, pay := .store m ps
                     stage := .egress mod 4, fwd := fwd, entries := keys }
    (s.newReq q).onReq s.nextId fun x => (s.newReq q).depart s.nextId x mod 4
  | .wait => { s with wbacks := FMap.modify s.wbacks id fun w => { w with held := true } }
  | .lost => (s.notice ntLostWriteBack w.tag.key).rowPast id k false

/-- L2_WRITE_BACK (R106, R107): `evict` makes a slice whose set is full write back and drop its least recently used line; otherwise the write-back of a number
goes to its stack, after the earlier write-backs of its line (R394). -/
def State.l2WriteBack (s : State) (evict : Bool) (id : Nat) : State :=
  if evict then
    (match s.line? (tagOf id) with
     | some l =>
       let set := s.sameSet (tagOf id) l.slice
       if l.wb = 0 && 15 ≤ set.length && set.all (fun x => l.used ≤ x.2.used) && !s.frozen (tagOf id) then s.writeBack (tagOf id) true else s
     | none => s)
  else
    match FMap.find? s.wbacks id with
    | none => s
    | some w =>
      if s.wbacks.any fun x => x.2.tag = w.tag && x.2.seq < w.seq then s
      else (w.rows.foldl (fun s k => s.rowTurn id w k) s).backCheck id

/-! ## Gates (R70, R72) and epochs (R111) -/

/-- ST of the entry of a level at its table. -/
def State.gateOpen (s : State) (key : Nat) : Bool := eST (s.tab key) ≠ 2

/-- Look a request up afresh where it stands. -/
def State.lookAgain (s : State) (id : Nat) (e : Ecc) : State := s.onReq id fun q =>
  match q.stage with
  | .context => s.contextLookup id e
  | .port => s.portLookup id e
  | .chip => s.chipLookup id e
  | .slice _ => if q.kind = .write || q.kind = .atomic then s.grantRequest id e else s.stackLookup id e
  | .stack .. => s.stackLookup id e
  | _ => s

/-- GATED_REREAD (R70, R72): once the entry has left GATED, the requests it held are looked up afresh in order of arrival. -/
def State.gatedReread (s : State) (id : Nat) : State := s.onReq id fun q =>
  match q.stage with
  | .held _ key _ back =>
    if s.gateOpen key && !s.reqs.any (fun x => x.2.arrived < q.arrived && (match x.2.stage with | .held _ k _ _ => decide (k = key) | _ => false)) then
      (s.setReq id { q with stage := back }).lookAgain id .clean
    else s
  | _ => s

/-- The label that a key names at its level. -/
def keyLabel (lvl key : Nat) : Nat := match lvl with | 1 => key % 1024 | 4 => key % 16384 | _ => key % 2 ^ 40

/-- GATE_TIMEOUT (R72): a request held longer than the entry's bound is refused with "gate". (DEDUCED, log 111) -/
def State.gateTimeout (s : State) (id : Nat) : State := s.onReq id fun q =>
  match q.stage with
  | .held lvl key end_ back =>
    if !s.gateOpen key && end_ < s.now then s.refuse id { q with stage := back } ⟨lvl, .gate, keyLabel lvl key, s.modNo, false, q.fwd⟩ else s
  | _ => s

/-- A request stands at the home slice of a line, or in its stack level within this module. -/
def Req.inSlice (q : Req) : Bool :=
  match q.stage with
  | .slice (.line ..) | .stack _ _ _ (.line ..) | .held 4 _ _ (.slice (.line ..)) | .held 4 _ _ (.stack _ _ _ (.line ..)) => true
  | _ => false

/-- DOMAIN_CHANGED_REPLAY (R111): a request whose stamp is no longer its domain's epoch goes again from bucket-wait, uncharged, with the present stamp; it has
taken no forward for that, and its stack entries no longer count it. Those that the walk held go in order of arrival (R396). -/
def State.domainReplay (s : State) (id : Nat) : State := s.onReq id fun q =>
  match q.stamp with
  | some (d, e) =>
    let x := FMap.getD s.doms d {}
    if q.inSlice && x.epoch ≠ e && !x.busy && !s.reqs.any (fun r => r.2.inSlice && r.2.stamp = q.stamp && r.2.arrived < q.arrived) then
      (s.countDown (q.entries.filter isStackKey)).issueTo id
        { q with entries := q.entries.filter fun k => !isStackKey k, fwd := q.fwd0, ptr := q.ptrC, home := none }
    else s
  | none => s

/-! ## Data on its way back (R175, R188) -/

/-- Deliver a load whose bytes have all been taken (R175, R194). -/
def State.deliverLoad (s : State) (id : Nat) (o : LoadOp) : State :=
  let v := tyValue o.ty (o.bytes.map fun b => b.getD 0)
  let st : RState := if o.pois then .pois else match o.tent with | some m => .tent m | none => .full
  let st := st.asOf (s.blk (s.grp o.gid).blk).tents
  let s := { s with ops := FMap.erase s.ops id }
  let s := s.onGrp o.gid fun g => deliverDest g o.thread o.dst { v := v.1, tag := v.2, tag2 := v.2, st := st }
  match o.gth with | some v => s.elementDone v | none => s

/-- Give some bytes to a load operation, from position `f`: a byte already taken stays. -/
def LoadOp.take (o : LoadOp) (f : Nat) (bs : List (Byte × Bool)) (tent : Option Nat) : LoadOp :=
  { o with
    bytes := o.bytes.mapIdx fun i b => match b with | some x => some x | none => if f ≤ i then (bs[i - f]?).map fun x => x.1 else none
    pois := o.pois || (List.range bs.length).any fun i => (match bs[i]? with | some x => x.2 | none => false) && ((o.bytes[f + i]?).join).isNone
    tent := joinMark o.tent tent }

/-- A read's owner gives it its bytes, if it can be served now: the L2 holds its sectors, or a scratchpad bank has them. (DEDUCED, log 30) -/
def State.serve (s : State) (id : Nat) (e : Ecc) : State := s.onReq id fun q =>
  if q.kind = .write || q.kind = .atomic || q.pay.isRange then s else
  match q.stage with
  | .slice (.line t b _ _) => if s.stampOk q && !s.frozen t && s.held q.org.guidon q.kind t b q.len then s.serveLine id q t b else s
  | .slice (.chip a) => let s := s.sramRead (chipAddr a) e; s.taken id q (.chip a) (s.marked (chipAddr a) q.len)
  | _ => s

/-- Deliver a load operation that has all its bytes; a local one meets the ECC of the word it reads (R157, R159). -/
def State.loadDone (s : State) (id : Nat) (o : LoadOp) (e : Ecc) : State :=
  match o.loc with
  | some a => (s.sramRead a e).deliverLoad id { o with pois := o.pois || e = .data true }
  | none => s.deliverLoad id o

/-- A range operation of another module that has been looked up here acts on this module's caches (R122, R124, R125); it is answered once its write-backs
have been applied. -/
def State.rangeTurn (s : State) (id : Nat) (q : Req) (src seq op : Nat) : State :=
  let answer (s : State) : State := (s.dropReq id).send src 1 (.data seq q.wireOff []) false
  match q.stage with
  | .wbacks ids => if ids.any fun k => (FMap.find? s.wbacks k).isSome then s else answer s
  | .ready (.line t _ off _) =>
    if op = 2 then answer (s.l1Range .mod 0 t.stack t.i off q.len)
    else
      let ls := s.rangeLines t.stack t.i off q.len
      if ls.any fun t => (match s.line? t with | some l => decide (l.wb ≠ 0) | none => false) then s else
      let s' := ls.foldl (fun s t => s.writeBack t (op = 1)) s
      s'.setReq id { q with stage := .wbacks ((List.range (s'.nextId - s.nextId)).map fun k => s.nextId + k) }
  | .ready _ => answer s
  | _ => s

/-- A sibling's register arrives (R247). -/
def State.siblingArrive (s : State) (id : Nat) (o : SrdOp) : State :=
  let b := s.blk (s.grp o.gid).blk
  State.onGrp { s with ops := FMap.erase s.ops id } o.gid fun g =>
    o.vals.foldl (fun g x => deliverDest g x.1 o.dst { v := x.2.v.toNat, tag := x.2.tag, tag2 := x.2.tag, st := b.settle x.2.st }) g

/-- LOAD_RETURN (R175, R247): a sibling's register arrives; or a read is served at its owner, and its bytes return to its load, its unit or its module; a load that has all its bytes is delivered. No
load returns before an older load of its group that overlaps it (R318). (DEDUCED, log 30) -/
def State.loadReturn (s : State) (id : Nat) (e : Ecc) : State :=
  match FMap.find? s.ops id with
  | some (.srd o) => s.siblingArrive id o
  | some (.load o) => if o.bytes.all Option.isSome && !s.olderLoad o.gid o.org.ptr o.bytes.length id then s.loadDone id o e else s
  | _ =>
    let s := s.serve id e
    s.onReq id fun q =>
      match q.client, q.pay with
      | .foreign src seq, .range op => s.rangeTurn id q src seq op
      | .foreign src seq, _ => if q.served && (q.kind = .read || q.kind = .fetch) then (s.dropReq id).send src 1 (.data seq q.wireOff q.result) false else s
      | .load op, _ =>
        if !q.served then s else
        (match FMap.find? s.ops op with
         | some (.load o) =>
           if s.olderLoad o.gid o.org.ptr o.bytes.length op then s else
           let o := o.take (pOff q.ptr0 - pOff o.org.ptr) q.result q.tent
           let s := s.dropReq id
           if o.bytes.all Option.isSome then s.deliverLoad op o else { s with ops := FMap.insert s.ops op (.load o) }
         | _ => s.dropReq id)
      | .prefetch _, _ => if q.served then s.dropReq id else s
      | _, _ => s

/-- The values of an atomic's threads, once every location has returned. -/
def AtomOp.values (a : AtomOp) : List (Nat × Val) :=
  a.locs.flatMap fun l =>
    let vs := threadValues a.op a.ty ((l.result.getD []).map BitVec.toNat) (l.threads.map fun x => x.2.1.toNat)
    l.threads.mapIdx fun i x =>
      (x.1, { v := (vs[i]?).getD 0, tag := atyTag a.ty, tag2 := atyTag a.ty
              st := if l.pois then .pois else match a.tent with | some m => .tent m | none => .full })

/-- ATOM_RETURN (R187 to R189): every location has returned; each thread takes its value, and the counter falls. -/
def State.atomReturn (s : State) (id : Nat) : State :=
  match FMap.find? s.ops id with
  | some (.atom a) =>
    (match a.dst with
     | none => s
     | some d =>
       if a.locs.all fun l => l.result.isSome then
         let s := { s with ops := FMap.erase s.ops id }
         let n := (s.blk (s.grp a.gid).blk).tents
         let s := s.onGrp a.gid fun g => a.values.foldl (fun g x => deliverDest g x.1 d { x.2 with st := x.2.st.asOf n }) g
         match a.gth with
         | some v => s.elementDone v
         | none => s.onGrp a.gid fun g => { g with atm := g.atm - 1 }
       else s)
  | _ => s

/-- The set of the instruction cache in which a line stands (R50): which, the spec does not say. (DESIGN CHOICE, log 12) -/
def iset (l : ILine) : Nat := Config.icacheSet l.ctx l.ptr % 96

/-- Put a line into an instruction cache: its set holds four, and the least recently used of them goes (R50). -/
def icachePut (c : List ILine) (l : ILine) : List ILine :=
  let keep := c.filter fun x => !(x.ctx = l.ctx && x.ptr = l.ptr)
  let set := keep.filter fun x => iset x = iset l
  (match set with
   | [] => keep
   | x :: xs => if set.length < 4 then keep else let m := xs.foldl (fun m y => if y.used < m.used then y else m) x; keep.filter fun y => y ≠ m) ++ [l]

/-- ICACHE_FILL (R50, R51): every part of an instruction line has been read; the line enters its core's cache. (DEDUCED, log 10; DESIGN CHOICE, log 12; DEDUCED, log 130) -/
def State.icacheFill (s : State) (id : Nat) : State := s.onReq id fun q =>
  match q.client with
  | .fetch _ =>
    let s := (s.famParts q.fam).foldl (fun s x => s.serve x.1 .clean) s
    (match s.brought q.fam with
     | some bs =>
       let l : ILine := { ctx := gCtx q.org.guidon, ptr := q.org.ptr, bits := BitVec.ofNat 1536 (leNat (bs.map fun x => x.1)), used := s.now }
       (s.dropFam q.fam).onCore q.core fun c => { c with icache := icachePut c.icache l }
     | none => s)
  | _ => s

/-! ## Writes leaving the core (R119, R179, R183, R185, R321) -/

/-- Send a write to its owner: one request, which the chip level splits (R94). -/
def State.launchWr (s : State) (id : Nat) (w : Wr) (replay : Bool) : State :=
  match w.src with
  | [] => s
  | y :: _ =>
    let org := if replay then { y.org with guidon := gWithCls y.org.guidon 7 } else y.org
    let mk (k : AKind) (p : W64) (n : Nat) (pay : Payload) : State :=
      let s := { s with wrs := FMap.insert s.wrs id { w with place := if replay then .log else .flight, reqs := 1 } }
      s.newReq { client := .write id, kind := k, org := org, ptr := p, len := n, pay := pay, stage := .context, core := w.unit, rel := w.rel }
    match w.data with
    | .bytes b d =>
      let lo := (d.takeWhile Option.isNone).length
      let hi := d.length - (d.reverse.takeWhile Option.isNone).length
      mk .write (pPlus b lo) (hi - lo) (.store (maskSlice d lo (hi - lo)) (w.pois.filterMap fun i => if lo ≤ i && i < hi then some (i - lo) else none))
    | .red op ty p v => mk .atomic p (atyBytes ty) (.atomic op ty [(v, 0)])
    | .atom op loc p n =>
      (match FMap.find? s.ops op with
       | some (.atom a) => mk .atomic p n (.atomic a.op a.ty (((a.locs[loc]?).map fun l => requestVals a.op a.ty l.threads).getD []))
       | _ => { s with wrs := FMap.erase s.wrs id })

/-- The pieces of `n` bytes from a pointer that lie in one row of a line each (R89): where each begins, its length, the row's length, and how many bytes of
the row precede it. -/
def State.rowPieces (s : State) (ctx : Nat) (b : W64) (n : Nat) : Nat → Nat → List (Nat × Nat × Nat × Nat)
  | 0, _ => []
  | f + 1, at_ =>
    if n ≤ at_ then [] else
    let x := s.rowAt ctx (pPlus b at_)
    let k := max 1 (min (n - at_) (x.1 - x.2))
    (at_, k, x.1, x.2) :: s.rowPieces ctx b n f (at_ + k)

/-- The parts of a write's threads that fall into a piece, as positions of the row. -/
def srcIn (src : List WSrc) (x : Nat × Nat × Nat × Nat) : List WSrc :=
  src.filterMap fun y =>
    let lo := max y.off x.1
    let hi := min (y.off + y.len) (x.1 + x.2.1)
    if lo < hi then some { y with off := lo - x.1 + x.2.2.2, len := hi - lo } else none

/-- A write enters its core's queue as a new row of a line; a release is a barrier (R119, R321). -/
def State.queueNew (s : State) (w : Wr) (d : WData) (src : List WSrc) : State :=
  let k := s.nextId
  let bar := (s.core w.unit).barrier
  let s := if w.rel.isSome then s.onCore w.unit fun c => { c with barrier := k } else s
  { s with wrs := FMap.insert s.wrs k { w with data := d, src := src, place := .queue, barrier := if w.rel.isSome then k else bar }, nextId := k + 1 }

/-- A piece of a store enters its core's queue: merged into the newest entry of its row where no release, reduction or request under way stands between. -/
def State.queuePiece (s : State) (w : Wr) (b : W64) (d : List (Option Byte)) (x : Nat × Nat × Nat × Nat) : State :=
  let own := maskSlice d x.1 x.2.1
  if !own.any Option.isSome then s else
  let src := srcIn w.src x
  let base := pAt (pPlus b x.1) (pOff (pPlus b x.1) - x.2.2.2)
  let last := s.wrs.foldl (fun acc y => if y.2.onCore && y.2.unit = w.unit && y.2.ctx = w.ctx && y.2.loc.isNone
      && overlap y.2.data.range.1 y.2.data.range.2 base x.2.2.1 then some y else acc) none
  let fresh : State := s.queueNew w (.bytes base (overlay (noBytes x.2.2.1) x.2.2.2 own)) src
  match last with
  | some (k, y) =>
    (match y.data with
     | .bytes b' d' =>
       if b' = base && y.place = WPlace.queue && !y.rep && y.rel.isNone && w.rel.isNone && (s.core w.unit).barrier ≤ k then
         { s with wrs := FMap.insert s.wrs k { y with data := .bytes b' (overlay d' x.2.2.2 own), src := y.src ++ src, seen := distinct (y.seen ++ w.seen) } }
       else fresh
     | _ => fresh)
  | none => fresh

/-- Vector elements whose bytes fall into more than one row are done once every piece is: each counts once more for each further piece. -/
def State.morePieces (s : State) (src : List WSrc) (ps : List (Nat × Nat × Nat × Nat)) : State :=
  src.foldl (fun s y => match y.gth with
    | some v => { s with ops := FMap.modify s.ops v fun o => match o with
        | .gth g => .gth { g with left := g.left + ((ps.filter fun x => !(srcIn [y] x).isEmpty).length - 1) } | o => o }
    | none => s) s

/-- Move a write from its store buffer into its core's queue (R119, R179). -/
def State.enqueue (s : State) (id : Nat) (w : Wr) : State :=
  let s := { s with wrs := FMap.erase s.wrs id }
  match w.data with
  | .bytes b d =>
    let ps := s.rowPieces w.ctx b d.length 34 0
    ps.foldl (fun s x => s.queuePiece w b d x) (s.morePieces w.src ps)
  | d => s.queueNew w d w.src

/-- Apply a `.clu` or `.chip` write at its SRAM (R157, R188). -/
def State.applyLocal (s : State) (id : Nat) (w : Wr) (a : Nat) : State :=
  match w.data with
  | .bytes _ d => (s.writeLocal a d).writeDone id
  | .red op ty p v =>
    let r := s.atomAt a op ty [(v, 0)]
    (if r.2.2 then (r.1.notice ntPoison a).virtualError 3 w.ctx p 0 else r.1).writeDone id
  | .atom op loc _ _ =>
    (match FMap.find? s.ops op with
     | some (.atom x) =>
       let r := s.atomAt a x.op x.ty (((x.locs[loc]?).map fun l => requestVals x.op x.ty l.threads).getD [])
       (r.1.atomResult op loc r.2.1 r.2.2 none).writeDone id
     | _ => s.writeDone id)

/-- The sectors of two writes of one block meet. -/
def sameSector (a b : Wr) : Bool :=
  match a.loc, b.loc with
  | none, none => a.data.range.1.toNat / 32 = b.data.range.1.toNat / 32
  | _, _ => false

/-- An older entry of the buffer stands before a write: any of its sector; for `.clu` and `.chip` any of its space (R179). -/
def State.blockedIn (s : State) (id : Nat) (w : Wr) : Bool :=
  s.wrs.any fun x => x.1 < id && x.2.place = WPlace.buffer && x.2.blk = w.blk &&
    (sameSector x.2 w || (match x.2.loc, w.loc with | some a, some b => decide (a < 2 ^ 42) = decide (b < 2 ^ 42) | _, _ => false))

/-- The last of a write's threads whose part covers a byte: the one that wrote it. (DEDUCED, log 28) -/
def lastWriter (src : List WSrc) (i : Nat) : Option Nat :=
  (src.zipIdx.filter fun x => x.1.off ≤ i && i < x.1.off + x.1.len).getLast?.map (·.2)

/-- The bytes of a merged write that one of its threads wrote. (DEDUCED, log 28) -/
def bytesOfWriter (src : List WSrc) (d : List (Option Byte)) (k : Nat) : List (Option Byte) :=
  d.mapIdx fun i b => if lastWriter src i = some k then b else none

/-- The threads of a queue entry whose group has a side-log entry for the line they wrote (R181, R185), by position. (DEDUCED, log 28) -/
def State.joining (s : State) (w : Wr) : List (Nat × WSrc) :=
  (w.src.zipIdx.filter fun x => s.logged x.1.gid w.ctx (pPlus w.data.range.1 x.1.off)).map fun x => (x.2, x.1)

/-- The parts of a queue entry that join the side log behind their group's entries without being issued, and what is left of the entry
(R181, R185). An atomic waits. (DEDUCED, log 28) -/
def State.joinLog (s : State) (id : Nat) (w : Wr) : State :=
  let js := s.joining w
  match w.data with
  | .bytes b d =>
    let rest := (w.src.zipIdx.filter fun x => !js.any fun y => y.1 = x.2).map (·.1)
    let left := (js.foldl (fun (d' : List (Option Byte)) y => d'.mapIdx fun i x => if lastWriter w.src i = some y.1 then none else x) d)
    let s := if left.any Option.isSome then { s with wrs := FMap.insert s.wrs id { w with data := .bytes b left, src := rest } }
      else { s with wrs := FMap.erase s.wrs id }
    let s := if left.any Option.isSome then s else (rest.filterMap fun y => y.gth).foldl State.elementDone s
    js.foldl (fun s y =>
      let own := maskSlice (bytesOfWriter w.src d y.1) y.2.off y.2.len
      if own.any Option.isSome then
        s.appendLog { w with data := .bytes (pPlus b y.2.off) own, src := [{ y.2 with off := 0 }], reqs := 0, recorded := false }
      else ((match y.2.gth with | some v => [v] | none => [] : List Nat)).foldl State.elementDone s) s
  | .red _ _ _ _ => ({ s with wrs := FMap.erase s.wrs id }).appendLog w
  | .atom _ _ _ _ => s

/-- STORE_BUFFER_DRAIN (R179): one entry leaves a committed block's buffer; a replica store bypasses the queue in program order (R115). A full queue lets
nothing in (R119). -/
def State.bufferDrain (s : State) (id : Nat) : State :=
  match FMap.find? s.wrs id with
  | none => s
  | some w =>
    if w.place ≠ WPlace.buffer || (s.blk w.blk).rl || w.tent.isSome || s.blockedIn id w then s else
    match w.loc with
    | some a => s.applyLocal id w a
    | none =>
      if w.data.isStore && s.isReplica w.ctx w.data.range.1 then
        if s.wrs.any fun x => x.1 < id && x.2.place = WPlace.buffer && x.2.blk = w.blk && x.2.data.isStore && s.isReplica x.2.ctx x.2.data.range.1 then s
        else if !(s.joining w).isEmpty then (if 64 < s.logSize w.unit + (s.joining w).length then s else s.joinLog id w)
        else s.launchWr id { w with rep := true } false
      else
        let s' := s.enqueue id w
        if 32 < s'.queueSize w.unit then s else s'

/-- An older outstanding load of one of a write's groups overlaps it (R318). -/
def State.loadsBefore (s : State) (w : Wr) : Bool :=
  s.ops.any fun x => match x.2 with
    | .load o => w.gids.contains o.gid && w.loc.isNone && w.data.meets o.org.ptr o.bytes.length && !o.bytes.all Option.isSome
    | _ => false

/-- The head of a group's side-log entries that may be replayed now: answered with a replay, or appended behind one that has gone (R184, R185). -/
def State.replayable (s : State) (id : Nat) (w : Wr) : Bool :=
  w.place = WPlace.log && w.unit < offCore && w.reqs = 0 && w.tent.isNone && (w.refuse.isNone || w.answered = some true) &&
  !s.wrs.any fun x => x.1 < id && x.2.place = WPlace.log && x.2.gids.any fun g => w.gids.contains g

/-- A release whose group has a side-log entry (R185). -/
def State.releaseHeld (s : State) (w : Wr) : Bool :=
  w.rel.isSome && s.wrs.any fun x => x.2.place = WPlace.log && x.2.loc.isNone && x.2.gids.any fun g => w.gids.contains g

/-- Two writes are elements of one vector operation. -/
def Wr.sameVector (a b : Wr) : Bool := a.src.any fun x => x.gth.isSome && b.src.any fun y => y.gth = x.gth

/-- A store buffer still holds a part of an access that an entry holds another part of, in the same line: the access leaves as one (R94). -/
def State.partsBehind (s : State) (w : Wr) : Bool :=
  s.wrs.any fun x => x.2.place = WPlace.buffer && x.2.loc.isNone && x.2.src.any fun z => z.acc ≠ 0 && w.src.any (fun y => y.acc = z.acc)
    && s.lineName x.2.ctx (pPlus x.2.data.range.1 z.off) = s.lineName w.ctx w.data.range.1

/-- WCQ_DRAIN (R119, R321): a queue entry leaves for its home; no older entry of its bytes stands before it, nor any that its barrier names. Parts
whose group has a side-log entry for their line join the log instead (R185). It also reissues the head of a group's side log once that has been
answered (R184). -/
def State.wcqDrain (s : State) (id : Nat) : State :=
  match FMap.find? s.wrs id with
  | none => s
  | some w =>
    if w.place = WPlace.log then (if s.replayable id w then s.launchWr id { w with answered := none } true else s)
    else if w.place ≠ WPlace.queue then s
    else if s.wrs.any fun x => x.1 ≠ id && x.2.onCore && x.2.unit = w.unit &&
        ((x.1 < w.barrier && !x.2.sameVector w) || (x.1 < id && x.2.ctx = w.ctx && overlap x.2.data.range.1 x.2.data.range.2 w.data.range.1 w.data.range.2)) then s
    else if s.loadsBefore w || s.releaseHeld w || s.partsBehind w then s
    else if (s.joining w).isEmpty then s.launchWr id w false
    else if 64 < s.logSize w.unit + (s.joining w).length then s
    else s.joinLog id w

/-- SIDE_LOG_ENTER (R183): the refusal of a write reaches its core, and each thread's part of it enters the side log, if there is room. (DEDUCED, log 60; DEDUCED, log 68) -/
def State.logEnter (s : State) (id : Nat) : State := s.onReq id fun q =>
  match q.client, q.stage with
  | .write k, .behind =>
    (match FMap.find? s.wrs k with
     | none => s.dropReq id
     | some w =>
       if 64 ≤ s.logSize w.unit && w.place ≠ WPlace.log then s
       else { (s.dropReq id) with wrs := FMap.insert s.wrs k { w with place := .log, refuse := none, answered := none, reqs := 0 } })
  | .write k, .refused r false =>
    (match FMap.find? s.wrs k with
     | none => s.dropReq id
     | some w =>
       if w.place = WPlace.log then
         let s := { (s.dropReq id) with wrs := FMap.insert s.wrs k { w with refuse := some r, answered := none, reqs := 0 } }
         s.report (match w.src with | y :: _ => y.org | [] => q.org) q.kind r (some k)
       else
         let off := pOff q.ptr0 - pOff w.data.range.1
         let parts : List Wr := match w.data with
           | .bytes b d => if w.place = WPlace.engine then
               [{ w with place := .log, refuse := some r, reqs := 0, data := .bytes (pPlus b off) (maskSlice d off q.len)
                         pois := w.pois.filterMap fun i => if off ≤ i && i < off + q.len then some (i - off) else none
                         src := [{ gid := (w.gids.head?).getD orphan, org := q.org, len := q.len }] }]
             else w.src.filterMap fun (y : WSrc) =>
               let lo := max y.off off
               let hi := min (y.off + y.len) (off + q.len)
               if lo < hi && (maskSlice d lo (hi - lo)).any Option.isSome then
                 some { w with data := .bytes (pPlus b lo) (maskSlice d lo (hi - lo)), src := [{ y with off := 0, len := hi - lo, gth := none }]
                               place := .log, refuse := some r, reqs := 0 }
               else none
           | _ => [{ w with place := .log, refuse := some r, reqs := 0 }]
         if 64 < s.logSize w.unit + parts.length then s else
         let s := (s.dropReq id).writePart k
         parts.foldl (fun s x =>
           let n := s.nextId
           let s := { s with wrs := FMap.insert s.wrs n x, nextId := n + 1 }
           s.report (match x.src with | y :: _ => y.org | [] => q.org) q.kind r (some n)) s)
  | _, _ => s

/-! ## The steps -/

/-- CONTEXT_LEVEL_LOOKUP (R59). -/
def execContextLevelLookup (x : Look) (s : State) : Host.Outcome State Fault Refusal := .next (s.contextLookup x.id x.ecc)
/-- PORT_LEVEL_LOOKUP (R60). -/
def execPortLevelLookup (x : Look) (s : State) : Host.Outcome State Fault Refusal := .next (s.portLookup x.id x.ecc)
/-- CHIP_LEVEL_LOOKUP (R105). -/
def execChipLevelLookup (x : Look) (s : State) : Host.Outcome State Fault Refusal := .next (s.chipLookup x.id x.ecc)
/-- STACK_LEVEL_LOOKUP (R92). -/
def execStackLevelLookup (x : Look) (s : State) : Host.Outcome State Fault Refusal := .next (s.stackLookup x.id x.ecc)
/-- GATED_REREAD (R70). -/
def execGatedReread (id : Nat) (s : State) : Host.Outcome State Fault Refusal := .next (s.gatedReread id)
/-- GATE_TIMEOUT (R72). -/
def execGateTimeout (id : Nat) (s : State) : Host.Outcome State Fault Refusal := .next (s.gateTimeout id)
/-- GRANT_REQUEST (R108). -/
def execGrantRequest (x : Look) (s : State) : Host.Outcome State Fault Refusal := .next (s.grantRequest x.id x.ecc)
/-- WRITE_APPLY (R113). -/
def execWriteApply (id : Nat) (s : State) : Host.Outcome State Fault Refusal := .next (s.writeApply id)
/-- HOME_SLICE_ATOMIC (R113). -/
def execHomeSliceAtomic (id : Nat) (s : State) : Host.Outcome State Fault Refusal := .next (s.homeAtomic id)
/-- L2_WRITE_BACK (R107). (DESIGN CHOICE, log 32) -/
def execL2WriteBack (evict : Bool) (id : Nat) (s : State) : Host.Outcome State Fault Refusal := .next (s.l2WriteBack evict id)
/-- REPLICA_SEQUENCE (R115). -/
def execReplicaSequence (id : Nat) (s : State) : Host.Outcome State Fault Refusal := .next (s.replicaSeq id)
/-- BUCKET_RELEASE (R120). -/
def execBucketRelease (id : Nat) (s : State) : Host.Outcome State Fault Refusal := .next (s.bucketRelease id)
/-- WCQ_DRAIN (R119). -/
def execWcqDrain (id : Nat) (s : State) : Host.Outcome State Fault Refusal := .next (s.wcqDrain id)
/-- STORE_BUFFER_DRAIN (R179). -/
def execStoreBufferDrain (id : Nat) (s : State) : Host.Outcome State Fault Refusal := .next (s.bufferDrain id)
/-- SIDE_LOG_ENTER (R183). -/
def execSideLogEnter (id : Nat) (s : State) : Host.Outcome State Fault Refusal := .next (s.logEnter id)
/-- LOAD_RETURN (R175). -/
def execLoadReturn (x : Look) (s : State) : Host.Outcome State Fault Refusal := .next (s.loadReturn x.id x.ecc)
/-- ATOM_RETURN (R188). -/
def execAtomReturn (id : Nat) (s : State) : Host.Outcome State Fault Refusal := .next (s.atomReturn id)
/-- ICACHE_FILL (R51). -/
def execIcacheFill (id : Nat) (s : State) : Host.Outcome State Fault Refusal := .next (s.icacheFill id)
/-- WRITE_ACKNOWLEDGEMENT (R190). -/
def execWriteAcknowledgement (id : Nat) (s : State) : Host.Outcome State Fault Refusal := .next (s.writeAck id)
/-- DOMAIN_CHANGED_REPLAY (R111). -/
def execDomainChangedReplay (id : Nat) (s : State) : Host.Outcome State Fault Refusal := .next (s.domainReplay id)

end Sys2Proof.Machine
end

