-- ==== Sys2Proof/Machine/Copy.lean ====
section
/-! DEFINITION. The copy engine, promises and sleeping (R160 to R170). -/

namespace Sys2Proof.Machine

open Sys2Proof Sys2Proof.Decode

/-! ## Issue -/

/-- A copy as its operands describe it (R162): E0, E1, E2, the strides SS1, SS2 and DS1, DS2, and ZF. -/
structure CopyDesc where
  e  : Nat × Nat × Nat
  ss : Int × Int
  ds : Int × Int
  zf : Bool
  deriving DecidableEq, Repr

/-- A descriptor's four words (Table 7-6), or none where E1, E2 or a reserved bit is wrong. -/
def copyDesc (w0 w1 w2 w3 : Nat) : Option CopyDesc :=
  if w0 / 2 ^ 32 % 65536 = 0 || w0 / 2 ^ 48 % 65536 = 0 || 1 < w3 then none
  else some ⟨(w0 % 2 ^ 32, w0 / 2 ^ 32 % 65536, w0 / 2 ^ 48 % 65536), (sext 32 (w1 % 2 ^ 32), sext 32 (w1 / 2 ^ 32 % 2 ^ 32)),
             (sext 32 (w2 % 2 ^ 32), sext 32 (w2 / 2 ^ 32 % 2 ^ 32)), w3 = 1⟩

/-- The least and greatest byte of a strided range from `base` (R163): the corners give the extremes. -/
def copyRange (base : Nat) (e : Nat × Nat × Nat) (st : Int × Int) : Int × Int :=
  let y : Int := ((e.2.1 : Int) - 1) * st.1
  let z : Int := ((e.2.2 : Int) - 1) * st.2
  ((base : Int) + min 0 y + min 0 z, (base : Int) + max 0 y + max 0 z + (e.1 : Int) - 1)

/-- The checks of a copy's pointer (R163): the SRAM byte of local address 0 where it is a local window. -/
def copyPtr (c : Iss) (p : W64) (k : AKind) (r : Int × Int) (empty : Bool) : Except Stop (Option Nat) :=
  let bad (x : Reason) : Except Stop (Option Nat) := .error (pointerFault c 0 p k x)
  if pForm p = 2 then
    if 3 < bf p 56 4 || bf p 32 24 ≠ 0 then bad .form
    else if empty then .ok (some 0)
    else if r.1 < 0 || (2 : Int) ^ 32 ≤ r.2 then bad .absent
    else
      match localCheck c (setBf p 0 32 r.1.toNat) 1 k false, localCheck c (setBf p 0 32 r.2.toNat) 1 k false with
      | .error x, _ => bad x
      | _, .error x => bad x
      | .ok (.sram _ a), .ok _ => .ok (some (a - r.1.toNat))
      | _, _ => bad .absent
  else if pForm p ≠ 1 then bad .form
  else if !empty && (r.1 < 0 || (2 : Int) ^ 24 ≤ r.2) then bad .straddle
  else .ok none

/-- The destination lies in the block's `.lane` or `.core` allotment (R163). -/
def privateSpace (p : W64) : Bool := pForm p = 2 && bf p 56 4 < 2

/-- The scope at which a copy's source must hold the group's earlier writes (R163). -/
def sourceScope (s : State) (ctx : Nat) (p : W64) : Scope :=
  if pForm p = 2 then .clu else if (s.remoteOf ctx p).isSome then .dom else .mod

/-- The copies in a cluster's engine (R160). -/
def State.copyQueue (s : State) (clu : Nat) : Nat := (s.copies.filter fun x => x.2.clu = clu && !x.2.done).length

/-- The last part of the issue of a copy (R163): the commit, the wait for the group's own writes, the counter, the promise. (DESIGN CHOICE, log 46) -/
def copyIssue (c : Iss) (d : Opd) (dst src : W64) (x : CopyDesc) : Except Stop State :=
  let empty := x.e.1 = 0
  let rs := copyRange (if pForm src = 2 then bf src 0 32 else pOff src) x.e x.ss
  let rd := copyRange (if pForm dst = 2 then bf dst 0 32 else pOff dst) x.e x.ds
  match copyPtr c dst .write rd empty with
  | .error e => .error e
  | .ok dl =>
  match (if x.zf then .ok none else copyPtr c src .read rs empty) with
  | .error e => .error e
  | .ok sl =>
    let clu := clusterOf (unitOfGid c.gid)
    if 64 ≤ c.s.copyQueue clu || counterFull c.g.cpy || c.bucketsFull then .error (.wait c.s) else
    let s := if privateSpace dst then c.s else c.s.commit c.g.blk
    if c.s.acquiring c.gid || (!x.zf && !s.released c.gid (sourceScope s c.b.ctx src)) then .error (.wait s) else
    let p := if empty then s.now else promiseFrom s.now (2 * s.fresh)
    let k : Copy :=
      { gid := c.gid, blk := c.g.blk, ctx := c.b.ctx, clu := clu, unit := unitOfGid c.gid, num := c.g.cpyN, dst := dst, src := src, dloc := dl, sloc := sl
        e := x.e, ss := x.ss, ds := x.ds, zf := x.zf, lo := rd.1, hi := rd.2, promise := p
        left := [(0, x.e.1 * x.e.2.1 * x.e.2.2)]
        org := { originOf c 0 dst 1 with unit := 1536 + clu, slot := 0 } }
    let s := s.onGrp c.gid fun g => { writeOp g 0 64 d { v := p } with cpyN := g.cpyN + 1, cpy := if empty then g.cpy else g.cpy + 1 }
    .ok (if empty then { s with fresh := s.fresh + 1 }
         else { s with copies := FMap.insert s.copies s.nextId k, nextId := s.nextId + 1, fresh := s.fresh + 1 })

/-- The pair of pointers that A names: destination, source (R161). -/
def copyPair (c : Iss) (o : Opd) : W64 × W64 :=
  match o with
  | .w n => ((c.g.ureg n.val).v, (c.g.ureg (n.val + 1)).v)
  | _ => (0, 0)

/-- The uniform registers from `n` as a source of the run-time checks, each thread 0. -/
def uregReads (g : Group) (field n k : Nat) : List Read :=
  (List.range k).map fun i => ⟨field, false, .addr, [(0, g.readW (n + i) 64)]⟩

/-- The registers that A names beyond its first, and those of B's descriptor, as sources. -/
def copyReads (c : Iss) (i : Instr) (o : Args) : List Read :=
  let rs := reads c i o (acting c o.hdr)
  let a := match o.a.x with | .w n => (uregReads c.g 2 (n.val + 1) 1).map fun r => { r with ea := o.a.ea } | _ => []
  let b := match i, o.b.x with
    | .cpys _, .w n => (uregReads c.g 3 n.val 4).map fun r => { r with ea := o.b.ea }
    | .cpys _, _ => []
    | _, _ => rs.filter fun r => r.field = 3
  if (acting c o.hdr).isEmpty then [] else (rs.filter fun r => r.field = 2) ++ a ++ b

/-- The checks of a copy instruction over all its sources. -/
def copyStart (c : Iss) (i : Instr) (o : Args) : Except Stop (List Nat) :=
  let ts := acting c o.hdr
  match runChecks c o.hdr (copyReads c i o) (dstEmpty c ts 64 o.d.x) with
  | some x => .error x
  | none => .ok ts

/-- CPY (R163): the `CPYS` of one row. -/
def execCpy (o : Args) (s : State) : Host.Outcome State Fault Refusal :=
  issue o s false false fun c =>
    match copyStart c (.cpy o) o with
    | .error x => .error x
    | .ok ts =>
      if ts.isEmpty then .ok c.s else
      let p := copyPair c o.a.x
      copyIssue c o.d.x p.1 p.2 ⟨(((srcs c (.cpy o) o 0).2.2.v) % 2 ^ 32, 1, 1), (0, 0), (0, 0), false⟩

/-- CPYS (R162, R163). -/
def execCpys (o : Args) (s : State) : Host.Outcome State Fault Refusal :=
  issue o s false false fun c =>
    match copyStart c (.cpys o) o with
    | .error x => .error x
    | .ok ts =>
      if ts.isEmpty then .ok c.s else
      let p := copyPair c o.a.x
      let w (i : Nat) : Nat := match o.b.x with
        | .w n => (c.g.ureg (n.val + i)).v.toNat
        | .cb off => bankVal c.b (off.toNat + 8 * i) 64
        | _ => 0
      match copyDesc (w 0) (w 1) (w 2) (w 3) with
      | none => .error (.trap { cause := .copyDescriptor })
      | some x => copyIssue c o.d.x p.1 p.2 x

/-! ## SLEEPT (R167) -/

/-- A waiting group's wait is over: it goes on behind its instruction. -/
def State.wake (s : State) (gid : Nat) : State :=
  s.onGrp gid fun g => { g with wait := .none, cont := none, pc := g.pc + 1, readyAt := s.now }

/-- Park a group at its instruction. -/
def Iss.park (c : Iss) (s : State) (w : Wait) : State := s.onGrp c.gid fun g => { g with wait := w, since := s.now }

/-- SLEEPT (R167): `rel` adds the issue cycle; a time that has passed retires at once. It always ends the run. -/
def execSleept (rel : Bool) (o : Args) (s : State) : Host.Outcome State Fault Refusal :=
  issue o s true true fun c =>
    match start c (.sleept rel o) o with
    | .error x => .error x
    | .ok ts =>
      let a := (srcs c (.sleept rel o) o 0).2.1.v
      let t := if rel then (c.s.now + a) % 2 ^ 64 else a
      if ts.isEmpty || t ≤ c.s.now then .ok (c.s.setGrp c.gid { c.g with pc := c.g.pc + 1 }) else .ok (c.park c.s (.sleep t))

/-- SLEEP_WAKE (R167): the time of a sleeping group has come. -/
def execSleepWake (gid : Nat) (s : State) : Host.Outcome State Fault Refusal :=
  .next (match FMap.find? s.groups gid with
    | some g => (match g.wait with | .sleep t => if t ≤ s.now then s.wake gid else s | _ => s)
    | none => s)

/-! ## The engine -/

/-- The byte offsets of a copy's byte number `i`: source and destination, from their pointers (R163). -/
def Copy.offs (c : Copy) (i : Nat) : Int × Int :=
  let x := i % c.e.1
  let y := i / c.e.1 % c.e.2.1
  let z := i / (c.e.1 * c.e.2.1)
  ((x : Int) + (y : Int) * c.ss.1 + (z : Int) * c.ss.2, (x : Int) + (y : Int) * c.ds.1 + (z : Int) * c.ds.2)

/-- A pointer moved by a signed distance, within its region or window. -/
def ptrBy (p : W64) (d : Int) : W64 :=
  if pForm p = 2 then setBf p 0 32 (((bf p 0 32 : Nat) : Int) + d).toNat else pAt p (((pOff p : Nat) : Int) + d).toNat

/-! ### Requests of the engines -/

/-- A request of one of the module's engines (R160, R259, R345): it passes every level and bucket as any other does. -/
def engineReq (cl : Client) (k : AKind) (org : Origin) (p : W64) (n : Nat) (pay : Payload) (core : Nat) : Req :=
  { client := cl, kind := k, org := { org with ptr := p }, ptr := p, len := n, pay := pay, stage := .context, core := core }

/-- The positions of bytes that carry the poison mark. -/
def poisonOf (bs : List (Byte × Bool)) : List Nat := (bs.mapIdx fun i b => (i, b.2)).filterMap fun x => if x.2 then some x.1 else none
/-- The payload that writes bytes with their poison marks. -/
def storeOf (bs : List (Byte × Bool)) : Payload := .store (bs.map fun b => some b.1) (poisonOf bs)

/-- The record of a refusal that no service mends, or that its owner has discarded, where some part of an access has met one (R165, R277, R362). -/
def State.famFailed (s : State) (fam : Nat) : Option (BitVec 256) :=
  (s.famParts fam).findSome? fun x => match x.2.stage with | .refused r told => if r.services && told then none else some (ctxRec x.2.org x.2.kind r) | _ => none

/-- A part of a write has its sequence number for another module (R134): one that only waits there for its grant has not, nor one for a replica set, which
every member has to apply first (R115). -/
def Req.away (q : Req) : Option Nat :=
  match q.stage with | .sent m _ => if q.home.isNone && bf q.ent 94 2 ≠ 2 && q.kind = .write && !q.served then some m else none | _ => none
/-- Every part of an engine's write has been performed, or sequenced for another module (R164). -/
def State.famPast (s : State) (fam : Nat) : Bool := (s.famParts fam).all fun x => x.2.served || x.2.away.isSome

/-- An engine's request for another module has its sequence number (R134): from here it is a write on its way, which its group's releases
wait for once a wait has covered the operation (R324). -/
def State.engineSent (s : State) (id : Nat) (q : Req) (m : Nat) (cv : Option Cover) (ctx blk unit : Nat) : State :=
  let w : Wr :=
    { data := .bytes q.ptr0 (match q.pay with | .store b _ => b | _ => []), ctx := ctx, blk := blk, src := [], unit := unit, place := .engine
      remote := some m, reqs := 1, cover := cv, pois := (match q.pay with | .store _ ps => ps | _ => []) }
  { (s.setReq id { q with client := .write s.nextId }) with wrs := FMap.insert s.wrs s.nextId w, nextId := s.nextId + 1 }

/-- The parts of an engine's write that has been performed or sequenced leave the engine. -/
def State.famLeave (s : State) (fam : Nat) (cv : Option Cover) (ctx blk unit : Nat) : State :=
  (s.famParts fam).foldl (fun s x => match x.2.away with | some m => s.engineSent x.1 x.2 m cv ctx blk unit | none => s.dropReq x.1) s

/-- The lines of `n` bytes leave a core's L1: no row of a line is shorter than 16 bytes (R88, R160). -/
def State.l1Drops (s : State) (unit ctx : Nat) (p : W64) (n : Nat) : State :=
  (List.range ((n + 15) / 16 + 1)).foldl (fun s i => s.l1Store unit ctx (pPlus p (min (16 * i) (n - 1)))) s

/-- A wait has covered some operations of a group: their writes are now earlier writes of it (R324). -/
def State.covered (s : State) (gid : Nat) (p : Cover → Bool) : State :=
  { s with wrs := FMap.mapVals s.wrs fun _ w => match w.cover with
      | some x => if x.gid = gid && p x && !w.gids.contains gid then
          { w with src := [{ gid := gid, org := ((w.src.head?).map fun y => y.org).getD { ptr := w.data.range.1, guidon := 0, unit := w.unit } }] }
        else w
      | none => w }

/-- Write bytes with their poison marks straight into SRAM (R157, R163). -/
def State.localPut (s : State) (a : Nat) (bs : List (Byte × Bool)) : State :=
  (poisonOf bs).foldl (fun s i => s.poison (a + i)) (s.writeLocal a (bs.map fun b => some b.1))

/-! ### Pieces of a copy -/

/-- Take a piece out of what is left. (DESIGN CHOICE, log 47) -/
def cutPiece (l : List (Nat × Nat)) (first n : Nat) : List (Nat × Nat) :=
  l.flatMap fun r =>
    if first < r.1 || r.1 + r.2 ≤ first then [r]
    else ([(r.1, first - r.1), (first + n, r.1 + r.2 - (first + n))].filter fun x => 0 < x.2)

/-- A copy ends: its counter falls; a failed one stays for the `WAITC` that meets it (R164, R165). -/
def State.copyEnd (s : State) (k : Nat) (c : Copy) : State :=
  let s := s.onGrp c.gid fun g => { g with cpy := g.cpy - 1 }
  if c.failed.isSome && !isDead c.gid then { s with copies := FMap.insert s.copies k { c with done := true, left := [] } }
  else { s with copies := FMap.erase s.copies k }

/-- The requests under way for a copy. -/
def State.copyReqs (s : State) (k : Nat) : List (Nat × Req) := s.reqs.filter fun x => match x.2.client with | .copy j _ => decide (j = k) | _ => false

/-- A copy fails with a record: it stops, and what it has not written stays unwritten (R165). -/
def State.copyFail (s : State) (k : Nat) (c : Copy) (rec_ : BitVec 256) : State :=
  ((s.copyReqs k).foldl (fun s x => s.dropReq x.1) s).copyEnd k { c with failed := some rec_ }

/-- A piece has been performed or sequenced; the last one ends the copy. -/
def State.copyMoved (s : State) (k : Nat) (c : Copy) : State :=
  if c.left.isEmpty && (s.copyReqs k).isEmpty then s.copyEnd k c else s

/-- Write a piece whose bytes have been read: straight into SRAM, else by a request. -/
def State.copyPut (s : State) (k : Nat) (c : Copy) (first : Nat) (bs : List (Byte × Bool)) : State :=
  let p := ptrBy c.dst (c.offs first).2
  match c.dloc with
  | some a => (s.localPut (a + bf p 0 32) bs).copyMoved k c
  | none => s.newReq (engineReq (.copy k first) .write c.org p bs.length (storeOf bs) c.unit)

/-- Begin a piece: its source is read, straight from SRAM or by a request, unless zeros are written. -/
def State.copyTake (s : State) (k : Nat) (c : Copy) (first n : Nat) : State :=
  let c := { c with left := cutPiece c.left first n, begun := true }
  let s := { s with copies := FMap.insert s.copies k c }
  let p := ptrBy c.src (c.offs first).1
  if c.zf then s.copyPut k c first (List.replicate n (0, false))
  else match c.sloc with
  | some a => s.copyPut k c first (s.marked (a + bf p 0 32) n)
  | none => s.newReq (engineReq (.copy k first) .read c.org p n .load c.unit)

/-- A piece whose request is under way: its read has brought its bytes, its write has been performed or, in another module, sequenced (R164); the issuing
core's L1 lines go first (R160). A refusal that no service mends fails the copy. (DEDUCED, log 60) -/
def State.copyTurnOf (s : State) (k : Nat) (c : Copy) (first : Nat) (q : Req) : State :=
  match s.famFailed q.fam with
  | some r => s.copyFail k c r
  | none =>
    if q.kind = .write then
      (if s.famPast q.fam then
        let n := (s.famParts q.fam).foldl (fun n x => n + x.2.len) 0
        ((s.l1Drops c.unit c.ctx (ptrBy c.dst (c.offs first).2) n).famLeave q.fam (some ⟨c.gid, false, c.num, k⟩) c.ctx c.blk c.unit).copyMoved k c
       else s)
    else match s.brought q.fam with
    | some bs => (s.dropFam q.fam).copyPut k c first bs
    | none => s

/-- Older copies of the group have started (R164). -/
def State.copyTurn (s : State) (c : Copy) : Bool :=
  s.copies.all fun x => !(x.2.gid = c.gid && x.2.num < c.num && !x.2.done && !x.2.begun)

/-- The most bytes that one request of an engine carries: what a packet of 16 flits holds beside a seal group's tag (R131, R145). (DESIGN CHOICE, log 47) -/
def pieceMax : Nat := 3824

/-- How much of a piece the engine moves by one request: what is left of it, in one row. (DESIGN CHOICE, log 47) -/
def Copy.piece (c : Copy) (first n : Nat) : Nat :=
  match c.left.find? fun r => r.1 ≤ first && first < r.1 + r.2 with
  | some r => min pieceMax (min (min n (r.1 + r.2 - first)) (c.e.1 - first % c.e.1))
  | none => 0

/-- COPY_COMPLETE (R163 to R165): the engine moves a piece of a copy, in any order; the last piece completes it, and a refusal that is not
held fails it. (DESIGN CHOICE, log 47) -/
def State.copyStep (s : State) (k first n : Nat) : State :=
  match FMap.find? s.copies k with
  | none => s
  | some c =>
    if c.done then s else
    match List.find? (fun x : Nat × Req => x.2.client = Client.copy k first) s.reqs with
    | some x => s.copyTurnOf k c first x.2
    | none => if c.piece first n = 0 || !s.copyTurn c then s else s.copyTake k c first (c.piece first n)

/-- COPY_COMPLETE: `n` bytes of copy `id` from its byte `first`. (DESIGN CHOICE, log 47) -/
def execCopyComplete (id first n : Nat) (s : State) : Host.Outcome State Fault Refusal := .next (s.copyStep id first n)

end Sys2Proof.Machine
end

