-- ==== Sys2Proof/Machine/Convert.lean ====
section
/-! DEFINITION. Conversions, packing and format tags (R231 to R236). -/

namespace Sys2Proof.Machine

open Sys2Proof Sys2Proof.Decode

/-- The sign bit of an element's code. -/
def elemSign (f : Fmt) (v : Nat) : Bool :=
  match decElem f v with
  | .fin s _ _ | .inf s => s
  | .nan _ => v / 2 ^ (elemBits f - 1) % 2 = 1
  | .rsv => false

/-- Conversion into a block format 19 to 22 under its scale byte (R232). `sg` is the sign of x. -/
def toBlock (f : Fmt) (c : Deliver) (sg : Bool) (x : XV) (b : Nat) : Nat × Nat :=
  let fail : Nat × Nat := (if f = .mxe4m3 then 0x7F else 0, flInvalid)
  match decScale f b with
  | .fin neg n d =>
    if f = .b16e2m1 && neg then fail
    else if n = 0 then
      ((deliver f {} (.fin sg 0 1)).1, match x with
        | .fin _ m _ => if m = 0 then 0 else flInexact
        | _ => flInvalid)
    else match x with
      | .fin s m e => deliver f c (.fin s (m * d) (e * n))
      | y => deliver f c y
  | _ => fail

/-- CVT of one element (R232): `s` the source format, `v` the source bits, `b` the scale byte or seed. -/
def cvtR (m : Mods.Cvt) (s : Fmt) (v b t : Nat) : Res :=
  let e := getElem s v 0
  let x := if isBlock s then decScaled s e b else decElem s e
  let c : Deliver := { rnd := { rm := m.rm, u := if m.rm = .rs then draw b t 0 else 0 }, sat := m.sat }
  let r := if m.dst = .bl6 then deliver .bl6 { c with off := sext 8 b } x
    else if isBlock m.dst then toBlock m.dst c (elemSign s e) x b
    else deliver m.dst c x
  { v := setElem m.dst 0 0 r.1, tag := fmtCode m.dst, fl := r.2 }

/-- The source A of CVT: a pair where the tag names FP64 and the operand can be one (R232). -/
def cvtSrc (c : Iss) (t : Nat) (a : Opd) : Val :=
  let x := readOp c t (pS 32) a a
  match a with
  | .t n => if x.tag = 0 && n.val % 2 = 0 && n.val + 1 < c.g.allot then c.g.readT t n.val 64 else x
  | .w n => if x.tag = 0 then c.g.readW n.val 64 else x
  | _ => x

/-- CVT reads B for a source: a seed under `.rs`, a scale byte where A's tag or DST names a block format (R231). (DEDUCED, log 15) -/
def cvtUsesB (m : Mods.Cvt) (tag : Nat) : Bool := m.rm = .rs || isBlock m.dst || (19 ≤ tag && tag ≤ 23)

/-- The source format of CVT, or the detail of its format mismatch (R232): FP64 needs both tags of the pair. (DEDUCED, log 16) -/
def cvtFmt (m : Mods.Cvt) (a : Opd) (x : Val) : Except Nat Fmt :=
  match fmtOf x.tag with
  | none => .error 1
  | some f =>
    let pair := match a with | .t n => n.val % 2 = 0 | _ => true
    if f = .f64 && (x.tag2 ≠ 0 || !pair) then .error 1
    else if isBlock f && isBlock m.dst then .error 2
    else if m.rm = .rs && isBlock f then .error 3
    else .ok f

/-- The format mismatch of CVT and LCVT: field A, expected tag 24 (R195). (DEDUCED, log 16) -/
def cvtTrap (t tag detail : Nat) : Stop :=
  .trap { cause := .formatMismatch, detail := detail, field := 2, thread := t, aux0 := BitVec.ofNat 32 (24 * 256 + tag) }

/-- CVT's own check of A's tag, one of the tag checks (R195, R203, R232): a POIS A gives a POIS result without a trap. -/
def cvtTags (m : Mods.Cvt) (a : Opd) (as : List (Nat × Val)) : Option Stop :=
  as.findSome? fun x => if x.2.st = .pois then none else match cvtFmt m a x.2 with | .ok _ => none | .error d => some (cvtTrap x.1 x.2.tag d)

/-- CVT (R231, R232). -/
def execCvt (m : Mods.Cvt) (o : Args) (s : State) :=
  issue o s false false fun c =>
    let i : Instr := .cvt m o
    let ts := acting c o.hdr
    let as := ts.map fun t => (t, cvtSrc c t o.a.x)
    let bs := (as.filter fun x => cvtUsesB m x.2.tag && x.2.st ≠ .pois).map fun x => (x.1, readOp c x.1 (spec i).b o.b.x o.a.x)
    match runChecks c o.hdr [⟨2, o.a.ea, .data none, as⟩, ⟨3, o.b.ea, .data none, bs⟩] (dstEmpty c ts (fmtWidth m.dst) o.d.x) (cvtTags m o.a.x as) with
    | some x => .error x
    | none =>
      .ok (c.s.setGrp c.gid (putResults c.b.tents c.g (fmtWidth m.dst) o.d.x (as.map fun x =>
        match (if x.2.st = .pois then .error 0 else cvtFmt m o.a.x x.2) with
        | .ok f =>
          let b : Val := if cvtUsesB m x.2.tag then readOp c x.1 (spec i).b o.b.x o.a.x else {}
          let r := cvtR m f x.2.v b.v x.1
          (x.1, ({ v := r.v, tag := r.tag, tag2 := r.tag, st := x.2.st.join b.st } : Val), r.fl)
        | .error _ => (x.1, ({ st := .pois } : Val), 0))))

/-- The bounds of an INT type (R231). -/
def intBounds (t : IntTy) : Int × Int :=
  match t with
  | .s32 => (-(2 ^ 31), 2 ^ 31 - 1) | .uint32 => (0, 2 ^ 32 - 1) | .s64 => (-(2 ^ 63), 2 ^ 63 - 1) | .uint64 => (0, 2 ^ 64 - 1)

/-- CVTI from integer to float (R233). -/
def i2fR (m : Mods.Cvti) (a b t : Nat) : Res :=
  let w := intWidth m.int
  let x := if intSigned m.int then sext w a else (a : Int)
  let r := deliver m.fmt { rnd := { rm := m.rm, u := draw b t 0 }, sat := m.sat } (ofInt x)
  { v := setElem m.fmt 0 0 r.1, tag := fmtCode m.fmt, fl := r.2 }

/-- CVTI from float to integer (R233, the integer row of R216). (DEDUCED, log 14) -/
def f2iR (m : Mods.Cvti) (a b t : Nat) : Res :=
  let w := intWidth m.int
  let lim := intBounds m.int
  match decElem m.fmt (getElem m.fmt a 0) with
  | .fin s n d => let r := roundInt { rm := m.rm, u := draw b t 0 } lim.1 lim.2 s n d; { v := intCode w r.1, fl := r.2 }
  | .inf s => { v := intCode w (if s then lim.1 else lim.2), fl := flInvalid }
  | _ => { v := 0, fl := flInvalid }

/-- CVTI. (DEDUCED, log 13) -/
def execCvti (m : Mods.Cvti) (o : Args) (s : State) :=
  alu (.cvti m o) o s fun t _ a b => if m.f2i then f2iR m a.v b.v t else i2fR m a.v b.v t

/-- PACK2 (R234). -/
def execPack2 (o : Args) (s : State) :=
  alu (.pack2 o) o s fun _ _ a b => { v := b.v % 65536 * 65536 + a.v % 65536, tag := if a.tag = b.tag then a.tag else 31 }

/-- UNPK2 (R234): an even thread register and the odd one above it, or w(2k) and w(2k+1). -/
def execUnpk2 (o : Args) (s : State) :=
  issue o s false false fun c =>
    let w := if o.hdr.u then 128 else 64
    let ts := acting c o.hdr
    match runChecks c o.hdr (reads c (.unpk2 o) o ts) (dstEmpty c ts w o.d.x) with
    | some x => .error x
    | none =>
      .ok (c.s.setGrp c.gid (putResults c.b.tents c.g w o.d.x (ts.map fun t =>
        let a := (srcs c (.unpk2 o) o t).2.1
        (t, { a with v := a.v % 65536 + a.v / 65536 * 2 ^ (w / 2), tag2 := a.tag }, 0))))

/-- SCLE (R235, Table 10-8). -/
def scleR (f : Fmt) (a : Nat) : Res :=
  match decElem .f32 a with
  | .fin _ n d =>
    if n = 0 then { v := if f = .bl6 then 0x80 else 0 }
    else match f with
      | .bl6 =>
        (match (List.range 256).find? fun (k : Nat) => let t := logVal 4 (15 + (k : Int) - 128); leFrac n d t.1 t.2 with
         | some k => { v := ((k : Int) - 128) % 256 |>.toNat }
         | none => { v := 127, fl := flOver })
      | .b16e2m1 => let r := deliver .e4m3 { rnd := { rm := .ru }, sat := true } (.fin false n (d * 6)); { v := r.1, fl := r.2 }
      | _ =>
        let e : Int := match f with | .mxe4m3 => 8 | .mxe2m1 => 2 | _ => 0
        { v := (max 0 (min 254 (ilog2 n d - e + 127))).toNat }
  | _ => { v := match f with | .bl6 | .b16e2m1 => 0x7F | _ => 0xFF, fl := flInvalid }

/-- SCLE. -/
def execScle (m : Fmt) (o : Args) (s : State) := alu (.scle m o) o s fun _ _ a _ => scleR m a.v

/-- Set the tag of a register whose state is not POIS (R236, R194). -/
def setTag (g : Group) (t : Nat) (d : Opd) (tag : Nat) : Group :=
  match d with
  | .t n => let r := g.treg t n.val; if r.st = .pois then g else g.setT t n.val { r with tag := tag }
  | .w n => let r := g.ureg n.val; if r.st = .pois then g else g.setW n.val { r with tag := tag }
  | _ => g

/-- FMTSET (R236): D's bits and state are unchanged. -/
def execFmtset (o : Args) (s : State) :=
  issue o s false false fun c =>
    match start c (.fmtset o) o with
    | .error x => .error x
    | .ok ts => .ok (c.s.setGrp c.gid (ts.foldl (fun g t => setTag g t o.d.x ((srcs c (.fmtset o) o t).2.1.v % 32)) c.g))

/-- FMTGET (R236): FULL whatever the state of A. -/
def execFmtget (o : Args) (s : State) :=
  issue o s false false fun c =>
    match start c (.fmtget o) o with
    | .error x => .error x
    | .ok ts =>
      .ok (c.s.setGrp c.gid (putResults c.b.tents c.g 32 o.d.x (ts.map fun t => (t, ({ v := (srcs c (.fmtget o) o t).2.1.tag } : Val), 0))))

end Sys2Proof.Machine
end

