-- ==== Sys2Proof/Machine/LogI.lean ====
section
/-! DEFINITION. Log arithmetic (R237 to R239). -/

namespace Sys2Proof.Machine

open Sys2Proof Sys2Proof.Decode

/-- The elements of a log format that a register holds (R237). -/
def logCount (f : Fmt) : Nat := if f = .l4 then 8 else 4

/-- A log code is zero. -/
def logZero (q : Nat × Nat) (v : Nat) : Bool := v % 2 ^ (q.2 + 1) = 2 ^ (q.2 - 1)
/-- A log code is the reserved one. -/
def logRsv (q : Nat × Nat) (v : Nat) : Bool := v % 2 ^ (q.2 + 1) = 2 ^ q.2 + 2 ^ (q.2 - 1)

/-- The product of two log codes (R208, R238): the field sum saturates. -/
def lmulE (f : Fmt) (a b : Nat) : Nat × Nat :=
  match lpar f with
  | none => (0, 0)
  | some q =>
    let zcode := 2 ^ (q.2 - 1)
    let rs := if logRsv q a || logRsv q b then flInvalid else 0
    if logRsv q a || logRsv q b || logZero q a || logZero q b then (zcode, rs)
    else
      let s := (a / 2 ^ q.2 + b / 2 ^ q.2) % 2
      let x := sext q.2 a + sext q.2 b
      let mx : Int := 2 ^ (q.2 - 1) - 1
      if mx < x then (s * 2 ^ q.2 + mx.toNat, flOver + flInexact)
      else if x < -mx then (s * 2 ^ q.2 + (-mx % 2 ^ q.2).toNat, flUnder + flInexact)
      else (s * 2 ^ q.2 + (x % 2 ^ q.2).toNat, 0)

/-- A log code's exact value, a reserved code as zero (R212). -/
def logX (f : Fmt) (a : Nat) : XV := match decElem f a with | .rsv => .fin false 0 1 | x => x

/-- A sum beyond the largest code of a log format overflows, even where it would round to that code (R238). (DEDUCED, log 17) -/
def sumFlags (f : Fmt) (x : XV) : Nat :=
  match lpar f, x with
  | some q, .fin _ n d => let t := logVal q.1 (2 ^ (q.2 - 1) - 1); if leFrac n d t.1 t.2 then 0 else flOver + flInexact
  | _, _ => 0

/-- The rounded sum of two log codes (R238). -/
def laddE (f : Fmt) (a b : Nat) : Nat × Nat :=
  let fl := if decElem f a = .rsv || decElem f b = .rsv then flInvalid else 0
  match addX .rne (logX f a) (logX f b) with
  | some x => let r := deliver f {} x; (r.1, orFlags r.2 (orFlags (sumFlags f x) fl))
  | none => (0, fl)

/-- An operation on every element of two registers, the flags ORed. -/
def logMap (f : Fmt) (op : Nat → Nat → Nat × Nat) (a b : Nat) : Res :=
  let r := (List.range (logCount f)).foldl (fun (x : Nat × Nat) i =>
    let e := op (getElem f a i) (getElem f b i)
    (setElem f x.1 i e.1, orFlags x.2 e.2)) (0, 0)
  { v := r.1, tag := fmtCode f, fl := r.2 }

/-- LCVT (R239). -/
def lcvtR (m : Mods.Lcvt) (sf : Fmt) (d a b : Nat) : Res :=
  let f := lfFmt m.lf
  let r := (List.range (min (logCount sf) (logCount f))).foldl (fun (x : Nat × Nat) i =>
    let j := if m.hi && logCount sf = 8 then i + 4 else i
    let k := if m.hi && logCount f = 8 then i + 4 else i
    let v := getElem sf a j
    match lpar sf, lpar f with
    | some q, some p =>
      let e : Nat × Nat := if logRsv q v then (2 ^ (p.2 - 1), flInvalid)
        else if logZero q v then (2 ^ (p.2 - 1), 0)
        else let t := logVal q.1 (sext q.2 v + max (-4096) (min 4096 (sext 32 b))); deliver f {} (.fin (v / 2 ^ q.2 % 2 = 1) t.1 t.2)
      (setElem f x.1 k e.1, orFlags x.2 e.2)
    | _, _ => x) (d, 0)
  { v := r.1, tag := fmtCode f, fl := r.2 }

/-- LMUL. -/
def execLmul (m : LF) (o : Args) (s : State) := alu (.lmul m o) o s fun _ _ a b => logMap (lfFmt m) (lmulE (lfFmt m)) a.v b.v
/-- LADD. -/
def execLadd (m : LF) (o : Args) (s : State) := alu (.ladd m o) o s fun _ _ a b => logMap (lfFmt m) (laddE (lfFmt m)) a.v b.v
/-- The source format of LCVT, from A's tag (R237). -/
def lcvtFmt (tag : Nat) : Option Fmt := if 16 ≤ tag && tag ≤ 18 then fmtOf tag else none

/-- LCVT's own check of A's tag, one of the tag checks (R195, R203, R237): a POIS A gives a POIS result without a trap. -/
def lcvtTags (c : Iss) (i : Instr) (o : Args) : Option Stop :=
  (acting c o.hdr).findSome? fun t =>
    let a := (srcs c i o t).2.1
    if a.st ≠ .pois && (lcvtFmt a.tag).isNone then some (cvtTrap t a.tag 1) else none

/-- LCVT: the source format is A's tag (R237). -/
def execLcvt (m : Mods.Lcvt) (o : Args) (s : State) :=
  aluTags (.lcvt m o) o s (fun c => lcvtTags c (.lcvt m o) o) fun _ d a b =>
    match lcvtFmt a.tag with | some sf => if a.st = .pois then { v := 0 } else lcvtR m sf d.v a.v b.v | none => { v := 0 }

end Sys2Proof.Machine
end

