-- ==== Sys2Proof/Machine/Engine.lean ====
section
/-! DEFINITION. The matrix engine's arithmetic and memory: chunk sums, the welt, drains and rankings (R263 to R273), and the reads and
writes of its pipes (R260, R277, R278). -/

namespace Sys2Proof.Machine

open Sys2Proof Sys2Proof.Decode

/-! ## Exact sums and products (R266, R267, R272) -/

/-- The exact sum of two values; none where IEEE 754 calls it invalid, or where one is no number. Denominators are powers of two. -/
def addE : XV → XV → Option XV
  | .fin s n d, .fin t m e =>
    let k := max d e
    let z := signedNum s (n * (k / d)) + signedNum t (m * (k / e))
    some (.fin (if z = 0 then s && t else z < 0) z.natAbs k)
  | x, y => if x.bad || y.bad then none else addX .rne x y

/-- The exact sum of some values, none if some is none. -/
def sumE : List (Option XV) → Option XV
  | [] => some (.fin false 0 1)
  | x :: xs => xs.foldl (fun a b => match a, b with | some a, some b => addE a b | _, _ => none) x

/-- The sign and field of a log code under a step offset. -/
def logParts (q : Nat × Nat) (v : Nat) (o : Int) : Bool × Int := (v / 2 ^ q.2 % 2 = 1, sext q.2 v + o)

/-- The offset of a BL6 block's scale byte; none elsewhere (R211). -/
def logOff (f : Fmt) (b : Nat) : Int := if f = .bl6 then sext 8 b else 0

/-- The product of two elements under their scale bytes (R208, R266, R267): none where it is NaN or invalid. -/
def prodE (f : Fmt) (a sa b sb : Nat) : Option XV :=
  match lpar (elemOf f) with
  | some q =>
    if logRsv q a || logRsv q b then none
    else if logZero q a || logZero q b then some (.fin false 0 1)
    else
      let x := logParts q a (logOff f sa)
      let y := logParts q b (logOff f sb)
      let t := logVal q.1 (x.2 + y.2)
      some (.fin (x.1 != y.1) t.1 t.2)
  | none =>
    let x := decScaled f a sa
    let y := decScaled f b sb
    if x.bad || y.bad then none else mulX x y

/-- The squared difference of two elements (R272). -/
def distE (f : Fmt) (a b : Nat) : Option XV :=
  let x := decElem f a
  let y := decElem f b
  if x.bad || y.bad then none
  else match addE x y.neg with
    | some (.fin _ n d) => some (.fin false (n * n) (d * d))
    | some (.inf _) => some (.inf false)
    | _ => none

/-- The chunk of a format (Table 11-4). -/
def chunkOf (f : Fmt) : Nat :=
  match fmtCode f with
  | 0 => 1 | 1 | 2 => 4 | 3 | 4 => 8 | 5 | 6 | 10 | 11 | 19 | 21 => 16 | _ => 32
/-- The block size of a block format (R263). -/
def blockSize (f : Fmt) : Nat := if f = .b16e2m1 then 16 else 32

/-- One chunk of a row or column: its element bytes and its scale bytes, each as one number. -/
structure Lane8 where
  v : Nat
  s : Nat
  deriving DecidableEq, Repr

/-- The terms of one element over one chunk. -/
def terms (f : Fmt) (dist : Bool) (a b : Lane8) : List (Option XV) :=
  (List.range (chunkOf f)).map fun q =>
    let k := q / blockSize f
    if dist then distE f (getElem f a.v q) (getElem f b.v q)
    else prodE f (getElem f a.v q) (a.s / 256 ^ k % 256) (getElem f b.v q) (b.s / 256 ^ k % 256)

/-- The canonical NaN of an accumulator. -/
def accNan (f : Fmt) : Nat := (canonNan f).getD 0

/-- One chunk added to an accumulator (R266, R267): two roundings. -/
def accumulate (acc : Fmt) (d : Nat) (ts : List (Option XV)) : Nat × Nat :=
  let s : Nat × Nat := match sumE ts with | some x => deliver acc {} x | none => (accNan acc, flInvalid)
  let r := farith acc .add .rne false d s.1 0
  (r.1, orFlags s.2 r.2)

/-- A term is above zero. -/
def termPos : Option XV → Bool | some (.fin s n _) => !s && n ≠ 0 | some (.inf s) => !s | _ => false
/-- A term is below zero. -/
def termNeg : Option XV → Bool | some (.fin s n _) => s && n ≠ 0 | some (.inf s) => s | _ => false
/-- A term's magnitude. -/
def termAbs : Option XV → Option XV | some (.fin _ n d) => some (.fin false n d) | some (.inf _) => some (.inf false) | x => x

/-- One chunk added to a welt element (R268): P, N, cp, cn and the flags. -/
def weltStep (P N cp cn : Nat) (ts : List (Option XV)) : Nat × Nat × Nat × Nat × Nat :=
  let ps := ts.filter termPos
  let ns := (ts.filter termNeg).map termAbs
  let cp := min 65535 (cp + ps.length)
  let cn := min 65535 (cn + ns.length)
  if ts.any Option.isNone then (accNan .f32, accNan .f32, cp, cn, flInvalid)
  else
    let p := accumulate .f32 P ps
    let n := accumulate .f32 N ns
    (p.1, n.1, cp, cn, orFlags p.2 n.2)

/-! ## Planes (R254, Table 11-1) -/

/-- The key of element (i, j) of a slot. -/
def elemKey (i j : Nat) : Nat := 256 * i + j
/-- The element positions of a slot. -/
def slotElems : List (Nat × Nat) := (List.range 64).flatMap fun i => (List.range 64).map fun j => (i, j)

/-- One chunk of `MMA` or `MDIST` on one slot: `A` by row, `B` by column (R266, R268). -/
def Plane.chunk (p : Plane) (f : Fmt) (mode : TMode) (dist : Bool) (A B : List Lane8) (pz : Bool) : Plane × Nat :=
  let r := slotElems.foldl (fun (x : Plane × Nat) e =>
    let k := elemKey e.1 e.2
    let ts := terms f dist ((A[e.1]?).getD ⟨0, 0⟩) ((B[e.2]?).getD ⟨0, 0⟩)
    match mode with
    | .welt =>
      let w := weltStep (FMap.getD p.x k 0).toNat (FMap.getD p.n k 0).toNat (FMap.getD p.cp k 0) (FMap.getD p.cn k 0) ts
      ({ x.1 with x := FMap.put x.1.x k (BitVec.ofNat 64 w.1) 0, n := FMap.put x.1.n k (BitVec.ofNat 64 w.2.1) 0
                  cp := FMap.put x.1.cp k w.2.2.1 0, cn := FMap.put x.1.cn k w.2.2.2.1 0 }, orFlags x.2 w.2.2.2.2)
    | .f64 => let w := accumulate .f64 (FMap.getD p.x k 0).toNat ts; ({ x.1 with x := FMap.put x.1.x k (BitVec.ofNat 64 w.1) 0 }, orFlags x.2 w.2)
    | .f32 => let w := accumulate .f32 (FMap.getD p.x k 0).toNat ts; ({ x.1 with x := FMap.put x.1.x k (BitVec.ofNat 64 w.1) 0 }, orFlags x.2 w.2))
    (p, 0)
  ({ r.1 with pz := r.1.pz || pz }, r.2)

/-- The columns of a tile (R256). -/
def Tile.cols (t : Tile) : Nat := if t.pair then 128 else 64
/-- The slot that holds a column of a tile whose leader is core `u`: the core and the slot. -/
def Tile.home (t : Tile) (u j : Nat) : Nat × Nat := if j < 64 then (u, t.slot) else (u + 1, t.slot2)
/-- A tile slot of a core. -/
def State.plane (s : State) (u k : Nat) : Plane := FMap.getD (s.core u).slots k {}
/-- Write a tile slot in use. -/
def State.setPlane (s : State) (u k : Nat) (p : Plane) : State := s.onCore u fun c => { c with slots := FMap.insert c.slots k p }
/-- The slots of a tile. -/
def Tile.homes (t : Tile) (u : Nat) : List (Nat × Nat) := if t.pair then [(u, t.slot), (u + 1, t.slot2)] else [(u, t.slot)]
/-- The tile's poison flag (R255). -/
def State.tilePz (s : State) (t : Tile) (u : Nat) : Bool := (t.homes u).any fun h => (s.plane h.1 h.2).pz
/-- Element (i, j) of a tile: its first plane, plane N, and the counts. -/
def State.tileElem (s : State) (t : Tile) (u i j : Nat) : Nat × Nat × Nat × Nat :=
  let h := t.home u j
  let p := s.plane h.1 h.2
  let k := elemKey i (j % 64)
  ((FMap.getD p.x k 0).toNat, (FMap.getD p.n k 0).toNat, FMap.getD p.cp k 0, FMap.getD p.cn k 0)

/-! ## Drains (R270, R271) -/

/-- The tests of `.gate` (R271) from an agreement register (Table 11-5): the count tests. -/
def countTests (ag : W64) (cp cn : Nat) : Bool := bf ag 32 16 ≤ cp + cn && (!bt ag 48 || 2 * min cp cn ≤ max cp cn)

/-- |P − N| ≥ T·(P + N), exactly. -/
def magTest (ag : W64) (diff sum den : Nat) : Bool :=
  match decElem .f32 (bf ag 0 32) with
  | .fin _ n d => sum * n ≤ diff * d || den = 0
  | _ => false

/-- The largest finite value of a format, as a value. -/
def largest (f : Fmt) : XV :=
  match fpar (elemOf f), ipar (elemOf f), lpar (elemOf f) with
  | some p, _, _ => let m := maxFloat p; dyadic false m.1 m.2
  | _, some (_, hi), _ => ofInt hi
  | _, _, some (q, fb) => let t := logVal q (2 ^ (fb - 1) - 1); .fin false t.1 t.2
  | _, _, _ => .fin false 0 1

/-- A format has infinities (Table 9-6). -/
def hasInf (f : Fmt) : Bool := match fpar f with | some p => p.sp = .ieee | none => false

/-- A rounding whose overflow counts as ratio-overflow (R271). -/
def ratioOf (dst : Fmt) (c : Deliver) (x : XV) : Nat × Nat :=
  let r := deliver dst c x
  if r.2 &&& flOver ≠ 0 then ((deliver dst { c with sat := true } (largest dst)).1, flRatio + flInexact) else r

/-- What a drain writes for one welt element (Table 11-6). -/
def drainWelt (m : Mods.Drn) (ag : W64) (e : Nat × Nat × Nat × Nat) : List (Nat × Nat) :=
  let c : Deliver := { rnd := { rm := m.rm }, sat := m.sat }
  let out (x : XV) : Nat × Nat := deliver m.dst c x
  let P := decElem .f32 e.1
  let N := decElem .f32 e.2.1
  let zero : XV := .fin false 0 1
  let nan : XV := .nan false
  let bad : Nat × Nat := let r := out nan; (r.1, orFlags r.2 flInvalid)
  let both : List (Nat × Nat) := [out P, out N]
  if P.bad || N.bad then (match m.mode with | .pn => both | _ => [out nan])
  else match P, N with
  | .inf _, .inf _ => (match m.mode with | .pn => both | _ => [bad])
  | .inf _, _ =>
    (match m.mode with
     | .pn => both | .diff => [out (.inf false)] | .ratio => [out (.fin false 1 1)]
     | .gate => [out (if countTests ag e.2.2.1 e.2.2.2 then .inf false else zero)])
  | _, .inf _ =>
    (match m.mode with
     | .pn => both | .diff => [out (.inf true)] | .ratio => [out (.fin false 1 1)]
     | .gate => [out (if countTests ag e.2.2.1 e.2.2.2 then .inf true else zero)])
  | .fin _ n d, .fin _ k l =>
    let w := max d l
    let p := n * (w / d)
    let q := k * (w / l)
    (match m.mode with
     | .pn => both
     | .diff => if p = q then [out (if p = 0 then zero else .fin (m.rm = .rd) 0 1)] else [out (.fin (p < q) (max p q - min p q) w)]
     | .ratio =>
       if p = 0 && q = 0 then [out zero]
       else if p = q then (if hasInf m.dst then [out (.inf false)] else [((deliver m.dst { c with sat := true } (largest m.dst)).1, flRatio)])
       else [ratioOf m.dst c (.fin false (p + q) (max p q - min p q))]
     | .gate =>
       if p ≠ q && magTest ag (max p q - min p q) (p + q) w && countTests ag e.2.2.1 e.2.2.2 then [out (.fin (p < q) (max p q - min p q) w)]
       else [out zero])
  | _, _ => [out zero]

/-- What a drain writes for one element: one value for each plane (R270). -/
def drainElem (m : Mods.Drn) (mode : TMode) (ag : W64) (e : Nat × Nat × Nat × Nat) : List (Nat × Nat) :=
  match mode with
  | .welt => drainWelt m ag e
  | .f64 => [deliver m.dst { rnd := { rm := m.rm }, sat := m.sat } (decElem .f64 e.1)]
  | .f32 => [deliver m.dst { rnd := { rm := m.rm }, sat := m.sat } (decElem .f32 e.1)]

/-- Elements packed into a row (R204). -/
def packRow (bits : Nat) (xs : List Nat) : List Byte :=
  leBytes (xs.length * bits / 8) ((xs.mapIdx fun i x => x % 2 ^ bits * 2 ^ (bits * i)).foldl (· + ·) 0)

/-- The rows that a drain writes: plane, row, bytes; and the flags. -/
def State.drainRows (s : State) (m : Mods.Drn) (t : Tile) (u : Nat) (ag : W64) : List (Nat × Nat × List Byte) × Nat :=
  let rows := (List.range 64).map fun i => (i, (List.range t.cols).map fun j => drainElem m t.mode ag (s.tileElem t u i j))
  let planes := if m.mode = .pn then 2 else 1
  ((List.range planes).flatMap fun k => rows.map fun r => (k, r.1, packRow (elemBits m.dst) (r.2.map fun x => ((x[k]?).getD (0, 0)).1)),
   rows.foldl (fun fl r => r.2.foldl (fun fl x => x.foldl (fun fl y => orFlags fl y.2) fl) fl) 0)

/-- The planes of a tile image (Table 11-8). -/
def imagePlanes : TMode → Nat | .welt => 3 | _ => 1
/-- The bytes of an image row. -/
def imageRow (m : TMode) (cols : Nat) : Nat := if m = .f64 then 8 * cols else 4 * cols

/-- The rows of a tile image: plane, row, bytes (R275). -/
def State.imageRows (s : State) (t : Tile) (u : Nat) : List (Nat × Nat × List Byte) :=
  (List.range (imagePlanes t.mode)).flatMap fun k => (List.range 64).map fun i =>
    (k, i, packRow (if t.mode = .f64 then 64 else 32) ((List.range t.cols).map fun j =>
      let e := s.tileElem t u i j
      match k with | 0 => e.1 | 1 => e.2.1 | _ => e.2.2.1 + e.2.2.2 * 65536))

/-! ## Rankings (R273) -/

/-- A value as it is ranked: NaNs last, −0 below +0. `a` stands before `b`; equals keep the lower column first. -/
def rankBefore (mx : Bool) (f : Fmt) (a b : Nat × Nat) : Bool :=
  let x := decElem f a.2
  let y := decElem f b.2
  if x.bad || y.bad then (if x.bad = y.bad then a.1 < b.1 else y.bad)
  else
    let o := match cmpX x y with
      | .eq => (match x, y with
        | .fin s 0 _, .fin t 0 _ => if s = t then Ordering.eq else if s then .lt else .gt
        | _, _ => .eq)
      | o => o
    match o with | .lt => !mx | .gt => mx | .eq => a.1 < b.1

/-- The best `k` of some columns: column and value. -/
def topK (mx : Bool) (f : Fmt) : Nat → List (Nat × Nat) → List (Nat × Nat)
  | 0, _ => []
  | n + 1, xs =>
    match xs with
    | [] => []
    | x :: rest =>
      let b := rest.foldl (fun m y => if rankBefore mx f y m then y else m) x
      b :: topK mx f n (xs.filter fun y => y.1 ≠ b.1)

/-- The ranks of a tile's row: column and FP32 value, and the flags of the rounding. -/
def State.rankRow (s : State) (t : Tile) (u i k : Nat) (mx : Bool) : List (Nat × Nat) × Nat :=
  let f : Fmt := if t.mode = .f64 then .f64 else .f32
  let xs := topK mx f k ((List.range t.cols).map fun j => (j, (s.tileElem t u i j).1))
  let vs := xs.map fun x => if f = .f64 then deliver .f32 {} (decElem .f64 x.2) else (x.2, 0)
  ((xs.zip vs).map fun x => (x.1.1, x.2.1), vs.foldl (fun fl v => orFlags fl v.2) 0)

/-- Byte `j` of a row's ranks: the column of rank `j`, or 0xFF (R273). -/
def rankByte (xs : List (Nat × Nat)) (j : Nat) : Nat := match xs[j]? with | some x => x.1 | none => 255

/-! ## The pipes (R260, R277) -/

/-- A read of an engine operation: the SRAM byte of local address 0 where it is a local window, the pointer, how many bytes. -/
structure Pipe where
  loc : Option Nat
  ptr : W64
  len : Nat
  deriving DecidableEq, Repr

/-- A read at a distance from one of an operation's pointers. -/
def pipeAt (loc : Option Nat) (base : W64) (d : Int) (n : Nat) : Pipe := ⟨loc, ptrBy base d, n⟩

/-- The engine waits before it reads: an earlier reduction, atomic, replica store or logged write of its group overlaps the bytes, whose value no buffer or
queue can give (R260). (DEDUCED, log 120) -/
def State.pipeHeld (s : State) (e : EOp) (r : Pipe) : Bool :=
  s.wrs.any fun x => x.2.loc.isNone && x.2.gids.contains e.gid && x.2.data.meets r.ptr r.len && (!x.2.data.isStore || x.2.rep || x.2.place = WPlace.log)

/-- What the block's store buffer and the core's queue hold of a read's bytes; none where some of them are tentative (R260). -/
def State.pipeGot (s : State) (e : EOp) (r : Pipe) : Option (List (Option Byte)) :=
  let xs := (List.range r.len).map fun i => s.forward e.blk e.unit e.ctx (pPlus r.ptr i)
  if xs.any fun x => match x with | some (_, _, some _) => true | _ => false then none else some (xs.map fun x => x.map fun y => y.1)

/-- The request of an operation under a part number. -/
def State.eopReq (s : State) (k part : Nat) : Option (Nat × Req) := List.find? (fun x : Nat × Req => x.2.client = Client.eop k part) s.reqs
/-- The requests under way for an operation. -/
def State.eopReqs (s : State) (k : Nat) : List (Nat × Req) := s.reqs.filter fun x => match x.2.client with | .eop j _ => decide (j = k) | _ => false
/-- Drop the requests of an operation. -/
def State.dropEop (s : State) (k : Nat) : State := (s.eopReqs k).foldl (fun s x => s.dropReq x.1) s

/-- The bytes of an operation's read number `i`, with their poison, once they have come: from SRAM at once, else by its request. -/
def State.pipeBytes (s : State) (k : Nat) (e : EOp) (i : Nat) (r : Pipe) : Option (List (Byte × Bool)) :=
  match r.loc with
  | some a =>
    let x := localRead e.blk s (a + bf r.ptr 0 32) r.len
    if x.2.2.1.isSome then none else some (x.1.mapIdx fun j b => (b, s.poisoned (a + bf r.ptr 0 32 + j)))
  | none => if r.len = 0 then some [] else (s.eopReq k i).bind fun x => s.brought x.2.fam

/-- Make the request of an operation's read number `i`, where it has none yet: bytes that a buffer or queue holds are taken now (R260). -/
def State.pipeAsk (s : State) (k : Nat) (e : EOp) (i : Nat) (r : Pipe) : State :=
  if r.loc.isSome || r.len = 0 || (s.eopReq k i).isSome || s.pipeHeld e r then s
  else match s.pipeGot e r with
  | none => s
  | some got =>
    let q := { engineReq (.eop k i) .read e.org r.ptr r.len .load e.unit with got := got }
    s.newReq (if got.all Option.isSome then { q with stage := .ready (.remote 0), served := true, result := clean (got.map fun b => b.getD 0) } else q)

/-- What an operation's reads have come to: all their bytes; the record of a refusal that no service mends; or still on their way. -/
inductive Pipes
  | all (bs : List (List (Byte × Bool)))
  | failed (rec_ : BitVec 256)
  | wait (s : State)
  deriving DecidableEq, Repr

/-- An operation's reads: the requests that are missing are made, and once every one has come their bytes are used together (R260, R277). -/
def State.pipes (s : State) (k : Nat) (e : EOp) (rs : List Pipe) : Pipes :=
  match (s.eopReqs k).findSome? fun x => s.famFailed x.2.fam with
  | some r => .failed r
  | none =>
    let xs := rs.mapIdx fun i r => s.pipeBytes k e i r
    if xs.all Option.isSome then .all (xs.map fun x => x.getD [])
    else .wait (rs.zipIdx.foldl (fun s x => s.pipeAsk k e x.2 x.1) s)

/-- The value of some bytes, poisoned ones read as zero (R278). -/
def pipeVal (bs : List (Byte × Bool)) : Nat := leNat (bs.map fun b => if b.2 then 0 else b.1)

end Sys2Proof.Machine
end

