-- ==== Sys2Proof/Machine/Matrix.lean ====
section
/-! DEFINITION. The matrix instructions, each of which acts once for the group (R258), and the steps of the engine (R254 to R280). -/

namespace Sys2Proof.Machine

open Sys2Proof Sys2Proof.Decode

/-! ## Issue -/

/-- The trap "tile mode". -/
def tileTrap : Stop := .trap { cause := .tileMode }

/-- The number of a tile or agreement register. -/
def tileNo : Opd → Nat | .tile n => n.val | .ag n => n.val | _ => 0
/-- A tile name's binding. -/
def Group.tileAt (g : Group) (n : Nat) : Option Tile := FMap.find? g.tiles n

/-- Uniform registers `n` to `n + k − 1` behind an operand, as sources in its field. -/
def moreReads (g : Group) (field : Nat) (x : Operand) (k : Nat) : List Read :=
  match x.x with | .w n => (uregReads g field (n.val + 1) (k - 1)).map fun r => { r with ea := x.ea } | _ => []

/-- The sources of a matrix instruction whose operand in `field` is the first of `k` uniform registers. -/
def tileReads (c : Iss) (i : Instr) (o : Args) (field k : Nat) : List Read :=
  let ts := acting c o.hdr
  let more := if ts.isEmpty || field = 0 then [] else moreReads c.g field (if field = 2 then o.a else o.b) k
  let rs := reads c i o ts
  rs.filter (fun r => r.field ≤ 2) ++ (if field = 2 then more else []) ++ rs.filter (fun r => r.field = 3) ++ (if field = 3 then more else [])

/-- The checks of a matrix instruction, whose operand in `field` is the first of `k` uniform registers. -/
def tileStart (c : Iss) (i : Instr) (o : Args) (field k : Nat) : Except Stop (List Nat) :=
  let ts := acting c o.hdr
  match runChecks c o.hdr (tileReads c i o field k) (dstEmpty c ts (spec i).d.width o.d.x) with
  | some x => .error x
  | none => .ok ts

/-- Uniform register `k` above an operand. -/
def wAbove (c : Iss) (x : Opd) (k : Nat) : W64 := match x with | .w n => (c.g.ureg (n.val + k)).v | _ => 0

/-- The group's engine operations that have not completed (R259). -/
def State.openOps (s : State) (gid : Nat) : Nat := (s.eops.filter fun x => x.2.gid = gid && !x.2.done).length
/-- A limit of R259 holds an engine operation at issue. -/
def Iss.opLimit (c : Iss) : Bool := 16 ≤ c.s.openOps c.gid || counterFull c.g.mma

/-- The failed operation that has not been reported yet, in a group. -/
def State.failedOp (s : State) (gid : Nat) : Option (Nat × EOp) := List.find? (fun x : Nat × EOp => x.2.gid = gid && x.2.failed.isSome) s.eops

/-- Put an engine operation in its array's queue (R259): the counter, the open batch; one that follows a failure is cancelled with it (R277). -/
def Iss.enqueue (c : Iss) (s : State) (op : MOp) (tile : Nat) (bind : Tile) (locs : List (Option Nat)) (ptr : W64) : State :=
  let bad := s.failedOp c.gid
  let e : EOp :=
    { gid := c.gid, num := c.g.mmaN, unit := unitOfGid c.gid, arr := s.nextId, ctx := c.b.ctx, blk := c.g.blk, op := op, tile := tile, bind := bind, locs := locs
      pc := c.g.pc, org := originOf c 0 ptr 2, cancelled := bad.isSome }
  let s := { s with eops := FMap.insert s.eops s.nextId e, nextId := s.nextId + 1 }
  let s := s.onGrp c.gid fun g => { g with mma := g.mma + 1, mmaN := g.mmaN + 1, openB := g.openB ++ [s.nextId - 1] }
  match bad with
  | some (k, x) => { s with eops := FMap.insert s.eops k { x with ncan := x.ncan + 1 } }
  | none => s

/-- The bounding check of an engine operand of rows of `rb` bytes, `st` apart, and planes `ps` apart (R163, R265): its SRAM base, its first
byte's offset and its length. -/
def opRange (c : Iss) (p : W64) (k : AKind) (rb rows st planes ps : Nat) : Except Stop (Option Nat × Int × Int) :=
  let r := copyRange (if pForm p = 2 then bf p 0 32 else pOff p) (rb, rows, planes) ((st : Int), (ps : Int))
  match copyPtr c p k r (rb = 0) with
  | .error e => .error e
  | .ok l => .ok (l, r.1, r.2)

/-- The missed-promise check of a range (R265). -/
def opPromise (c : Iss) (p : W64) (r : Int × Int) : Except Stop Unit :=
  if r.2 < r.1 then .ok () else
  latePromise c 0 (if pForm p = 2 then setBf p 0 32 r.1.toNat else pAt p r.1.toNat) (r.2 - r.1 + 1).toNat

/-- The bytes of a row of K elements (R263). -/
def rowBytes (f : Fmt) (k : Nat) : Nat := k * elemBits f / 8

/-- The tile mode that a multiplication needs (R265). -/
def mmaMode (m : Mods.Mma) : TMode := if m.fmt = .f64 then .f64 else if m.welt then .welt else .f32

/-- MMA and MDIST (R265): the checks, then the queue. -/
def mulIssue (c : Iss) (i : Instr) (o : Args) (m : Mods.Mma) (dist : Bool) : Except Stop State :=
  match tileStart c i o 2 (if isBlock m.fmt then 5 else 3) with
  | .error x => .error x
  | .ok ts =>
    if ts.isEmpty then .ok c.s else
    match c.g.tileAt (tileNo o.d.x) with
    | none => .error tileTrap
    | some t =>
      let k := (srcs c i o 0).2.2.v % 2 ^ 32
      let d := (List.range 5).map fun j => wAbove c o.a.x j
      let w (j : Nat) : W64 := (d[j]?).getD 0
      if t.pair ≠ m.pair || t.mode ≠ mmaMode m then .error tileTrap
      else if k % chunkOf m.fmt ≠ 0 || (isBlock m.fmt && k % blockSize m.fmt ≠ 0) then .error (.trap { cause := .matrixShape })
      else
        let rb := rowBytes m.fmt k
        let sb := k / blockSize m.fmt
        let blk := isBlock m.fmt
        match opRange c (w 0) .read rb 64 (bf (w 2) 0 32) 1 0, opRange c (w 1) .read rb t.cols (bf (w 2) 32 32) 1 0,
          (if blk then opRange c (w 3) .read sb 64 sb 1 0 else .ok (none, 0, -1)), (if blk then opRange c (w 4) .read sb t.cols sb 1 0 else .ok (none, 0, -1)) with
        | .ok a, .ok b, .ok x, .ok y =>
          (match firstStop (fun z : W64 × Int × Int => opPromise c z.1 z.2) [(w 0, a.2), (w 1, b.2), (w 3, x.2), (w 4, y.2)] with
           | .error e => .error e
           | .ok _ =>
             if c.opLimit || c.bucketsFull || c.s.acquiring c.gid then .error (.wait c.s)
             else .ok (c.enqueue c.s (if dist then .dist m k d else .mma m k d) (tileNo o.d.x) t [a.1, b.1, x.1, y.1] (w 0)))
        | .error e, _, _, _ => .error e
        | _, .error e, _, _ => .error e
        | _, _, .error e, _ => .error e
        | _, _, _, .error e => .error e

/-- MMA (R266). -/
def execMma (m : Mods.Mma) (o : Args) (s : State) : Host.Outcome State Fault Refusal :=
  issue o s false false fun c => mulIssue c (.mma m o) o m false
/-- MDIST (R272). -/
def execMdist (m : Mods.Mma) (o : Args) (s : State) : Host.Outcome State Fault Refusal :=
  issue o s false false fun c => mulIssue c (.mdist m o) o m true

/-- What an engine write waits for: outside `.lane` and `.core` the block's commit, in a hang wait (R261, R337); a limit; an acquire. -/
def Iss.writeHeld (c : Iss) (p : W64) : Option Stop :=
  if !privateSpace p && c.b.rl then some (.hang c.s 4)
  else if c.opLimit || c.bucketsFull || c.s.acquiring c.gid then some (.wait c.s) else none

/-- MTOPK, register form (R273): its registers are EMPTY from issue. -/
def execMtopkReg (m : Mods.TopkReg) (o : Args) (s : State) : Host.Outcome State Fault Refusal :=
  issue o s false false fun c =>
    let n := (m.k1.toNat + 4) / 4 + (if m.val then m.k1.toNat + 1 else 0)
    let d := match o.d.x with | .t r => r.val | _ => 0
    let ts := acting c o.hdr
    let busy := ts.any fun t => (List.range n).any fun j => (c.g.treg t (d + j)).st = .empty
    match runChecks c o.hdr [] busy with
    | some x => .error x
    | none =>
      if ts.isEmpty then .ok c.s else
      match c.g.tileAt (tileNo o.a.x) with
      | none => .error tileTrap
      | some t =>
        if t.mode = .welt then .error tileTrap
        else if c.opLimit then .error (.wait c.s)
        else
          let s := c.enqueue c.s (.topkReg m d ts) (tileNo o.a.x) t [] 0
          .ok (s.onGrp c.gid fun g => ts.foldl (fun g t => (List.range n).foldl (fun g j => g.setT t (d + j) { g.treg t (d + j) with st := .empty }) g) g)

/-- MTOPK, memory form (R273). -/
def execMtopkMem (m : Mods.TopkMem) (o : Args) (s : State) : Host.Outcome State Fault Refusal :=
  issue o s false false fun c =>
    match tileStart c (.mtopkMem m o) o 3 2 with
    | .error x => .error x
    | .ok ts =>
      if ts.isEmpty then .ok c.s else
      match c.g.tileAt (tileNo o.a.x) with
      | none => .error tileTrap
      | some t =>
        if t.mode = .welt then .error tileTrap else
        let p := wAbove c o.b.x 0
        let rs := wAbove c o.b.x 1
        match opRange c p .write (16 + (if m.val then 4 * (m.k1.toNat + 1) else 0)) 64 (bf rs 0 32) 1 0 with
        | .error e => .error e
        | .ok r =>
          match opPromise c p r.2 with
          | .error e => .error e
          | .ok _ => match c.writeHeld p with | some x => .error x | none => .ok (c.enqueue c.s (.topkMem m p rs) (tileNo o.a.x) t [r.1] p)

/-- The lowest free tile slot of a core (R254). -/
def State.freeSlot (s : State) (u : Nat) : Option Nat := (List.range 8).find? fun k => (FMap.find? (s.core u).slots k).isNone

/-- Bind a name to one slot if it is unbound (R274, R275); none where no slot is free. -/
def Iss.bindOne (c : Iss) (n : Nat) (mode : TMode) : Option (State × Tile) :=
  match c.g.tileAt n with
  | some t => let t := { t with mode := mode }; some (c.s.onGrp c.gid (fun g => { g with tiles := FMap.insert g.tiles n t }), t)
  | none =>
    match c.s.freeSlot (unitOfGid c.gid) with
    | none => none
    | some k =>
      let t : Tile := ⟨mode, false, k, 0⟩
      some ((c.s.setPlane (unitOfGid c.gid) k { own := c.gid }).onGrp c.gid (fun g => { g with tiles := FMap.insert g.tiles n t }), t)

/-- MZERO (R274). -/
def execMzero (m : TMode) (o : Args) (s : State) : Host.Outcome State Fault Refusal :=
  issue o s false false fun c =>
    match start c (.mzero m o) o with
    | .error x => .error x
    | .ok ts =>
      if ts.isEmpty then .ok c.s
      else if c.opLimit then .error (.wait c.s)
      else match c.bindOne (tileNo o.d.x) m with
        | none => .error (.wait c.s)
        | some (s, t) => .ok (c.enqueue s (.zero m) (tileNo o.d.x) t [] 0)

/-- The columns that MLDT would load into a name. -/
def Iss.loadCols (c : Iss) (n : Nat) : Nat := match c.g.tileAt n with | some t => t.cols | none => 64

/-- MLDT (R275). -/
def execMldt (m : TMode) (o : Args) (s : State) : Host.Outcome State Fault Refusal :=
  issue o s false false fun c =>
    match tileStart c (.mldt m o) o 2 2 with
    | .error x => .error x
    | .ok ts =>
      if ts.isEmpty then .ok c.s else
      let p := wAbove c o.a.x 0
      let rs := wAbove c o.a.x 1
      match opRange c p .read (imageRow m (c.loadCols (tileNo o.d.x))) 64 (bf rs 0 32) (imagePlanes m) (bf rs 32 32) with
      | .error e => .error e
      | .ok r =>
        match opPromise c p r.2 with
        | .error e => .error e
        | .ok _ =>
          if c.opLimit || c.bucketsFull || c.s.acquiring c.gid then .error (.wait c.s)
          else match c.bindOne (tileNo o.d.x) m with
            | none => .error (.wait c.s)
            | some (s, t) => .ok (c.enqueue s (.ldt m p rs) (tileNo o.d.x) t [r.1] p)

/-- MSTT (R275). -/
def execMstt (o : Args) (s : State) : Host.Outcome State Fault Refusal :=
  issue o s false false fun c =>
    match tileStart c (.mstt o) o 2 2 with
    | .error x => .error x
    | .ok ts =>
      if ts.isEmpty then .ok c.s else
      match c.g.tileAt (tileNo o.d.x) with
      | none => .error tileTrap
      | some t =>
        let p := wAbove c o.a.x 0
        let rs := wAbove c o.a.x 1
        match opRange c p .write (imageRow t.mode t.cols) 64 (bf rs 0 32) (imagePlanes t.mode) (bf rs 32 32) with
        | .error e => .error e
        | .ok r =>
          match opPromise c p r.2 with
          | .error e => .error e
          | .ok _ => match c.writeHeld p with | some x => .error x | none => .ok (c.enqueue c.s (.stt p rs) (tileNo o.d.x) t [r.1] p)

/-- MDRN (R270): `.gate` reads its agreement register at issue. -/
def execMdrn (m : Mods.Drn) (o : Args) (s : State) : Host.Outcome State Fault Refusal :=
  issue o s false false fun c =>
    match tileStart c (.mdrn m o) o 2 2 with
    | .error x => .error x
    | .ok ts =>
      if ts.isEmpty then .ok c.s else
      match c.g.tileAt (tileNo o.d.x) with
      | none => .error tileTrap
      | some t =>
        if m.mode ≠ .diff && t.mode ≠ .welt then .error tileTrap else
        let p := wAbove c o.a.x 0
        let rs := wAbove c o.a.x 1
        match opRange c p .write (t.cols * elemBits m.dst / 8) 64 (bf rs 0 32) (if m.mode = .pn then 2 else 1) (bf rs 32 32) with
        | .error e => .error e
        | .ok r =>
          match opPromise c p r.2 with
          | .error e => .error e
          | .ok _ =>
            match c.writeHeld p with
            | some x => .error x
            | none => .ok (c.enqueue c.s (.drn m p rs (FMap.getD c.g.ag (tileNo o.b.x) 0)) (tileNo o.d.x) t [r.1] p)

/-- A tile name has an operation whose tile phase has not ended. -/
def State.tileBusy (s : State) (gid u : Nat) (t : Tile) : Bool := s.eops.any fun e => e.2.gid = gid && (t.homes u).any fun h => e.2.uses h.1 h.2

/-- Release the slots of a binding: free once no queued operation uses them (R259). -/
def State.releaseSlots (s : State) (u : Nat) (t : Tile) : State :=
  State.sweepSlots ((t.homes u).foldl (fun s h => s.onCore h.1 fun c => { c with slots := FMap.modify c.slots h.2 fun p => { p with rel := true } }) s)

/-- MPAIR (R274): the old slots are released first, then a pair tile is bound on both cores of the pair. -/
def execMpair (m : TMode) (o : Args) (s : State) : Host.Outcome State Fault Refusal :=
  issue o s false false fun c =>
    match start c (.mpair m o) o with
    | .error x => .error x
    | .ok ts =>
      if ts.isEmpty then .ok c.s else
      let u := unitOfGid c.gid
      let n := tileNo o.d.x
      if u % 2 = 1 then .error (.trap { cause := .pair })
      else if c.opLimit then .error (.wait c.s)
      else
        let s := match c.g.tileAt n with
          | some t => (c.s.releaseSlots u t).onGrp c.gid fun g => { g with tiles := FMap.erase g.tiles n }
          | none => c.s
        match s.freeSlot u, s.freeSlot (u + 1) with
        | some k, some j =>
          let t : Tile := ⟨m, true, k, j⟩
          let s := ((s.setPlane u k { own := c.gid }).setPlane (u + 1) j { own := c.gid }).onGrp c.gid fun g => { g with tiles := FMap.insert g.tiles n t }
          .ok (c.enqueue s (.pair m) n t [] 0)
        | _, _ => .error (.wait s)

/-- MFREE (R274): `all` releases every bound name. -/
def execMfree (all : Bool) (o : Args) (s : State) : Host.Outcome State Fault Refusal :=
  issue o s false false fun c =>
    match start c (.mfree all o) o with
    | .error x => .error x
    | .ok ts =>
      if ts.isEmpty then .ok c.s else
      let gone := c.g.tiles.filter fun x => all || x.1 = tileNo o.d.x
      let s := gone.foldl (fun s x => s.releaseSlots (unitOfGid c.gid) x.2) c.s
      .ok (s.onGrp c.gid fun g => { g with tiles := FMap.keep g.tiles fun k _ => !(all || k = tileNo o.d.x) })

/-- The value that MAGR holds (R269): T brought into [0, 1], reserved bits zero; and whether T was a NaN. (DEDUCED, log 49) -/
def agValue (a : Nat) : W64 × Nat :=
  let t := a % 2 ^ 32
  let hi := a / 2 ^ 32 % 2 ^ 17 * 2 ^ 32
  let one := 0x3F800000
  match decElem .f32 t with
  | .fin s n d => (BitVec.ofNat 64 (hi + if s || n = 0 then 0 else if d < n then one else t), 0)
  | .inf s => (BitVec.ofNat 64 (hi + if s then 0 else one), 0)
  | _ => (BitVec.ofNat 64 (hi + one), flInvalid)

/-- MAGR (R269). (DEDUCED, log 49) -/
def execMagr (o : Args) (s : State) : Host.Outcome State Fault Refusal :=
  issue o s false false fun c =>
    match start c (.magr o) o with
    | .error x => .error x
    | .ok ts =>
      if ts.isEmpty then .ok c.s else
      let v := agValue (srcs c (.magr o) o 0).2.1.v
      .ok (c.s.setGrp c.gid ({ c.g with ag := FMap.put c.g.ag (tileNo o.d.x) v.1 0 }.flag v.2))

/-- MAGR.get (R269). (DEDUCED, log 49) -/
def execMagrGet (o : Args) (s : State) : Host.Outcome State Fault Refusal :=
  issue o s false false fun c =>
    match start c (.magrGet o) o with
    | .error x => .error x
    | .ok ts =>
      if ts.isEmpty then .ok c.s else .ok (c.s.setGrp c.gid (writeOp c.g 0 64 o.d.x { v := (FMap.getD c.g.ag (tileNo o.a.x) 0).toNat }))

/-- MPROG (R276). -/
def execMprog (o : Args) (s : State) : Host.Outcome State Fault Refusal :=
  issue o s false false fun c =>
    match start c (.mprog o) o with
    | .error x => .error x
    | .ok ts =>
      if ts.isEmpty then .ok c.s
      else if c.s.openOps c.gid ≠ 0 then .error (.wait c.s)
      else .ok (c.s.setGrp c.gid { c.g with prog := BitVec.ofNat 32 (srcs c (.mprog o) o 0).2.1.v })

/-- An operation of a batch has not completed. (DEDUCED, log 48) -/
def State.incomplete (s : State) (ids : List Nat) : Bool := ids.any fun k => match FMap.find? s.eops k with | some e => !e.done | none => false

/-- MBATCH (R262). -/
def execMbatch (o : Args) (s : State) : Host.Outcome State Fault Refusal :=
  issue o s false false fun c =>
    match start c (.mbatch o) o with
    | .error x => .error x
    | .ok ts =>
      if ts.isEmpty then .ok c.s
      else if 16 ≤ (c.g.closed.filter fun b => c.s.incomplete b.2).length then .error (.wait c.s)
      else
        let n := if 65535 ≤ c.g.batch then 1 else c.g.batch + 1
        let g := { c.g with
          batch := n, openB := []
          closed := (c.g.closed.filter fun b => b.1 ≠ n && b.2.any fun k => (FMap.find? c.s.eops k).isSome) ++ [(n, c.g.openB)] }
        .ok (c.s.setGrp c.gid (writeOp g 0 32 o.d.x { v := n }))

/-- The trap "matrix failed" for a failed operation, which is then reported (R277). (DEDUCED, log 48) -/
def matrixFailed (e : EOp) : Trap :=
  { cause := .matrixFailed, aux0 := BitVec.ofNat 32 e.ncan, aux1 := BitVec.ofNat 64 (e.prog.toNat + e.pc.toNat * 2 ^ 32), frec := e.failed.getD 0 }

/-- A wait has met a failed operation: the trap, with the operation reported. (DEDUCED, log 48) -/
def State.reportOp (s : State) (gid k : Nat) (e : EOp) : State := ({ s with eops := FMap.erase s.eops k }).takeTrap gid (matrixFailed e)

/-- MWAIT (R262): it waits for every operation of a closed batch, before a save and after its restore (R402), and meets a failed one. -/
def execMwait (o : Args) (s : State) : Host.Outcome State Fault Refusal :=
  issueOr o s false false fun c =>
    match start c (.mwait o) o with
    | .error x => .error x
    | .ok ts =>
      if ts.isEmpty then .ok (.ok c.s) else
      match c.g.closed.find? fun b => b.1 = (srcs c (.mwait o) o 0).2.1.v with
      | none => .ok (.ok c.s)
      | some b =>
        match List.find? (fun x : Nat × EOp => b.2.contains x.1 && x.2.failed.isSome) c.s.eops with
        | some (k, e) => if e.done then .ok (.error (c.s.reportOp c.gid k e)) else .error (.wait c.s)
        | none => if c.s.incomplete b.2 then .error (.wait c.s) else .ok (.ok ((c.s.covered c.gid fun x => x.mma && b.2.contains x.key).onGrp c.gid fun g => { g with closed := g.closed.filter fun x => x.1 ≠ b.1 }))

/-! ## The engine's steps -/

/-- The arrays an operation occupies (R259). -/
def EOp.arrays (e : EOp) : List Nat := if e.bind.pair then [e.unit, e.unit + 1] else [e.unit]

/-- An operation heads the queue of each of its arrays (R259, R280). -/
def State.heads (s : State) (k : Nat) (e : EOp) : Bool :=
  (e.unit < offCore || e.tileDone) && !s.eops.any fun x => x.1 ≠ k && x.2.arr < e.arr && !x.2.tileDone && x.2.arrays.any fun a => e.arrays.contains a

/-- A pre-emption of the block keeps an operation from beginning, and a multiplication from its next chunk (R279, R304). -/
def State.opStops (s : State) (k : Nat) (e : EOp) : Bool :=
  (match (s.blk e.blk).stop with | none | some .drain => false | _ => !isDead e.gid)
    && (s.eopReqs k).isEmpty && (!e.begun || (match e.op with | .mma .. | .dist .. => true | _ => false))

/-- Write an engine operation. -/
def State.setOp (s : State) (k : Nat) (e : EOp) : State := { s with eops := FMap.insert s.eops k e }

/-- A tile phase ends: slots that only waited for it are free. -/
def State.tilePhaseEnd (s : State) (k : Nat) (e : EOp) : State := State.sweepSlots (s.setOp k { e with tileDone := true, begun := true })

/-- An operation fails (R277): what it has asked for is dropped, and later ones of its group that have not begun are cancelled. -/
def State.opFail (s : State) (k : Nat) (e : EOp) (rec_ : BitVec 256) : State :=
  let s := s.dropEop k
  let later (j : Nat) (x : EOp) : Bool := k < j && x.gid = e.gid && !x.begun && !x.done && !x.cancelled
  let n := (s.eops.filter fun x => later x.1 x.2).length
  let s := { s with eops := FMap.mapVals s.eops fun j x => if later j x then { x with cancelled := true } else x }
  s.tilePhaseEnd k { e with failed := some rec_, ncan := e.ncan + n, prog := (s.grp e.gid).prog, writes := [] }

/-- An operation completes (R259): its flags, its batch and its counter. A failed one stays until it is reported. -/
def State.opComplete (s : State) (k : Nat) (e : EOp) : State :=
  let s := s.onGrp e.gid fun g => { g with fflags := g.fflags ||| e.flags, mma := g.mma - 1 }
  if e.failed.isSome && !isDead e.gid then s.setOp k { e with done := true } else { s with eops := FMap.erase s.eops k }

/-- The operand reads of one chunk: for each of A's rows or B's columns the element bytes, then the scale bytes (none for a format without blocks). -/
def chunkReads (f : Fmt) (K pos rows : Nat) (loc sloc : Option Nat) (p sp : W64) (st : Nat) : List Pipe :=
  (List.range rows).flatMap fun i =>
    [pipeAt loc p ((i * st + pos * elemBits f / 8 : Nat) : Int) (chunkOf f * elemBits f / 8),
     pipeAt sloc sp ((i * (K / blockSize f) + pos / blockSize f : Nat) : Int) (if isBlock f then max 1 (chunkOf f / blockSize f) else 0)]

/-- The rows or columns whose element and scale bytes stand one after the other. -/
def lanesOf (bs : List (List (Byte × Bool))) (n : Nat) : List Lane8 :=
  (List.range n).map fun i => ⟨pipeVal ((bs[2 * i]?).getD []), pipeVal ((bs[2 * i + 1]?).getD [])⟩

/-- One chunk of a multiplication (R266): the operands are read, every element of the tile takes its sum, and `%prog` advances. -/
def State.mulChunk (s : State) (k : Nat) (e : EOp) (m : Mods.Mma) (dist : Bool) (K : Nat) (d : List W64) : State :=
  let w (j : Nat) : W64 := (d[j]?).getD 0
  let l (j : Nat) : Option Nat := ((e.locs[j]?).getD none)
  let pos := (s.grp e.gid).prog.toNat
  if !e.begun && (pos % chunkOf m.fmt ≠ 0 || K < pos) then s.opFail k e 0
  else if K ≤ pos then (s.onGrp e.gid fun g => { g with prog := 0 }).tilePhaseEnd k e
  else
    let reads := chunkReads m.fmt K pos 64 (l 0) (l 2) (w 0) (w 3) (bf (w 2) 0 32) ++ chunkReads m.fmt K pos e.bind.cols (l 1) (l 3) (w 1) (w 4) (bf (w 2) 32 32)
    match s.pipes k e reads with
    | .failed r => s.opFail k { e with begun := true } r
    | .wait s => s.setOp k { e with begun := true }
    | .all bs =>
      let pz := bs.any fun r => r.any fun b => b.2
      let a := lanesOf bs 64
      let b := lanesOf (bs.drop 128) e.bind.cols
      let r := (e.bind.homes e.unit).foldl (fun (x : State × Nat × Nat) h =>
        let q := (s.plane h.1 h.2).chunk m.fmt e.bind.mode dist a ((b.drop (64 * x.2.1)).take 64) pz
        (x.1.setPlane h.1 h.2 q.1, x.2.1 + 1, orFlags x.2.2 q.2)) (s, 0, 0)
      let s := r.1.dropEop k
      let e := { e with begun := true, flags := e.flags ||| BitVec.ofNat 32 r.2.2 }
      let pos := pos + chunkOf m.fmt
      if K ≤ pos then (s.onGrp e.gid fun g => { g with prog := 0 }).tilePhaseEnd k e
      else (s.onGrp e.gid fun g => { g with prog := BitVec.ofNat 32 pos }).setOp k e

/-- MMA_CHUNK (R266): the array's operation takes its next chunk. -/
def State.mmaChunk (s : State) (k : Nat) : State :=
  match FMap.find? s.eops k with
  | none => s
  | some e =>
    if e.tileDone || e.cancelled || !s.heads k e || s.opStops k e then s else
    match e.op with
    | .mma m K d => s.mulChunk k e m false K d
    | .dist m K d => s.mulChunk k e m true K d
    | _ => s

/-- The bytes of a ranking's record (R273): 16 rank bytes, then the values. -/
def rankRecord (xs : List (Nat × Nat)) (val : Bool) : List Byte :=
  ((List.range 16).map fun j => BitVec.ofNat 8 (rankByte xs j)) ++ (if val then xs.flatMap fun x => leBytes 4 x.2 else [])

/-- Deliver a ranking to the registers of the threads that asked (R273). -/
def State.rankRegs (s : State) (e : EOp) (m : Mods.TopkReg) (d : Nat) (ts : List Nat) : State × Nat :=
  let st : RState := if s.tilePz e.bind e.unit then .pois else .full
  let k := m.k1.toNat + 1
  let n := (k + 3) / 4
  ts.foldl (fun (x : State × Nat) t =>
    let r := s.rankRow e.bind e.unit (32 * m.hi.toNat + t) k m.max
    let word (j : Nat) : Nat := (List.range 4).foldl (fun v b => v + rankByte r.1 (4 * j + b) * 256 ^ b) 0
    (x.1.onGrp e.gid fun g =>
      let g := (List.range n).foldl (fun g j => g.setT t (d + j) ⟨BitVec.ofNat 32 (word j), 31, st⟩) g
      if m.val then (r.1.mapIdx fun j y => (j, y.2)).foldl (fun g y => g.setT t (d + n + y.1) ⟨BitVec.ofNat 32 y.2, if st = .pois then 31 else 1, st⟩) g else g,
     if m.val then orFlags x.2 r.2 else x.2)) (s, 0)

/-- The writes of an operation's memory phase: pointer, SRAM base, bytes. -/
def rowWrites (p rs : W64) (loc : Option Nat) (rows : List (Nat × Nat × List Byte)) : List (W64 × Option Nat × List Byte) :=
  rows.map fun r => (ptrBy p ((r.1 * bf rs 32 32 + r.2.1 * bf rs 0 32 : Nat) : Int), loc, r.2.2)

/-- Load a tile image (R275): every row has been read. -/
def State.loadImage (s : State) (k : Nat) (e : EOp) (m : TMode) (p rs : W64) : State :=
  let loc := (e.locs.head?).getD none
  let reads := (List.range (imagePlanes m)).flatMap fun x => (List.range 64).map fun i =>
    pipeAt loc p ((x * bf rs 32 32 + i * bf rs 0 32 : Nat) : Int) (imageRow m e.bind.cols)
  match s.pipes k e reads with
  | .failed r => s.opFail k { e with begun := true } r
  | .wait s => s.setOp k { e with begun := true }
  | .all rows =>
    let pz := rows.any fun r => r.any fun b => b.2
    let w := if m = .f64 then 64 else 32
    let val (x i j : Nat) : Nat := pipeVal ((rows[64 * x + i]?).getD []) >>> (w * j) % 2 ^ w
    let s := ((e.bind.homes e.unit).mapIdx fun h y => (h, y)).foldl (fun s y =>
      let pl : Plane := slotElems.foldl (fun (q : Plane) c =>
        let key := elemKey c.1 c.2
        let j := 64 * y.1 + c.2
        let q := { q with x := FMap.put q.x key (BitVec.ofNat 64 (val 0 c.1 j)) 0 }
        if m = .welt then { q with n := FMap.put q.n key (BitVec.ofNat 64 (val 1 c.1 j)) 0, cp := FMap.put q.cp key (val 2 c.1 j % 65536) 0, cn := FMap.put q.cn key (val 2 c.1 j / 65536) 0 }
        else q) { own := (s.plane y.2.1 y.2.2).own, rel := (s.plane y.2.1 y.2.2).rel, pz := pz }
      s.setPlane y.2.1 y.2.2 pl) s
    (s.dropEop k).tilePhaseEnd k e

/-- The tile phase of an operation other than a multiplication (R259). -/
def State.tilePhase (s : State) (k : Nat) (e : EOp) : State :=
  let clear (s : State) : State := (e.bind.homes e.unit).foldl (fun s h => s.setPlane h.1 h.2 { own := (s.plane h.1 h.2).own, rel := (s.plane h.1 h.2).rel }) s
  let pz := s.tilePz e.bind e.unit
  let loc := (e.locs.head?).getD none
  match e.op with
  | .mma _ _ _ | .dist _ _ _ => s
  | .zero _ | .pair _ => (clear s).tilePhaseEnd k e
  | .topkReg m d ts => let r := s.rankRegs e m d ts; r.1.tilePhaseEnd k { e with flags := e.flags ||| BitVec.ofNat 32 r.2 }
  | .topkMem m p rs =>
    let rows := (List.range 64).map fun i => (i, s.rankRow e.bind e.unit i (m.k1.toNat + 1) m.max)
    let fl := if m.val then rows.foldl (fun f r => orFlags f r.2.2) 0 else 0
    s.tilePhaseEnd k { e with writes := rowWrites p (BitVec.ofNat 64 (bf rs 0 32)) loc (rows.map fun r => (0, r.1, rankRecord r.2.1 m.val)), pz := pz
                              flags := e.flags ||| BitVec.ofNat 32 fl }
  | .ldt m p rs => s.loadImage k e m p rs
  | .stt p rs => s.tilePhaseEnd k { e with writes := rowWrites p rs loc (s.imageRows e.bind e.unit), pz := pz }
  | .drn m p rs ag =>
    let r := s.drainRows m e.bind e.unit ag
    s.tilePhaseEnd k { e with writes := rowWrites p rs loc r.1, pz := pz, flags := e.flags ||| BitVec.ofNat 32 r.2 }

/-- An operation begins one write of its memory phase (R259): straight into SRAM, or by a request that carries the poison of its tile (R278). -/
def State.opWrite (s : State) (k : Nat) (e : EOp) (i : Nat) : State :=
  match e.writes[i]? with
  | none => s
  | some w =>
    let s := s.setOp k { e with writes := e.writes.eraseIdx i }
    let bs := w.2.2.map fun b => (b, e.pz)
    match w.2.1 with
    | some a => s.localPut (a + bf w.1 0 32) bs
    | none => s.newReq (engineReq (.eop k s.nextId) .write e.org w.1 bs.length (storeOf bs) e.unit)

/-- A write under way of an operation's memory phase: it has been performed, or sequenced for another module, and the core's L1 drops its lines; or a refusal
that no service mends fails the operation (R277). -/
def State.opWritten (s : State) (k : Nat) (e : EOp) (q : Req) : State :=
  match s.famFailed q.fam with
  | some r => s.opFail k e r
  | none =>
    if s.famPast q.fam then
      let ps := s.famParts q.fam
      let p := ((ps.head?).map fun x => x.2.ptr0).getD 0
      (s.l1Drops e.unit e.ctx p (ps.foldl (fun n x => n + x.2.len) 0)).famLeave q.fam (some ⟨e.gid, true, e.num, k⟩) e.ctx e.blk e.unit
    else s

/-- ENGINE_OP_COMPLETE (R259): the next part of an operation: its tile phase, once it heads its queues; one write of its memory phase, in any
order, begun or, named by its request, past its owner; its completion. A cancelled operation completes with no effect (R277). -/
def State.engineStep (s : State) (k i : Nat) : State :=
  match FMap.find? s.eops k with
  | none => s
  | some e =>
    if e.done then s
    else if e.cancelled then (if s.heads k e then (s.tilePhaseEnd k e).opComplete k { e with tileDone := true } else s)
    else if !e.tileDone then (if s.heads k e && !s.opStops k e then s.tilePhase k e else s)
    else match s.eopReq k i with
    | some x => s.opWritten k e x.2
    | none =>
      if e.writes.isEmpty then (if (s.eopReqs k).isEmpty then s.opComplete k e else s)
      else s.opWrite k e (i % e.writes.length)

/-- MMA_CHUNK. -/
def execMmaChunk (id : Nat) (s : State) : Host.Outcome State Fault Refusal := .next (s.mmaChunk id)
/-- ENGINE_OP_COMPLETE: `part` picks among the writes that are left. -/
def execEngineOpComplete (id part : Nat) (s : State) : Host.Outcome State Fault Refusal := .next (s.engineStep id part)

end Sys2Proof.Machine
end

