-- ==== Sys2Proof/Machine/Sync.lean ====
section
/-! DEFINITION. Barrier words, parking on them, and watches (R330 to R336). -/

namespace Sys2Proof.Machine

open Sys2Proof Sys2Proof.Decode

/-! ## Barrier words (R330, R331) -/

/-- The local-window pointer of a barrier word. -/
def barPtr (sp : BSpace) (a : Nat) : W64 := BitVec.ofNat 64 (2 * 2 ^ 60 + (match sp with | .core => 1 | .clu => 2) * 2 ^ 56 + a % 2 ^ 32)

/-- The SRAM byte of a barrier word: the local checks with width 8 and kind atomic (R331). -/
def barPlace (c : Iss) (p : W64) : Except Stop Nat :=
  match localCheck c p 8 .atomic false with
  | .ok (.sram _ a) => .ok a
  | .ok _ => .error (pointerFault c 0 p .atomic .absent)
  | .error r => .error (pointerFault c 0 p .atomic r)

/-- The barrier word at an SRAM byte. -/
def State.barWord (s : State) (a : Nat) : W64 := BitVec.ofNat 64 (s.le a 8)
/-- CNT of a barrier word (Table 15-1). -/
def barCnt (w : W64) : Nat := bf w 32 16
/-- ARR of a barrier word. -/
def barArr (w : W64) : Nat := bf w 16 16
/-- PH of a barrier word. -/
def barPh (w : W64) : Nat := bf w 0 16
/-- A barrier word of three fields; its reserved bits are 0. -/
def barPack (cnt arr ph : Nat) : Nat := ph % 65536 + arr % 65536 * 2 ^ 16 + cnt % 65536 * 2 ^ 32
/-- Write a barrier word. -/
def State.setBar (s : State) (a cnt arr ph : Nat) : State := s.applyAll a (leBytes 8 (barPack cnt arr ph))

/-- A write of the block's buffer that still stands before a barrier operation on its word (R157): it commits, and the operation waits. (DEDUCED, log 51) -/
def barWaits (c : Iss) (a : Nat) : Option Stop :=
  if c.s.wrs.any fun x => x.2.place = WPlace.buffer && x.2.blk = c.g.blk && (match x.2.loc with | some b => b < a + 8 && a < b + max 1 x.2.data.range.2 | none => false)
  then some (.wait (c.s.commit c.g.blk)) else none

/-- The trap "barrier" with its detail. -/
def barTrap (d : Nat) : Trap := { cause := .barrier, detail := d }

/-- BINIT (R332). A poisoned word stays as it is, as for any atomic (R189). (DEDUCED, log 50) -/
def execBinit (m : BSpace) (o : Args) (s : State) : Host.Outcome State Fault Refusal :=
  issue o s false false fun c =>
    match start c (.binit m o) o with
    | .error x => .error x
    | .ok ts =>
      if ts.isEmpty then .ok c.s else
      let v := srcs c (.binit m o) o 0
      match barPlace c (barPtr m v.2.1.v) with
      | .error x => .error x
      | .ok a =>
        if v.2.2.v = 0 || 65535 < v.2.2.v then .error (.trap (barTrap 1)) else
        match barWaits c a with
        | some x => .error x
        | none => if c.s.anyPoison a 8 then .ok c.s else .ok (c.s.setBar a v.2.2.v 0 (barPh (c.s.barWord a)))

/-- What an arrival does at its word: a trap, or the state after it and the phase it read; poison is read and left (R189, R332). (DEDUCED, log 50) -/
def State.barArrive (s : State) (a n : Nat) : Except Nat (State × Option Nat) :=
  if s.anyPoison a 8 then .ok (s, none) else
  let w := s.barWord a
  if barCnt w = 0 then .error 2
  else if n = 0 || barCnt w < barArr w + n then .error 3
  else if barArr w + n = barCnt w then .ok (s.setBar a (barCnt w) 0 (barPh w + 1), some (barPh w))
  else .ok (s.setBar a (barCnt w) (barArr w + n) (barPh w), some (barPh w))

/-- The arrival of ARV and ARW (R332): the implicit commit, the release at the scope, the step at the word and the destination; with the phase
that was read. A trap at the word comes after the commit. (DEDUCED, log 50) -/
def arrival (c : Iss) (i : Instr) (m : Mods.Bar) (o : Args) : Except Stop (Except State (State × Nat × Option Nat)) :=
  match start c i o with
  | .error x => .error x
  | .ok _ =>
    let v := srcs c i o 0
    match barPlace c (barPtr m.sp v.2.1.v) with
    | .error x => .error x
    | .ok a =>
      match release c m.scope [] with
      | .error x => .error x
      | .ok s =>
        match s.barArrive a v.2.2.v with
        | .error d => .ok (.error (s.takeTrap c.gid (barTrap d)))
        | .ok (s, ph) =>
          let s := if m.sp = .clu then s.noRestart c.g.blk else s
          .ok (.ok (s.onGrp c.gid fun g => writeOp g 0 32 o.d.x { v := ph.getD 0, st := if ph.isNone then .pois else .full }, a, ph))

/-- ARV (R332). -/
def execArv (m : Mods.Bar) (o : Args) (s : State) : Host.Outcome State Fault Refusal :=
  issueOr o s false false fun c =>
    if (acting c o.hdr).isEmpty then (match start c (.arv m o) o with | .error x => .error x | .ok _ => .ok (.ok c.s)) else
    match arrival c (.arv m o) m o with
    | .error x => .error x
    | .ok (.error s) => .ok (.error s)
    | .ok (.ok x) => .ok (.ok x.1)

/-- The wait part of WTB and ARW: it retires where the word's phase is no longer `p` or the word is poisoned, else the group parks (R332, R334). (DEDUCED, log 50) -/
def barPark (c : Iss) (s : State) (clu : Bool) (a p : Nat) (arw : Bool) : State :=
  if barPh (s.barWord a) ≠ p || s.anyPoison a 8 then s.pass c.gid else c.park s (.barrier clu a p arw)

/-- WTB (R332). -/
def execWtb (m : Mods.Bar) (o : Args) (s : State) : Host.Outcome State Fault Refusal :=
  issue o s true false fun c =>
    match start c (.wtb m o) o with
    | .error x => .error x
    | .ok ts =>
      if ts.isEmpty then .ok (c.s.pass c.gid) else
      let v := srcs c (.wtb m o) o 0
      match barPlace c (barPtr m.sp v.2.1.v) with
      | .error x => .error x
      | .ok a =>
        match barWaits c a with
        | some x => .error x
        | none => .ok (barPark c c.s (m.sp = .clu) a (v.2.2.v % 65536) false)

/-- The phase that an ARW has read, where its arrival has been counted already (R335). -/
def Group.arrived (g : Group) : Option Nat := match g.cont with | some (.arw ph pc) => if pc = g.pc then some ph else none | _ => none

/-- ARW (R332): the arrival is made once; after a save or a trap it goes on in its wait part (R335). -/
def execArw (m : Mods.Bar) (o : Args) (s : State) : Host.Outcome State Fault Refusal :=
  issueOr o s true false fun c =>
    match c.g.arrived with
    | some ph =>
      (match barPlace c (barPtr m.sp (srcs c (.arw m o) o 0).2.1.v) with
       | .error x => .error x
       | .ok a => .ok (.ok (barPark c c.s (m.sp = .clu) a ph true)))
    | none =>
      if (acting c o.hdr).isEmpty then (match start c (.arw m o) o with | .error x => .error x | .ok _ => .ok (.ok (c.s.pass c.gid))) else
      match arrival c (.arw m o) m o with
      | .error x => .error x
      | .ok (.error s) => .ok (.error s)
      | .ok (.ok (s, a, none)) => .ok (.ok (barPark c s (m.sp = .clu) a 0 true))
      | .ok (.ok (s, a, some ph)) =>
        .ok (.ok (barPark c (s.onGrp c.gid fun g => { g with cont := some (.arw ph g.pc) }) (m.sp = .clu) a ph true))

/-- BARRIER_WAKE (R334): the unit re-reads the word of a parked group, which becomes ready when its phase has changed. -/
def State.barWake (s : State) (gid : Nat) : State :=
  match (s.grp gid).wait with
  | .barrier _ a p _ => if barPh (s.barWord a) ≠ p || s.anyPoison a 8 then s.wake gid else s
  | _ => s

/-- BARRIER_WAKE: `id` is the group. -/
def execBarrierWake (id : Nat) (s : State) : Host.Outcome State Fault Refusal := .next (s.barWake id)

/-! ## Watches (R336) -/

/-- The bytes of a watched word. -/
def Watch.bytes (w : Watch) : Nat := if w.b64 then 8 else 4

/-- The watch table of an owner has room: 64 entries (R336). (DESIGN CHOICE, log 52) -/
def State.watchRoom (s : State) (own id : Nat) : Bool :=
  (s.watches.filter fun x => x.1 ≠ id && x.2.table && x.2.key ≠ 0 && x.2.own = own).length < 64

/-- The SRAM unit that serves watches on a byte: a scratchpad bank (R117), a core's scratchpad, a lane's slice. (DESIGN CHOICE, log 52) -/
def sramUnit (a : Nat) : Nat := if a < 2 ^ 42 then 2 ^ 20 + a / 256 % 32 else 2 ^ 40 + a / 2 ^ 18

/-- A watch ends: the value is written and the group goes on (R336). -/
def State.watchEnd (s : State) (id : Nat) (w : Watch) (v : Nat) (pois : Bool) : State :=
  let s := { s with watches := FMap.erase s.watches id }
  (s.onGrp w.gid fun g => writeOp g 0 (8 * w.bytes) w.wd { v := v, st := if pois then .pois else .full }).wake w.gid

/-- The word has been read at its owner: the watch ends, or stays registered on its sector. `late` where the read was made before the watch
stood in the owner's table. (DESIGN CHOICE, log 52; DEDUCED, log 106) -/
def State.watchRead (s : State) (id : Nat) (w : Watch) (key own : Nat) (late : Bool) (v : Nat) (pois : Bool) : State :=
  if v ≠ w.b.toNat || pois then s.watchEnd id w v pois
  else { s with watches := FMap.insert s.watches id { w with key := key, own := own, table := s.watchRoom own id, at_ := s.now, fired := late && w.key ≠ key } }

/-- The sector and the table of a request that has reached its owner. -/
def State.watchSpot (s : State) (q : Req) : Nat × Nat :=
  match q.stage with
  | .slice (.line t b _ sl) => (sectorOfLine t b, sl)
  | .ready (.line t b _ _) => (sectorOfLine t b, ((s.line? t).map fun l => l.slice).getD 0)
  | .slice (.chip a) | .ready (.chip a) => (sectorOfChip a, sramUnit (chipAddr a))
  | _ => (0, 2 ^ 50)

/-- The request that reads a watched word, beyond any L1 and queue. -/
def watchReq (id : Nat) (w : Watch) (core : Nat) : Req :=
  { client := .watch id, kind := .read, org := w.org, ptr := w.ptr, len := w.bytes, stage := .context, core := core, fresh := true }

/-- WATCH (R336). The word of a local window is read at once; a label stack's by a request. -/
def execWatch (m : Mods.Watch) (o : Args) (s : State) : Host.Outcome State Fault Refusal :=
  issue o s true false fun c =>
    match start c (.watch m o) o with
    | .error x => .error x
    | .ok ts =>
      if ts.isEmpty then .ok (c.s.pass c.gid) else
      let v := srcs c (.watch m o) o 0
      let p := BitVec.ofNat 64 v.2.1.v
      let n := if m.b64 then 8 else 4
      match checkAccess c 0 p n .read true with
      | .error x => .error x
      | .ok pl =>
        match accessGate c false with
        | some x => .error x
        | none =>
          let id := c.s.nextId
          let w : Watch := { gid := c.gid, ptr := p, b64 := m.b64, b := BitVec.ofNat 64 (v.2.2.v % 2 ^ (8 * n)), wd := o.d.x
                             peer := c.s.remoteOf c.b.ctx p, org := originOf c 0 p 0 }
          let s := (c.park c.s (.watch id))
          let s := { s with watches := FMap.insert s.watches id w, nextId := id + 1 }
          (match pl with
           | .sram _ a => .ok (s.watchRead id w (sramKey a) (sramUnit a) false (s.le a n) (s.anyPoison a n))
           | _ => .ok (s.newReq (watchReq id w (unitOfGid c.gid))))

/-- The SRAM byte of a local-window watch of a group. -/
def State.watchLocal (s : State) (w : Watch) : Option Nat :=
  if pForm w.ptr ≠ 2 then none else
  let g := s.grp w.gid
  match localCheck ⟨s, w.gid, g, s.blk g.blk⟩ w.ptr w.bytes .read false with
  | .ok (.sram _ a) => some a
  | _ => none

/-- The owner of a remote word may report at any time; a full table is polled every 1,024 cycles (R336). -/
def Watch.due (w : Watch) (now : Nat) : Bool := w.fired || w.peer.isSome || (!w.table && 1024 ≤ now - w.at_)

/-- WATCH_REPORT (R336): the word of a watch is read again, or the read under way has been served. (DESIGN CHOICE, log 52) -/
def State.watchReport (s : State) (id : Nat) : State :=
  match FMap.find? s.watches id with
  | none => s
  | some w =>
    if (s.grp w.gid).wait ≠ .watch id then { s with watches := FMap.erase s.watches id } else
    match s.watchLocal w with
    | some a => if w.due s.now then s.watchRead id w (sramKey a) (sramUnit a) false (s.le a w.bytes) (s.anyPoison a w.bytes) else s
    | none =>
      match List.find? (fun x : Nat × Req => x.2.client = Client.watch id) s.reqs with
      | some (rid, q) =>
        let s' := s.serve rid .clean
        (match s'.brought q.fam with
         | none => s'
         | some bs =>
           let at_ := s.watchSpot q
           (s'.dropFam q.fam).watchRead id w at_.1 at_.2 q.served (leNat (bs.map fun b => b.1)) (bs.any fun b => b.2))
      | none => if w.due s.now then s.newReq (watchReq id w (unitOfGid w.gid)) else s

/-- WATCH_REPORT. -/
def execWatchReport (id : Nat) (s : State) : Host.Outcome State Fault Refusal := .next (s.watchReport id)

end Sys2Proof.Machine
end

