-- ==== Sys2Proof/Machine/Routing.lean ====
section
/-! DEFINITION. The routing engines: sessions, tokens, receive buffers, end markers (R341 to R349, R398 to R400). -/

namespace Sys2Proof.Machine

open Sys2Proof Sys2Proof.Decode

/-! ## Shared by routing and collectives -/

/-- Every earlier write of a group's own is performed at a scope (R344, R351). -/
def State.ownReleased (s : State) (gid : Nat) (sc : Scope) : Bool := s.wrs.all fun x => !(x.2.gids.contains gid && x.2.before sc)

/-- The number of a routing engine as a unit (R363). -/
def routeUnit (die : Nat) : Nat := 1786 + die

/-- The request by which an instruction reads labelled memory at issue where it cannot be read at once. -/
def State.issueReq (s : State) (gid : Nat) (p : W64) : Option (Nat × Req) :=
  List.find? (fun x : Nat × Req => x.2.client = Client.range gid && x.2.pay = .load && x.2.ptr0 = p) s.reqs

/-- Bytes that an instruction reads at issue: through the levels at once, or as its request has brought them. -/
def State.issueRead (s : State) (gid : Nat) (g : BitVec 33) (p : W64) (n : Nat) : Option (List (Byte × Bool)) :=
  match s.rdN g p n with
  | .ok bs => some bs
  | .error _ => (s.issueReq gid p).bind fun x => s.brought x.2.fam

/-- Ask for bytes that an instruction needs and cannot read at once; a refusal is a fault of a load of the group (R185, R344). -/
def State.issueAsk (s : State) (c : Iss) (cls t n : Nat) (p : W64) : State :=
  if (s.issueReq c.gid p).isSome then s
  else s.newReq { client := .range c.gid, kind := .read, org := originOf c t p cls, ptr := p, len := n, stage := .context, core := unitOfGid c.gid }

/-- Drop the requests that an instruction made to read at issue. -/
def State.issueDrop (s : State) (gid : Nat) : State :=
  (s.reqs.filter fun x => x.2.client = Client.range gid && x.2.pay = .load).foldl (fun s x => s.dropReq x.1) s

/-- Read some places at issue in an engine class: the bytes of each, or the wait for those that are still to come. -/
def issueReadsAs (c : Iss) (cls n : Nat) (ps : List (Nat × W64)) : Except Stop (List (List (Byte × Bool))) :=
  let g := c.s.groupGuidon c.gid cls
  match firstStop (fun x : Nat × W64 => match checkLabel x.2 n with | some r => .error (pointerFault c x.1 x.2 .read r) | none => .ok ()) ps with
  | .error e => .error e
  | .ok _ =>
    let got := ps.map fun x => c.s.issueRead c.gid g x.2 n
    if got.all Option.isSome then .ok (got.filterMap id)
    else .error (.wait (ps.foldl (fun s x => if (s.issueRead c.gid g x.2 n).isNone then s.issueAsk c cls x.1 n x.2 else s) c.s))

/-- Read some places at issue as the network's engines do (R341 to R351). -/
def issueReads (c : Iss) (n : Nat) (ps : List (Nat × W64)) : Except Stop (List (List (Byte × Bool))) := issueReadsAs c 3 n ps

/-- The bounding check of `n` bytes from a pointer of form 0x1 (R163). -/
def boundLabel (c : Iss) (t : Nat) (p : W64) (k : AKind) (n : Nat) : Except Stop Unit :=
  if pForm p ≠ 1 then .error (pointerFault c t p k .form)
  else if n ≠ 0 && 2 ^ 24 < pOff p + n then .error (pointerFault c t p k .straddle) else .ok ()

/-- The bounding check of a buffer that must lie in this module (R346, R351). -/
def boundHere (c : Iss) (p : W64) (k : AKind) (n : Nat) : Except Stop Unit :=
  match boundLabel c 0 p k n with
  | .error e => .error e
  | .ok _ => if n ≠ 0 && (c.s.remoteOf c.b.ctx p).isSome then .error (pointerFault c 0 p k .absent) else .ok ()

/-- A pointer `d` bytes into a region. -/
def pInto (p : W64) (d : Nat) : W64 := pAt p (pOff p + d)

/-- Count one more network operation of a group (R346, R347, R351). -/
def State.netBegin (s : State) (gid : Nat) (what : NOp) : State × Nat :=
  ({ (s.onGrp gid fun g => { g with net := g.net + 1, netN := g.netN + 1 }) with
     nops := FMap.insert s.nops s.nextId { gid := gid, num := (s.grp gid).netN, what := what }, nextId := s.nextId + 1 }, s.nextId)

/-- A network operation completes: its counter falls; a failed one stays for the `WAITC.net` that meets it. -/
def State.netEnd (s : State) (k : Nat) (fail : Option Nat) : State :=
  match FMap.find? s.nops k with
  | none => s
  | some n =>
    let s := s.onGrp n.gid fun g => { g with net := g.net - 1 }
    if fail.isSome && !isDead n.gid then { s with nops := FMap.insert s.nops k { n with done := true, fail := fail } }
    else { s with nops := FMap.erase s.nops k }

/-- The region of this module's memory that a context's pointer leads to, and the offset. -/
def State.spanOf (s : State) (g : BitVec 33) (p : W64) : Option (Nat × Nat × Nat) :=
  match s.homeOf (gCtx g) p with | .region st i off => some (st, i, off) | _ => none

/-- Drop the lines of `n` bytes from a core's L1 (R346, R351). -/
def State.l1DropSpan (s : State) (u : Nat) (g : BitVec 33) (p : W64) (n : Nat) : State :=
  match s.spanOf g p with | some (st, i, off) => s.l1Range .core u st i off n | none => s

/-- What a request of a routing engine has come to: there is none; it is under way; a level has refused it for good, with the record; or it is done, with
the bytes that a read has brought. -/
inductive Done
  | none
  | wait
  | failed (rec_ : BitVec 256)
  | bytes (bs : List (Byte × Bool))
  deriving DecidableEq, Repr

/-- What the request of a client has come to (R165, R346, R398). -/
def State.doneOf (s : State) (c : Client) : Done :=
  match List.find? (fun x : Nat × Req => x.2.client = c) s.reqs with
  | .none => .none
  | .some x =>
    match s.famFailed x.2.fam with
    | .some r => .failed r
    | .none => match s.brought x.2.fam with | .some bs => .bytes bs | .none => .wait

/-- Drop the requests of a client. -/
def State.dropClient (s : State) (c : Client) : State := (s.reqs.filter fun x => x.2.client = c).foldl (fun s x => s.dropReq x.1) s

/-! ## Descriptors and headers (Tables 15-7, 15-8, 15-10) -/

/-- The four uniform registers of a descriptor, from the one that an operand names. -/
def descWords (c : Iss) (x : Opd) : List W64 := (List.range 4).map fun j => wAbove c x j

/-- Word `j` of a descriptor. -/
def dw (d : List W64) (j : Nat) : W64 := (d[j]?).getD 0

/-- A route descriptor's reserved bits, LEN and OCAP are ones that R344 accepts. -/
def routeOk (d : List W64) : Bool := bf (dw d 3) 32 32 = 0 && bf (dw d 1) 0 32 ≤ 16384 && bf (dw d 3) 0 32 ≤ 65535

/-- The key of a session. -/
def sessKey (die ctx sess : Nat) : Nat := (die * 4096 + ctx) * 65536 + sess

/-- A session as a descriptor opens its round (R341). -/
def sessionOf (d : List W64) (die ctx : Nat) (org : Origin) : Session :=
  { die := die, ctx := ctx, sess := bf (dw d 1) 32 16, map := dw d 0, nexp := bf (dw d 1) 48 16, len := bf (dw d 1) 0 32
    ovf := dw d 2, ocap := bf (dw d 3) 0 32, org := org }

/-- The session of a descriptor: the open round's, whose descriptor is fixed, else a new round (R341). (DEDUCED, log 59) -/
def State.roundOf (s : State) (d : List W64) (die ctx : Nat) (org : Origin) : Session :=
  match FMap.find? s.sess (sessKey die ctx (bf (dw d 1) 32 16)) with
  | some x => if x.isOpen then x else sessionOf d die ctx org
  | none => sessionOf d die ctx org

/-- The route engine's origin for a group: class 3, the engine's own unit (R344, R363). -/
def routeOrg (c : Iss) (t : Nat) (p : W64) : Origin := { originOf c t p 3 with unit := routeUnit (dieOf (unitOfGid c.gid)), slot := 0 }

/-- The module and die of an expert map entry. -/
def mapMod (v : Nat) : Nat := v % 512
/-- The die of an expert map entry. -/
def mapDie (v : Nat) : Nat := v / 512 % 16
/-- V of an expert map entry. -/
def mapV (v : Nat) : Bool := v / 2 ^ 31 % 2 = 1

/-- A token header as the engine forms it (Table 15-8). -/
def tokHdr (tidx e1 e2 v1 v2 own die sess : Nat) (p : W64) (len seq : Nat) : BitVec 256 :=
  BitVec.ofNat 256 ((tidx % 2 ^ 32 + e1 * 2 ^ 32 + e2 * 2 ^ 48)
    + (v1 % 2 ^ 13 + (if e2 = 65535 then 0 else v2 % 2 ^ 13 * 2 ^ 13) + own * 2 ^ 26 + die * 2 ^ 35 + sess * 2 ^ 48) * 2 ^ 64
    + p.toNat * 2 ^ 128 + (len + seq % 2 ^ 32 * 2 ^ 32) * 2 ^ 192)

/-- E2 of a header. -/
def hE2 (h : BitVec 256) : Nat := bf h 48 16
/-- SC of a header. -/
def hSC (h : BitVec 256) : Bool := bt h 103
/-- LEN of a header. -/
def hLen (h : BitVec 256) : Nat := bf h 192 32
/-- PPTR of a header. -/
def hPtr (h : BitVec 256) : W64 := BitVec.ofNat 64 (bf h 128 64)
/-- Where a header sends its token: to the second choice once SC is set, else to the first. -/
def hDest (h : BitVec 256) : Nat × Nat := if hSC h then (bf h 77 9, bf h 86 4) else (bf h 64 9, bf h 73 4)

/-- The pointers of some experts' map entries, for the threads that name them. -/
def mapPtrs (d : W64) (xs : List (Nat × Nat)) : List (Nat × W64) := xs.map fun x => (x.1, pInto d (4 * x.2))

/-- A map entry lies beyond the region: it straddles (R57). -/
def mapFits (c : Iss) (d : W64) (xs : List (Nat × Nat)) : Except Stop Unit :=
  firstStop (fun x : Nat × Nat => boundLabel c x.1 d .read (4 * x.2 + 4)) xs

/-- The values of map entries; a poisoned one is consumed poison (R200). (DEDUCED, log 53) -/
def readMap (c : Iss) (d : W64) (xs : List (Nat × Nat)) : Except Stop (List Nat) :=
  match mapFits c d xs with
  | .error e => .error e
  | .ok _ =>
    match issueReads c 4 (mapPtrs d xs) with
    | .error e => .error e
    | .ok bs =>
      match (xs.zip bs).find? fun y => y.2.any fun b => b.2 with
      | some y => .error (consume c y.1.1)
      | none => .ok (bs.map fun y => leNat (y.map fun b => b.1))

/-! ## RSEND (R344) -/

/-- A token as RSEND forms it: the thread, its experts and index, its payload's pointer and SRAM base. -/
structure Send where
  t    : Nat
  e1   : Nat
  e2   : Nat
  tidx : Nat
  ptr  : W64
  loc  : Option Nat
  v1   : Nat
  v2   : Nat
  deriving DecidableEq, Repr

/-- The trap "routing" with its detail. -/
def routeTrap (d : Nat) : Stop := .trap { cause := .routing, detail := d }

/-- Token entries of a die in use: tokens appended and not yet disposed of (R344). (DEDUCED, log 53) -/
def State.entriesUsed (s : State) (die : Nat) : Nat := ((s.sess.filter fun x => x.2.die = die).map fun x => x.2.sent - x.2.acked).foldl (· + ·) 0

/-- Append a token to the send list of its first choice's module (R344). -/
def appendToken (c : Iss) (key : Nat) (s : State) (x : Send) : State :=
  let r := FMap.getD s.sess key (sessionOf [] 0 0 (originOf c 0 0 3))
  let h := tokHdr x.tidx x.e1 x.e2 x.v1 x.v2 s.modNo r.die r.sess x.ptr r.len r.sent
  let k : Token := { die := r.die, src := s.modNo, ctx := r.ctx, sess := r.sess, exp := x.e1, hdr := h, loc := x.loc, at_ := .list (mapMod x.v1)
                     since := s.now, org := routeOrg c x.t x.ptr }
  { s with toks := FMap.insert s.toks s.nextId k, nextId := s.nextId + 1, sess := FMap.insert s.sess key { r with sent := r.sent + 1 } }

/-- The acting threads' experts and payloads. -/
def sendsOf (c : Iss) (o : Args) (ts : List Nat) : List (Nat × Nat × Nat × Nat × W64) :=
  ts.map fun t =>
    let v := srcs c (.rsend o) o t
    (t, v.1.v % 65536, v.1.v / 65536 % 65536, v.1.v / 2 ^ 32 % 2 ^ 32, BitVec.ofNat 64 v.2.1.v)

/-- The checks of RSEND, and its tokens. (DEDUCED, log 53) -/
def rsendCheck (c : Iss) (r : Session) (xs : List (Nat × Nat × Nat × Nat × W64)) : Except Stop (List Send) :=
  if xs.any fun x => r.nexp ≤ x.2.1 || (x.2.2.1 ≠ 65535 && r.nexp ≤ x.2.2.1) then .error (routeTrap 2)
  else
    let es := xs.flatMap fun x => (x.1, x.2.1) :: (if x.2.2.1 = 65535 then [] else [(x.1, x.2.2.1)])
    match readMap c r.map es with
    | .error e => .error e
    | .ok vs =>
      let val (e : Nat) : Nat := (((es.zip vs).find? fun y => y.1.2 = e).map fun y => y.2).getD 0
      if vs.any fun v => !mapV v then .error (routeTrap 2)
      else
        let out := xs.map fun x =>
          let p := x.2.2.2.2
          (x, copyPtr { c with g := c.g } p .read (copyRange (if pForm p = 2 then bf p 0 32 else pOff p) (r.len, 1, 1) (0, 0)) (r.len = 0))
        match firstStop (fun y => match y.2 with | .ok _ => .ok () | .error e => .error e) out with
        | .error e => .error e
        | .ok _ => .ok (out.filterMap fun y => match y.2 with
            | .ok l => let x := y.1; some ⟨x.1, x.2.1, x.2.2.1, x.2.2.2.1, x.2.2.2.2, l, val x.2.1, val x.2.2.1⟩
            | .error _ => none)

/-- RSEND (R344). A word in which no thread acts has no effect. (DEDUCED, log 53) -/
def execRsend (o : Args) (s : State) : Host.Outcome State Fault Refusal :=
  issue o s false false fun c =>
    match tileStart c (.rsend o) o 3 4 with
    | .error x => .error x
    | .ok ts =>
      if ts.isEmpty then .ok c.s else
      let d := descWords c o.b.x
      let die := dieOf (unitOfGid c.gid)
      let key := sessKey die c.b.ctx (bf (dw d 1) 32 16)
      let r := c.s.roundOf d die c.b.ctx (routeOrg c 0 0)
      if r.flush.isSome then .error (.wait c.s)
      else if !routeOk d then .error (routeTrap 3)
      else
        match rsendCheck c r (sendsOf c o ts) with
        | .error x => .error x
        | .ok xs =>
          let s := c.s.commit c.g.blk
          if !s.ownReleased c.gid .mod || s.acquiring c.gid then .error (.wait s)
          else if 8192 < s.entriesUsed die + xs.length then .error (.wait s)
          else
            let s := (s.noRestart c.g.blk).issueDrop c.gid
            .ok (xs.foldl (appendToken c key) { s with sess := FMap.insert s.sess key r })

/-! ## Tokens on their way (R345, R398) -/

/-- Write a token. -/
def State.setTok (s : State) (id : Nat) (k : Token) : State := { s with toks := FMap.insert s.toks id k }
/-- A token has left the model. -/
def State.dropTok (s : State) (id : Nat) : State := { s with toks := FMap.erase s.toks id }

/-- The next place in the order of arrival at an engine. -/
def State.stamp (s : State) (id : Nat) (k : Token) (a : TokAt) : State :=
  { (s.setTok id { k with at_ := a, since := s.nextId }) with nextId := s.nextId + 1 }

/-- How many payload bytes of a token one packet carries beside its header (R131). (DESIGN CHOICE, log 47) -/
def tokPiece : Nat := pieceMax - 32

/-- Send a token to the engine of its present choice: within the module, or in packets on BLK to another (R129, R131, R345). -/
def State.tokGo (s : State) (id : Nat) (k : Token) : State :=
  let d := hDest k.hdr
  if d.1 = s.modNo then s.setTok id { k with at_ := .way d.2 }
  else (List.range ((k.pay.length + tokPiece - 1) / tokPiece |> max 1)).foldl (fun s i =>
    s.send d.1 2 (.token k.hdr k.ctx k.exp (i * tokPiece) ((k.pay.drop (i * tokPiece)).take tokPiece)) false) (s.dropTok id)

/-- Return a token to its source die with a reason (R345); it brings back its header only (R398). -/
def State.tokReturn (s : State) (id : Nat) (k : Token) (why : Nat) : State :=
  let h := setBf (setBf k.hdr 104 1 1) 105 3 why
  if k.src = s.modNo then s.setTok id { k with hdr := h, pay := [], at_ := .back }
  else (s.dropTok id).send k.src 2 (.back h k.ctx) false

/-- Acknowledge a disposition, or a marker, to its source die (R345, R400). -/
def State.tokAck (s : State) (k : Token) : State :=
  if k.src = s.modNo then { s with toks := FMap.insert s.toks s.nextId { k with at_ := .ack, pay := [] }, nextId := s.nextId + 1 }
  else s.send k.src 2 (.tokenAck k.die k.ctx k.sess k.mark) false

/-- The payload of a token that has left its send list is read, once (R398). (DEDUCED, log 53) -/
def State.tokRead (s : State) (id : Nat) : State :=
  match FMap.find? s.toks id with
  | none => s
  | some k =>
    let p := hPtr k.hdr
    let n := hLen k.hdr
    match k.loc with
    | some a => s.tokGo id { k with pay := s.marked (a + bf p 0 32) n }
    | none =>
      if n = 0 then s.tokGo id k else
      match s.doneOf (.tok id) with
      | .none => s.newReq (engineReq (.tok id) .read k.org p n .load 0)
      | .wait => s
      | .failed _ => (s.dropClient (.tok id)).tokReturn id k 4
      | .bytes bs => (s.dropClient (.tok id)).tokGo id { k with pay := bs }

/-- The tokens of one send list, in order of append. (DEDUCED, log 54) -/
def State.sendList (s : State) (k : Token) : List (Nat × Token) :=
  s.toks.filter fun x => x.2.die = k.die && x.2.src = k.src && x.2.ctx = k.ctx && x.2.sess = k.sess && x.2.at_ = k.at_

/-- A send list leaves its die: each token's payload is read as it goes (R344, R398). (DEDUCED, log 54) -/
def State.listGo (s : State) (k : Token) : State :=
  (s.sendList k).foldl (fun s x => (s.setTok x.1 { x.2 with at_ := match x.2.at_ with | .list m => .read m | a => a }).tokRead x.1) s

/-- SEND_LIST_DEPART (R345): the list of a token leaves when it holds 16, when 2,048 cycles have passed, or at `RFLUSH`; a payload read that was
held is tried again. -/
def State.sendDepart (s : State) (id : Nat) : State :=
  match FMap.find? s.toks id with
  | none => s
  | some k =>
    match k.at_ with
    | .read _ => s.tokRead id
    | .list _ =>
      let l := s.sendList k
      let flushing := match FMap.find? s.sess (sessKey k.die k.ctx k.sess) with | some r => r.flush.isSome | none => false
      if 16 ≤ l.length || flushing || l.any (fun x => 2048 ≤ s.now - x.2.since) then s.listGo k else s
    | _ => s

/-! ## Receive buffers (R345, R346) -/

/-- Write a buffer. -/
def State.setBuf (s : State) (b : Nat) (x : RBuf) : State := { s with bufs := FMap.insert s.bufs b x }
/-- The buffers of an expert and session on a die. -/
def RBuf.is (b : RBuf) (die ctx sess exp : Nat) : Bool := b.die = die && b.ctx = ctx && b.sess = sess && b.exp = exp
/-- The open buffer of an expert and session on a die. -/
def State.openBuf (s : State) (die ctx sess exp : Nat) : Option (Nat × RBuf) := List.find? (fun x : Nat × RBuf => x.2.is die ctx sess exp && x.2.isOpen) s.bufs
/-- The open, or last closed, buffer (R348). (DEDUCED, log 59) -/
def State.lastBuf (s : State) (die ctx sess exp : Nat) : Option RBuf := (((s.bufs.filter fun x => x.2.is die ctx sess exp).map fun x => x.2).getLast?)

/-- A buffer that has closed and whose placements are performed completes its `RPOST`; its lines leave the issuing core's L1 (R346). -/
def State.bufCheck (s : State) (b : Nat) : State :=
  match FMap.find? s.bufs b with
  | none => s
  | some x =>
    if x.isOpen || x.pend ≠ 0 || x.ended then s else
    let s := (s.l1DropSpan x.unit x.org.guidon x.hdr (32 * x.cap)).l1DropSpan x.unit x.org.guidon x.pay (x.cap * x.ps)
    let s := (s.setBuf b { x with ended := true }).netEnd x.op (if x.failed then some 0 else none)
    if s.bufs.any fun y => b < y.1 && y.2.is x.die x.ctx x.sess x.exp then { s with bufs := FMap.erase s.bufs b } else s

/-- Begin to write some bytes for a token. -/
def State.tokWrite (s : State) (id : Nat) (org : Origin) (p : W64) (bs : List (Byte × Bool)) : State :=
  s.newReq (engineReq (.tok id) .write org p bs.length (storeOf bs) 0)

/-- The bytes of a token's header. -/
def hdrBytes (h : BitVec 256) : List (Byte × Bool) := clean (leBytes 32 h.toNat)

/-- Write a token into its slot: the payload and then the header (R345). A refusal other than "absent" or "gate" fails the `RPOST`, and the token
is returned with WHY 1 (R346). -/
def State.tokPlace (s : State) (id : Nat) : State :=
  match FMap.find? s.toks id with
  | none => s
  | some k =>
    match k.at_ with
    | .placing b slot pay =>
      (match FMap.find? s.bufs b with
       | none => s
       | some x =>
         let header (s : State) : State := (s.setTok id { k with at_ := .placing b slot true }).tokWrite id x.org (pInto x.hdr (32 * slot)) (hdrBytes k.hdr)
         match s.doneOf (.tok id) with
         | .none => if pay || k.pay.isEmpty then header s else s.tokWrite id x.org (pInto x.pay (slot * x.ps)) k.pay
         | .wait => s
         | .failed _ => (((s.dropClient (.tok id)).setBuf b { x with failed := true, pend := x.pend - 1 }).tokReturn id k 1).bufCheck b
         | .bytes _ =>
           let s := s.dropClient (.tok id)
           if pay then (((s.setBuf b { x with pend := x.pend - 1 }).dropTok id).tokAck k).bufCheck b else header s)
    | _ => s

/-- Tokens in the holding area of a die. -/
def State.holding (s : State) (die : Nat) : Nat := (s.toks.filter fun x => x.2.at_ = .held die && !x.2.mark).length

/-- Dispose of a token at an expert's engine (R345): placed, held, sent on or returned. (DEDUCED, log 56) -/
def State.dispose (s : State) (id : Nat) (k : Token) (die : Nat) : State :=
  let onward (s : State) : State :=
    if hE2 k.hdr ≠ 65535 && !hSC k.hdr then s.tokGo id { k with hdr := setBf k.hdr 103 1 1, exp := hE2 k.hdr }
    else s.tokReturn id k (if hSC k.hdr then 1 else 2)
  match s.openBuf die k.ctx k.sess k.exp with
  | none => if s.holding die < 256 then s.stamp id k (.held die) else onward s
  | some (b, x) =>
    if x.ps < hLen k.hdr then s.tokReturn id k 3
    else if x.count < x.cap then
      ((s.setBuf b { x with count := x.count + 1, pend := x.pend + 1 }).setTok id { k with at_ := .placing b x.count false }).tokPlace id
    else
      onward (if hE2 k.hdr ≠ 65535 && !hSC k.hdr then s.setBuf b { x with redir := x.redir + 1 } else s)

/-- TOKEN_ARRIVE (R345): a token reaches an engine of this module; one whose write was held is tried again. -/
def State.tokArrive (s : State) (id : Nat) : State :=
  match FMap.find? s.toks id with
  | none => s
  | some k =>
    match k.at_ with
    | .way d => if k.mark then s else s.dispose id k d
    | .placing _ _ _ => s.tokPlace id
    | _ => s

/-! ## Rounds (R345, R347) -/

/-- The end markers of a flushed round leave once every disposition has been acknowledged (R347); a round whose markers are acknowledged ends. (DESIGN CHOICE, log 55) -/
def State.flushCheck (s : State) (key : Nat) : State :=
  match FMap.find? s.sess key with
  | none => s
  | some r =>
    match r.flush with
    | none => s
    | some op =>
      if r.marked then
        if r.marks = 0 then ({ s with sess := FMap.insert s.sess key { r with isOpen := false, flush := none } }).netEnd op none else s
      else if r.acked < r.sent then s
      else
        let s := { s with sess := FMap.insert s.sess key { r with marked := true, marks := r.tos.length } }
        let s := r.tos.foldl (fun s x =>
          if x.2.1 = s.modNo then
            { s with toks := FMap.insert s.toks s.nextId { die := r.die, src := s.modNo, ctx := r.ctx, sess := r.sess, exp := x.1, at_ := .way x.2.2, mark := true, org := r.org }
                     nextId := s.nextId + 1 }
          else s.send x.2.1 2 (.marker r.ctx r.sess x.1 x.2.2 s.modNo r.die) false) s
        if r.tos.isEmpty then ({ s with sess := FMap.insert s.sess key { r with marked := true, isOpen := false, flush := none } }).netEnd op none else s

/-- One more disposition of a session's round is acknowledged. -/
def State.disposed (s : State) (key : Nat) : State :=
  ({ s with sess := FMap.modify s.sess key fun r => { r with acked := r.acked + 1 } }).flushCheck key

/-- Write a returned header to its overflow slot (R345). (DEDUCED, log 56) -/
def State.tokOver (s : State) (id : Nat) : State :=
  match FMap.find? s.toks id with
  | none => s
  | some k =>
    let key := sessKey k.die k.ctx k.sess
    match k.at_, FMap.find? s.sess key with
    | .overflow slot, some r =>
      (match s.doneOf (.tok id) with
       | .none => s.tokWrite id r.org (pInto r.ovf (32 * slot)) (hdrBytes k.hdr)
       | .wait => s
       | _ => ((s.dropClient (.tok id)).dropTok id).disposed key)
    | _, _ => s

/-- TOKEN_RETURN (R345, R399): a returned header reaches its source die and is written to the next overflow slot, or dropped. -/
def State.tokBack (s : State) (id : Nat) : State :=
  match FMap.find? s.toks id with
  | none => s
  | some k =>
    let key := sessKey k.die k.ctx k.sess
    match k.at_, FMap.find? s.sess key with
    | .back, some r =>
      if r.ret < r.ocap then
        (({ s with sess := FMap.insert s.sess key { r with ret := r.ret + 1 } }).setTok id { k with at_ := .overflow r.ret }).tokOver id
      else (({ s with sess := FMap.insert s.sess key { r with drop := r.drop + 1 } }).dropTok id).disposed key
    | .overflow _, some _ => s.tokOver id
    | _, _ => s

/-- TOKEN_DISPOSITION_ACK (R347): an acknowledgement reaches the source die. -/
def State.tokAcked (s : State) (id : Nat) : State :=
  match FMap.find? s.toks id with
  | none => s
  | some k =>
    if k.at_ ≠ .ack then s else
    let key := sessKey k.die k.ctx k.sess
    if k.mark then ({ (s.dropTok id) with sess := FMap.modify s.sess key fun r => { r with marks := r.marks - 1 } }).flushCheck key
    else (s.dropTok id).disposed key

/-- Count an end marker in ENDS of an open buffer; the E-th closes it (R346, R347). -/
def State.countMark (s : State) (b : Nat) : State :=
  match FMap.find? s.bufs b with
  | none => s
  | some x =>
    let n := x.ends + 1
    (s.setBuf b { x with ends := n, isOpen := n < x.e }).bufCheck b

/-- END_MARKER_ARRIVE (R347, R400): a marker counts in ENDS, or is held like a token; it is acknowledged at once. -/
def State.markArrive (s : State) (id : Nat) : State :=
  match FMap.find? s.toks id with
  | none => s
  | some k =>
    match k.at_ with
    | .way d =>
      if !k.mark then s else
      (match s.openBuf d k.ctx k.sess k.exp with
       | some (b, _) => (((s.dropTok id).tokAck k).countMark b)
       | none => (s.stamp id k (.held d)).tokAck k)
    | _ => s

/-! ## RPOST, RFLUSH, RSTAT -/

/-- Insert a held token by its order of arrival. -/
def bySince (x : Nat × Token) : List (Nat × Token) → List (Nat × Token)
  | [] => [x]
  | y :: ys => if x.2.since < y.2.since then x :: y :: ys else y :: bySince x ys

/-- A newly opened buffer takes what was held for it, in order of arrival (R400). -/
def State.takeHeld (s : State) (die ctx sess exp : Nat) : State :=
  let xs := (s.toks.filter fun x => x.2.at_ = .held die && x.2.ctx = ctx && x.2.sess = sess && x.2.exp = exp).foldl (fun l x => bySince x l) []
  xs.foldl (fun s x =>
    if x.2.mark then
      match s.openBuf die ctx sess exp with
      | some (b, _) => (s.dropTok x.1).countMark b
      | none => s
    else match s.openBuf die ctx sess exp with | some _ => s.dispose x.1 x.2 die | none => s) s

/-- RPOST (R346). -/
def execRpost (o : Args) (s : State) : Host.Outcome State Fault Refusal :=
  issue o s false false fun c =>
    match tileStart c (.rpost o) o 2 4 with
    | .error x => .error x
    | .ok ts =>
      if ts.isEmpty then .ok c.s else
      let d := descWords c o.a.x
      let die := dieOf (unitOfGid c.gid)
      let cap := bf (dw d 2) 32 32
      let ps := bf (dw d 2) 0 32
      let e := bf (dw d 3) 16 16
      let sess := bf (dw d 3) 32 16
      let exp := bf (dw d 3) 0 16
      if bf (dw d 3) 48 16 ≠ 0 || cap = 0 || 65535 < cap || e = 0 || 16384 < ps then .error (routeTrap 3)
      else if (c.s.openBuf die c.b.ctx sess exp).isSome then .error (routeTrap 1)
      else
        match boundHere c (dw d 0) .write (32 * cap), boundHere c (dw d 1) .write (cap * ps) with
        | .error x, _ => .error x
        | _, .error x => .error x
        | .ok _, .ok _ =>
          let s := c.s.commit c.g.blk
          if 1024 ≤ (s.bufs.filter fun x => x.2.die = die && x.2.isOpen).length || counterFull c.g.net || s.acquiring c.gid then .error (.wait s)
          else
            let x := (s.noRestart c.g.blk).netBegin c.gid .post
            let b : RBuf := { die := die, ctx := c.b.ctx, sess := sess, exp := exp, hdr := dw d 0, pay := dw d 1, cap := cap, ps := ps, e := e, op := x.2
                              unit := unitOfGid c.gid, org := routeOrg c 0 (dw d 0) }
            let s := { x.1 with bufs := FMap.insert (FMap.keep x.1.bufs fun _ y => !(y.is die c.b.ctx sess exp && y.ended)) x.1.nextId b, nextId := x.1.nextId + 1 }
            .ok (s.takeHeld die c.b.ctx sess exp)

/-- The experts of a map whose entries are valid, with their modules and dies. (DESIGN CHOICE, log 55) -/
def validExperts (vs : List Nat) : List (Nat × Nat × Nat) := (vs.mapIdx fun e v => (e, v)).filterMap fun x => if mapV x.2 then some (x.1, mapMod x.2, mapDie x.2) else none

/-- RFLUSH (R347): every send list of the session leaves; the markers and the completion follow. The map's V bits are read at issue. (DESIGN CHOICE, log 55) -/
def execRflush (o : Args) (s : State) : Host.Outcome State Fault Refusal :=
  issue o s false false fun c =>
    match tileStart c (.rflush o) o 3 4 with
    | .error x => .error x
    | .ok ts =>
      if ts.isEmpty then .ok c.s else
      let d := descWords c o.b.x
      let die := dieOf (unitOfGid c.gid)
      let key := sessKey die c.b.ctx (bf (dw d 1) 32 16)
      let r := c.s.roundOf d die c.b.ctx (routeOrg c 0 0)
      if r.flush.isSome then .error (.wait c.s)
      else if !routeOk d then .error (routeTrap 3)
      else
        match readMap c r.map ((List.range r.nexp).map fun e => (0, e)) with
        | .error x => .error x
        | .ok vs =>
          let s := c.s.commit c.g.blk
          if counterFull c.g.net || s.acquiring c.gid then .error (.wait s)
          else
            let x := (s.issueDrop c.gid).netBegin c.gid .flush
            let s := { x.1 with sess := FMap.insert x.1.sess key { r with flush := some x.2, tos := validExperts vs } }
            let lists := s.toks.filter fun y => y.2.die = die && y.2.src = s.modNo && y.2.ctx = c.b.ctx && y.2.sess = r.sess && (match y.2.at_ with | .list _ => true | _ => false)
            .ok ((lists.foldl (fun s y => s.listGo y.2) s).flushCheck key)

/-- RSTAT (R348). (DEDUCED, log 59) -/
def execRstat (m : RSel) (o : Args) (s : State) : Host.Outcome State Fault Refusal :=
  issue o s false false fun c =>
    match start c (.rstat m o) o with
    | .error x => .error x
    | .ok ts =>
      if ts.isEmpty then .ok c.s else
      let x := srcs c (.rstat m o) o 0
      let a := x.2.1.v
      let die := dieOf (unitOfGid c.gid)
      let b := c.s.lastBuf die c.b.ctx (a / 65536 % 65536) (a % 65536)
      let r := FMap.find? c.s.sess (sessKey die c.b.ctx (a / 65536 % 65536))
      let v := match m with
        | .cnt => (b.map fun x => x.count).getD 0 | .ends => (b.map fun x => x.ends).getD 0 | .redir => (b.map fun x => x.redir).getD 0
        | .sent => (r.map fun x => x.sent).getD 0 | .ret => (r.map fun x => x.ret).getD 0 | .drop => (r.map fun x => x.drop).getD 0
      .ok (c.s.setGrp c.gid (writeOp c.g 0 64 o.d.x { v := v, st := (worst x).asOf c.b.tents }))

/-- SEND_LIST_DEPART: `id` is a token of the list. -/
def execSendListDepart (id : Nat) (s : State) : Host.Outcome State Fault Refusal := .next (s.sendDepart id)
/-- TOKEN_ARRIVE. -/
def execTokenArrive (id : Nat) (s : State) : Host.Outcome State Fault Refusal := .next (s.tokArrive id)
/-- TOKEN_RETURN. -/
def execTokenReturn (id : Nat) (s : State) : Host.Outcome State Fault Refusal := .next (s.tokBack id)
/-- END_MARKER_ARRIVE. -/
def execEndMarkerArrive (id : Nat) (s : State) : Host.Outcome State Fault Refusal := .next (s.markArrive id)
/-- TOKEN_DISPOSITION_ACK. -/
def execTokenDispositionAck (id : Nat) (s : State) : Host.Outcome State Fault Refusal := .next (s.tokAcked id)

end Sys2Proof.Machine
end

