-- ==== Sys2Proof/Machine/Collective.lean ====
section
/-! DEFINITION. Collectives among modules (R350, R351), and the wait on a counter, `WAITC` (R169). -/

namespace Sys2Proof.Machine

open Sys2Proof Sys2Proof.Decode

/-! ## Elements (R350) -/

/-- The bytes of an element. -/
def ctyBytes : CTy → Nat | .bf16 | .f16 => 2 | _ => 4
/-- The atomic type and operation whose step combines two elements (R186, R351). -/
def ctyAtom : CTy → ATy | .f32 => .f32 | .bf16 => .bf16x2 | .f16 => .f16x2 | .s32 => .s32 | .u32 => .u32
/-- The operation of a collective as an atomic's. -/
def copAtom : COp → AOp | .add => .add | .min => .min | .max => .max

/-- Combine two elements (R351): poison joins. -/
def combineElem (m : Mods.Coll) (a b : W64 × Bool) : W64 × Bool :=
  (BitVec.ofNat 64 (atomFn (copAtom m.op) (ctyAtom m.ty) a.1.toNat b.1.toNat 0 % 2 ^ (8 * ctyBytes m.ty)), a.2 || b.2)

/-- The elements of some bytes. -/
def elemsOf (n : Nat) (bs : List (Byte × Bool)) : List (W64 × Bool) :=
  (List.range (bs.length / n)).map fun i =>
    let x := (bs.drop (n * i)).take n
    (BitVec.ofNat 64 (leNat (x.map fun b => b.1)), x.any fun b => b.2)

/-- The bytes of some elements. -/
def bytesOf (n : Nat) (xs : List (W64 × Bool)) : List (Byte × Bool) := xs.flatMap fun x => (leBytes n x.1.toNat).map fun b => (b, x.2)

/-! ## Blocks (Table 15-12) -/

/-- The elements of one member's block of an allreduce, which that member owns. (DEDUCED, log 57) -/
def Coll.share (c : Coll) : Nat := (c.n + c.g - 1) / c.g
/-- First element and count of what goes from SND to member `j`. -/
def Coll.sndPart (c : Coll) (j : Nat) : Nat × Nat :=
  match c.m.kind with
  | .allreduce => (min c.n (j * c.share), min c.n ((j + 1) * c.share) - min c.n (j * c.share))
  | .allgather => (0, c.n)
  | .redscat | .alltoall => (j * c.n, c.n)
/-- The element of RCV at which finished block `j` begins. -/
def Coll.rcvAt (c : Coll) (j : Nat) : Nat :=
  match c.m.kind with
  | .allreduce => min c.n (j * c.share)
  | .redscat => 0
  | .allgather | .alltoall => j * c.n
/-- A collective that reduces. -/
def Coll.reduces (c : Coll) : Bool := c.m.kind = .allreduce || c.m.kind = .redscat
/-- How many blocks of RCV are to be written. (DEDUCED, log 57) -/
def Coll.blocks (c : Coll) : Nat := if c.m.kind = .redscat then 1 else c.g
/-- The elements of SND and RCV (Table 15-12). -/
def Coll.sizes (c : Coll) : Nat × Nat :=
  match c.m.kind with
  | .allreduce => (c.n, c.n) | .allgather => (c.n, c.g * c.n) | .redscat => (c.g * c.n, c.n) | .alltoall => (c.g * c.n, c.g * c.n)

/-- A member's descriptor as it travels: kind, type and operation; elements; members; the list. (DEDUCED, log 57) -/
def Coll.desc (c : Coll) : List (W64 × Bool) :=
  ((c.m.kind.ctorIdx * 64 + c.m.ty.ctorIdx * 8 + c.m.op.ctorIdx) :: c.n :: c.g :: c.lst).map fun x => (BitVec.ofNat 64 x, false)

/-! ## Progress -/

/-- Write a collective. -/
def State.setColl (s : State) (k : Nat) (c : Coll) : State := { s with colls := FMap.insert s.colls k c }

/-- Send a packet of a collective to the member of a rank; to this member itself it is there at once. -/
def State.collSend (s : State) (c : Coll) (j kind blk first : Nat) (vals : List (W64 × Bool)) : State :=
  if j = c.rank then { s with cmsgs := FMap.insert s.cmsgs s.nextId ⟨c.tag, c.rank, kind, blk, first, vals⟩, nextId := s.nextId + 1 }
  else s.send ((c.lst[j]?).getD 0) 2 (.coll c.tag c.rank kind blk first vals) false

/-- How many elements one packet or request of a collective carries (R131). (DESIGN CHOICE, log 47) -/
def Coll.piece (c : Coll) : Nat := pieceMax / ctyBytes c.m.ty

/-- The ranks of the other members. -/
def Coll.others (c : Coll) : List Nat := (List.range c.g).filter fun j => j ≠ c.rank

/-- A collective ends; what has come of it and has not been taken is dropped. -/
def State.collEnd (s : State) (k : Nat) (c : Coll) (fail : Option Nat) : State :=
  let s := (s.reqs.filter fun x => match x.2.client with | .coll j _ => decide (j = k) | _ => false).foldl (fun s x => s.dropReq x.1) s
  ({ s with colls := FMap.erase s.colls k, cmsgs := FMap.keep s.cmsgs fun _ m => m.tag ≠ c.tag }).netEnd c.op fail

/-- A collective fails on this member, with a detail, and tells the others (R351). -/
def State.collFail (s : State) (k : Nat) (c : Coll) (d : Nat) : State :=
  (c.others.foldl (fun s j => s.collSend c j 3 d 0 []) s).collEnd k c (some d)

/-- The elements of this member's own block. -/
def Coll.own (c : Coll) : Nat := (c.sndPart c.rank).2

/-- A collective completes once RCV is written and SND is no longer read; RCV's lines leave the issuing core's L1 (R351). -/
def State.collDone (s : State) (k : Nat) : State :=
  match FMap.find? s.colls k with
  | none => s
  | some c =>
    if c.g ≤ c.dest && c.sizes.2 ≤ c.done && (!c.reduces || c.g * c.own ≤ c.got) then
      (s.l1DropSpan c.unit c.org.guidon c.rcv (c.sizes.2 * ctyBytes c.m.ty)).collEnd k c none
    else s

/-- The next piece of SND is read, and goes to the member whose it is (R351). (DEDUCED, log 57) -/
def State.collPart (s : State) (k : Nat) (c : Coll) : State :=
  let x := c.sndPart c.dest
  let n := ctyBytes c.m.ty
  let m := min c.piece (x.2 - c.pos)
  if m = 0 then s.setColl k { c with dest := c.dest + 1, pos := 0 } else
  match s.doneOf (.coll k 0) with
  | .none => s.newReq (engineReq (.coll k 0) .read c.org (pInto c.snd ((x.1 + c.pos) * n)) (m * n) .load 0)
  | .wait => s
  | .failed _ => s.collFail k c 3
  | .bytes bs =>
    ((s.dropClient (.coll k 0)).setColl k { c with pos := c.pos + m }).collSend c c.dest (if c.reduces then 1 else 2) (if c.reduces then c.dest else c.rank) c.pos (elemsOf n bs)

/-- Go on with a collective's own part. -/
def State.collGo (s : State) (k : Nat) : State :=
  match FMap.find? s.colls k with
  | none => s
  | some c => if c.heard.length < c.g then s else if c.dest < c.g then s.collPart k c else s.collDone k

/-- The collective that a packet belongs to. -/
def State.collOf (s : State) (tag : W32) : Option (Nat × Coll) := List.find? (fun x : Nat × Coll => x.2.tag = tag) s.colls

/-- Take a packet of a collective (R351): a descriptor, a contribution to this member's own block, finished elements, or a failure. (DEDUCED, log 57) -/
def State.collTake (s : State) (id : Nat) (m : CMsg) (k : Nat) (c : Coll) : State :=
  let taken : State := { s with cmsgs := FMap.erase s.cmsgs id }
  match m.kind with
  | 0 => if m.vals = c.desc then (taken.setColl k { c with heard := c.heard ++ [m.rank] }) else taken.collFail k c 1
  | 1 =>
    let acc := m.vals.zipIdx.foldl (fun (a : FMap (W64 × Bool)) x =>
      let i := m.first + x.2
      FMap.insert a i (match FMap.find? a i with | some y => combineElem c.m y x.1 | none => x.1)) c.acc
    let c' := { c with acc := acc, got := c.got + m.vals.length }
    let s := taken.setColl k c'
    if c'.got < c.g * c.own then s
    else
      let pieces := (List.range ((c.own + c.piece - 1) / c.piece)).map fun i => i * c.piece
      let vals (f : Nat) : List (W64 × Bool) := (List.range (min c.piece (c.own - f))).map fun i => FMap.getD acc (f + i) (0, false)
      if c.m.kind = .allreduce then (List.range c.g).foldl (fun s j => pieces.foldl (fun s f => s.collSend c' j 2 c.rank f (vals f)) s) s
      else pieces.foldl (fun s f => s.collSend c' c.rank 2 0 f (vals f)) s
  | 2 =>
    let n := ctyBytes c.m.ty
    (match s.doneOf (.coll k (id + 1)) with
     | .none => s.newReq (engineReq (.coll k (id + 1)) .write c.org (pInto c.rcv ((c.rcvAt m.blk + m.first) * n)) (m.vals.length * n) (storeOf (bytesOf n m.vals)) 0)
     | .wait => s
     | .failed _ => s.collFail k c 3
     | .bytes _ => ((taken.dropClient (.coll k (id + 1))).setColl k { c with done := c.done + m.vals.length }).collDone k)
  | _ => taken.collEnd k c (some m.blk)

/-- COLL_CONTRIBUTION (R351): a packet that has arrived is taken by its collective, or a collective goes on with its own part. A hoist pauses
both (R151). -/
def State.collStep (s : State) (id : Nat) : State :=
  if s.hoist.isSome then s else
  match FMap.find? s.cmsgs id with
  | some m => (match s.collOf m.tag with | some (k, c) => s.collTake id m k c | none => s)
  | none => s.collGo id

/-- COLL_CONTRIBUTION: `id` is a packet or a collective. -/
def execCollContribution (id : Nat) (s : State) : Host.Outcome State Fault Refusal := .next (s.collStep id)

/-! ## COLL -/

/-- The trap "collective" with its detail. -/
def collTrap (d : Nat) : Stop := .trap { cause := .collective, detail := d }

/-- A module is a member of the trust domain (R144). -/
def State.member (s : State) (m : Nat) : Bool := s.regs.mask.getLsbD m

/-- The member list that COLL reads at issue. -/
def readList (c : Iss) (p : W64) (g : Nat) : Except Stop (List Nat) :=
  match boundLabel c 0 p .read (2 * g) with
  | .error e => .error e
  | .ok _ =>
    match issueReads c 2 ((List.range g).map fun j => (0, pInto p (2 * j))) with
    | .error e => .error e
    | .ok bs => if bs.any (fun y => y.any fun b => b.2) then .error (consume c 0) else .ok (bs.map fun y => leNat (y.map fun b => b.1))

/-- COLL (R351). -/
def execColl (m : Mods.Coll) (o : Args) (s : State) : Host.Outcome State Fault Refusal :=
  issue o s false false fun c =>
    match tileStart c (.coll m o) o 2 4 with
    | .error x => .error x
    | .ok ts =>
      if ts.isEmpty then .ok c.s else
      let d := descWords c o.a.x
      let rank := bf (dw d 2) 48 16
      let g := bf (dw d 2) 32 16
      let tag := BitVec.ofNat 32 (srcs c (.coll m o) o 0).2.2.v
      if g ≤ rank || 512 < g then .error (collTrap 1)
      else
        match readList c (dw d 3) g with
        | .error x => .error x
        | .ok lst =>
          if (distinct lst).length ≠ g || (lst[rank]?).getD 0 ≠ c.s.modNo || !lst.all c.s.member then .error (collTrap 1)
          else if (c.s.collOf tag).isSome then .error (collTrap 2)
          else
            let k : Coll := { op := c.s.nextId, unit := unitOfGid c.gid, m := m, tag := tag, snd := dw d 0, rcv := dw d 1, rank := rank, g := g, n := bf (dw d 2) 0 32, lst := lst
                              heard := [rank], org := routeOrg c 0 (dw d 0) }
            let n := ctyBytes m.ty
            match boundHere c k.snd .read (k.sizes.1 * n), boundHere c k.rcv .write (k.sizes.2 * n) with
            | .error x, _ => .error x
            | _, .error x => .error x
            | .ok _, .ok _ =>
              let s := c.s.commit c.g.blk
              if !s.ownReleased c.gid .mod || counterFull c.g.net || s.acquiring c.gid then .error (.wait s)
              else
                let x := ((s.noRestart c.g.blk).issueDrop c.gid).netBegin c.gid .coll
                let s := { x.1 with colls := FMap.insert x.1.colls x.1.nextId { k with op := x.2 }, nextId := x.1.nextId + 1 }
                .ok (k.others.foldl (fun s j => s.collSend k j 0 0 0 k.desc) s)

/-! ## WAITC (R169) -/

/-- What `WAITC` meets: nothing that is left, an operation that has not completed, or a failed one. -/
inductive Met
  | clear
  | busy
  | failed (t : Trap) (s : State)
  deriving DecidableEq, Repr

/-- The copies that a wait meets: the oldest decides (R165). -/
def State.metCopy (s : State) (gid lim : Nat) : Met :=
  match (s.copies.filter fun x => x.2.gid = gid && x.2.num < lim).foldl (fun m x => match m with | none => some x | some y => if x.2.num < y.2.num then some x else some y) none with
  | none => .clear
  | some (k, c) =>
    (match c.done, c.failed with
     | true, some r => .failed { cause := .copyFailed, aux0 := BitVec.ofNat 32 c.id, frec := r } { s with copies := FMap.erase s.copies k }
     | _, _ => .busy)

/-- The engine operations that a wait meets (R277). -/
def State.metMatrix (s : State) (gid lim : Nat) : Met :=
  match (s.eops.filter fun x => x.2.gid = gid && x.2.num < lim).foldl (fun m x => match m with | none => some x | some y => if x.2.num < y.2.num then some x else some y) none with
  | none => .clear
  | some (k, e) => if e.done && e.failed.isSome then .failed (matrixFailed e) { s with eops := FMap.erase s.eops k } else .busy

/-- The network operations that a wait meets (R346, R351). -/
def State.metNet (s : State) (gid lim : Nat) : Met :=
  match (s.nops.filter fun x => x.2.gid = gid && x.2.num < lim).foldl (fun m x => match m with | none => some x | some y => if x.2.num < y.2.num then some x else some y) none with
  | none => .clear
  | some (k, n) =>
    (match n.done, n.fail with
     | true, some d => .failed { cause := if n.what = .coll then .collectiveFailed else .routingFailed, detail := d } { s with nops := FMap.erase s.nops k }
     | _, _ => .busy)

/-- Vector packets and atomics with return that a wait meets. -/
def State.metOps (s : State) (gid lim : Nat) (atm : Bool) : Met :=
  if s.ops.any fun x => match x.2 with
    | .gth o => !atm && o.gid = gid && o.num < lim
    | .atom o => atm && o.gid = gid && o.dst.isSome && o.gth.isNone && o.num < lim
    | _ => false
  then .busy else .clear

/-- What `WAITC` meets in a class when all but the `n` most recent operations must be complete. -/
def State.met (s : State) (gid : Nat) (m : CClass) (n : Nat) : Met :=
  let g := s.grp gid
  match m with
  | .cpy => s.metCopy gid (g.cpyN - n)
  | .mma => s.metMatrix gid (g.mmaN - n)
  | .gth => s.metOps gid (g.gthN - n) false
  | .net => s.metNet gid (g.netN - n)
  | .atm => s.metOps gid (g.atmN - n) true

/-- WAITC (R169): an operand of 255 or more retires at once; the operations it covers are from here on earlier writes of the group (R324). -/
def execWaitc (m : CClass) (o : Args) (s : State) : Host.Outcome State Fault Refusal :=
  issueOr o s false false fun c =>
    match start c (.waitc m o) o with
    | .error x => .error x
    | .ok ts =>
      let n := (srcs c (.waitc m o) o 0).2.1.v
      if ts.isEmpty || 255 ≤ n then .ok (.ok c.s) else
      match c.s.met c.gid m n with
      | .busy => .error (if m = .net then .hang c.s 5 else .wait c.s)
      | .failed t s => .ok (.error (s.takeTrap c.gid t))
      | .clear =>
        .ok (.ok (match m with
          | .cpy => c.s.covered c.gid fun x => !x.mma && x.num < c.g.cpyN - n
          | .mma => c.s.covered c.gid fun x => x.mma && x.num < c.g.mmaN - n
          | _ => c.s))

end Sys2Proof.Machine
end

