-- ==== Sys2Proof/Machine/Control.lean ====
section
/-! DEFINITION. Control flow (R248 to R253). -/

namespace Sys2Proof.Machine

open Sys2Proof Sys2Proof.Decode

/-- Continue at an index. -/
def Iss.goto (c : Iss) (g : Group) (pc : W32) : State := c.s.setGrp c.gid { g with pc := pc }
/-- Continue at the next index. -/
def Iss.next (c : Iss) (g : Group) : State := c.goto g (c.g.pc + 1)

/-- Whether a branch is taken by its guard, or "divergent branch" (R249). `ts` are the threads whose guard holds. -/
def taken (c : Iss) (u : Bool) (m : BMode) (ts : List Nat) : Except Stop Bool :=
  let n := (activeThreads c.g).length
  if u then .ok (ts ≠ [])
  else match m with
    | .any => .ok (ts ≠ [])
    | .all => .ok (decide (ts.length = n))
    | .uni => if ts.length = n then .ok true else if ts = [] then .ok false else .error (.trap { cause := .divergent })

/-- The index plus a displacement, modulo 2^32 (R249). -/
def target (c : Iss) (disp : Nat) : W32 := c.g.pc + BitVec.ofNat 32 disp

/-- BRA (R249). -/
def execBra (m : BMode) (o : Args) (s : State) :=
  issue o s true false fun c =>
    match start c (.bra m o) o with
    | .error x => .error x
    | .ok ts =>
      match taken c o.hdr.u m ts with
      | .error e => .error e
      | .ok b => .ok (if b then c.goto c.g (target c (readOp c 0 (spec (.bra m o)).a o.a.x o.b.x).v) else c.next c.g)

/-- BRAI (R249): the target is (a + b) mod 2^32; B may not differ among the active threads. -/
def execBrai (o : Args) (s : State) :=
  issue o s true false fun c =>
    match start c (.brai o) o with
    | .error x => .error x
    | .ok ts =>
      match taken c o.hdr.u .uni ts with
      | .error e => .error e
      | .ok false => .ok (c.next c.g)
      | .ok true =>
        match ts with
        | [] => .ok (c.next c.g)
        | t :: rest =>
          let x := srcs c (.brai o) o t
          if rest.any fun t' => (srcs c (.brai o) o t').2.2.v ≠ x.2.2.v then .error (.trap { cause := .divergent })
          else .ok (c.goto c.g (BitVec.ofNat 32 (x.2.1.v + x.2.2.v)))

/-- CALL (R249): wd := index + 1, only when it branches. -/
def execCall (m : BMode) (o : Args) (s : State) :=
  issue o s true false fun c =>
    match start c (.call m o) o with
    | .error x => .error x
    | .ok ts =>
      match taken c o.hdr.u m ts with
      | .error e => .error e
      | .ok false => .ok (c.next c.g)
      | .ok true =>
        .ok (c.goto (writeOp c.g 0 32 o.d.x { v := (c.g.pc + 1).toNat }) (target c (readOp c 0 (spec (.call m o)).a o.a.x o.b.x).v))

/-- RET (R249). (DEDUCED, log 24) -/
def execRet (o : Args) (s : State) :=
  issue o s true false fun c =>
    match start c (.ret o) o with
    | .error x => .error x
    | .ok ts =>
      match taken c o.hdr.u .uni ts with
      | .error e => .error e
      | .ok b => .ok (if b then c.goto c.g (BitVec.ofNat 32 (readOp c 0 (spec (.ret o)).a o.a.x o.a.x).v) else c.next c.g)

/-! ## The mask stack (R250, R251) -/

/-- The threads of a mask for which the predicate A holds. -/
def predMask (c : Iss) (x : Opd) : BitVec 32 :=
  BitVec.ofNat 32 ((activeThreads c.g).foldl (fun m t => if (readPr c t x).v then m + 2 ^ t else m) 0)

/-- The trap "mask stack". -/
def maskTrap (d : Nat) : Stop := .trap { cause := .maskStack, detail := d }

/-- A control instruction of the mask stack: it takes no guard and acts on the group. -/
def maskOp (i : Instr) (o : Args) (s : State) (f : Iss → Except Stop State) : Host.Outcome State Fault Refusal :=
  issue o s true false fun c =>
    match start c i o with
    | .error x => .error x
    | .ok _ => f c

/-- The displacement in B. -/
def dispB (c : Iss) (i : Instr) (o : Args) : Nat := (readOp c 0 (spec i).b o.b.x o.b.x).v

/-- IFP. -/
def execIfp (o : Args) (s : State) :=
  maskOp (.ifp o) o s fun c =>
    if 16 ≤ c.g.stack.length then .error (maskTrap 1)
    else
      let p := predMask c o.a.x
      .ok (c.next { c.g with stack := ⟨.ifThen, c.g.act, c.g.act &&& p, target c (dispB c (.ifp o) o), 0⟩ :: c.g.stack, act := c.g.act &&& p })

/-- ELSP. -/
def execElsp (o : Args) (s : State) :=
  maskOp (.elsp o) o s fun c =>
    match c.g.stack with
    | e :: rest =>
      if e.kind = .ifThen then
        .ok (c.next { c.g with stack := { e with kind := .ifElse, res := target c (dispB c (.elsp o) o) } :: rest, act := e.m &&& ~~~e.t })
      else .error (maskTrap 2)
    | [] => .error (maskTrap 2)

/-- ENDP. -/
def execEndp (o : Args) (s : State) :=
  maskOp (.endp o) o s fun c =>
    match c.g.stack with
    | e :: rest => if e.kind = .loop then .error (maskTrap 2) else .ok (c.next { c.g with stack := rest, act := e.m })
    | [] => .error (maskTrap 2)

/-- LOOPB. -/
def execLoopb (o : Args) (s : State) :=
  maskOp (.loopb o) o s fun c =>
    if 16 ≤ c.g.stack.length then .error (maskTrap 1)
    else .ok (c.next { c.g with stack := ⟨.loop, c.g.act, 0, target c (dispB c (.loopb o) o), c.g.pc + 1⟩ :: c.g.stack })

/-- Threads leave the IF entries above the innermost LOOP entry; with `cont` that entry takes them as continued (R251). -/
def leaveLoop (x : BitVec 32) (cont : Bool) : List MEntry → Option (List MEntry)
  | [] => none
  | e :: rest =>
    if e.kind = .loop then some ((if cont then { e with t := e.t ||| x } else e) :: rest)
    else (leaveLoop x cont rest).map fun r => { e with m := e.m &&& ~~~x, t := e.t &&& ~~~x } :: r

/-- BRKP. -/
def execBrkp (o : Args) (s : State) :=
  maskOp (.brkp o) o s fun c =>
    let x := c.g.act &&& predMask c o.a.x
    match leaveLoop x false c.g.stack with
    | none => .error (maskTrap 2)
    | some st => .ok (c.next { c.g with stack := st, act := c.g.act &&& ~~~x })

/-- CONTP. -/
def execContp (o : Args) (s : State) :=
  maskOp (.contp o) o s fun c =>
    let x := c.g.act &&& predMask c o.a.x
    match leaveLoop x true c.g.stack with
    | none => .error (maskTrap 2)
    | some st => .ok (c.next { c.g with stack := st, act := c.g.act &&& ~~~x })

/-- LOOPE: continued threads do not test the predicate. -/
def execLoope (o : Args) (s : State) :=
  maskOp (.loope o) o s fun c =>
    match c.g.stack with
    | e :: rest =>
      if e.kind ≠ .loop then .error (maskTrap 2)
      else
        let a := (c.g.act &&& predMask c o.a.x) ||| e.t
        if a ≠ 0 then .ok (c.goto { c.g with stack := { e with t := 0 } :: rest, act := a } e.body)
        else .ok (c.next { c.g with stack := rest, act := e.m })
    | [] => .error (maskTrap 2)

/-! ## EXIT, NOP, REGN, YIELD (R252, R253) -/

/-- The mask of some threads. -/
def maskOf (ts : List Nat) : BitVec 32 := BitVec.ofNat 32 (ts.foldl (fun m t => m ||| 2 ^ t) 0)

/-- EXIT (R252): the acting threads leave every mask; a group with no thread in any mask has ended. -/
def execExit (o : Args) (s : State) :=
  issue o s false true fun c =>
    match start c (.exit o) o with
    | .error x => .error x
    | .ok ts =>
      if ts = [] then .ok c.s
      else if o.hdr.u then .ok (c.s.endGroup c.gid)
      else
        let e := maskOf ts
        let g := { c.g with
          act := c.g.act &&& ~~~e
          stack := c.g.stack.map fun x => { x with m := x.m &&& ~~~e, t := x.t &&& ~~~e } }
        if g.act = 0 && g.stack.all fun x => x.m = 0 && x.t = 0 then .ok (c.s.endGroup c.gid) else .ok (c.s.setGrp c.gid g)

/-- NOP. -/
def execNop (o : Args) (s : State) :=
  issue o s false false fun c =>
    match start c (.nop o) o with
    | .error x => .error x
    | .ok _ => .ok c.s

/-- REGN (R253, R359): a region begins; `%ent` counts, and the resume index, mask and stack are recorded. -/
def execRegn (o : Args) (s : State) :=
  issue o s false false fun c =>
    match start c (.regn o) o with
    | .error x => .error x
    | .ok ts =>
      if ts = [] then .ok c.s
      else .ok (c.s.setGrp c.gid { c.g with ent := c.g.ent + 1, rgn := some ⟨c.g.pc + 1, c.g.act, c.g.stack⟩ })

/-- YIELD (R253): ends the run, behind every other ready group of its priority on the lane. -/
def execYield (o : Args) (s : State) :=
  issue o s false true fun c =>
    match start c (.yield o) o with
    | .error x => .error x
    | .ok ts => if ts = [] then .ok c.s else .ok (c.s.setGrp c.gid { c.g with yielded := true })

end Sys2Proof.Machine
end

