-- ==== Sys2Proof/Machine/Domain.lean ====
section
/-! DEFINITION. Interleave-domain switches (R110, R111, R396, R397). -/

namespace Sys2Proof.Machine

open Sys2Proof

/-- A domain of the cache die. -/
def State.dom (s : State) (d : Nat) : Dom := FMap.getD s.doms d {}
/-- Write a domain. -/
def State.setDom (s : State) (d : Nat) (x : Dom) : State := { s with doms := FMap.put s.doms d x {} }

/-- The code of the check that staged values fail (R111, Table 5-1); 0 where they pass. A switch that runs holds the slices it is to install, too. -/
def State.domCheck (s : State) (d : Nat) (x : Dom) : Nat :=
  let n := (slicesOf x.slices).length
  let k := Nat.log2 n
  if n = 0 || 2 ^ k ≠ n then 1
  else if s.doms.any fun y => y.1 ≠ d && ((y.2.act && (y.2.aslices &&& x.slices) ≠ 0) || (y.2.busy && y.2.nen && (y.2.nslices &&& x.slices) ≠ 0)) then 2
  else if (List.range 6).any fun j => k ≤ j && (x.hm[j]?).getD 0 ≠ 0 then 3
  else 0

/-- A write of 1 to GO (R111): the switch takes the staged values as they stand; what is staged while it runs changes nothing until the next GO (R110). -/
def State.domainGo (s : State) (d : Nat) : State :=
  let x := s.dom d
  if x.busy then s.setDom d { x with err := 4 }
  else if x.en && s.domCheck d x ≠ 0 then s.setDom d { x with err := s.domCheck d x }
  else s.setDom d { x with busy := true, nslices := x.slices, nhm := x.hm, nen := x.en }

/-- Some request keeps the walk from beginning: one stamped with the epoch before the domain's is between issue and slice, or a packed atomic stands between
its halves (R111, R186). -/
def State.oldRequest (s : State) (d : Nat) : Bool :=
  s.reqs.any fun q => (q.2.inSlice || q.2.home.isSome) &&
    (q.2.stamp = some (d, ((s.dom d).epoch + 255) % 256) || (q.2.half && q.2.stamp = some (d, (s.dom d).epoch)))

/-- The walk begins (R396). -/
def State.domainWalk (s : State) (d : Nat) : State :=
  let x := s.dom d
  if x.busy && !x.walking && !s.oldRequest d then s.setDom d { x with walking := true } else s

/-- The lines that a switch moves or drops: those of the domain's old slices whose home changes (R111). -/
def State.movedLines (s : State) (x : Dom) : List Tag :=
  if !x.act then [] else
  (s.l2.filter fun l => x.aslices.getLsbD l.2.slice && (!x.nen || homeSlice x.nslices x.nhm (tagOf l.1) ≠ l.2.slice)).map fun l => tagOf l.1

/-- Insert a request by its arrival. -/
def byArrival (x : Nat × Req) : List (Nat × Req) → List (Nat × Req)
  | [] => [x]
  | y :: ys => if x.2.arrived ≤ y.2.arrived then x :: y :: ys else y :: byArrival x ys

/-- The requests that a domain's switch holds at chip-level issue, in order of arrival. -/
def State.domainHeldBy (s : State) (d : Nat) : List (Nat × Req) :=
  (s.reqs.filter fun x => match x.2.stage with | .domainHeld e => decide (e = d) | _ => false).foldr byArrival []

/-- The end of a switch (R111): once every moved line has been written back and dropped, the values taken at GO become active, the epoch advances, and
the requests held at issue go on under them, in order of arrival (R396). (DEDUCED, log 67) -/
def State.domainEnd (s : State) (d : Nat) : State :=
  let x := s.dom d
  if !x.busy || !x.walking then s else
  let s := (s.movedLines x).foldl (fun s t => match s.line? t with | some l => if l.wb = 0 then s.writeBack t true else s | none => s) s
  if !(s.movedLines x).isEmpty then s else
  let s := s.setDom d { x with aslices := x.nslices, ahm := x.nhm, act := x.nen, epoch := (x.epoch + 1) % 256, err := 0, busy := false, walking := false }
  (s.domainHeldBy d).foldl (fun s x => s.issueTo x.1 x.2) s

/-- DOMAIN_SWITCH_GO (R111). -/
def execDomainSwitchGo (id : Nat) (s : State) : Host.Outcome State Fault Refusal := .next (s.domainGo id)
/-- DOMAIN_WALK_BEGIN (R396). -/
def execDomainWalkBegin (id : Nat) (s : State) : Host.Outcome State Fault Refusal := .next (s.domainWalk id)
/-- DOMAIN_SWITCH_END (R111). -/
def execDomainSwitchEnd (id : Nat) (s : State) : Host.Outcome State Fault Refusal := .next (s.domainEnd id)

end Sys2Proof.Machine
end

