-- ==== Sys2Proof/Machine/Fabric.lean ====
section
/-! DEFINITION. The fabric: flits, ports, credits, flows, seal groups, tentative data, attestation and the hoist (R126 to R152).
Packets are applied as they arrive, but for releases (R132, R327). -/

namespace Sys2Proof.Machine

open Sys2Proof Sys2Proof.Decode

/-! ## Ports and planes (R126, R129, R130, R138) -/

/-- A port's registers. -/
def State.port (s : State) (p : Nat) : Port := FMap.getD s.ports p {}
/-- Write a port's registers. -/
def State.setPort (s : State) (p : Nat) (x : Port) : State := { s with ports := FMap.put s.ports p x {} }
/-- Write a flow. -/
def State.setFlow (s : State) (m : Nat) (f : Flow) : State := { s with flows := FMap.put s.flows m f {} }
/-- A port carries traffic. -/
def Port.works (p : Port) : Bool := p.st = 2 || p.st = 3
/-- The VC whose buffer and credits a VC's flits use (Table 6-4). -/
def Port.vcOf (p : Port) (vc : Nat) : Nat :=
  if vc = 2 && 1 ≤ p.vcmap then 0 else if vc = 3 && p.vcmap = 2 then 1 else vc
/-- An entry of a port's counters. -/
def cnt (l : List Nat) (v : Nat) : Nat := (l[v]?).getD 0
/-- Add to an entry of a port's 32-bit counters, which wrap (R135). -/
def bump (l : List Nat) (v n : Nat) : List Nat := l.mapIdx fun i x => if i = v then (x + n) % 2 ^ 32 else x
/-- One more of a saturating 32-bit register (R137). -/
def sat32 (n : Nat) : Nat := min (2 ^ 32 - 1) n

/-- Some working plane reaches a peer (R130, R139). -/
def State.reaches (s : State) (m : Nat) : Bool := (List.range 48).any fun p => (s.flow m).mask.getLsbD p && (s.port p).works
/-- The next plane in the round robin over those that reach a peer (R130). -/
def State.nextPlane (s : State) (m : Nat) : Option Nat :=
  ((List.range 48).map fun i => (s.lastPlane + 1 + i) % 48).find? fun p => (s.flow m).mask.getLsbD p && (s.port p).works
/-- Each peer that no plane reaches, whose flow is stopped, or that has left the domain, is in recovery; one that is reached again has left it (R139, R151, R339). -/
def State.reachCheck (s : State) : State :=
  { s with flows := FMap.mapVals s.flows fun m f =>
      if s.reaches m && !f.stopped && (!s.regs.memb || s.regs.mask.getLsbD m) then { f with recov := none, lost := false, back := if f.recov.isSome then s.now else f.back }
      else { f with recov := match f.recov with | some t => some t | none => some s.now } }

/-! ## Seal groups at egress (R145, R148) -/

/-- The payload bytes of a packet. (DESIGN CHOICE, log 61) -/
def Packet.bytes (p : Packet) : Nat :=
  match p.body with
  | .req _ _ _ _ _ pay _ _ more => pay.bytes + (more.map fun x => x.2.2.1.bytes).sum + (if more.isEmpty then 0 else 2 * (more.length + 1))
  | .data _ _ b => b.length
  | .token _ _ _ _ pay => 32 + pay.length
  | .back _ _ => 32
  | .coll _ _ k _ _ v => if k = 0 then 16 + 2 * v.length else 4 * v.length
  | _ => 0

/-- The flits of a packet (R127): 240 payload bytes each; where it ends its seal group, the 16 bytes of the tag find room in the last (R145). (DESIGN CHOICE, log 61) -/
def Packet.flits (p : Packet) (last : Bool) : Nat := flitsFor (p.bytes + if last then 16 else 0)

/-- The flits of some packets that make a seal group. -/
def flitsOf : List Packet → Nat
  | [] => 0
  | [p] => p.flits true
  | p :: ps => p.flits false + flitsOf ps

/-- The packets of a VC that one seal group takes: consecutive ones of the flow, whole, in at most 16 flits (R131, R145); `got` has been taken already. -/
def sealRun (vc : Nat) : List Packet → List Packet → List Packet
  | got, [] => got
  | got, p :: ps =>
    match got.getLast? with
    | none => if p.vc = vc then sealRun vc [p] ps else sealRun vc got ps
    | some l => if p.vc = vc && p.seq = l.seq + 1 && flitsOf (got ++ [p]) ≤ 16 then sealRun vc (got ++ [p]) ps else got

/-- The header of a flow flit (Table 6-1): first and last of its packet, its index in the seal group, and whether it ends that. -/
def flitHdr (src dst : Nat) (p : Packet) (sop eop : Bool) (sgi : Nat) (sgl : Bool) : BitVec 128 :=
  BitVec.ofNat 128 (p.seq % 2 ^ 64 + p.fep % 65536 * 2 ^ 64 + p.gen % 256 * 2 ^ 90 + dst % 512 * 2 ^ 98 + src % 512 * 2 ^ 107 + sgl.toNat * 2 ^ 116
    + sgi % 16 * 2 ^ 117 + p.rel.toNat * 2 ^ 121 + eop.toNat * 2 ^ 122 + sop.toNat * 2 ^ 123 + p.vc % 4 * 2 ^ 126)

/-- The headers of a seal group's flits from an index on, in order. -/
def sealHdrs (src dst : Nat) : Nat → List Packet → List (BitVec 128)
  | _, [] => []
  | i, p :: ps =>
    let n := p.flits ps.isEmpty
    ((List.range n).map fun j => flitHdr src dst p (j = 0) (j + 1 = n) (i + j) (ps.isEmpty && j + 1 = n)) ++ sealHdrs src dst (i + n) ps

/-- The part of a port's replay buffer that the last 64 flits fill (R128). -/
def lastFlits : Nat → List (Nat × Nat) → List (Nat × Nat)
  | _, [] => []
  | left, x :: xs => if x.2 ≤ left then x :: lastFlits (left - x.2) xs else []

/-- How many flits of a VC a port may send now: one each time that SENT − FREED is below the limit (R135). -/
def Port.room (x : Port) (vc : Nat) : Nat :=
  let v := x.vcOf vc
  cnt x.lim v - (cnt x.sent v + 2 ^ 32 - cnt x.freed v) % 2 ^ 32

/-- Replace a seal group of a flow. -/
def State.setSeal (s : State) (m : Nat) (g : Seal) : State := s.setFlow m { s.flow m with out := (s.flow m).out.map fun y => if y.id = g.id then g else y }

/-- Send what the credits allow of a seal group's flits at its port (R135); a group whose port no longer reaches the peer goes to another plane from its
first flit (R130). SENT rises, and the link's replay buffer holds the flits (R128). -/
def State.push (s : State) (m : Nat) (g : Seal) : State :=
  let here := (s.port g.port).works && (s.flow m).mask.getLsbD g.port
  match if here then some g.port else s.nextPlane m with
  | none => s.setSeal m { g with left := g.flits }
  | some p =>
    let g := if here then g else { g with port := p, left := g.flits }
    let x := s.port p
    let k := min g.left (x.room g.vc)
    ({ (s.setPort p { x with sent := bump x.sent (x.vcOf g.vc) k, replay := if k = 0 then x.replay else lastFlits 64 ((g.id, k) :: x.replay) }) with
        lastPlane := if here then s.lastPlane else p }).setSeal m { g with left := g.left - k }

/-- SEAL_GROUP_CLOSE (R130, R145): the egress goes on with a seal group of a VC that has waited for credit, or closes the next one, at the next plane that
reaches the peer and has credit. Its number is the SEQ of its first packet. (DEDUCED, log 62) -/
def State.sealClose (s : State) (m vc : Nat) : State :=
  let f := s.flow m
  if s.regs.mod.isNone || f.stopped then s else
  match f.out.find? fun g => g.vc = vc && g.left ≠ 0 with
  | some g => s.push m g
  | none =>
    match sealRun vc [] f.wait, s.nextPlane m with
    | p :: ps, some n =>
      if (s.port n).room vc = 0 then s else
      let k := flitsOf (p :: ps)
      let g : Seal := { id := p.seq, peer := m, port := n, vc := vc, pkts := p :: ps, flits := k, closed := true, left := k, hdrs := sealHdrs s.modNo m 0 (p :: ps) }
      ({ s with lastPlane := n }.setFlow m { f with wait := f.wait.filter fun x => !(p :: ps).contains x, out := f.out ++ [g] }).push m g
    | _, _ => s

/-! ## Tentative data (R146) -/

/-- The name of a seal group from a peer. -/
def sealKey (m id : Nat) : Nat := m * 2 ^ 64 + id
/-- Every seal group that had delivered to a block by its `m`-th tentative delivery has verified. -/
def Block.settled (b : Block) (m : Nat) : Bool := b.seals.all fun x => m < x.2
/-- A mark once its seal groups have verified. -/
def Block.clearMark (b : Block) (o : Option Nat) : Option Nat := match o with | some m => if b.settled m then none else some m | none => none
/-- A register state once its seal groups have verified. -/
def Block.clearState (b : Block) (st : RState) : RState := match st with | .tent m => if b.settled m then .full else st | st => st

/-- The block whose operation a request serves. -/
def State.reqBlock (s : State) (q : Req) : Option Nat :=
  let of (k : Nat) : Option Nat := match FMap.find? s.ops k with
    | some (.load o) => (FMap.find? s.groups o.gid).map fun g => g.blk
    | some (.atom o) => (FMap.find? s.groups o.gid).map fun g => g.blk
    | _ => none
  match q.client with
  | .load op => of op
  | .write w => (match (FMap.find? s.wrs w).map (fun x : Wr => x.data) with | some (.atom op _ _ _) => of op | _ => none)
  | _ => none

/-- Bring a block's marks up to date after a seal group has verified: TENT registers become FULL, and what waits for them goes on (R146, R147). -/
def State.clearTents (s : State) (k : Nat) : State :=
  let b := s.blk k
  let mine (gid : Nat) : Bool := ((FMap.find? s.groups gid).map fun g => g.blk) = some k
  { s with
    groups := FMap.mapVals s.groups fun _ g => if g.blk ≠ k then g else { g with
      t := FMap.mapVals g.t fun _ r => { r with st := b.clearState r.st }
      w := FMap.mapVals g.w fun _ r => { r with st := b.clearState r.st }
      p := FMap.mapVals g.p fun _ r => { r with st := b.clearState r.st }
      q := FMap.mapVals g.q fun _ r => { r with st := b.clearState r.st } }
    wrs := FMap.mapVals s.wrs fun _ w => if w.blk = k then { w with tent := b.clearMark w.tent } else w
    ops := FMap.mapVals s.ops fun _ o => match o with
      | .load x => if mine x.gid then .load { x with tent := b.clearMark x.tent } else o
      | .atom x => if mine x.gid then .atom { x with tent := b.clearMark x.tent } else o
      | _ => o
    reqs := FMap.mapVals s.reqs fun _ q => if s.reqBlock q = some k then { q with tent := b.clearMark q.tent } else q }

/-- The request, or part of one, that a packet of a peer answers: by the packet's name, and the element and offset that the answer names (R131). -/
def State.asked (s : State) (m name off : Nat) : Option (Nat × Req) :=
  List.find? (fun x : Nat × Req => x.2.stage = .sent m name && x.2.sentOff ≤ off && off < x.2.sentOff + max 1 x.2.len) s.reqs

/-- The part of a request from its byte `a` on, `n` bytes long, still without an answer; its counts are those of the whole. -/
def Req.cut (q : Req) (a n : Nat) : Req :=
  { q with ptr := pPlus q.ptr a, ptr0 := pPlus q.ptr0 a, len := n, pay := q.pay.part a n, got := (q.got.drop a).take n, shared := q.shared ++ q.entries, entries := [] }

/-- One more part of a request, on its way as the request is; a part that would write nothing is none. -/
def State.addPart (s : State) (q : Req) : State :=
  if q.len = 0 || !q.pay.moves then s else { ((s.setReq s.nextId q).onePart q.client) with nextId := s.nextId + 1 }

/-- The answered bytes of a request, from `off` on, go on by themselves; what lies before and behind them waits for its own answer (R94, R131). -/
def State.carve (s : State) (id : Nat) (q : Req) (off n : Nat) : State × Req :=
  let a := off - q.sentOff
  if (a = 0 && q.len ≤ n) || q.kind = .atomic || q.home.isSome || (match q.pay with | .range _ | .grant _ => true | _ => false) then (s, q)
  else
    let x := q.cut a (min n (q.len - a))
    (((s.setReq id x).addPart (q.cut 0 a)).addPart (q.cut (a + n) (q.len - (a + n))), x)

/-- Deliver a reply's data before its seal group has verified: to registers only, never a `.const` one, from at most 8 groups a block (R146). -/
def State.early (s : State) (m key : Nat) (p : Packet) : State :=
  match p.body with
  | .data name off bs =>
    (match s.asked m name off with
     | none => s
     | some (id, q) =>
       match s.reqBlock q with
       | none => s
       | some k =>
         let b := s.blk k
         let has := b.seals.any fun x => x.1 = key
         if q.const || q.served || q.home.isSome || (!has && 8 ≤ b.seals.length) then s else
         let n := b.tents + 1
         let s := s.onBlk k fun b => { b with tents := n, seals := if has then b.seals else b.seals ++ [(key, n)] }
         match q.client with
         | .write w =>
           (match (FMap.find? s.wrs w).map (fun x : Wr => x.data) with
            | some (.atom op loc _ _) =>
              (s.atomResult op loc (valuesOf q.unitBytes (bs.map fun b => b.1)) (bs.any fun b => b.2) (some n)).setReq id { q with tent := some n }
            | _ => s)
         | _ =>
           let x := s.carve id q off bs.length
           x.1.setReq id { x.2 with served := true, result := bs, tent := some n })
  | _ => s

/-! ## Packets applied (R132, R133) -/

/-- Move `expect` past the packets that have been applied. -/
def advance : Nat → Nat → List Nat → Nat × List Nat
  | 0, e, l => (e, l)
  | n + 1, e, l => if l.contains e then advance n (e + 1) (l.filter fun x => x ≠ e) else (e, l)

/-- A packet of a flow has been applied, refused or returned. -/
def Flow.saw (f : Flow) (seq : Nat) : Flow :=
  let x := advance (f.ahead.length + 1) f.expect (f.ahead ++ [seq])
  { f with expect := x.1, ahead := x.2 }
/-- A packet of a flow has already been applied. -/
def Flow.had (f : Flow) (seq : Nat) : Bool := seq < f.expect || f.ahead.contains seq || f.held.any fun p => p.seq = seq

/-- Fault epoch `a` is older than `b`, as signed 16-bit differences (R133). (DEDUCED, log 67) -/
def epochOlder (a b : Nat) : Bool := 32768 ≤ (a % 65536 + 65536 - b % 65536) % 65536

/-- A packet has been answered, once every part of its request has (R131). (DEDUCED, log 68) -/
def State.answeredBy (s : State) (m name : Nat) : State :=
  if s.reqs.any fun x => x.2.stage = .sent m name then s
  else s.setFlow m { s.flow m with unacked := (s.flow m).unacked.filter fun x => x ≠ name }

/-- Another module's line for an L1 (R118, R146): what a `.const` reply brought, joined to what is held. -/
def State.constFill (s : State) (m : Nat) (q : Req) (bs : List Byte) : State :=
  let t := remoteTag q.org.ptr q.label
  s.onCore q.core fun c =>
    let old := (c.l1.find? fun l => l.mod = m && l.tag = t).map fun l => l.data
    let keep := c.l1.filter fun l => !(l.mod = m && l.tag = t)
    let data := (bs.mapIdx fun i b => (pOff q.ptr % 256 + i, b)).foldl (fun d x => if x.1 < 256 then FMap.insert d x.1 x.2 else d) (old.getD [])
    { c with l1 := (if 512 ≤ keep.length then keep.drop 1 else keep) ++ [{ mod := m, tag := t, data := data, ctx := gCtx q.org.guidon }] }

/-- Bytes of a line that another module's stack holds come to the line's slice: what the slice holds itself stands (R98, R108). -/
def State.bringLine (s : State) (t : Tag) (slice b : Nat) (bs : List (Byte × Bool)) : State :=
  let l := (s.line? t).getD { slice := slice }
  let new := (bs.mapIdx fun i x => (b + i, x)).filter fun x => (FMap.find? l.data x.1).isNone
  { s with l2 := FMap.insert s.l2 t.key { l with
      data := new.foldl (fun d x => FMap.insert d x.1 x.2.1) l.data
      pois := l.pois ++ (distinct ((new.filter fun x => x.2.2).map fun x => x.1 / 32)).filter fun x => !l.pois.contains x
      used := s.now } }

/-- Bytes of a line as another module's stack gives them, under what the slice holds itself. -/
def State.overLine (s : State) (t : Tag) (b : Nat) (bs : List (Byte × Bool)) : List (Byte × Bool) :=
  match s.line? t with
  | none => bs
  | some l => bs.mapIdx fun i x => if l.pois.contains ((b + i) / 32) then (0, true) else match FMap.find? l.data (b + i) with | some y => (y, false) | none => x

/-- A reply's data reach their request: at a home slice that has waited for its stack level, at a module that has passed the request on, or at its unit. -/
def State.replyData (s : State) (m name off : Nat) (bs : List (Byte × Bool)) : State :=
  match s.asked m name off with
  | none => s
  | some (id, q) =>
    let x := s.carve id q off bs.length
    let s := x.1
    let q := { x.2 with tent := none }
    match q.home, q.pay with
    | some (.line t b o sl), _ =>
      if q.kind = .write || q.kind = .atomic then (s.bringLine t sl b bs).granted id q t sl (.line t b o sl)
      else s.taken id q (.line t b o sl) (s.overLine t b bs)
    | _, .atomic .. => s.finish id q (valuesOf q.unitBytes (bs.map fun b => b.1)) (bs.any fun b => b.2)
    | _, .grant _ => (match q.client with | .foreign src seq => (s.dropReq id).send src 1 (.data seq q.wireOff bs) false | _ => s.dropReq id)
    | _, _ =>
      let s := if q.const && q.fill && !bs.any (fun b => b.2) then s.constFill m q (bs.map fun b => b.1) else s
      s.taken id q (.remote m) bs

/-- A write has been applied at another module, or a part of one: the report reaches whoever sent it. -/
def State.replyAck (s : State) (m name off len : Nat) : State :=
  match s.asked m name off with
  | none => s
  | some (id, q) => let x := s.carve id q off len; x.1.setReq id { x.2 with stage := .ready (.remote m), served := true }

/-- Another module refuses a request, or a part of one. -/
def State.replyRefusal (s : State) (m name off len : Nat) (r : Refuse) : State :=
  match s.asked m name off with
  | none => s
  | some (id, q) => let x := s.carve id q off len; x.1.refuse id { x.2 with home := none } { r with remote := true }

/-- A release-tagged write comes back "held behind fault": it enters its core's side log after the refused write, and is no fault (R133). (DEDUCED, log 68) -/
def State.heldBehind (s : State) (m name : Nat) : State :=
  (s.reqs.filter fun x => x.2.stage = .sent m name).foldl (fun s x =>
    match x.2.client with
    | .write _ => s.setReq x.1 { x.2 with stage := .behind }
    | .foreign src n => (s.dropReq x.1).send src 1 (.behind n) false
    | _ => s.dropReq x.1) s

/-- Every member has applied the stores of a sequencer up to a stamp: what this member keeps of them is dropped, and its loads return them (R116). -/
def State.stampPast (s : State) (home n : Nat) : State :=
  (s.reqs.filter fun x => x.2.served && (match x.2.mcast with | some (h, k) => h = home && k / 2 ^ 64 = n / 2 ^ 64 && k ≤ n | none => false)).foldl (fun s x => s.dropReq x.1) s

/-- The request that another module's packet, or an element of one, becomes at the level it asks for (R60, R61, R92, R115, R131). -/
def foreignReq (m name : Nat) (k : AKind) (lvl : Nat) (ptr : W64) (label len : Nat) (pay : Payload) (org : Origin) (fwd elem turn : Nat) : Req :=
  { client := .foreign m name, kind := k, org := org, ptr := ptr, label := label, len := len, pay := pay, fwd := fwd, elem := elem, turn := turn
    mcast := if lvl = 6 then some (m, label) else none
    stage := match lvl with
      | 2 => .port
      | 3 | 6 => .chip
      | 4 => .stack (pM ptr) (pI ptr) (pOff ptr) (.remote 0)
      | _ => .slice (.replica label (pI ptr) (pOff ptr)) }

/-- The requests that a packet brings: one, or one for each element. -/
def State.takeReqs (s : State) (m name : Nat) (k : AKind) (lvl : Nat) (label fwd : Nat) (xs : List (W64 × Nat × Payload × Origin)) : State :=
  xs.zipIdx.foldl (fun s x => s.newReq (foreignReq m name k lvl x.1.1 label x.1.2.1 x.1.2.2.1 x.1.2.2.2 fwd x.2 s.nextId)) s

/-- Clear a plane from a peer's mask: what has gone by it and is not verified counts as failed, and goes again on another plane (R130, R148). (DEDUCED, log 64) -/
def State.planeGone (s : State) (m plane : Nat) : State :=
  let s := s.setFlow m { s.flow m with mask := (s.flow m).mask &&& ~~~(1#48 <<< plane) }
  (((s.flow m).out.filter fun g => g.port = plane).foldl (fun s g => s.push m g) s).reachCheck

/-- What comes from another module for a routing engine. -/
def State.tokIn (s : State) (k : Token) : State := { s with toks := FMap.insert s.toks s.nextId { k with since := s.nextId }, nextId := s.nextId + 1 }

/-- Some payload bytes of a token have come; once all have, the token is on its way to its engine (R131, R345). -/
def State.tokBytes (s : State) (k : Token) (die first : Nat) (bs : List (Byte × Bool)) : State :=
  let old := List.find? (fun x : Nat × Token => x.2.hdr = k.hdr && x.2.ctx = k.ctx && x.2.exp = k.exp && (match x.2.at_ with | .coming _ _ => true | _ => false)) s.toks
  let s := if old.isSome then s else s.tokIn { k with pay := List.replicate (hLen k.hdr) (0, false), at_ := .coming die (hLen k.hdr) }
  match List.find? (fun x : Nat × Token => x.2.hdr = k.hdr && x.2.ctx = k.ctx && x.2.exp = k.exp && (match x.2.at_ with | .coming _ _ => true | _ => false)) s.toks with
  | some (id, x) =>
    (match x.at_ with
     | .coming d n =>
       let left := n - bs.length
       s.setTok id { x with pay := x.pay.take first ++ bs ++ x.pay.drop (first + bs.length), at_ := if left = 0 then .way d else .coming d left }
     | _ => s)
  | none => s

/-- The origin under which a routing engine acts for a context. -/
def State.tokOrg (s : State) (ctx die : Nat) : Origin := { ptr := 0, guidon := s.sysGuidon ctx 3, unit := routeUnit die }

/-- Apply a packet (R132): a request goes to its level, an answer to its request, anything else to its unit. -/
def State.applyPacket (s : State) (m : Nat) (p : Packet) : State :=
  let f := s.flow m
  let s := s.setFlow m { f.saw p.seq with seenFep := if p.vc = 1 && epochOlder f.seenFep p.fep then p.fep else f.seenFep }
  match p.body with
  | .req k lvl ptr label len pay org fwd more => s.takeReqs m (packetName p.gen p.seq) k lvl label fwd ((ptr, len, pay, org) :: more)
  | .data n off bs => (s.replyData m n off bs).answeredBy m n
  | .ack n off len => (s.replyAck m n off len).answeredBy m n
  | .refusal n off len r => (s.replyRefusal m n off len r).answeredBy m n
  | .stamped home n => s.stampPast home n
  | .behind n => (s.heldBehind m n).answeredBy m n
  | .token h ctx e first pay =>
    let d := (hDest h).2
    s.tokBytes { die := bf h 99 4, src := bf h 90 9, ctx := ctx, sess := bf h 112 16, exp := e, hdr := h, at_ := .back, org := s.tokOrg ctx d } d first pay
  | .back h ctx => s.tokIn { die := bf h 99 4, src := s.modNo, ctx := ctx, sess := bf h 112 16, exp := 0, hdr := h, at_ := .back, org := s.tokOrg ctx (bf h 99 4) }
  | .marker ctx sess e die src sdie => s.tokIn { die := sdie, src := src, ctx := ctx, sess := sess, exp := e, at_ := .way die, mark := true, org := s.tokOrg ctx die }
  | .tokenAck die ctx sess mark => s.tokIn { die := die, src := s.modNo, ctx := ctx, sess := sess, exp := 0, at_ := .ack, mark := mark, org := s.tokOrg ctx die }
  | .notice plane => s.planeGone m plane
  | .hoistAsk peer => s.service 6 peer
  | .coll tag rank kind blk first vals => { s with cmsgs := FMap.insert s.cmsgs s.nextId ⟨tag, rank, kind, blk, first, vals⟩, nextId := s.nextId + 1 }

/-- A write, atomic or reduction of a peer below a sequence number is neither performed nor refused (R133). -/
def State.unperformed (s : State) (m : Nat) (p : Packet) : Bool :=
  s.reqs.any fun x => match x.2.client with
    | .foreign m' n => m' = m && n < packetName p.gen p.seq && (x.2.kind = .write || x.2.kind = .atomic) && !x.2.served
    | _ => false

/-- RELEASE_PACKET_APPLY (R133): a held release-tagged packet, once everything older has been applied and performed or refused, is applied, or returned
"held behind fault" where a refusal that its source had not learned of holds it back. -/
def State.releaseApply (s : State) (m seq : Nat) : State :=
  let f := s.flow m
  match f.held.find? fun p => p.seq = seq with
  | none => s
  | some p =>
    if f.expect ≠ seq || s.unperformed m p then s else
    let s := s.setFlow m { f with held := f.held.filter fun x => x.seq ≠ seq }
    if f.refs.any fun r => r.1 < seq && epochOlder p.fep r.2 then
      (s.setFlow m ((s.flow m).saw seq)).send m 1 (.behind (packetName p.gen p.seq)) false
    else s.applyPacket m p

/-! ## Ingress (R132, R145, R148) -/

/-- The packet whose flit has a header (Table 6-1). -/
def State.packetOf (s : State) (h : BitVec 128) (body : PBody) : Packet :=
  { seq := bf h 0 64, rel := bt h 121, fep := bf h 64 16, vc := bf h 126 2, gen := s.regs.gen.toNat, body := body }

/-- A flit that has arrived is discarded: it is counted as received, and its buffer entry is free (R132, R136). -/
def State.discard (s : State) (port vc : Nat) : State :=
  let x := s.port port
  s.setPort port { x with recv := bump x.recv (x.vcOf vc) 1, rfree := bump x.rfree (x.vcOf vc) 1 }

/-- FLOW_FLIT_INGRESS (R132): a flit arrives at a port, `fec` of its codewords corrected (Table 6-3). SGI 0 begins a seal group, which has the SEQ of its first
packet as its number, and SGL ends it; a packet's body comes with its last flit, and `early` delivers a reply's data at once (R146). A flit of another
generation, or from no member, is discarded; a module without a number accepts none (R126). -/
def State.ingress (s : State) (port fec : Nat) (h : BitVec 128) (early : Bool) (body : PBody) : State :=
  if s.regs.mod.isNone || !(s.port port).works || bf h 124 2 ≠ 0 then s else
  let m := bf h 107 9
  let vc := bf h 126 2
  let s := s.setPort port { s.port port with fecc := min (2 ^ 32 - 1) ((s.port port).fecc + fec) }
  if bf h 90 8 ≠ s.regs.gen.toNat % 256 || !s.regs.mask.getLsbD m then
    s.discard port vc |>.setPort port { (s.discard port vc).port port with sgf := sat32 ((s.port port).sgf + 1) }
  else
  let f := s.flow m
  let old := if bf h 117 4 = 0 then
      (if f.in_.any fun g => g.id = bf h 0 64 && g.closed then none else some { id := bf h 0 64, peer := m, port := port, vc := vc, pkts := [] })
    else f.in_.find? fun g => g.port = port && g.vc = vc && !g.closed
  match (if f.deaf then none else old) with
  | none => s.discard port vc
  | some g =>
    let x := s.port port
    let s := s.setPort port { x with recv := bump x.recv (x.vcOf vc) 1 }
    let p := s.packetOf h body
    let g := { g with pkts := if bt h 122 then g.pkts ++ [p] else g.pkts, flits := g.flits + 1, hdrs := g.hdrs ++ [h], closed := bt h 116 }
    let s := s.setFlow m { f with in_ := f.in_.filter (fun y => y.id ≠ g.id) ++ [g] }
    if early && bt h 122 then s.early m (sealKey m g.id) p else s

/-- The buffer entries of a seal group are free (R135). -/
def State.freeSeal (s : State) (g : Seal) : State :=
  let x := s.port g.port
  s.setPort g.port { x with rfree := bump x.rfree (x.vcOf g.vc) g.flits }

/-- SEAL_GROUP_VERIFY (R132, R145, R146): a group from a peer verifies, and its packets are applied, the release-tagged ones held; TENT data of
it become FULL. `mine` where the peer has verified a group of this module, which leaves the replay buffer. (DEDUCED, log 62; DESIGN CHOICE, log 66) -/
def State.sealVerify (s : State) (mine : Bool) (m id : Nat) : State :=
  let f := s.flow m
  if mine then s.setFlow m { f with out := f.out.filter fun g => g.id ≠ id, bad := FMap.erase f.bad (2 * id) }
  else
    match f.in_.find? fun g => g.id = id && g.closed with
    | none => s
    | some g =>
      let s := (s.setFlow m { f with in_ := f.in_.filter fun y => y.id ≠ id, bad := FMap.erase f.bad (2 * id + 1) }).freeSeal g
      let s := g.pkts.foldl (fun s p =>
        if (s.flow m).had p.seq then s
        else if p.rel then s.setFlow m { s.flow m with held := (s.flow m).held ++ [p] }
        else s.applyPacket m p) s
      let key := sealKey m id
      let ks := (s.blocks.filter fun b => b.2.seals.any fun y => y.1 = key).map fun b => b.1
      ks.foldl (fun s k => (s.onBlk k fun b => { b with seals := b.seals.filter fun y => y.1 ≠ key }).clearTents k) s

/-- What a failed seal group has brought and no register holds yet is taken back: a reply not yet delivered comes again, and the rest is poison. -/
def State.unTent (s : State) (k : Nat) (g : Seal) : State :=
  let mine (gid : Nat) : Bool := ((FMap.find? s.groups gid).map fun g => g.blk) = some k
  let from_ (q : Req) : Bool := g.pkts.any fun p => match p.body with | .data n _ _ => decide (q.stage = .sent g.peer n) | _ => false
  { s with
    reqs := FMap.mapVals s.reqs fun _ q => if s.reqBlock q = some k && q.tent.isSome && from_ q then { q with served := false, result := [], tent := none } else q
    ops := FMap.mapVals s.ops fun _ o => match o with
      | .load x => if mine x.gid && x.tent.isSome then .load { x with pois := true } else o
      | .atom x => if mine x.gid && x.tent.isSome then .atom { x with locs := x.locs.map fun l => { l with pois := l.pois || l.result.isSome } } else o
      | _ => o }

/-- The blocks that hold data of a failed group are dropped or trapped (Table 6-7). -/
def State.failBlocks (s : State) (g : Seal) : State :=
  let key := sealKey g.peer g.id
  let ks := (s.blocks.filter fun b => b.2.seals.any fun y => y.1 = key).map fun b => b.1
  ks.foldl (fun s k => ((s.unTent k g).onBlk k fun b => { b with seals := b.seals.filter fun y => y.1 ≠ key }).dropBlock k) s

/-- The leader is asked for a hoist (R149): its system cores learn of it as of any service request. (DEDUCED, log 63) -/
def State.askHoist (s : State) (m : Nat) : State :=
  if s.regs.lead || s.regs.leader = s.modNo || s.regs.leader = m then s else s.send s.regs.leader 3 (.hoistAsk m) false

/-- SEAL_GROUP_FAIL (R148, R149): a group from a peer fails its tag: it is refused whole, and the blocks that hold its data are dropped or trapped; the
fourth failure in a row stops the flow. `mine` where a peer has refused a group of this module: it is sent again, on another plane if its own is quiesced. (DEDUCED, log 63; DESIGN CHOICE, log 66) -/
def State.sealFail (s : State) (mine : Bool) (m id : Nat) : State :=
  let f := s.flow m
  if mine then
    match f.out.find? fun g => g.id = id with
    | none => s
    | some g =>
      let n := FMap.getD f.bad (2 * id) 0 + 1
      let f := { f with bad := FMap.insert f.bad (2 * id) n }
      if 4 ≤ n then (s.setFlow m { f with stopped := true }).reachCheck
      else (s.setFlow m f).push m { g with left := g.flits }
  else
    match f.in_.find? fun g => g.id = id with
    | none => s
    | some g =>
      let x := s.port g.port
      let n := FMap.getD f.bad (2 * id + 1) 0 + 1
      let s := (s.setPort g.port { x with sgf := sat32 (x.sgf + 1) }).freeSeal g
      let s := s.setFlow m { f with in_ := f.in_.filter (fun y => y.id ≠ id), bad := FMap.insert f.bad (2 * id + 1) n, deaf := f.deaf || 4 ≤ n }
      let s := if n = 4 then (s.service 6 m).askHoist m else s
      s.failBlocks g

/-! ## Credits, links and ports (R128, R129, R135 to R139) -/

/-- A notice that a credit leak has been repaired, and its count (R136). -/
def State.leak (s : State) (p : Nat) : State := (s.setPort p { s.port p with leak := sat32 ((s.port p).leak + 1) }).notice ntLeak p

/-- CREDIT_AUDIT (R136): the peer's SENT is held against the flits received, and its FREED against the FREED stored; either that differs is repaired. -/
def State.audit (s : State) (p : Nat) (sent freed : List Nat) : State :=
  let x := s.port p
  let diff := (List.range 4).map fun v => (cnt sent v + 2 ^ 32 - cnt x.recv v) % 2 ^ 32
  let s := if diff.any fun d => d ≠ 0 then
      (s.setPort p { x with recv := (List.range 4).map fun v => cnt sent v % 2 ^ 32
                            rfree := (List.range 4).map fun v => (cnt x.rfree v + cnt diff v) % 2 ^ 32 }).leak p
    else s
  let y := s.port p
  let fr := (List.range 4).map fun v => cnt freed v % 2 ^ 32
  if y.freed ≠ fr then (s.setPort p { y with freed := fr }).leak p else s

/-- Limits as R137 accepts them: none below 8 on a VC that is carried, their sum within the usable buffer. -/
def Port.limitsOk (p : Port) (l : List Nat) : Bool := l.all (fun x => 8 ≤ x) && l.sum ≤ p.cap + 1

/-- PORT_LIMIT_WRITE (R137): an invalid write is ignored. -/
def State.setLimits (s : State) (p v : Nat) : State :=
  let l := [v / 2 ^ 24 % 256, v / 2 ^ 16 % 256, v / 2 ^ 8 % 256, v % 256]
  if (s.port p).limitsOk l then s.setPort p { s.port p with lim := l } else s

/-- PORT_QUIESCE (R130, R139): the port accepts nothing more; every peer is told, what it holds goes again on other planes, and a service request is raised. -/
def State.quiesce (s : State) (p : Nat) : State :=
  let s := s.setPort p { s.port p with st := 4 }
  let s := (s.flows.map fun x => x.1).foldl (fun s m => ((s.flow m).out.filter fun g => g.port = p).foldl (fun s g => s.push m g) s) s
  let s := ((s.flows.filter fun x => s.regs.mask.getLsbD x.1).map fun x => x.1).foldl (fun s m => s.send m 3 (.notice p) false) s
  s.reachCheck.service 2 p

/-- The VC map, and the limits as equal shares, of a usable capacity (Table 6-4, R138). -/
def sharesOf (cap : Nat) : Nat × List Nat :=
  let u := cap + 1
  if 32 ≤ u then (0, List.replicate 4 (u / 4))
  else if 24 ≤ u then (1, [u / 3, u / 3, 0, u / 3])
  else (2, [u / 2, u / 2, 0, 0])

/-- PORT_DEGRADE (R138): lanes or buffer entries are lost; below 32 flits the VCs merge, and below 16, or with no lane, the port is quiesced. -/
def State.degrade (s : State) (p lanes cap : Nat) : State :=
  let x := s.port p
  let ln := if 4 ≤ lanes then 4 else if 2 ≤ lanes then 2 else lanes
  let cp := min cap x.cap
  let sh := sharesOf cp
  let x' := { x with lanes := ln, cap := cp, vcmap := sh.1, lim := if sh.1 = x.vcmap && x.lim.sum ≤ cp + 1 then x.lim else sh.2 }
  if cp + 1 < 16 || ln = 0 then (s.setPort p x').quiesce p
  else if ln < 4 || sh.1 ≠ 0 then (s.setPort p { x' with st := if x.works then 3 else x.st }).service 1 p
  else s.setPort p x'

/-- PORT_TRAINING_DONE (R137): the link has trained, and the plane carries traffic. -/
def State.trained (s : State) (p : Nat) : State :=
  let x := s.port p
  if x.st = 1 then (s.setPort p { x with st := if x.vcmap = 0 && (x.lanes = 0 || x.lanes = 4) then 2 else 3, lanes := if x.lanes = 0 then 4 else x.lanes }).reachCheck else s

/-- MODULE_NUMBER_ASSIGNMENT (R126): once, until the module is reset. -/
def State.assign (s : State) (n : Nat) : State :=
  if s.regs.mod.isSome || 512 ≤ n then s else { s with regs := { s.regs with mod := some (BitVec.ofNat 9 n) } }

/-! ## Attestation and the hoist (R141 to R151, R377) -/

/-- The leader's hoist ends, with a status for the system core that waits for it. -/
def State.hoistEnd (s : State) (st : Nat) : State :=
  match s.hoist with
  | none => s
  | some h =>
    let s := { s with hoist := none }
    match h.gid with
    | some gid => (s.onGrp gid fun g => writeOp g 0 64 (.w ⟨h.wd % 64, Nat.mod_lt _ (by decide)⟩) { v := st }).wake gid
    | none => s

/-- SPDM_SESSION (R141, R142): an attestation exchange with a peer ends; a refusal raises a service request, and a join that waited for it has status 4. -/
def State.spdm (s : State) (m : Nat) (ok : Bool) : State :=
  let s := s.setFlow m { s.flow m with attested := ok }
  if ok then s else
  let s := s.service 5 m
  match s.hoist with
  | some h => if h.op = 0 && h.mod = m then s.hoistEnd 4 else s
  | none => s

/-- The members after a hoist. -/
def State.newMask (s : State) (h : Hoist) : BitVec 512 :=
  let bit (m : Nat) : BitVec 512 := 1#512 <<< m
  let x := match h.op with
    | 0 => s.regs.mask ||| bit h.mod
    | 1 | 2 => s.regs.mask &&& ~~~(bit h.mod)
    | _ => s.regs.mask
  h.absent.foldl (fun x m => x &&& ~~~(bit m)) x

/-- Nothing is on its way to or from a peer (R150 step 2): what has been sent is verified, applied and answered. What a stopped flow holds is sent again
after the hoist, and a member that has missed the deadline is not waited for (R151). -/
def State.drainedOf (s : State) (absent : List Nat) (m : Nat) : Bool :=
  let f := s.flow m
  absent.contains m || f.stopped || f.deaf || !s.reaches m ||
    (f.out.isEmpty && f.wait.isEmpty && f.in_.isEmpty && f.held.isEmpty && f.unacked.isEmpty
      && !s.reqs.any fun x => (match x.2.client with | .foreign m' _ => m' = m && !(x.2.served && x.2.mcast.isSome) | _ => false)
        || (match x.2.stage with | .sent m' _ => m' = m && !x.2.served | _ => false))

/-- A departing member's requests that are not yet applied are refused with "domain left", under the present generation (R150). (DEDUCED, log 65) -/
def State.refuseHeld (s : State) (mask : BitVec 512) : State :=
  s.flows.foldl (fun s x =>
    if mask.getLsbD x.1 then s else
    let s := x.2.held.foldl (fun s p =>
      let s := s.setFlow x.1 ((s.flow x.1).saw p.seq)
      match p.body with
      | .req _ _ ptr _ len _ _ _ _ => s.send x.1 1 (.refusal (packetName p.gen p.seq) (pOff ptr) len ⟨2, .domainLeft, 0, s.modNo, true, 0⟩) false
      | _ => s) s
    s.setFlow x.1 { s.flow x.1 with held := [] }) s

/-- Restart a flow at sequence 1 under a generation (R149, R150): what was not verified is sequenced again, in its order. (DEDUCED, log 64; DEDUCED, log 65) -/
def Flow.restart (f : Flow) (gen now : Nat) : Flow :=
  let ps := (f.out.flatMap fun g => g.pkts) ++ f.wait
  { mask := f.mask, attested := f.attested, back := now, next := ps.length + 1
    wait := ps.mapIdx fun i p => { p with seq := i + 1, gen := gen, fep := 0 }
    unacked := f.unacked.map fun n =>
      match ps.findIdx? fun p => packetName p.gen p.seq = n with | some i => packetName gen (i + 1) | none => n }

/-- The name of a request's packet after its flow has been restarted. -/
def Flow.renamed (f : Flow) (gen name : Nat) : Nat :=
  match ((f.out.flatMap fun g => g.pkts) ++ f.wait).findIdx? fun p => packetName p.gen p.seq = name with
  | some i => packetName gen (i + 1)
  | none => name

/-- The refusal of a request for a module that is no longer a member: by the level whose entry names it (R151). -/
def State.leftRefusal (s : State) (q : Req) : Refuse :=
  let at_ (lvl : Nat) : Nat × Nat := match lvl with | 2 => (1, pO q.ptr) | 4 => (4, pI q.ptr) | _ => (3, pM q.ptr)
  let x := match q.stage with | .egress _ l => at_ l | _ => at_ 2
  ⟨x.1, .domainLeft, x.2, s.modNo, false, q.fwd⟩

/-- The end of a hoist on this module (R150 step 4, R151): generation, members, secret; every flow restarts; requests for a module that is no longer
a member are refused "domain left", and it stays in recovery for whatever waits on it. (DEDUCED, log 65) -/
def State.hoistSwitch (s : State) (mask : BitVec 512) (secret : List W64) (gen : W32) (leader : Nat) : State :=
  let own := mask.getLsbD s.modNo
  let gone := (s.flows.filter fun x => !mask.getLsbD x.1).map fun x => x.1
  let s := gone.foldl (fun s m => (s.flow m).in_.foldl State.failBlocks s) s
  let s := s.flows.foldl (fun s x => x.2.in_.foldl State.freeSeal s) s
  let old := s
  let s := { s with
    regs := { s.regs with
      gen := if own then gen else 0, mask := if own then mask else 0, memb := own, secret := if own then secret else []
      leader := if own then leader else 0, lead := own && leader = s.modNo }
    flows := FMap.mapVals s.flows fun m f =>
      if mask.getLsbD m then f.restart gen.toNat s.now
      else { mask := f.mask, recov := match f.recov with | some t => some t | none => some s.now, lost := f.lost, back := f.back }
    reqs := FMap.mapVals s.reqs fun _ q => match q.stage with
      | .sent m n => { q with stage := .sent m ((old.flow m).renamed gen.toNat n) }
      | _ => q }
  let s := (s.reqs.filter fun x => match x.2.stage with
      | .sent m _ | .egress m _ | .bucket _ _ (.remote m) => !mask.getLsbD m && !x.2.served | _ => false).foldl
    (fun s x => s.refuse x.1 x.2 (s.leftRefusal x.2)) s
  s.reachCheck

/-- A module has held an attestation session with each of those that it meets as members: all of them where it joins, else those that join (R141). -/
def State.sessions (s : State) (mask : BitVec 512) : Bool :=
  (List.range 512).all fun m => m = s.modNo || !mask.getLsbD m || (s.regs.memb && s.regs.mask.getLsbD m) || (s.flow m).attested

/-- HOIST_BARRIER (R150): every member has reached the barrier. The leader draws the secret and its system core goes on; a module that does not lead
first stops its fabric issue, and at the barrier takes the members, secret, generation and leader that it is sent. (DEDUCED, log 65) -/
def State.barrier (s : State) (mask : BitVec 512) (secret : List W64) (gen : W32) (leader : Nat) : State :=
  match s.hoist with
  | none => if s.regs.lead || s.regs.mod.isNone then s else { s with hoist := some { op := 4, mod := 0, gid := none, start := s.now } }
  | some h =>
    let lead := h.op ≠ 4
    let mk := if lead then s.newMask h else mask
    let s := s.refuseHeld mk
    if !s.flows.all fun x => s.drainedOf h.absent x.1 then s
    else if mk.getLsbD s.modNo && !s.sessions mk then s
    else
      let form := lead && !s.regs.memb
      let g : W32 := if form then 1 else if lead then s.regs.gen + 1 else gen
      let n := s.fresh
      let sec := if lead then (List.range 4).map fun i => Config.random (n + i) else secret
      let s := { s with fresh := n + 4 }
      (s.hoistSwitch mk sec g (if lead then s.modNo else leader)).hoistEnd 0

/-- HOIST_DEADLINE (R151): a member has not reached the barrier within HDL ms: the leader evicts it at the same hoist, and no module waits for it. -/
def State.hoistLate (s : State) (m : Nat) : State :=
  match s.hoist with
  | some h =>
    if s.regs.mask.getLsbD m && m ≠ s.modNo && !h.absent.contains m && max 1 s.regs.hdl * 1000000 ≤ s.now - h.start then
      let s := { s with hoist := some { h with absent := h.absent ++ [m] } }
      if h.op = 4 then s else s.service 11 m
    else s
  | none => s

/-! ## The steps -/

/-- SEAL_GROUP_CLOSE (R145). (DEDUCED, log 62) -/
def execSealGroupClose (m vc : Nat) (s : State) : Host.Outcome State Fault Refusal := .next (s.sealClose m vc)
/-- SEAL_GROUP_FAIL (R148). -/
def execSealGroupFail (mine : Bool) (m id : Nat) (s : State) : Host.Outcome State Fault Refusal := .next (s.sealFail mine m id)
/-- SEAL_GROUP_VERIFY (R146). -/
def execSealGroupVerify (mine : Bool) (m id : Nat) (s : State) : Host.Outcome State Fault Refusal := .next (s.sealVerify mine m id)
/-- FLOW_FLIT_INGRESS (R132): `lo` and `hi` are the two words of the header. (DESIGN CHOICE, log 108) -/
def execFlowFlitIngress (port fec : Nat) (lo hi : W64) (early : Bool) (body : PBody) (s : State) : Host.Outcome State Fault Refusal :=
  .next (s.ingress port fec (hi ++ lo) early body)
/-- RELEASE_PACKET_APPLY (R133). -/
def execReleasePacketApply (m seq : Nat) (s : State) : Host.Outcome State Fault Refusal := .next (s.releaseApply m seq)
/-- CREDIT_RETURN (R135): the receiver's FREED for every VC. -/
def execCreditReturn (port : Nat) (freed : List Nat) (s : State) : Host.Outcome State Fault Refusal :=
  .next (s.setPort port { s.port port with freed := (List.range 4).map fun v => cnt freed v % 2 ^ 32 })
/-- CREDIT_AUDIT (R136). -/
def execCreditAudit (port : Nat) (sent freed : List Nat) (s : State) : Host.Outcome State Fault Refusal := .next (s.audit port sent freed)
/-- LINK_REPLAY (R128): counted in LRTY; nothing above the port sees it. -/
def execLinkReplay (port : Nat) (s : State) : Host.Outcome State Fault Refusal :=
  .next (s.setPort port { s.port port with lrty := sat32 ((s.port port).lrty + 1) })
/-- REACHABILITY_NOTICE (R130). -/
def execReachabilityNotice (m plane : Nat) (s : State) : Host.Outcome State Fault Refusal := .next (s.planeGone m plane)
/-- PORT_DEGRADE (R138). -/
def execPortDegrade (port lanes cap : Nat) (s : State) : Host.Outcome State Fault Refusal := .next (s.degrade port lanes cap)
/-- PORT_QUIESCE (R139). -/
def execPortQuiesce (port : Nat) (s : State) : Host.Outcome State Fault Refusal := .next (s.quiesce port)
/-- PORT_TRAINING_DONE (R137). -/
def execPortTrainingDone (port : Nat) (s : State) : Host.Outcome State Fault Refusal := .next (s.trained port)
/-- PORT_LIMIT_WRITE (R137). -/
def execPortLimitWrite (port v : Nat) (s : State) : Host.Outcome State Fault Refusal := .next (s.setLimits port v)
/-- MODULE_NUMBER_ASSIGNMENT (R126). -/
def execModuleNumberAssignment (n : Nat) (s : State) : Host.Outcome State Fault Refusal := .next (s.assign n)
/-- SPDM_SESSION (R141). -/
def execSpdmSession (m : Nat) (ok : Bool) (s : State) : Host.Outcome State Fault Refusal := .next (s.spdm m ok)
/-- HOIST_BARRIER (R150). -/
def execHoistBarrier (mask : BitVec 512) (secret : List W64) (gen : W32) (leader : Nat) (s : State) : Host.Outcome State Fault Refusal :=
  .next (s.barrier mask secret gen leader)
/-- HOIST_DEADLINE (R151). -/
def execHoistDeadline (m : Nat) (s : State) : Host.Outcome State Fault Refusal := .next (s.hoistLate m)

end Sys2Proof.Machine
end

