-- ==== Sys2Proof/Machine/Image.lean ====
section
/-! DEFINITION. The save image of a block as the device writes it to the context's save area (R369, R406). Where Table 16-9 names a word's fields
and not their bits, they stand in the order named. -/

namespace Sys2Proof.Machine

open Sys2Proof Sys2Proof.Decode

/-- Bytes padded with zeros to a multiple of 64. -/
def pad64 (bs : List Byte) : List Byte := bs ++ List.replicate ((64 - bs.length % 64) % 64) 0
/-- Bytes padded with zeros to `n`. -/
def padTo (n : Nat) (bs : List Byte) : List Byte := (bs ++ List.replicate (n - bs.length) 0).take n

/-- A register state in two bits (R197). -/
def RState.bits : RState → Nat | .full => 0 | .empty => 1 | .tent _ => 2 | .pois => 3
/-- A status byte (Table 9-3). -/
def statusByte (tag : Nat) (st : RState) : Byte := BitVec.ofNat 8 (tag * 8 + st.bits)

/-- Values and two-bit states of some predicates, the states above `k` bits of values. -/
def predWord (k : Nat) (ps : List PReg) : Nat :=
  (ps.mapIdx fun i p => p.v.toNat * 2 ^ i + p.st.bits * 2 ^ (k + 2 * i)).foldl (· + ·) 0

/-- The kind of a wait, as a number. -/
def Wait.code : Wait → Nat
  | .none => 0 | .barrier .. => 1 | .watch _ => 2 | .mailbox => 3 | .sleep _ => 5 | .halted => 6 | .nested => 7 | .irq => 8
  | .reloc _ => 9 | .hoist => 10
/-- The object of a wait and its argument. -/
def Wait.args : Wait → Nat × Nat
  | .barrier _ a p _ => (a, p) | .watch w => (w, 0) | .sleep t => (t, 0) | .reloc k => (k, 0) | _ => (0, 0)

/-- A mask-stack entry: M, T, RES, BODY, KIND. -/
def MEntry.image (e : MEntry) : List Byte :=
  leBytes 4 e.m.toNat ++ leBytes 4 e.t.toNat ++ leBytes 4 e.res.toNat ++ leBytes 4 e.body.toNat
    ++ leBytes 4 (match e.kind with | .ifThen => 0 | .ifElse => 1 | .loop => 2)

/-- The copies of a group that its image names, and its queued matrix operations. -/
def State.copiesOf (s : State) (gid : Nat) : List Copy := (s.copies.filter fun x => x.2.gid = gid && !x.2.done).map fun x => x.2
/-- The matrix operations of a group whose tile phase has not ended, in issue order. -/
def State.queuedOps (s : State) (gid : Nat) : List EOp := (s.eops.filter fun x => x.2.gid = gid && !x.2.tileDone).map fun x => x.2

/-- The fields of the first word of a descriptor, each in 8 bits, the lowest first. -/
def fieldBytes (xs : List Nat) : List Byte := padTo 8 (xs.map fun x => BitVec.ofNat 8 x)
/-- 64-bit words. -/
def wordBytes (ws : List Nat) : List Byte := ws.flatMap fun w => leBytes 8 w

/-- The issue-time descriptor of a matrix operation: its kind, its tile's name and the fields of its modifiers, then its numbers and its words. -/
def EOp.image (e : EOp) : List Byte :=
  match e.op with
  | .mma m k d => fieldBytes [0, e.tile, m.pair.toNat, m.welt.toNat, fmtCode m.fmt] ++ wordBytes (k :: d.map BitVec.toNat)
  | .dist m k d => fieldBytes [1, e.tile, m.pair.toNat, m.welt.toNat, fmtCode m.fmt] ++ wordBytes (k :: d.map BitVec.toNat)
  | .topkReg m d ts => fieldBytes [2, e.tile, m.k1.toNat, m.max.toNat, m.val.toNat, m.hi.toNat] ++ wordBytes [d, ts.foldl (fun a t => a + 2 ^ t) 0]
  | .topkMem m p rs => fieldBytes [3, e.tile, m.k1.toNat, m.max.toNat, m.val.toNat] ++ wordBytes [p.toNat, rs.toNat]
  | .zero m => fieldBytes [4, e.tile, m.ctorIdx]
  | .pair m => fieldBytes [5, e.tile, m.ctorIdx]
  | .ldt m p rs => fieldBytes [6, e.tile, m.ctorIdx] ++ wordBytes [p.toNat, rs.toNat]
  | .stt p rs => fieldBytes [7, e.tile] ++ wordBytes [p.toNat, rs.toNat]
  | .drn m p rs ag => fieldBytes [8, e.tile, m.mode.ctorIdx, fmtCode m.dst, m.rm.ctorIdx, m.sat.toNat] ++ wordBytes [p.toNat, rs.toNat, ag.toNat]

/-- The control words of a group's image, 0x000 to 0x03F. -/
def groupControl (g : Group) (ncpy : Nat) : List Byte :=
  leBytes 4 g.pc.toNat ++ leBytes 4 ((g.rgn.map fun r => r.resume.toNat).getD 0)
  ++ leBytes 4 g.ent.toNat ++ leBytes 4 g.prog.toNat
  ++ leBytes 4 g.act.toNat ++ leBytes 4 (g.fflags.toNat % 32 + g.stack.length * 256 + g.inH.toNat * 2 ^ 16 + g.rgn.isSome.toNat * 2 ^ 17 + g.wait.code * 2 ^ 24)
  ++ leBytes 1 g.cpy ++ leBytes 1 g.mma ++ leBytes 1 g.gth ++ leBytes 1 g.net ++ leBytes 1 g.atm ++ leBytes 2 g.batch ++ leBytes 1 ncpy
  ++ leBytes 8 g.wait.args.1 ++ leBytes 8 g.wait.args.2
  ++ leBytes 8 g.shadow.code.toNat ++ leBytes 4 g.shadow.act.toNat ++ leBytes 4 g.shadow.depth

/-- The image of a group (Table 16-9). (DESIGN CHOICE, log 73) -/
def State.groupImage (s : State) (gid : Nat) : List Byte :=
  let g := s.grp gid
  let cs := s.copiesOf gid
  let ms := s.queuedOps gid
  let pairs := (List.range (32 * g.allot)).map fun i => g.treg (i / g.allot) (i % g.allot)
  let us := (List.range 64).map g.ureg
  groupControl g cs.length
  ++ padTo 320 (g.stack.flatMap MEntry.image)
  ++ (List.range 8).flatMap (fun i => leBytes 8 (FMap.getD g.ag i 0).toNat)
  ++ padTo 32 (g.closed.flatMap fun b => leBytes 2 b.1)
  ++ padTo 32 (leBytes 4 (predWord 8 ((List.range 8).map g.upred)) ++ leBytes 2 ms.length ++ leBytes 2 g.tiles.length)
  ++ (List.range 32).flatMap (fun t => leBytes 8 (predWord 15 ((List.range 15).map (g.pred t))))
  ++ us.flatMap (fun r => leBytes 8 r.v.toNat) ++ us.map (fun r => statusByte r.tag r.st)
  ++ pairs.flatMap (fun r => leBytes 4 r.v.toNat) ++ pairs.map (fun r => statusByte r.tag r.st)
  ++ cs.flatMap (fun c => leBytes 8 c.id ++ leBytes 8 c.promise)
  ++ ms.flatMap (fun e => padTo 64 e.image)

/-- The images of a group's bound tiles: a header and the planes (Table 11-8). (DESIGN CHOICE, log 73) -/
def State.tileImages (s : State) (gid : Nat) : List (List Byte) :=
  let g := s.grp gid
  g.tiles.map fun t =>
    leBytes 4 t.1 ++ leBytes 4 t.2.mode.ctorIdx ++ leBytes 4 t.2.pair.toNat ++ leBytes 4 (s.tilePz t.2 (unitOfGid gid)).toNat
      ++ (s.imageRows t.2 (unitOfGid gid)).flatMap fun r => r.2.2

/-- A byte mask as bits. -/
def maskBits (m : List (Option Byte)) : Nat := (m.mapIdx fun i b => if b.isSome then 2 ^ i else 0).foldl (· + ·) 0
/-- The bytes of a write's data. -/
def WData.image : WData → List Byte × Nat × Nat
  | .bytes _ d => (d.map fun b => b.getD 0, maskBits d, 0)
  | .red op ty _ v => (leBytes 8 v.toNat, 0, 1 + op.ctorIdx * 16 + ty.ctorIdx * 256)
  | .atom op loc _ _ => (leBytes 4 op ++ leBytes 4 loc, 0, 2)

/-- A store-buffer entry: pointer, byte mask, kind, 32 data bytes. -/
def Wr.bufferImage (w : Wr) : List Byte :=
  leBytes 8 w.data.range.1.toNat ++ leBytes 4 w.data.image.2.1 ++ leBytes 4 w.data.image.2.2 ++ padTo 32 w.data.image.1

/-- The fault record of a side-log entry. -/
def Wr.record (w : Wr) : BitVec 256 :=
  match w.refuse, w.src with
  | some r, y :: _ => faultRec y.org (match w.data with | .bytes _ _ => .write | _ => .atomic) r
  | _, _ => 0

/-- A side-log entry: fault record, pointer, data, mask, kind, the queue and SEQ of its waiting entry, the response. -/
def State.logImage (s : State) (id : Nat) (w : Wr) : List Byte :=
  let q := s.awaits.find? fun a => a.who = id
  padTo 96 (leBytes 32 w.record.toNat ++ leBytes 8 w.data.range.1.toNat ++ padTo 16 w.data.image.1 ++ leBytes 4 w.data.image.2.1 ++ leBytes 4 w.data.image.2.2
    ++ leBytes 4 ((q.map fun a => a.dst).getD 0) ++ leBytes 4 ((q.map fun a => a.seq).getD 0)
    ++ leBytes 8 (match w.answered with | none => 0 | some true => 1 | some false => 2))

/-- The writes of a block that a save keeps: those of its buffer, those of its side log. -/
def State.heldWrites (s : State) (k : Nat) (p : WPlace) : FMap Wr := FMap.keep s.wrs fun _ w => w.blk = k && w.place = p

/-- The lanes that a block uses, by the first group on each. -/
def Block.laneNums (b : Block) : List Nat := List.range (min 32 b.ngrp)

/-- The cycles that a block has run since its first placement (R367). -/
def State.ranOf (s : State) (b : Block) : Nat := if b.onCore then b.ran + (s.now - b.placed) else b.ran

/-- The sections of a block's image after the report: of the groups given, and, where `whole`, its writes and allotments. (DESIGN CHOICE, log 73) -/
def State.sections (s : State) (k : Nat) (gids : List Nat) (whole : Bool) : List (List Byte) :=
  let b := s.blk k
  gids.map (fun g => s.groupImage g) ++ gids.flatMap (fun g => s.tileImages g)
  ++ if whole then
      [(s.heldWrites k .buffer).flatMap fun x => x.2.bufferImage, (s.heldWrites k .log).flatMap fun x => s.logImage x.1 x.2]
      ++ b.laneNums.map (fun n => s.bytes (laneAddr b.place n 0) (extent256 b.hdr.lane))
      ++ [s.bytes (coreAddr b.place 0) (extent256 b.hdr.core)]
      ++ (if b.num = 0 then [s.bytes (cluAddr b.cbase 0) (extent256 b.hdr.clu)] else [])
    else []

/-- The save report (Table 16-10). (DEDUCED, log 74) -/
def State.saveReport (s : State) (k bytes trt : Nat) (inpl : Bool) : List Byte :=
  let b := s.blk k
  let nsl := (s.heldWrites k .log).length
  padTo 64 (leBytes 8 (trt % 256 + b.rl.toNat * 2 ^ 8 + b.rs.toNat * 2 ^ 9 + (decide (nsl ≠ 0)).toNat * 2 ^ 10 + inpl.toNat * 2 ^ 11 + b.live % 256 * 2 ^ 12 + bytes % 2 ^ 32 * 2 ^ 32)
    ++ leBytes 8 (b.set % 2 ^ 32 + b.num % 2 ^ 16 * 2 ^ 32 + b.lid.getD 0 % 2 ^ 14 * 2 ^ 50)
    ++ leBytes 8 ((s.heldWrites k .buffer).length % 2 ^ 16 + nsl % 2 ^ 16 * 2 ^ 16)
    ++ leBytes 8 (s.ranOf b) ++ leBytes 8 s.now)

/-! ## The save area (R406) -/

/-- The end of the last image that a context's save area still holds. -/
def State.lastImage (s : State) (c : Nat) : Nat :=
  (s.saved.flatMap fun x => if (s.blk x.1).ctx = c then x.2.images else []).foldl (fun m i => max m (i.1 + i.2)) 0

/-- Write the header of a context's save area. (DEDUCED, log 74) -/
def State.saveHeader (s : State) (c : Nat) : State :=
  let x := s.ctx c
  let g := s.sysGuidon c 6
  (s.poke g x.save 8 (s.lastImage c)).poke g (pPlus x.save 8) 8 x.imgs

/-- The sections one after another, each one that is not empty beginning at a multiple of 64 bytes (R369). -/
def joinSections (secs : List (List Byte)) : List Byte := secs.foldl (fun acc sec => if sec.isEmpty then acc else pad64 acc ++ sec) []

/-- Append an image to a context's save area, and post its type 4 entry: none where it would pass the area's end. (DESIGN CHOICE, log 73) -/
def State.putImage (s : State) (k : Nat) (secs : List (List Byte)) (trt : Nat) (inpl : Bool) : Option State :=
  let b := s.blk k
  let x := s.ctx b.ctx
  let body := joinSections secs
  let at_ := if x.imgs = 0 then 64 else (x.imgEnd + 63) / 64 * 64
  let n := 64 + body.length
  if x.savesz * 4096 < at_ + n then none else
  let p := pPlus x.save at_
  let s := match s.wrN (s.sysGuidon b.ctx 6) p (s.saveReport k n trt inpl ++ body) with | .ok s' => s' | .error _ => s
  let s := s.setCtx b.ctx { x with imgEnd := at_ + n, imgs := x.imgs + 1 }
  let s := { s with saved := FMap.modify s.saved k fun y => { y with images := y.images ++ [(at_, n)] } }
  some ((s.saveHeader b.ctx).post dstPlog (BitVec.ofNat 256 p.toNat) 4 false none)

/-- Free the images of a block. -/
def State.freeImages (s : State) (k : Nat) : State :=
  let b := s.blk k
  let n := ((FMap.find? s.saved k).map fun y => y.images.length).getD 0
  if n = 0 then s else
  let x := s.ctx b.ctx
  let s := s.setCtx b.ctx { x with imgs := x.imgs - n }
  ({ s with saved := FMap.modify s.saved k fun y => { y with images := [] } }).saveHeader b.ctx

end Sys2Proof.Machine
end

