-- ==== Sys2Proof/Machine/Sched.lean ====
section
/-! DEFINITION. The choice of runs: ready groups, priority and rotation mode, ageing (R303 to R308). -/

namespace Sys2Proof.Machine

open Sys2Proof

/-- A pre-emption waits for the instruction that a group has begun: a fence, a write-back or an invalidation (R52, R122, R191). -/
def Group.holdsStop (g : Group) : Bool := match g.cont with | some .await | some (.range _) | some (.wbr _) => true | _ => false

/-- A treatment other than a drain is under way on a block: its groups stop. -/
def Block.stops (b : Block) : Bool := match b.stop with | none | some .drain => false | _ => true

/-- A group can be given a run (R304): it does not wait, and no pre-emption holds it. -/
def State.isReady (s : State) (g : Group) : Bool := g.wait = .none && (!(s.blk g.blk).stops || g.holdsStop)

/-- The groups of a lane that are ready, by number, lower slots first. -/
def State.readyOn (s : State) (key : Nat) : List (Nat × Group) :=
  s.groups.filter fun p => unitOfGid p.1 = key / 32 && laneOf (s.blk p.2.blk) p.2 = key % 32 && s.isReady p.2

/-- A lane serves a partition in rotation mode (R308, Table 13-2): bit 15 of PMODE is the system cores' own work. -/
def State.rotates (s : State) (key part : Nat) : Bool := s.regs.pmode.getLsbD (if isSys (key / 32) then 15 else part)

/-- A group's lane priority (R306). -/
def State.lanePrio (s : State) (g : Group) : Nat := min 7 ((s.blk g.blk).prio + g.raise)

/-- `a` is to run before `b` by rules 2 and 3 of R304; a group that has yielded stands behind the others (R253). (DEDUCED, log 25) -/
def earlier (a b : Nat × Group) : Bool :=
  if a.2.yielded ≠ b.2.yielded then b.2.yielded
  else
    match a.2.lastEnd, b.2.lastEnd with
    | none, some _ => true
    | some _, none => false
    | none, none => decide (a.1 < b.1)
    | some x, some y => x < y || (x = y && a.1 < b.1)

/-- The best of some groups under a strict preference. (DEDUCED, log 25) -/
def bestOf (better : Nat × Group → Nat × Group → Bool) : List (Nat × Group) → Option (Nat × Group)
  | [] => none
  | x :: xs => some (xs.foldl (fun m y => if better y m then y else m) x)

/-- The choice in priority mode (R304). (DEDUCED, log 25) -/
def State.pickPrio (s : State) (xs : List (Nat × Group)) : Option (Nat × Group) :=
  bestOf (fun a b => s.lanePrio b.2 < s.lanePrio a.2 || (s.lanePrio a.2 = s.lanePrio b.2 && earlier a b)) xs

/-- Runs in a row that a context receives (Table 13-4). -/
def State.weight (s : State) (c : Nat) : Nat := max 1 (s.ctx c).w

/-- The next context of a rotation (R308): the present one while it has runs left, else the next higher one with ready groups, from the lowest again. -/
def State.nextCtx (s : State) (l : Lane) (cs : List Nat) : Nat × Nat :=
  if cs.contains l.rctx && l.runs < s.weight l.rctx then (l.rctx, l.runs + 1)
  else
    match (cs.filter fun c => l.rctx < c) with
    | c :: rest => (rest.foldl min c, 1)
    | [] => (match cs with | c :: rest => (rest.foldl min c, 1) | [] => (l.rctx, l.runs))

/-- Begin a group's run on its lane: its ageing raise returns to zero (R306). -/
def State.beginRun (s : State) (key gid : Nat) (l : Lane) : State :=
  { (s.onGrp gid fun g => { g with run := 0, raise := 0, aged := 0, yielded := false }) with
    lanes := FMap.put s.lanes key { l with slot := some (slotOfGid gid) } {} }

/-- The lane chooses its next run (R304, R308); with no ready group it idles. (DEDUCED, log 25) -/
def State.select (s : State) (key : Nat) : State :=
  let l := FMap.getD s.lanes key {}
  let held := match l.slot with | some k => (FMap.find? s.groups (key / 32 * 256 + k)).isSome | none => false
  if held then s else
  match s.readyOn key with
  | [] => s
  | x :: xs =>
    if s.rotates key (s.blk x.2.blk).part then
      let c := s.nextCtx l ((x :: xs).map fun y => (s.blk y.2.blk).ctx)
      match bestOf earlier ((x :: xs).filter fun y => (s.blk y.2.blk).ctx = c.1) with
      | some y => s.beginRun key y.1 { l with rctx := c.1, runs := c.2 }
      | none => s
    else
      match s.pickPrio (x :: xs) with
      | some y => s.beginRun key y.1 l
      | none => s

/-- The ageing period in cycles (Table 13-2). -/
def State.agePeriod (s : State) : Nat := 1000 * max 1 s.regs.aget

/-- A group's ageing count runs (R306): it is ready and holds no lane, in priority mode; in rotation mode the counts stand still (R308), and so they do for
halted groups (R311). -/
def State.ages (s : State) (gid : Nat) (g : Group) : Bool :=
  let key := laneKey (s.blk g.blk) g (unitOfGid gid)
  let running := match FMap.find? s.lanes key with | some l => l.slot = some (slotOfGid gid) | none => false
  !running && s.isReady g && !s.rotates key (s.blk g.blk).part

/-- What a group's ageing count has come to. -/
def State.ageCount (s : State) (gid : Nat) (g : Group) : Nat := g.aged + if s.ages gid g then s.now - g.readyAt else 0

/-- Bring the ageing counts of some groups up to date: they are about to stand still, or to run on. -/
def State.ageTurn (s : State) (p : Group → Bool) : State :=
  { s with groups := FMap.mapVals s.groups fun gid g => if p g then { g with aged := s.ageCount gid g, readyAt := s.now } else g }

/-- A group ages (R306): its count passes another full AGET. -/
def State.ageGroup (s : State) (gid : Nat) : State :=
  match FMap.find? s.groups gid with
  | none => s
  | some g =>
    if s.ages gid g && s.agePeriod ≤ s.ageCount gid g then
      s.setGrp gid { g with raise := min 7 (g.raise + 1), aged := s.ageCount gid g - s.agePeriod, readyAt := s.now }
    else s

/-- GROUP_AGEING (R306). -/
def execGroupAgeing (id : Nat) (s : State) : Host.Outcome State Fault Refusal := .next (s.ageGroup id)

end Sys2Proof.Machine
end

