-- ==== Sys2Proof/Machine/Place.lean ====
section
/-! DEFINITION. Placing blocks on cores (R281 to R283, R298, R403), and taking them off: the treatments of pre-emption, saves, halts in place and
restores (R307, R310, R311, R366 to R370, R401). -/

namespace Sys2Proof.Machine

open Sys2Proof

/-! ## What fits where (R282, R283) -/

/-- What a core has left: for each lane its rows of 32 thread registers, its groups and its slice bytes; scratchpad bytes; tile slots. -/
structure Room where
  lanes : List (Nat × Nat × Nat)
  bytes : Nat
  tiles : Nat
  deriving DecidableEq, Repr

/-- What a block asks of a core: the numbers of its live groups, all its groups, the register allotment, lane bytes, core bytes. -/
structure Shape where
  nums : List Nat
  ngrp : Nat
  allot : Nat
  lane : Nat
  core : Nat
  deriving DecidableEq, Repr

/-- The register allotment of a header (R282): the smallest of 32, 64 and 128 that is at least REGS. -/
def allotOf (regs : Nat) : Nat := if regs ≤ 32 then 32 else if regs ≤ 64 then 64 else 128

/-- The shape of a launch's block. -/
def Header.shape (h : Header) (ngrp : Nat) : Shape := ⟨List.range ngrp, ngrp, allotOf h.regs, extent256 h.lane, extent256 h.core⟩

/-- The bytes that a set's cluster allotment takes of each core of its cluster (R283). -/
def Header.eighth (h : Header) : Nat := extent256 h.clu / 8

/-- An empty core. -/
def emptyRoom : Room := ⟨List.replicate 32 (256, 8, 8192), 240 * 1024, 8⟩

/-- How many of a block's groups, by number, stand on lane `l` under lane base `lam` (R281). -/
def onLane (nums : List Nat) (lam l : Nat) : Nat := (nums.filter fun g => (lam + g) % 32 = l).length

/-- A block of a shape fits a core at a lane base (R283). -/
def Room.fits (r : Room) (x : Shape) (lam : Nat) : Bool :=
  x.core ≤ r.bytes && (List.range 32).all fun l =>
    let y := (r.lanes[l]?).getD (0, 0, 0)
    let m := onLane x.nums lam l
    m * x.allot ≤ y.1 && m ≤ y.2.1 && (onLane (List.range x.ngrp) lam l = 0 || x.lane ≤ y.2.2)

/-- The lowest lane base at which a block fits (R281). -/
def Room.lowest (r : Room) (x : Shape) : Option Nat := (List.range 32).find? fun lam => r.fits x lam

/-- The room left once a block has been placed. -/
def Room.take (r : Room) (x : Shape) (lam : Nat) : Room :=
  { r with
    bytes := r.bytes - x.core
    lanes := r.lanes.mapIdx fun l y =>
      let m := onLane x.nums lam l
      (y.1 - m * x.allot, y.2.1 - m, if onLane (List.range x.ngrp) lam l = 0 then y.2.2 else y.2.2 - x.lane) }

/-- A block holds the bytes of its allotments on its core: it is there, and they have not been spilt (R311). -/
def State.holdsBytes (s : State) (k : Nat) (b : Block) : Bool := b.onCore && b.live ≠ 0 && !((FMap.find? s.saved k).map fun x => x.cut).getD false

/-- The room on a core, some blocks counted as gone. -/
def State.room (s : State) (u : Nat) (gone : Nat → Bool) : Room :=
  let gs := (s.groups.filter fun p => unitOfGid p.1 = u && !gone p.2.blk).map fun p => (laneOf (s.blk p.2.blk) p.2, p.2.allot)
  let held := s.blocks.filter fun p => s.holdsBytes p.1 p.2 && !gone p.1
  let here := held.filter fun p => p.2.core = u
  let clu := held.filter fun p => clusterOf p.2.core = clusterOf u
  { lanes := (List.range 32).map fun l =>
      let on := gs.filter fun x => x.1 = l
      (256 - (on.map fun x => x.2).sum, 8 - on.length,
       8192 - ((here.filter fun p => onLane (List.range p.2.ngrp) p.2.lane l ≠ 0).map fun p => extent256 p.2.hdr.lane).sum)
    bytes := 240 * 1024 - (here.map fun p => extent256 p.2.hdr.core).sum
      - ((distinct (clu.map fun p => p.2.cbase)).map fun n => (((clu.find? fun p => p.2.cbase = n).map fun p => p.2.hdr.eighth).getD 0)).sum
    tiles := 8 - ((s.core u).slots.filter fun p => !gone (s.grp p.2.own).blk).length }

/-- The eight cores of a cluster. -/
def clusterCores (c : Nat) : List Nat := (List.range 8).map fun i => 8 * c + i
/-- A core can take blocks: it is neither retired nor out of service for a scan (R383, R385). -/
def State.usable (s : State) (u : Nat) : Bool := !(s.core u).retired && !(s.core u).scanning
/-- A cluster is in the visible set (R385). -/
def State.visible (s : State) (c : Nat) : Bool := (clusterCores c).all fun u => !(s.core u).retired
/-- A partition (Table 17-2). -/
def State.part (s : State) (p : Nat) : Part := FMap.getD s.parts p {}
/-- The dies of a partition (Table 17-2). -/
def State.partDies (s : State) (p : Nat) : List Nat := (List.range 12).filter fun d => (s.part p).dies.getLsbD d
/-- A die that a change under way takes out of a partition (R389). -/
def Part.leaves (x : Part) (d : Nat) : Bool := (x.st = 3 || x.st = 4) && x.dies.getLsbD d && !x.goal.getLsbD d
/-- The dies of a partition that no change takes out. -/
def State.diesOf (s : State) (p : Nat) : List Nat := (s.partDies p).filter fun d => !(s.part p).leaves d
/-- The visible clusters of a die. -/
def State.visibleOn (s : State) (d : Nat) : List Nat := ((List.range 16).map fun i => 16 * d + i).filter fun c => s.visible c

/-- The rooms of a cluster's cores once a set's cluster allotment has been taken in each; none where it does not fit. -/
def withCluster (k8 : Nat) (rs : List (Nat × Room)) : Option (List (Nat × Room)) :=
  if rs.all fun x => k8 ≤ x.2.bytes then some (rs.map fun x => (x.1, { x.2 with bytes := x.2.bytes - k8 })) else none

/-- A list begun `n` places on. -/
def rotate {α : Type} (l : List α) (n : Nat) : List α := l.drop (n % max 1 l.length) ++ l.take (n % max 1 l.length)

/-- Place `n` blocks one after the other, each on the first core in an order, at the lowest lane base, at which it fits. (DESIGN CHOICE, log 76) -/
def pack (x : Shape) (start : Nat → Nat) : Nat → List (Nat × Room) → Option (List (Nat × Nat))
  | 0, _ => some []
  | n + 1, rs =>
    match (rotate rs (start n)).findSome? fun r => (r.2.lowest x).map fun lam => (r.1, lam) with
    | none => none
    | some (u, lam) => (pack x start n (rs.map fun r => if r.1 = u then (u, r.2.take x lam) else r)).map fun l => (u, lam) :: l

/-- First fit (R283). (DESIGN CHOICE, log 76) -/
def firstFit (x : Shape) (n : Nat) (rs : List (Nat × Room)) : Option (List (Nat × Nat)) := pack x (fun _ => 0) n rs

/-- The rooms of a cluster's usable cores, with a set's cluster allotment taken, some blocks counted as gone. -/
def State.clusterRooms (s : State) (c k8 : Nat) (gone : Nat → Bool) : Option (List (Nat × Room)) :=
  (withCluster k8 ((clusterCores c).map fun u => (u, s.room u gone))).map fun rs => rs.filter fun x => s.usable x.1

/-- A placement of a set on a cluster: which one is open (R283), so that the search begins where a free value says; where that finds none, first fit. (DESIGN CHOICE, log 76) -/
def State.placement (s : State) (c : Nat) (h : Header) (ngrp n : Nat) (gone : Nat → Bool) : Option (List (Nat × Nat)) :=
  match s.clusterRooms c h.eighth gone with
  | none => none
  | some rs =>
    match pack (h.shape ngrp) (fun i => Config.coreChoice (s.fresh + i)) n rs with
    | some l => some l
    | none => firstFit (h.shape ngrp) n rs

/-- A set can ever fit a cluster's cores, every usable one starting empty (R283, R298). -/
def State.everFits (s : State) (c : Nat) (h : Header) (ngrp n : Nat) : Bool :=
  match withCluster h.eighth ((clusterCores c).map fun u => (u, emptyRoom)) with
  | none => false
  | some rs => (firstFit (h.shape ngrp) n (rs.filter fun x => !(s.core x.1).retired)).isSome

/-- The free capacity of a cluster, as LAUNCH compares clusters (R298): its free register rows. (DEDUCED, log 77) -/
def State.capacity (s : State) (c : Nat) : Nat :=
  (((clusterCores c).filter s.usable).map fun u => ((s.room u fun _ => false).lanes.map fun x => x.1).sum).sum

/-! ## Starting a block (R193, R285 to R287, R298, R403) -/

/-- The fields of a work item: over f1 to f5, with the group, block and set numbers still to be divided out. -/
def widFields (h : Header) (ext : Nat → Nat) (widv : Nat) : Nat → Nat → Nat → Nat → Nat → Nat → List Nat
  | 0, _, _, _, _, _ => []
  | n + 1, k, pos, g, b, t =>
    let w := (h.w[k]?).getD 0
    let e := ext k
    let here (v g b t : Nat) : List Nat := v :: widFields h ext widv n (k + 1) (pos + w) g b t
    if w = 0 then here 0 g b t
    else match (h.sc[k - 1]?).getD 0 with
      | 0 => here (g % e) (g / e) b t
      | 1 => here (b % e) g (b / e) t
      | 4 => here (widv / 2 ^ pos % 2 ^ w) g b t
      | _ => here (t % e) g b (t / e)

/-- A word of a packet. -/
def pw (p : List W64) (i : Nat) : W64 := (p[i]?).getD 0
/-- EXT0 to EXT5 of a packet (Table 12-3): an extent of 0 is read as 1. -/
def extOf (p : List W64) (k : Nat) : Nat :=
  match k with
  | 0 => bf (pw p 6) 32 6
  | 1 => max 1 (bf (pw p 4) 0 32) | 2 => max 1 (bf (pw p 4) 32 32)
  | 3 => max 1 (bf (pw p 5) 0 32) | 4 => max 1 (bf (pw p 5) 32 32)
  | _ => max 1 (bf (pw p 6) 0 32)

/-- `%wid` without f0, from f1 to f5. -/
def widValue (h : Header) (fs : List Nat) : Nat :=
  (fs.foldl (fun (x : Nat × Nat × Nat) f => (x.1 + f * 2 ^ x.2.1, x.2.1 + (h.w[x.2.2]?).getD 0, x.2.2 + 1)) (0, (h.w[0]?).getD 0, 1)).1

/-- The context of a group at its start. -/
def startGroup (k : Nat) (b : Block) (g : Nat) (now : Nat) (cob : Bool) : Group :=
  let ext0 := extOf b.pkt 0
  let fs := widFields b.hdr (extOf b.pkt) (pw b.pkt 3).toNat 5 1 ((b.hdr.w[0]?).getD 0) g b.num b.set
  { blk := k, num := g, ext0 := ext0, allot := allotOf b.hdr.regs, act := BitVec.ofNat 32 (2 ^ ext0 - 1)
    code := b.hdr.code, len := b.hdr.len, wid := BitVec.ofNat 64 (widValue b.hdr fs)
    f := (fs.mapIdx fun i v => (i + 1, v)).foldl (fun m x => FMap.put m x.1 (BitVec.ofNat 64 x.2) 0) []
    readyAt := now, cob := cob }

/-- `n` free group slots of a unit. -/
def State.freeGroupSlots (s : State) (u n : Nat) : List Nat := ((List.range 256).filter fun k => (FMap.find? s.groups (u * 256 + k)).isNone).take n

/-- A launch runs on a core: it stands on the core's list until the next pass (R384). -/
def State.noteLid (s : State) (u : Nat) (l : Option Nat) : State :=
  match l with
  | none => s
  | some l =>
    let s := { s with recs := FMap.modify s.recs l fun r => if r.cores.contains u then r else { r with cores := r.cores ++ [u] } }
    s.onCore u fun c =>
      if c.lids.contains l then c
      else if c.lids.length < 256 then { c with lids := c.lids ++ [l] }
      else { c with lids := c.lids.drop 1 ++ [l], ovr := true }

/-- Zero the allotments of a block, so that the names may be forgotten. -/
def State.zeroBlock (s : State) (b : Block) : State := s.zeroBytes (allotAddr b.place 0) (2 ^ 23)

/-- Zero a cluster allotment that no block of the set has any more. -/
def State.zeroCluster (s : State) (n : Nat) : State :=
  if s.blocks.any fun x => x.2.cbase = n then s else s.zeroBytes (allotAddr n (2 ^ 23)) (2 ^ 23)

/-- Start a block on a core: its groups in free slots, registers zero, allotments zero, inside its containment window (R298, R403). -/
def State.startBlock (s : State) (k : Nat) (b : Block) (u lam : Nat) (cob : Bool) : State :=
  let gids := (s.freeGroupSlots u b.ngrp).map fun x => u * 256 + x
  let b := { b with core := u, lane := lam, groups := gids, live := b.ngrp, rl := true, rs := b.hdr.idem, placed := s.now, ran := 0
                    stop := none, place := s.nextId, bank := [], mig := false, scan := false }
  let s := { s with
    blocks := FMap.insert s.blocks k b
    groups := (gids.mapIdx fun i g => (i, g)).foldl (fun m (x : Nat × Nat) => FMap.insert m x.2 (startGroup k b x.1 s.now cob)) s.groups
    nextId := s.nextId + 1 }
  (s.noteLid u b.lid).l1DropCtx u b.ctx

/-! ## Moving groups -/

/-- The tile slots that some groups own on a core. -/
def State.ownedSlots (s : State) (u : Nat) (gids : List Nat) : FMap Plane := FMap.keep (s.core u).slots fun _ p => gids.contains p.own
/-- `n` free tile slots of a core. -/
def State.freeTileSlots (s : State) (u n : Nat) : List Nat := ((List.range 64).filter fun k => (FMap.find? (s.core u).slots k).isNone).take n

/-- The new number of a slot. -/
def newSlot (m : List (Nat × Nat)) (k : Nat) : Nat := ((m.find? fun x => x.1 = k).map fun x => x.2).getD k

/-- Move the tile slots that groups own from one core to another, and return the new numbers. -/
def State.moveSlots (s : State) (u u' : Nat) (gids : List Nat) : State × List (Nat × Nat) :=
  let ps := s.ownedSlots u gids
  let m := (ps.map fun p => p.1).zip (s.freeTileSlots u' ps.length)
  let s := s.onCore u fun c => { c with slots := FMap.keep c.slots fun k _ => !ps.any fun p => p.1 = k }
  (s.onCore u' fun c => { c with slots := ps.foldl (fun t p => FMap.insert t (newSlot m p.1) p.2) c.slots }, m)

/-- A binding on its new slots. -/
def Tile.moved (t : Tile) (m m2 : List (Nat × Nat)) : Tile := { t with slot := newSlot m t.slot, slot2 := newSlot m2 t.slot2 }

/-- The operations of a moved group come to the queue of their new array, in issue order, behind whatever has come to it before (R259, R279). -/
def State.moveOps (s : State) (gid u' : Nat) (m m2 : List (Nat × Nat)) : State :=
  (s.eops.filter fun x => x.2.gid = gid && !x.2.tileDone).foldl (fun s x =>
    { s with eops := FMap.insert s.eops x.1 { x.2 with unit := u', bind := x.2.bind.moved m m2, arr := s.nextId }, nextId := s.nextId + 1 }) s

/-- Move one group to another unit, with everything that goes by its name. -/
def State.moveGroup (s : State) (gid u' : Nat) (m m2 : List (Nat × Nat)) : State :=
  match s.freeGroupSlots u' 1 with
  | [] => s
  | k :: _ =>
    let new := u' * 256 + k
    let g := s.grp gid
    let s := (s.freeLane (laneKey (s.blk g.blk) g (unitOfGid gid)) (slotOfGid gid)).regid gid new
    { (s.moveOps new u' m m2) with
      groups := FMap.insert (FMap.erase s.groups gid) new { g with tiles := FMap.mapVals g.tiles fun _ t => t.moved m m2, run := 0, readyAt := s.now }
      blocks := FMap.modify s.blocks g.blk fun b => { b with groups := b.groups.map fun x => if x = gid then new else x } }

/-- Move some groups of one core to another, with their tiles and their matrix operations. -/
def State.moveGroups (s : State) (gids : List Nat) (u u' : Nat) : State :=
  let a := s.moveSlots u u' gids
  let b := a.1.moveSlots (u + 1) (u' + 1) gids
  gids.foldl (fun s g => s.moveGroup g u' a.2 b.2) b.1

/-- A block's held writes go with it. -/
def State.moveWrites (s : State) (k u' : Nat) : State :=
  { s with wrs := FMap.mapVals s.wrs fun _ w => if w.blk = k && (w.place = WPlace.buffer || w.place = WPlace.log) then { w with unit := u' } else w }

/-- Move a whole block, whose groups stand on its core or its name off the cores. -/
def State.moveBlock (s : State) (k u' lam : Nat) : State :=
  let b := s.blk k
  let s := (distinct (b.groups.map unitOfGid)).foldl (fun s u => s.moveGroups (b.groups.filter fun g => unitOfGid g = u) u u') s
  (s.moveWrites k u').onBlk k fun b => { b with core := u', lane := lam }

/-! ## Treatments (R311, R328, R367, R368) -/

/-- A lane holds a group of the block. -/
def State.running (s : State) (k : Nat) : Bool :=
  (s.groupsOf k).any fun g => match FMap.find? s.lanes (laneKey (s.blk k) (s.grp g) (unitOfGid g)) with | some l => l.slot = some (slotOfGid g) | none => false

/-- A write has a part that is bound for a peer whose deadline has passed: no save waits for it (R364, R368). (DEDUCED, log 133) -/
def State.outOfReach (s : State) (id : Nat) : Bool :=
  s.reqs.any fun x => x.2.client = .write id && (match x.2.stage with | .egress m _ | .sent m _ => (s.flow m).lost | _ => false)

/-- A write is as R328 asks before a report: in the buffer of a block inside its window, or in the side log, or performed; a copy's goes on (R170). (DEDUCED, log 133) -/
def State.writeSettled (s : State) (id : Nat) (w : Wr) : Bool :=
  match w.place with
  | .buffer => ((FMap.find? s.blocks w.blk).map fun b => b.rl).getD false
  | .log => w.reqs = 0
  | .engine => true
  | _ => s.outOfReach id

/-- What R328 asks before a block's report: a block past its window has drained its buffer, and every write that has left it is performed. -/
def State.settledWrites (s : State) (k : Nat) : Bool := s.wrs.all fun x => x.2.blk ≠ k || s.writeSettled x.1 x.2

/-- A group's outstanding loads and SFU results can be discarded: it has a region to go back to, and is not in its handler (R368). -/
def Group.discards (g : Group) : Bool := g.rgn.isSome && !g.inH

/-- A register of the group is TENT. -/
def Group.hasTent (g : Group) : Bool :=
  g.t.any (fun r => r.2.st.isTent) || g.w.any (fun r => r.2.st.isTent) || g.p.any (fun r => r.2.st.isTent) || g.q.any (fun r => r.2.st.isTent)

/-- A matrix operation is inside its tile phase, other than a multiplication at a chunk boundary (R279). -/
def State.midTile (s : State) (k : Nat) (e : EOp) : Bool :=
  e.begun && !e.tileDone && (match e.op with | .mma .. | .dist .. => !(s.eopReqs k).isEmpty | _ => true)

/-- The producers of a group are settled (R368, R279). -/
def State.settledGroup (s : State) (gid : Nat) : Bool :=
  let g := s.grp gid
  !g.hasTent && (s.ops.all fun x => match x.2 with
    | .load o => o.gid ≠ gid || g.discards
    | .sfu o => o.gid ≠ gid || g.discards
    | .atom o => o.gid ≠ gid || o.dst.isNone
    | .srd o => o.gid ≠ gid
    | .gth _ => true)
  && s.eops.all fun x => x.2.gid ≠ gid || !s.midTile x.1 x.2

/-- The groups of a block have stopped: no lane holds one, and none is inside an instruction that a pre-emption waits for. -/
def State.hasStopped (s : State) (k : Nat) : Bool := !s.running k && (s.groupsOf k).all fun g => !(s.grp g).holdsStop

/-- A block can be saved now. -/
def State.canSave (s : State) (k : Nat) : Bool := s.hasStopped k && s.settledWrites k && (s.groupsOf k).all s.settledGroup

/-- A register that waits for a discarded result is FULL again: the region's instructions write it anew. (DESIGN CHOICE, log 27) -/
def Group.fillEmpty (g : Group) : Group :=
  { g with
    t := FMap.mapVals g.t fun _ r => if r.st = .empty then { r with st := .full } else r
    w := FMap.mapVals g.w fun _ r => if r.st = .empty then { r with st := .full } else r }

/-- The vector packets that a group's outstanding loads belong to. -/
def State.loadPackets (s : State) (gid : Nat) : List Nat :=
  distinct (s.ops.filterMap fun x => match x.2 with | .load o => if o.gid = gid then o.gth else none | _ => none)

/-- Settle a group for a save (R368): outstanding loads and SFU results are discarded and the group goes back to its region's entry; a park on
a barrier word, a mailbox or a watch is taken up anew by its instruction (R335). (DESIGN CHOICE, log 27; DEDUCED, log 104) -/
def State.settle (s : State) (gid : Nat) : State :=
  let g := s.grp gid
  let busy := s.ops.any fun x => match x.2 with | .load o => o.gid = gid | .sfu o => o.gid = gid | _ => false
  let vs := s.loadPackets gid
  let mine (q : Req) : Bool := s.readsFor gid q || (match q.client with
    | .load op => (match FMap.find? s.ops op with | some (.load o) => decide (o.gid = gid) | _ => false)
    | _ => false)
  let s := (s.reqs.filter fun x => mine x.2).foldl (fun s x => s.dropReq x.1) s
  let s := { s with
    ops := FMap.keep s.ops fun i o => match o with | .load o => o.gid ≠ gid | .sfu o => o.gid ≠ gid | _ => !vs.contains i
    watches := FMap.keep s.watches fun _ w => w.gid ≠ gid }
  let g := match busy, g.rgn with
    | true, some r => { g.fillEmpty with pc := r.resume, act := r.act, stack := r.stack, gth := g.gth - vs.length, wait := .none, cont := none }
    | _, _ => g
  s.setGrp gid { g with
    wait := match g.wait with | .barrier .. | .watch _ | .mailbox => .none | w => w
    cont := match g.cont with | some (.arw a b) => some (.arw a b) | _ => none
    stuck := none, hkind := 0 }

/-- A save is reported (R368, R369): the block leaves its core, and its image is written. -/
def State.doSave (s : State) (k : Nat) : Option State :=
  let b := s.blk k
  let ran := s.ranOf b
  let s := (s.groupsOf k).foldl (fun s g => s.settle g) s
  let from_ := if b.onCore then b.core else 0
  let s := { s with saved := FMap.insert s.saved k { from_ := from_, images := ((FMap.find? s.saved k).map fun x : Saved => x.images).getD [] } }
  let s := (s.moveBlock k (offUnit k) b.lane).onBlk k fun b => { b with ran := ran }
  s.putImage k (s.sections k (s.blk k).groups true) 1 false

/-- A block leaves the machine: discarded (R379), or ended. -/
def State.eraseBlock (s : State) (k : Nat) : State :=
  let b := s.blk k
  let s := (s.clearBlock k).freeImages k
  ({ s with blocks := FMap.erase s.blocks k, saved := FMap.erase s.saved k }.zeroBlock b).zeroCluster b.cbase

/-- Take a block's treatment as far as it goes now (R311, R368). -/
def State.settleBlock (s : State) (k : Nat) : State :=
  match FMap.find? s.blocks k with
  | none => s
  | some b =>
    if !b.onCore || b.live = 0 then s else
    match b.stop with
    | some .save => if s.canSave k then (s.doSave k).getD s else s
    | some .halt =>
      if (FMap.find? s.saved k).isNone && s.hasStopped k && s.settledWrites k then
        let s' := { s with saved := FMap.insert s.saved k { from_ := b.core } }
        (s'.putImage k [] 2 true).getD s
      else s
    | some .flush => if !s.hasStopped k then s else ((s.clearBlock k).zeroBlock b).requeue k (s.blk k).fresh
    | some .discard => if s.running k then s else s.eraseBlock k
    | _ => s

/-- The blocks of a block's set that are treated with it: all of them where they share a cluster allotment (R367). -/
def State.setOf (s : State) (k : Nat) : List Nat :=
  let b := s.blk k
  if b.hdr.clu = 0 then [k] else (s.blocks.filter fun x => x.2.cbase = b.cbase && x.2.onCore && x.2.live ≠ 0).map fun x => x.1

/-- The treatment of R367 for one block. -/
def State.treatOne (s : State) (b : Block) : Treat :=
  let e := s.ranOf b
  if e < b.hdr.est && b.hdr.est - e ≤ s.regs.drmax * 1000 && s.regs.drmax ≠ 0 then .drain
  else if b.rs && e ≤ s.regs.flmax * 1000 && s.regs.flmax ≠ 0 then .flush
  else .save

/-- The treatment of a victim and its set: that of its member of least e, or a save if some member is not restartable (R367). -/
def State.treatSet (s : State) (k : Nat) : Treat :=
  match (s.setOf k).map s.blk with
  | [] => .save
  | [b] => s.treatOne b
  | b :: bs => if (b :: bs).any fun x => !x.rs then .save else s.treatOne (bs.foldl (fun m x => if s.ranOf x < s.ranOf m then x else m) b)

/-- Give blocks a treatment, from now; the ageing counts of their groups come up to date first (R306, R311). -/
def State.treat (s : State) (ks : List Nat) (t : Treat) : State :=
  ks.foldl (fun s k => s.onBlk k fun b => { b with stop := some t, chosen := s.now }) (s.ageTurn fun g => ks.contains g.blk)

/-! ## Restores (R309, R370, R401) -/

/-- A block's pair tiles and single tiles, in slots. -/
def State.tileNeeds (s : State) (k : Nat) : Nat × Nat :=
  let u := (s.blk k).core
  ((s.ownedSlots u (s.groupsOf k)).length, (s.ownedSlots (u + 1) (s.groupsOf k)).length)

/-- Insert into a sorted list, behind its equals. -/
def insertBy {α : Type} (le : α → α → Bool) (x : α) : List α → List α
  | [] => [x]
  | y :: ys => if le y x then y :: insertBy le x ys else x :: y :: ys

/-- The clusters of a die other than one, the most free capacity first, the lowest among equals (R381). -/
def State.byCapacity (s : State) (d c : Nat) : List Nat :=
  ((s.visibleOn d).filter fun x => x ≠ c).foldl (fun acc x => insertBy (fun a b => s.capacity b ≤ s.capacity a) x acc) []

/-- The cores that a dropped block's relaunch tries, in order (R381): the same cluster alone where it shares a cluster allotment. (DEDUCED, log 87) -/
def State.relaunchOrder (s : State) (b : Block) (c d : Nat) : List Nat :=
  if b.hdr.clu ≠ 0 then clusterCores c else (s.byCapacity d c).flatMap clusterCores ++ clusterCores c

/-- The cluster on which the blocks of a block's set stand that are on cores. -/
def State.setHome (s : State) (b : Block) : Option Nat :=
  (List.find? (fun (x : Nat × Block) => x.2.cbase = b.cbase && s.holdsBytes x.1 x.2) s.blocks).map fun x => clusterOf x.2.core

/-- How many blocks of a block's set are on no core. -/
def State.setAway (s : State) (b : Block) : Nat := (s.blocks.filter fun x => x.2.cbase = b.cbase && !x.2.onCore && (FMap.find? s.saved x.1).isSome).length

/-- The clusters that may take the blocks of a set moved whole (R385): the one that has some of them, or those with room for all. -/
def State.wholeSet (s : State) (b : Block) (clusters : List Nat) : List Nat :=
  match s.setHome b with
  | some c => if clusters.contains c then [c] else []
  | none => clusters.filter fun c => (s.placement c b.hdr b.ngrp (s.setAway b) fun _ => false).isSome

/-- The cores of a cluster, the coolest first, the lowest among equals (R310). -/
def State.byHeat (s : State) (c : Nat) : List Nat :=
  (clusterCores c).foldl (fun acc u => insertBy (fun a b => (s.core a).tmp ≤ (s.core b).tmp) u acc) []

/-- The cores that a block saved for a scan tries (R383): another core of its cluster by the rule of R310, and after the scan its pair's first. (DEDUCED, log 89) -/
def State.scanOrder (s : State) (f : Nat) : List Nat :=
  if (s.core f).scanning then s.byHeat (clusterOf f) else f :: (f / 2 * 2 + (f + 1) % 2) :: s.byHeat (clusterOf f)

/-- The cores that a migrating block tries (R310): the coolest of its cluster that read at least 5 degrees below THOT, then its own, on which it stays. -/
def State.coolOrder (s : State) (f : Nat) : List Nat :=
  ((s.byHeat (clusterOf f)).filter fun u => u ≠ f && (s.core u).tmp + 5 ≤ s.regs.thot) ++ [f]

/-- The cores that a restore tries, in order (R401): its cluster's from the next one on, its own last; then those of the die's other clusters;
then, where the cluster is no longer visible or the die no longer its partition's, those of the partition's other dies (R370). (DEDUCED, log 87) -/
def State.restoreOrder (s : State) (k : Nat) : List Nat :=
  let b := s.blk k
  let f := ((FMap.find? s.saved k).map fun x => x.from_).getD 0
  let dies := s.diesOf b.part
  let c := clusterOf f
  let own := (List.range 8).map fun i => 8 * c + (f % 8 + 1 + i) % 8
  let lost := !s.visible c || !dies.contains (dieOf f)
  let keep (l : List Nat) : List Nat := if b.hdr.clu = 0 then l else s.wholeSet b l
  let others (d : Nat) : List Nat := (keep ((s.visibleOn d).filter fun x => x ≠ c)).flatMap clusterCores
  let step2 := if b.hdr.clu ≠ 0 && !lost then [] else if dies.contains (dieOf f) then others (dieOf f) else []
  let away := if lost then (dies.filter fun d => d ≠ dieOf f).flatMap others else []
  let l := (if lost then [] else own) ++ step2 ++ away
  let dropped := ((FMap.find? s.saved k).map fun x => x.dropped).getD false
  if b.scan && !lost then s.scanOrder f
  else if dropped && !lost then s.relaunchOrder b c (dieOf f) else
  if b.mig && !lost then s.coolOrder f else l

/-- The shape of a block as it stands. -/
def State.shapeOf (s : State) (k : Nat) : Shape :=
  let b := s.blk k
  ⟨if ((FMap.find? s.saved k).map fun x => x.restart).getD false then List.range b.ngrp else b.groups.map fun g => (s.grp g).num,
   b.ngrp, allotOf b.hdr.regs, extent256 b.hdr.lane, extent256 b.hdr.core⟩

/-- A core qualifies for a block (R370, R401): room under R283, tile slots, side-log room; its set's cluster allotment where none stands. -/
def State.qualifies (s : State) (k u : Nat) : Option Nat :=
  let b := s.blk k
  let need := s.tileNeeds k
  let none_ (_ : Nat) : Bool := false
  let k8 := if s.blocks.any fun x => x.2.cbase = b.cbase && s.holdsBytes x.1 x.2 && clusterOf x.2.core = clusterOf u then 0 else b.hdr.eighth
  if !s.usable u then none
  else if need.2 ≠ 0 && (u % 2 ≠ 0 || (s.room (u + 1) none_).tiles < need.2) then none
  else if (s.room u none_).tiles < need.1 || 64 < s.logSize u + (s.heldWrites k .log).length then none
  else match withCluster k8 ((clusterCores (clusterOf u)).map fun v => (v, s.room v none_)) with
    | none => none
    | some rs => (rs.find? fun r => r.1 = u).bind fun r => r.2.lowest (s.shapeOf k)

/-- The priority of a block at a distribution point (R309). -/
def State.prioNow (s : State) (b : Block) : Nat :=
  match b.lid with
  | some l => (match FMap.find? s.recs l with | some r => min (FMap.getD s.queues r.q {}).qpri b.hdr.prio | none => b.prio)
  | none => b.prio

/-- The responses that a block's side-log entries received while it was saved: a discard is "write discarded" (R184, R370). -/
def State.lateDiscards (s : State) (k : Nat) : State :=
  (s.heldWrites k .log).foldl (fun s x =>
    if x.2.answered = some false then
      ({ s with wrs := FMap.erase s.wrs x.1 }) |> fun s => x.2.gids.foldl (fun s g => s.dueTrap g { cause := .writeDiscarded, frec := x.2.record }) s
    else s) s

/-- The context's blocks may be restored now: it runs, or its `PSTART` is under way. -/
def State.restorable (s : State) (c : Nat) : Bool :=
  let x := s.ctx c
  if x.stopping then x.starting else x.vst = .run

/-- The block is halted in place. -/
def State.haltedBlock (s : State) (k : Nat) : Bool :=
  match FMap.find? s.blocks k with | some b => b.onCore && b.stop = some .halt && (FMap.find? s.saved k).isSome | none => false

/-- A block is on its way out: its room counts as being freed (R307). -/
def State.leaving (s : State) (k : Nat) : Bool := match (s.blk k).stop with | some .halt => s.haltedBlock k | some _ => (s.blk k).onCore | none => false

/-- A cluster's room goes to a waiting `LAUNCH` of a higher priority, which it fits once the blocks that leave have left (R307). -/
def State.promised (s : State) (c prio : Nat) : Bool :=
  s.groups.any fun x => match x.2.cont with
    | some (.launchOn c' l) => c' = c && (match FMap.find? s.recs l with
        | some r => prio < r.prio && !s.regs.pmode.getLsbD r.part && (s.placement c r.hdr r.gpb r.bps s.leaving).isSome
        | none => false)
    | _ => false

/-- Restore a saved or restarted block on the first core that qualifies (R370, R401); where none does it stays. (DESIGN CHOICE, log 73) -/
def State.tryRestore (s : State) (k : Nat) : State :=
  match FMap.find? s.blocks k, FMap.find? s.saved k with
  | some b, some v =>
    if b.onCore || !s.restorable b.ctx then s else
    let prio := s.prioNow b
    match (s.restoreOrder k).findSome? fun u => if s.promised (clusterOf u) prio then none else (s.qualifies k u).map fun lam => (u, lam) with
    | none => s
    | some (u, lam) =>
      let b := { b with prio := prio, mig := false, scan := false, stop := none }
      if v.restart then
        let s := { (s.freeImages k) with saved := FMap.erase s.saved k }
        s.startBlock k b u lam b.lid.isNone
      else
        let s := (((s.setBlk k b).moveBlock k u lam).onBlk k fun b => { b with placed := s.now }).freeImages k
        let s := { s with saved := FMap.erase s.saved k }
        ((s.noteLid u b.lid).l1DropCtx u b.ctx).lateDiscards k
  | _, _ => s

/-! ## Halted in place, claimed and resumed (R311) -/

/-- The parts of a halted block that have been spilt come back: its spilt groups, its allotments. All of them fit where they were, or none moves. -/
def State.resumeHere (s : State) (k : Nat) : Option State :=
  let b := s.blk k
  let v := FMap.find? s.saved k
  let cut := (v.map fun x => x.cut).getD false
  let away := b.groups.filter fun g => unitOfGid g ≠ b.core
  let sh : Shape := { (s.shapeOf k) with nums := away.map fun g => (s.grp g).num, lane := if cut then extent256 b.hdr.lane else 0, core := if cut then extent256 b.hdr.core else 0 }
  let tiles := (s.ownedSlots (offUnit k) away).length
  let tiles2 := (s.ownedSlots (offUnit k + 1) away).length
  let r := s.room b.core fun _ => false
  if r.fits sh b.lane && tiles ≤ r.tiles && tiles2 ≤ (s.room (b.core + 1) fun _ => false).tiles then
    let s := ((s.moveGroups away (offUnit k) b.core).freeImages k).ageTurn fun g => g.blk = k
    some (({ s with saved := FMap.erase s.saved k }.onBlk k fun b => { b with stop := none, placed := s.now }).l1DropCtx b.core b.ctx)
  else none

/-- Resume a halted block (R311): in place if every spilt part fits back, else its remaining parts are spilt and it is restored elsewhere. -/
def State.resume (s : State) (k : Nat) : State :=
  match s.resumeHere k with
  | some s' => s'
  | none =>
    let s := s.treat [k] .save
    if s.canSave k then (s.doSave k).getD s else s

/-- The sets that wait for room, as clusters with a header, groups per block and blocks per set: those of the launches that wait (R298), and the
saved blocks whose restore finds none (R370). -/
def State.wanted (s : State) : List (Nat × Header × Nat × Nat) :=
  (s.groups.filterMap fun x => match x.2.cont with
    | some (.launchOn c l) => (FMap.find? s.recs l).map fun r => (c, r.hdr, r.gpb, r.bps)
    | _ => none)
  ++ s.blocks.filterMap fun x =>
    if !x.2.onCore && s.restorable x.2.ctx then
      (FMap.find? s.saved x.1).map fun v => (clusterOf v.from_, x.2.hdr, x.2.ngrp, 1)
    else none

/-- Where the waiting sets of a core's cluster would stand if the halted blocks were gone. -/
def State.wantedOn (s : State) (u : Nat) : List (Shape × Nat) :=
  s.wanted.flatMap fun x =>
    if x.1 ≠ clusterOf u then []
    else if (s.placement x.1 x.2.1 x.2.2.1 x.2.2.2 fun _ => false).isSome then []
    else ((s.placement x.1 x.2.1 x.2.2.1 x.2.2.2 s.haltedBlock).getD []).filterMap fun y => if y.1 = u then some (x.2.1.shape x.2.2.1, y.2) else none

/-- A lane of a core lacks the rows, or the core or the lane the bytes, that a waiting set's placement asks of it. (DEDUCED, log 88) -/
def State.lacks (s : State) (u : Nat) (l : Option Nat) : Bool :=
  let r := s.room u fun _ => false
  (s.wantedOn u).any fun x =>
    match l with
    | some l =>
      let y := (r.lanes[l]?).getD (0, 0, 0)
      let m := onLane x.1.nums x.2 l
      m ≠ 0 && (y.1 < m * x.1.allot || y.2.1 < m)
    | none => r.bytes < x.1.core || (List.range 32).any fun l => onLane x.1.nums x.2 l ≠ 0 && ((r.lanes[l]?).getD (0, 0, 0)).2.2 < x.1.lane

/-- A saved block whose restore finds room in a core's cluster, but not the tile slots that it needs, which halted groups hold on that core (R311, R370). (DEDUCED, log 88) -/
def State.lacksTiles (s : State) (u : Nat) : Bool :=
  s.blocks.any fun x => !x.2.onCore && s.restorable x.2.ctx && ((FMap.find? s.saved x.1).map fun v => clusterOf v.from_) = some (clusterOf u)
    && (s.room u fun _ => false).tiles < (s.tileNeeds x.1).1 && (s.tileNeeds x.1).1 ≤ (s.room u s.haltedBlock).tiles
    && (s.placement (clusterOf u) x.2.hdr x.2.ngrp 1 fun _ => false).isSome && (s.restoreOrder x.1).all fun v => (s.qualifies x.1 v).isNone

/-- Spill one group of a halted block, settled as a save settles it. (DEDUCED, log 88) -/
def State.spillGroup (s : State) (gid : Nat) : State :=
  let k := (s.grp gid).blk
  if s.settledGroup gid then
    let s' := (s.settle gid).moveGroups [gid] (unitOfGid gid) (offUnit k)
    (s'.putImage k (s'.sections k ((s'.groupsOf k).filter fun g => !(s.groupsOf k).contains g) false) 2 true).getD s
  else s

/-- Spill the allotment bytes of a halted block. (DEDUCED, log 88) -/
def State.spillBytes (s : State) (k : Nat) : State :=
  let s' := { s with saved := FMap.modify s.saved k fun v => { v with cut := true } }
  (s'.putImage k (s'.sections k [] true) 2 true).getD s

/-- RESOURCE_CLAIM (R311): a part that a halted block holds, and that a waiting set's placement or a restore needs, is spilt: the rows and tiles of a group, or
with `bytes` the allotments of a block. -/
def State.claim (s : State) (bytes : Bool) (id : Nat) : State :=
  if bytes then
    if s.haltedBlock id && s.holdsBytes id (s.blk id) && s.lacks (s.blk id).core none then s.spillBytes id else s
  else
    match FMap.find? s.groups id with
    | none => s
    | some g =>
      if s.haltedBlock g.blk && unitOfGid id < 1536
        && (s.lacks (unitOfGid id) (some (laneOf (s.blk g.blk) g)) || (s.ownedSlots (unitOfGid id) [id] ≠ [] && s.lacksTiles (unitOfGid id))) then s.spillGroup id
      else s

/-! ## Victims of a higher priority (R307) -/

/-- The blocks of a cluster that a set of a priority may pre-empt, in order: lowest priority first, the most recently placed first among equals. -/
def State.victims (s : State) (c prio : Nat) : List Nat :=
  let l := s.blocks.filter fun x => x.2.onCore && clusterOf x.2.core = c && x.2.prio < prio && x.2.stop.isNone && x.2.live ≠ 0 && x.2.core < 1536
  ((List.range 8).flatMap fun p =>
    let same := l.filter fun x => x.2.prio = p
    (same.foldl (fun acc x => insertBy (fun a b => b.2.placed ≤ a.2.placed) x acc) []).map fun x => x.1)

/-- The first victims, in order, whose going makes room; none where no number of them does. -/
def State.enough (s : State) (c : Nat) (h : Header) (ngrp n : Nat) (going : Nat → Bool) : List Nat → List Nat → Option (List Nat)
  | taken, [] => if (s.placement c h ngrp n fun k => going k || taken.contains k).isSome then some taken else none
  | taken, v :: vs =>
    if (s.placement c h ngrp n fun k => going k || taken.contains k).isSome then some taken
    else s.enough c h ngrp n going (taken ++ s.setOf v) vs

/-- Pre-empt for a set (R307): blocks already on their way out count as room being freed. -/
def State.preempt (s : State) (c prio : Nat) (h : Header) (ngrp n : Nat) : State :=
  match s.enough c h ngrp n s.leaving [] (s.victims c prio) with
  | none => s
  | some vs => vs.foldl (fun s k => if (s.blk k).stop.isSome then s else s.treat (s.setOf k) (s.treatSet k)) s

/-! ## The turn of a lane, and the steps -/

/-- The treatments that are under way on a unit, each taken as far as it goes; blocks that left it try to come back (R368, R370). -/
def State.settleUnit (s : State) (u : Nat) : State :=
  let s := s.blocks.foldl (fun s x => if x.2.core = u && x.2.stop.isSome then s.settleBlock x.1 else s) s
  s.blocks.foldl (fun s x => if !x.2.onCore && ((FMap.find? s.saved x.1).map fun v => v.from_) = some u then s.tryRestore x.1 else s) s

/-- A lane that holds no group: it chooses a run (R304), and the treatments of its core go on. (DESIGN CHOICE, log 1) -/
def State.laneTurn (s : State) (key : Nat) : State := if offCore ≤ key / 32 then s else (s.select key).settleUnit (key / 32)

/-- RUN_SELECT (R303, R304, R308): `lane` counts the lanes of the module, 32 to each unit. -/
def execRunSelect (lane : Nat) (s : State) : Host.Outcome State Fault Refusal := .next (s.laneTurn lane)

/-- DRAIN_TIMEOUT (R367): a drained block still running DRMAX after the choice is saved. -/
def execDrainTimeout (id : Nat) (s : State) : Host.Outcome State Fault Refusal :=
  match FMap.find? s.blocks id with
  | some b => .next (if b.stop = some .drain && b.chosen + s.regs.drmax * 1000 ≤ s.now then s.treat (s.setOf id) .save else s)
  | none => .next s

/-- SAVE_AREA_FREED (R406): a save that waited for space in its context's save area goes on. -/
def execSaveAreaFreed (id : Nat) (s : State) : Host.Outcome State Fault Refusal := .next (s.settleBlock id)

/-- RESTORE_RETRY (R370, R401). -/
def execRestoreRetry (id : Nat) (s : State) : Host.Outcome State Fault Refusal := .next (s.tryRestore id)

/-- RESOURCE_CLAIM (R311). (DEDUCED, log 88) -/
def execResourceClaim (bytes : Bool) (id : Nat) (s : State) : Host.Outcome State Fault Refusal := .next (s.claim bytes id)

/-- The coolest core of a cluster that can hold a block and reads at least 5 degrees below THOT; the lowest among equals (R310). -/
def State.coolest (s : State) (k : Nat) : Option Nat :=
  let b := s.blk k
  let l := (clusterCores (clusterOf b.core)).filter fun u => u ≠ b.core && (s.core u).tmp + 5 ≤ s.regs.thot && (s.qualifies k u).isSome
  match l with
  | [] => none
  | u :: us => some (us.foldl (fun m v => if (s.core v).tmp < (s.core m).tmp then v else m) u)

/-- The longest-resident block of a hot core that may move (R310). -/
def State.migrant (s : State) (u : Nat) : Option Nat :=
  let busy (c : Nat) : Bool := s.blocks.any fun x => x.2.ctx = c && (x.2.stop = some .flush || x.2.stop = some .halt)
  let l := s.blocks.filter fun x => x.2.core = u && x.2.live ≠ 0 && x.2.stop.isNone && max 1 s.regs.minres * 1000000 ≤ s.now - x.2.placed && !busy x.2.ctx && (s.coolest x.1).isSome
  match l with
  | [] => none
  | x :: xs => some (xs.foldl (fun (m : Nat × Block) y => if y.2.placed < m.2.placed then y else m) x).1

/-- A hot core moves one block at a time, by save and restore, to the coolest core of its cluster that can hold it (R310). -/
def State.migrate (s : State) (u : Nat) : State :=
  if !(s.regs.ten && s.regs.thot ≤ (s.core u).tmp) || 1536 ≤ u then s
  else if s.blocks.any fun x => x.2.mig && ((FMap.find? s.saved x.1).map fun v => v.from_).getD x.2.core = u then s.settleUnit u
  else match s.migrant u with
    | none => s
    | some k => (s.onBlk k fun b => { b with mig := true }).treat [k] .save

/-- THERMAL_MIGRATION (R310, Table 13-4): a core's sensor gives its temperature, and the scheduler acts on it. -/
def execThermalMigration (x : Heat) (s : State) : Host.Outcome State Fault Refusal := .next ((s.onCore x.unit fun c => { c with tmp := x.tmp % 256 }).migrate x.unit)

end Sys2Proof.Machine
end

