-- ==== Sys2Proof/Machine/Launch.lean ====
section
/-! DEFINITION. Launch queues and the front end, mailboxes and the cobbler's instructions, pennants and completions (R286 to R302, R305). -/

namespace Sys2Proof.Machine

open Sys2Proof Sys2Proof.Decode

/-! ## Headers and packets (R286 to R289) -/

/-- A launch header from its eight words (Table 12-2). -/
def headerOf (w : Nat → W64) : Header :=
  { code := w 0, idem := bt (w 1) 43, prio := bf (w 1) 40 3, regs := bf (w 1) 32 8, len := BitVec.ofNat 32 (bf (w 1) 0 32), est := bf (w 2) 0 32
    w := bf (w 3) 0 3 :: (List.range 5).map fun k => bf (w 3) (3 + 7 * k) 7
    sc := (List.range 5).map fun k => bf (w 3) (38 + 3 * k) 3
    core := bf (w 4) 32 32, lane := bf (w 4) 0 32, cbsz := bf (w 5) 32 17, clu := bf (w 5) 0 32 }

/-- The width of a field. -/
def Header.width (h : Header) (k : Nat) : Nat := (h.w[k]?).getD 0
/-- The scope code of a field f1 to f5. -/
def Header.scope (h : Header) (k : Nat) : Nat := (h.sc[k - 1]?).getD 0

/-- The scopes of the fields of nonzero width. -/
def Header.scopes (h : Header) : List Nat := ((List.range 5).filter fun k => h.width (k + 1) ≠ 0).map fun k => h.scope (k + 1)

/-- The scopes do not decrease (R286). -/
def rising : List Nat → Bool
  | a :: b :: l => a ≤ b && rising (b :: l)
  | _ => true

/-- A header is well formed (R285, R286, R288): its words' reserved bits are zero and its fields within their ranges. (DEDUCED, log 80) -/
def headerOk (w : Nat → W64) : Bool :=
  let h := headerOf w
  bf (w 1) 44 20 = 0 && bf (w 2) 32 32 = 0 && bf (w 3) 53 11 = 0 && bf (w 5) 49 15 = 0 && w 6 = 0 && w 7 = 0
  && 1 ≤ h.regs && h.regs ≤ 128 && h.cbsz ≤ 65536 && h.lane ≤ 8192 && h.core ≤ 240 * 1024 && h.clu ≤ 1920 * 1024
  && h.width 0 ≤ 5 && h.w.sum ≤ 64 && (h.scopes.all fun x => x ≤ 4) && rising h.scopes

/-- The product of the extents of the fields whose scope a test takes. -/
def extents (h : Header) (p : List W64) (f : Nat → Bool) : Nat :=
  (List.range 5).foldl (fun n k => if h.width (k + 1) ≠ 0 && f (h.scope (k + 1)) then n * extOf p (k + 1) else n) 1
/-- Groups of a block. -/
def groupsPer (h : Header) (p : List W64) : Nat := extents h p fun x => x = 0
/-- Blocks of a set. -/
def blocksPer (h : Header) (p : List W64) : Nat := extents h p fun x => x = 1
/-- T, the sets of the grid (R287). -/
def setsIn (h : Header) (p : List W64) : Nat := extents h p fun x => x = 2 || x = 3

/-- The bits of `%wid` that lie in fields of scope none. -/
def noneBits (h : Header) : Nat :=
  ((List.range 5).foldl (fun (x : Nat × Nat) k =>
    let w := h.width (k + 1)
    (x.1 + w, if h.scope (k + 1) = 4 then x.2 + (2 ^ w - 1) * 2 ^ x.1 else x.2)) (h.width 0, 0)).2

/-- FIRST of a packet. -/
def pktFirst (p : List W64) : Nat := bf (pw p 7) 0 32
/-- COUNT of a packet. -/
def pktCount (p : List W64) : Nat := bf (pw p 7) 32 32
/-- WAITM of a packet. -/
def pktWaitm (p : List W64) : Nat := bf (pw p 6) 40 2
/-- DIE of a packet. -/
def pktDie (p : List W64) : Nat := bf (pw p 6) 42 4
/-- LID of a packet in a mailbox. -/
def pktLid (p : List W64) : Nat := bf (pw p 6) 50 14

/-- A packet is well formed for its header (R287, R289, R293). (DEDUCED, log 80) -/
def packetOk (h : Header) (p : List W64) : Bool :=
  bf (pw p 6) 46 4 = 0 && pktWaitm p ≠ 3
  && ((List.range 5).all fun k => if h.width (k + 1) = 0 || h.scope (k + 1) = 4 then extOf p (k + 1) = 1 else extOf p (k + 1) ≤ 2 ^ h.width (k + 1))
  && 1 ≤ extOf p 0 && extOf p 0 ≤ 32 && extOf p 0 ≤ 2 ^ h.width 0
  && (pw p 3).toNat &&& (2 ^ 64 - 1 - noneBits h) = 0
  && pktFirst p < setsIn h p

/-- The sets and the die of a packet are there to run it (R293): COUNT stays below T, and the partition has the die. (DEDUCED, log 80) -/
def packetRuns (h : Header) (p : List W64) (dies : List Nat) : Bool :=
  pktFirst p + pktCount p ≤ setsIn h p && !dies.isEmpty && (pktDie p = 15 || dies.contains (pktDie p))

/-- A set of a launch can fit some empty cluster (R293): every core of it there. (DEDUCED, log 80) -/
def fitsEmpty (h : Header) (p : List W64) : Bool :=
  groupsPer h p ≤ 256 && blocksPer h p ≤ 2048 &&
  match withCluster h.eighth ((List.range 8).map fun u => (u, emptyRoom)) with
  | none => false
  | some rs => (firstFit (h.shape (groupsPer h p)) (blocksPer h p) rs).isSome

/-! ## Completion records (R294) -/

/-- The completion record of a launch. -/
def doneRecord (lid status : Nat) (suspect pennant done : Bool) : W64 :=
  BitVec.ofNat 64 (done.toNat + pennant.toNat * 2 + (decide (status ≠ 0)).toNat * 4 + suspect.toNat * 8 + status % 256 * 16 + lid % 2 ^ 14 * 2 ^ 50)

/-- Write a completion record where the packet asks for one. -/
def State.writeRecord (s : State) (ctx : Nat) (done v : W64) : State := if pForm done = 1 then s.poke (s.sysGuidon ctx 6) done 8 v.toNat else s

/-! ## Queues and the front end (R291 to R293, R305) -/

/-- A launch queue. -/
def State.queue (s : State) (q : Nat) : LQueue := FMap.getD s.queues q {}
/-- Write a launch queue. -/
def State.setQueue (s : State) (q : Nat) (x : LQueue) : State := { s with queues := FMap.put s.queues q x {} }
/-- The guidon under which the front end reads a ring. (DEDUCED, log 79) -/
def State.ringGuidon (s : State) (x : LQueue) : BitVec 33 := guidonOf s.modNo x.part x.ctx 6 false false

/-- The write index of a queue as its word holds it, or what stopped the read. (DEDUCED, log 79) -/
def State.readWix (s : State) (x : LQueue) : Except (W64 × Walk) Nat :=
  match s.rdLe (s.ringGuidon x) x.wixp 8 with | .ok v => .ok v | .error w => .error (x.wixp, w)

/-- The pointer of a queue's head packet. -/
def LQueue.head (x : LQueue) : W64 := pPlus x.ring (64 * (x.rix % 2 ^ x.size))
/-- Packets pending, modulo the width of RIX. -/
def pending (x : LQueue) (wix : Nat) : Nat := (wix % 2 ^ 32 + 2 ^ 32 - x.rix % 2 ^ 32) % 2 ^ 32

/-- Eight words at a pointer. -/
def State.words8 (s : State) (g : BitVec 33) (p : W64) : Except (W64 × Walk) (List W64) :=
  match s.rdN g p 64 with
  | .ok bs => .ok ((List.range 8).map fun i => BitVec.ofNat 64 (leNat (((bs.map fun b => b.1).drop (8 * i)).take 8)))
  | .error w => .error (p, w)

/-- The head packet is held under WAITM (R293). -/
def State.waitmHolds (s : State) (x : LQueue) (p : List W64) : Bool :=
  match pktWaitm p with
  | 1 => !x.open_.isEmpty
  | 2 => x.open_.any fun l => match FMap.find? s.recs l with | some r => !r.pennant | none => false
  | _ => false

/-- The free entries of a die's mailbox: none of a die that leaves its partition, to which nothing is delivered (R389). (DEDUCED, log 91) -/
def State.boxFree (s : State) (d : Nat) : Nat := if s.parts.any fun x => x.2.leaves d then 0 else 256 - (FMap.getD s.boxes d []).length
/-- The partition's die with the most free entries, the lowest among equals. -/
def State.freestDie (s : State) (dies : List Nat) : Nat :=
  match dies with | [] => 0 | d :: ds => ds.foldl (fun m x => if s.boxFree m < s.boxFree x then x else m) d

/-- What the front end finds at the head of a queue. -/
inductive Head
  | none                                       -- no packet pending, or the queue is not enabled
  | ring                                       -- a ring error without a refusal
  | refused (p : W64) (r : Refuse)             -- a read of the index or the ring refused
  | away                                       -- a read that another module, or a gate, holds up
  | stalled                                    -- held under WAITM
  | bad (pkt : List W64) (status : Nat)        -- fails a check
  | deliver (pkt : List W64) (h : Header) (die lid : Nat)
  | room                                       -- waits for a mailbox entry or a launch record
  deriving DecidableEq, Repr

/-- What a stopped read of the front end comes to. (DEDUCED, log 79) -/
def headStop (x : W64 × Walk) : Head := match x.2 with | .refuse r => .refused x.1 r | _ => .away

/-- The lowest of `n` numbers, from `k` on, that a test takes. -/
def firstFree (f : Nat → Bool) : Nat → Nat → Option Nat
  | 0, _ => none
  | n + 1, k => if f k then some k else firstFree f n (k + 1)

/-- The front end's checks of a head packet, in their order (R293). (DEDUCED, log 80) -/
def State.checkPacket (s : State) (x : LQueue) (pkt : List W64) : Head :=
  if s.waitmHolds x pkt then .stalled else
  match s.words8 (s.ringGuidon x) (pw pkt 0) with
  | .error y => (match y.2 with | .refuse _ => .bad pkt 1 | _ => .away)
  | .ok ws =>
    let w (i : Nat) : W64 := (ws[i]?).getD 0
    let h := headerOf w
    let dies := s.partDies x.part
    if !headerOk w then .bad pkt 2
    else if !packetOk h pkt then .bad pkt 3
    else if !fitsEmpty h pkt then .bad pkt 4
    else if !packetRuns h pkt dies then .bad pkt 3
    else
      let die := if pktDie pkt = 15 then s.freestDie dies else pktDie pkt
      match firstFree (fun l => (FMap.find? s.recs l).isNone) 16384 0 with
      | some lid => if s.boxFree die = 0 then .room else .deliver pkt h die lid
      | none => .room

/-- What the front end finds at a queue. (DEDUCED, log 79) -/
def State.headOf (s : State) (q : Nat) : Head :=
  let x := s.queue q
  if !x.en || x.err || x.held.isSome then .none
  else if x.size < 2 || 16 < x.size then .ring
  else match s.readWix x with
    | .error y => headStop y
    | .ok wix =>
      if pending x wix = 0 then .none
      else if 2 ^ x.size < pending x wix then .ring
      else match s.words8 (s.ringGuidon x) x.head with
        | .error y => headStop y
        | .ok pkt => s.checkPacket x pkt

/-- The front end can act on what it finds. -/
def Head.acts : Head → Bool | .none | .away | .stalled | .room => false | _ => true

/-- A queue's partition is in rotation mode, in which the front end serves queues in round robin alone (R308). (DEDUCED, log 81) -/
def State.frontRotates (s : State) (q : Nat) : Bool := s.regs.pmode.getLsbD (s.queue q).part

/-- A queue's effective level (R305). (DEDUCED, log 81) -/
def State.level (s : State) (q : Nat) : Nat := if s.frontRotates q then 0 else min 7 ((s.queue q).qpri + (s.queue q).age)

/-- A queue's context is running: a context that is stopped has its queues stopped from delivering (R379). -/
def State.delivers (s : State) (q : Nat) : Bool := let x := s.ctx (s.queue q).ctx; x.vst = .run && !x.stopping

/-- The queue that the front end serves next (R305): of those whose head packet can be handled, the highest level, then round robin after the last one
served. (DEDUCED, log 81) -/
def State.nextQueue (s : State) : Option Nat :=
  let qs := (s.queues.map fun x => x.1).filter fun q => s.delivers q && (s.headOf q).acts
  let top := qs.foldl (fun m q => max m (s.level q)) 0
  let best := qs.filter fun q => s.level q = top
  match best.filter fun q => s.regs.rrq < q with
  | q :: _ => some q
  | [] => best.head?

/-- The head packet of a queue is held under WAITM: STALL (Table 12-4). -/
def State.stalled (s : State) (q : Nat) : Bool := decide (s.headOf q = .stalled)

/-- A queue's starvation count runs (R305): its head packet is pending and not held under WAITM. In rotation mode the counts stand still (R308). -/
def State.starves (s : State) (q : Nat) : Bool :=
  !s.frontRotates q && (match s.headOf q with | .none | .ring | .stalled => false | _ => true)

/-- Bring a queue's starvation count up to date, as the front end observes the queue now; with no packet pending its AGE is 0 (R305). (DESIGN CHOICE, log 123) -/
def State.queueTurn (s : State) (q : Nat) : State :=
  let x := s.queue q
  let gone := match s.readWix x with | .ok w => decide (pending x w = 0) | .error _ => false
  s.setQueue q { x with
    starve := x.starve + if x.counts then s.now - x.seen else 0
    seen := s.now, counts := s.starves q, age := if gone then 0 else x.age }

/-- Set the partitions' modes (Table 13-2): every ageing count comes up to date first, and stands still or runs on from now (R308). -/
def State.setPmode (s : State) (v : BitVec 16) : State :=
  let s := s.ageTurn fun _ => true
  (s.queues.map fun x => x.1).foldl State.queueTurn { s with regs := { s.regs with pmode := v } }

/-- The name under which a queue's refused read awaits its response. -/
def ringWho (q : Nat) : Nat := 2 ^ 64 + q

/-- A ring error (R292): ERR, EN cleared, a record in the physical log. -/
def State.ringError (s : State) (q : Nat) : State :=
  let x := s.queue q
  (s.setQueue q { x with err := true, en := false, held := none, counts := false }).post dstPlog (Config.noticeRec ntRing q) 2 false none

/-- A packet has been taken from the ring. -/
def State.advance (s : State) (q : Nat) : State :=
  let x := s.queue q
  let x := { x with rix := (x.rix + 1) % 2 ^ 32, starve := 0, counts := false }
  let x := match s.readWix x with | .ok w => { x with wix := w } | .error _ => x
  State.queueTurn { (s.setQueue q x) with regs := { s.regs with rrq := q } } q

/-- Wake the group of a die that waits at its mailbox: it reads it anew. -/
def State.wakeBox (s : State) (d : Nat) : State :=
  { s with groups := FMap.mapVals s.groups fun gid g =>
      if g.wait = .mailbox && unitOfGid gid < 1536 && dieOf (unitOfGid gid) = d then { g with wait := .none, readyAt := s.now } else g }

/-- Append a packet to a die's mailbox. -/
def State.toBox (s : State) (d : Nat) (p : List W64) : State :=
  ({ s with boxes := FMap.put s.boxes d (FMap.getD s.boxes d [] ++ [p]) [] }).wakeBox d

/-- Deliver a head packet (R293): its record, and the packet with LID and COUNT in the mailbox. -/
def State.deliver (s : State) (q : Nat) (pkt : List W64) (h : Header) (die lid : Nat) : State :=
  let x := s.queue q
  let t := setsIn h pkt
  let n := if pktCount pkt = 0 then t - pktFirst pkt else pktCount pkt
  let p := [pw pkt 0, pw pkt 1, pw pkt 2, pw pkt 3, pw pkt 4, pw pkt 5, setBf (pw pkt 6) 50 14 lid, setBf (pw pkt 7) 32 32 n]
  let r : LRec := { q := q, ctx := x.ctx, part := x.part, hdr := h, pkt := p, die := die, t := t, count := n, bps := blocksPer h pkt, gpb := groupsPer h pkt
                    prio := min x.qpri h.prio }
  let s := { s with recs := FMap.insert s.recs lid r }
  ((s.setQueue q { x with open_ := x.open_ ++ [lid] }).toBox die p).advance q

/-- FRONT_END_DELIVER (R292, R293): the front end handles the head packet of a queue, where it is the queue's turn; a context that is
stopped has its queues stopped from delivering (R379). (DEDUCED, log 79) -/
def State.frontEnd (s : State) (q : Nat) : State :=
  if !s.delivers q then s else
  let s := s.queueTurn q
  if s.nextQueue ≠ some q then s else
    match s.headOf q with
    | .ring => s.ringError q
    | .refused p r =>
      let o : Origin := { ptr := p, guidon := s.ringGuidon (s.queue q), unit := 1785 }
      if r.reason = .absent || r.reason = .gate then
        (s.setQueue q { s.queue q with held := some (o, .read, r) }).report o .read r (some (ringWho q))
      else
        let x := s.queue q
        (s.setQueue q { x with err := true, en := false, counts := false }).post dstPlog (faultRec o .read r) 0 false none
    | .bad pkt st => (s.writeRecord (s.queue q).ctx (pw pkt 2) (doneRecord 0 st false false false)).advance q
    | .deliver pkt hd die lid => s.deliver q pkt hd die lid
    | _ => s

/-- FRONT_END_DELIVER. -/
def execFrontEndDeliver (id : Nat) (s : State) : Host.Outcome State Fault Refusal := .next (s.frontEnd id)

/-- DOORBELL_WRITE (R292): the host writes a queue's index through its doorbell page, with the effect of a store to the index word, under the guidon of host
PCIe (Table 3-5). (DESIGN CHOICE, log 108) -/
def execDoorbellWrite (id wix : Nat) (s : State) : Host.Outcome State Fault Refusal :=
  let x := s.queue id
  .next (((s.poke (guidonOf s.modNo x.part x.ctx 5 false true) x.wixp 8 wix).setQueue id { x with wix := wix }).queueTurn id)

/-- QUEUE_AGEING (R305): a queue's starvation count passes AGET, and the queue rises by one level. -/
def State.ageQueue (s : State) (q : Nat) : State :=
  let s := s.queueTurn q
  let x := s.queue q
  if x.counts && s.agePeriod ≤ x.starve then s.setQueue q { x with age := min 7 (x.age + 1), starve := x.starve - s.agePeriod } else s

/-- QUEUE_AGEING. -/
def execQueueAgeing (id : Nat) (s : State) : Host.Outcome State Fault Refusal := .next (s.ageQueue id)

/-- A write of EN (R291): it clears ERR. A SIZE outside 2 to 16 under EN = 1 is a ring error (R292). -/
def State.setEnable (s : State) (q : Nat) (en : Bool) : State :=
  let x := s.queue q
  let s := (s.setQueue q { x with en := en, err := false }).queueTurn q
  if en && (x.size < 2 || 16 < x.size) then s.ringError q else s

/-- A write of SIZE, four bits as given (R292). -/
def State.setSize (s : State) (q size : Nat) : State :=
  let x := s.queue q
  let s := s.setQueue q { x with size := size % 16 }
  if x.en && size % 16 < 2 then s.ringError q else s

/-- QUEUE_ENABLE_WRITE (R291). -/
def execQueueEnableWrite (id : Nat) (en : Bool) (s : State) : Host.Outcome State Fault Refusal := .next (s.setEnable id en)
/-- QUEUE_SIZE_WRITE (R292). -/
def execQueueSizeWrite (id size : Nat) (s : State) : Host.Outcome State Fault Refusal := .next (s.setSize id size)

/-! ## The cobbler's instructions (R295 to R299) -/

/-- The packet of a launch instruction: eight uniform registers. -/
def packetOf (c : Iss) (x : Opd) : List W64 := (List.range 8).map fun k => wAbove c x k

/-- The checks of LAUNCH and MBXFWD over the eight registers of A and B: TENT waits after the implicit commit (R298). -/
def packetStart (c : Iss) (i : Instr) (o : Args) : Except Stop (List Nat) :=
  match tileStart c i o 2 8 with
  | .error (.wait s) =>
    if (reads c i o (acting c o.hdr) ++ moreReads c.g 2 o.a 8).any fun r => r.vals.any fun x => x.2.st = .empty then .error (.wait s)
    else .error (.wait (s.commit c.g.blk))
  | x => x

/-- Only a cobbler may (R295). -/
def launchPrivilege : Stop := .trap { cause := .launchPrivilege }

/-- The launch record of a LID is live and of a partition (R295). -/
def State.liveRec (s : State) (lid part : Nat) : Option LRec := match FMap.find? s.recs lid with | some r => if r.part = part then some r else none | none => none

/-- The visible cluster of a die with the most free capacity, the lowest among equals (R298). (DEDUCED, log 77) -/
def State.freestCluster (s : State) (d : Nat) : Option Nat :=
  match s.visibleOn d with | [] => none | c :: cs => some (cs.foldl (fun m x => if s.capacity m < s.capacity x then x else m) c)

/-- Place the blocks of a set: each on the core and lane base of a placement (R298). -/
def State.launchSet (s : State) (lid : Nat) (r : LRec) (set : Nat) (pl : List (Nat × Nat)) : State :=
  let cb := s.nextId
  let s := { s with nextId := cb + 1, fresh := s.fresh + r.bps }
  (pl.mapIdx fun i x => (i, x)).foldl (fun s (y : Nat × Nat × Nat) =>
    let k := s.nextId
    let b : Block := { ctx := r.ctx, part := r.part, lid := some lid, set := set, num := y.1, hdr := r.hdr, cbank := pw r.pkt 1, prio := r.prio, cbase := cb
                       ngrp := r.gpb, pkt := r.pkt }
    ({ s with nextId := k + 1 }).startBlock k b y.2.1 y.2.2 false) s

/-- The cluster that LAUNCH is to use: the one that B names of this die, or the freest (R298). -/
def State.launchCluster (s : State) (die b : Nat) : Option Nat :=
  if b < 16 then (if s.visible (16 * die + b) then some (16 * die + b) else none) else if b = 16 then s.freestCluster die else none

/-- LAUNCH after its checks (R298): the status, or the wait. (DEDUCED, log 78) -/
def launchBody (c : Iss) (try_ : Bool) (p : List W64) (b : Nat) : Except Stop (State × Nat) :=
  let s := c.s.commit c.g.blk
  let die := dieOf (unitOfGid c.gid)
  match s.liveRec (pktLid p) c.b.part with
  | none => .ok (s, 3)
  | some r =>
    if r.t ≤ pktFirst p then .ok (s, 4)
    else match s.launchCluster die b with
      | none => .ok (s, 5)
      | some cl =>
        if !(if b = 16 then (s.visibleOn die).any fun x => s.everFits x r.hdr r.gpb r.bps else s.everFits cl r.hdr r.gpb r.bps) then .ok (s, 6)
        else match s.placement cl r.hdr r.gpb r.bps fun _ => false with
          | none =>
            if try_ then .ok (s, 1)
            else
              let s := s.onGrp c.gid fun g => { g with cont := some (.launchOn cl (pktLid p)) }
              .error (.wait (if s.regs.pmode.getLsbD r.part then s else s.preempt cl r.prio r.hdr r.gpb r.bps))
          | some pl =>
            if !s.released c.gid .mod then .error (.wait s)
            else
              let s := (s.noRestart c.g.blk).launchSet (pktLid p) r (pktFirst p) pl
              .ok ({ s with recs := FMap.modify s.recs (pktLid p) fun r => { r with launched := r.launched + 1 } }, 0)

/-- Write a status to D, FULL with tag 31; what the instruction had begun is done. -/
def Iss.status (c : Iss) (s : State) (d : Opd) (v : Nat) : State := s.onGrp c.gid fun g => { writeOp g 0 64 d { v := v } with cont := none }

/-- LAUNCH (R298). (DEDUCED, log 78) -/
def execLaunch (m : Bool) (o : Args) (s : State) : Host.Outcome State Fault Refusal :=
  issue o s false true fun c =>
    match packetStart c (.launch m o) o with
    | .error x => .error x
    | .ok [] => .ok c.s
    | .ok _ =>
      if !c.g.cob then .error launchPrivilege else
      match launchBody c m (packetOf c o.a.x) (srcs c (.launch m o) o 0).2.2.v with
      | .error x => .error x
      | .ok x => .ok (c.status x.1 o.d.x x.2)

/-- Eight words to the registers of a destination. -/
def putPacket (g : Group) (d : Opd) (p : List W64) : Group :=
  match d with
  | .w n => (p.mapIdx fun i v => (i, v)).foldl (fun g (x : Nat × W64) => g.setW (n.val + x.1) ⟨x.2, 31, .full⟩) g
  | _ => g

/-- A register of an eight-word destination is still EMPTY (R198). -/
def packetEmpty (g : Group) (d : Opd) : Bool := match d with | .w n => (List.range 8).any fun i => (g.ureg (n.val + i)).st = .empty | _ => false

/-- MBXRD (R297): the oldest entry of its die's mailbox; parked while it is empty, zeros with `.try`. -/
def execMbxrd (m : Bool) (o : Args) (s : State) : Host.Outcome State Fault Refusal :=
  issue o s true true fun c =>
    match start c (.mbxrd m o) o with
    | .error x => .error x
    | .ok [] => .ok (c.s.pass c.gid)
    | .ok _ =>
      if packetEmpty c.g o.d.x then .error (.wait c.s)
      else if !c.g.cob then .error launchPrivilege
      else
        let d := dieOf (unitOfGid c.gid)
        match FMap.getD c.s.boxes d [] with
        | p :: rest => .ok ((({ c.s with boxes := FMap.put c.s.boxes d rest [] }).onGrp c.gid fun g => putPacket g o.d.x p).pass c.gid)
        | [] =>
          if m then .ok ((c.s.onGrp c.gid fun g => putPacket g o.d.x (List.replicate 8 0)).pass c.gid)
          else .ok (c.park c.s .mailbox)

/-- MBXFWD after its checks (R299). (DEDUCED, log 78) -/
def forwardBody (c : Iss) (try_ : Bool) (p : List W64) (b : Nat) : Except Stop (State × Nat) :=
  let s := c.s.commit c.g.blk
  if !(s.partDies c.b.part).contains b then .ok (s, 2)
  else if (s.liveRec (pktLid p) c.b.part).isNone then .ok (s, 3)
  else if s.boxFree b = 0 then (if try_ then .ok (s, 1) else .error (.wait s))
  else .ok ((s.noRestart c.g.blk).toBox b p, 0)

/-- MBXFWD (R299). -/
def execMbxfwd (m : Bool) (o : Args) (s : State) : Host.Outcome State Fault Refusal :=
  issue o s false true fun c =>
    match packetStart c (.mbxfwd m o) o with
    | .error x => .error x
    | .ok [] => .ok c.s
    | .ok _ =>
      if !c.g.cob then .error launchPrivilege else
      match forwardBody c m (packetOf c o.a.x) (srcs c (.mbxfwd m o) o 0).2.2.v with
      | .error x => .error x
      | .ok x => .ok (c.status x.1 o.d.x x.2)

/-! ## Pennants and completion (R300 to R302) -/

/-- Raise a launch's pennant (R301): the L1s, the record, and packets held for it may proceed. -/
def State.doPennant (s : State) (lid : Nat) (r : LRec) : State :=
  let s := s.l1DropAll.writeRecord r.ctx (pw r.pkt 2) (doneRecord lid 0 r.suspect true false)
  State.queueTurn { s with recs := FMap.insert s.recs lid { r with pennant := true } } r.q

/-- Raise a launch's pennant once every group of it has passed (R301). -/
def State.raisePennant (s : State) (lid : Nat) : State :=
  match FMap.find? s.recs lid with
  | none => s
  | some r => if r.pennant || r.passed < r.count * r.bps * r.gpb then s else s.doPennant lid r

/-- A group passes, once (R300). -/
def State.passGroup (s : State) (k num : Nat) : State :=
  let b := s.blk k
  if b.passedG.contains num then s else
  let s := s.onBlk k fun b => { b with passedG := b.passedG ++ [num] }
  match b.lid with
  | none => s
  | some l => ({ s with recs := FMap.modify s.recs l fun r => { r with passed := r.passed + 1 } }).raisePennant l

/-- PENNANT (R300). (DESIGN CHOICE, log 129) -/
def execPennant (o : Args) (s : State) : Host.Outcome State Fault Refusal :=
  issue o s false false fun c =>
    match start c (.pennant o) o with
    | .error x => .error x
    | .ok [] => .ok c.s
    | .ok _ =>
      let s := c.s.commit c.g.blk
      if s.released c.gid .mod then .ok ((s.noRestart c.g.blk).passGroup c.g.blk c.g.num) else .error (.wait s)

/-- Every write of a block has been performed: its own, its copies', its matrix operations' (R302). (DEDUCED, log 82) -/
def State.writesDone (s : State) (k : Nat) : Bool :=
  !(s.wrs.any fun x => x.2.blk = k) && !(s.copies.any fun x => x.2.blk = k && !x.2.done) && !(s.eops.any fun x => x.2.blk = k && !x.2.done)

/-- Every write of an ended group has been performed, those of its copies and matrix operations too (R300). (DEDUCED, log 82) -/
def State.nameDone (s : State) (name : Nat) : Bool :=
  !(s.wrs.any fun x => x.2.gids.contains name) && !(s.copies.any fun x => x.2.gid = name && !x.2.done) && !(s.eops.any fun x => x.2.gid = name && !x.2.done)

/-- Groups that ended without a pennant count as passed once their own writes are performed (R300). -/
def State.countSilent (s : State) (lid : Nat) : State :=
  match FMap.find? s.recs lid with
  | none => s
  | some r =>
    let now := r.silent.filter fun x => s.nameDone x.2.2
    let s := now.foldl (fun s x => s.onBlk x.1 fun b => { b with passedG := b.passedG ++ [x.2.1] }) s
    ({ s with recs := FMap.insert s.recs lid { r with passed := r.passed + now.length, silent := r.silent.filter fun x => !s.nameDone x.2.2 } }).raisePennant lid

/-- Every set that a launch counts has been launched, as many groups as they have have ended, and every write of its ended blocks is performed (R302, R298).
(DEDUCED, log 82) -/
def State.launchOver (s : State) (lid : Nat) (r : LRec) : Bool :=
  r.count ≤ r.launched && r.count * r.bps * r.gpb ≤ r.ended && s.blocks.all fun x => x.2.lid ≠ some lid || x.2.live ≠ 0 || !x.2.onCore || s.writesDone x.1

/-- The LID of blocks whose launch has completed without them: a set launched twice has taken their place in its count (R298). -/
def lidGone : Nat := 16384

/-- The blocks of a launch that have ended leave; what runs on belongs to no record any more (R298, R302). -/
def State.clearLaunch (s : State) (lid : Nat) : State :=
  let ks := (s.blocks.filter fun x => x.2.lid = some lid && x.2.live = 0 && x.2.onCore && s.writesDone x.1).map fun x => x.1
  let s := ks.foldl (fun s k => s.eraseBlock k) s
  { s with blocks := FMap.mapVals s.blocks fun _ b => if b.lid = some lid then { b with lid := some lidGone } else b }

/-- LAUNCH_COMPLETE (R302): the pennant if it has not been raised, the L1s, the confirmation, the record, the interrupt, the LID. (DEDUCED, log 83) -/
def State.complete (s : State) (lid : Nat) : State :=
  let s := s.countSilent lid
  match FMap.find? s.recs lid with
  | none => s.clearLaunch lidGone
  | some r =>
    if !s.launchOver lid r then s
    else
      let s := if r.pennant then s else s.doPennant lid r
      let s := s.l1DropAll
      if bt (pw r.pkt 6) 38 && !r.cores.isEmpty then s
      else
        let v := doneRecord lid 0 r.suspect true true
        let s := s.writeRecord r.ctx (pw r.pkt 2) v
        let s := if bt (pw r.pkt 6) 39 then s.postEvent r.ctx 1 0 v.toNat (pw r.pkt 2).toNat r.q else s
        let s := s.clearLaunch lid
        let x := s.queue r.q
        State.queueTurn { (s.setQueue r.q { x with open_ := x.open_.filter fun l => l ≠ lid }) with
          recs := FMap.erase s.recs lid, fins := FMap.insert s.fins lid (pw r.pkt 2, v, r.ctx) } r.q

/-- LAUNCH_COMPLETE. -/
def execLaunchComplete (id : Nat) (s : State) : Host.Outcome State Fault Refusal := .next (s.complete id)

end Sys2Proof.Machine
end

