-- ==== Sys2Proof/Machine/Faults.lean ====
section
/-! DEFINITION. Fault queues as their consumers see them, responses to held requests, the hang detector and the deadline of a peer (R337 to R339,
R360 to R364, R395). -/

namespace Sys2Proof.Machine

open Sys2Proof Sys2Proof.Decode

/-! ## The queues (R360, R361) -/

/-- Post the first record held for a destination, if its queue has room (R361). -/
def State.postNext (s : State) (dst : Nat) : State :=
  match s.posts.find? fun p => p.dst = dst with
  | none => s
  | some p =>
    if !s.queueRoom dst then s else
    let g := s.queueGuidon dst
    let q := s.queuePtr dst
    let seq := (s.queueIdx g q).2.1
    let s := { s with posts := s.posts.erase p }
    let s := s.putEntry dst p.rec_ p.type p.wait
    let s := s.poke g (pPlus q 28) 4 (s.peek g (pPlus q 28) 4 - 1)
    match p.wait, p.who with
    | true, some w => { s with awaits := s.awaits ++ [{ dst := dst, seq := seq % 2 ^ 32, who := w }] }
    | _, _ => s

/-- FAULT_QUEUE_RIDX (R361): the queue observes a larger RIDX, and the records held for it are posted in order, as far as there is room. (DESIGN CHOICE, log 41) -/
def State.ridxMoved (s : State) (dst : Nat) : State := (List.range (s.posts.filter fun p => p.dst = dst).length).foldl (fun s _ => s.postNext dst) s

/-- OVF_CLEAR (R360): a write of 1 to OVF. (DESIGN CHOICE, log 41) -/
def State.ovfClear (s : State) (dst : Nat) : State :=
  let q := s.queuePtr dst
  let g := s.queueGuidon dst
  if q = 0 then s else s.poke g (pPlus q 24) 4 (s.peek g (pPlus q 24) 4 / 2 * 2)

/-! ## Discards (Table 16-6) -/

/-- The operation of a load goes, its destination EMPTY for good. -/
def State.loseLoad (s : State) (op : Nat) : State :=
  match FMap.find? s.ops op with
  | some (.load o) =>
    let s := (s.reqs.filter fun x => match x.2.client with | .load k => decide (k = op) | _ => false).foldl (fun s x => s.dropReq x.1) s
    let s := { s with ops := FMap.erase s.ops op }
    (match o.gth with | some v => s.elementDone v | none => s)
  | _ => s

/-- The operation of an atomic goes; its other locations are performed all the same. -/
def State.loseAtom (s : State) (op : Nat) : State :=
  match FMap.find? s.ops op with
  | some (.atom a) =>
    let s := { s with ops := FMap.erase s.ops op }
    (match a.gth with | some v => s.elementDone v | none => s.onGrp a.gid fun g => { g with atm := g.atm - 1 })
  | _ => s

/-- The trap "load discarded" (R362). -/
def loadDiscarded (q : Req) (r : Refuse) : Trap := { cause := .loadDiscarded, frec := ctxRec q.org q.kind r }

/-- The group of an operation. -/
def State.opGroup (s : State) (op : Nat) : Nat :=
  match FMap.find? s.ops op with | some (.load o) => o.gid | some (.atom a) => a.gid | _ => orphan

/-- A watch goes: its group leaves it, the destination EMPTY. -/
def State.loseWatch (s : State) (w : Nat) : State :=
  match FMap.find? s.watches w with
  | none => s
  | some x =>
    let s := { s with watches := FMap.erase s.watches w }
    let g := s.grp x.gid
    if g.wait = .watch w then (s.setGrp x.gid (match x.wd with | .w n => g.setW n.val { g.ureg n.val with st := .empty } | _ => g)).wake x.gid else s

/-- A refused request is looked up afresh, whole: its labels as issued (R184, R362). -/
def State.replayReq (s : State) (id : Nat) (q : Req) : State :=
  { (s.setReq id { q with ptr := q.ptr0, label := 0, fwd := 0, stage := .context, share := s.nextId, stamp := none, elem := 0 }) with nextId := s.nextId + 1 }

/-- A discard of an engine's held request (Table 16-6): from here it counts as refused for good, with the record that was filed, and its unit fails what
it serves. (DEDUCED, log 60) -/
def State.discardHeld (s : State) (id : Nat) (q : Req) (r : Refuse) : State := s.setReq id { q with stage := .refused r false }

/-- A response to a held request (Table 16-6). -/
def State.answerReq (s : State) (id : Nat) (q : Req) (r : Refuse) (replay : Bool) : State :=
  if replay then s.replayReq id q else
  match q.client with
  | .load op => let g := s.opGroup op; (s.loseLoad op).dueTrap g (loadDiscarded q r)
  | .write w =>
    (match (FMap.find? s.wrs w).map (fun x : Wr => x.data) with
     | some (.atom op _ _ _) => let g := s.opGroup op; ({ (s.dropReq id) with wrs := FMap.erase s.wrs w }.loseAtom op).dueTrap g (loadDiscarded q r)
     | _ => s.dropReq id)
  | .fetch gid => (s.dropFam q.fam).dueTrap gid (loadDiscarded q r)
  | .range gid =>
    (match q.pay with
     | .range _ => ((s.dropFam q.fam).pass gid).dueTrap gid (loadDiscarded q r)
     | _ => (s.dropFam q.fam).dueTrap gid (loadDiscarded q r))
  | .watch w => let g := ((FMap.find? s.watches w).map fun x => x.gid).getD orphan; ((s.dropReq id).loseWatch w).dueTrap g (loadDiscarded q r)
  | .copy .. | .eop .. | .tok _ | .coll .. => s.discardHeld id q r
  | .prefetch _ | .foreign .. | .wback _ | .member _ | .reloc _ | .posted => s.dropReq id

/-- A response to a side-log entry (R184): replayed in its turn, or freed with "write discarded"; one given while its block is saved waits for the
restore (R370). (DEDUCED, log 60) -/
def State.answerWr (s : State) (id : Nat) (w : Wr) (replay : Bool) : State :=
  if replay then { s with wrs := FMap.insert s.wrs id { w with answered := some true } }
  else if offCore ≤ w.unit then { s with wrs := FMap.insert s.wrs id { w with answered := some false } }
  else w.gids.foldl (fun s g => s.dueTrap g { cause := .writeDiscarded, frec := w.record }) { s with wrs := FMap.erase s.wrs id }

/-- A response reaches what its entry was posted for. -/
def State.answerTo (s : State) (who : Nat) (replay : Bool) : State :=
  if ringWho 0 ≤ who then
    let q := who - ringWho 0
    if replay then s.setQueue q { s.queue q with held := none } else s.ringError q
  else
  match FMap.find? s.reqs who with
  | some q => (match q.stage with | .refused r _ => s.answerReq who q r replay | _ => s)
  | none =>
  match FMap.find? s.wrs who with
  | some w => if w.place = WPlace.log then s.answerWr who w replay else s
  | none => s

/-- FAULT_RESPONSE (R362): the owner has stored RESP and SEQ; the queue applies the response and clears the word. (DESIGN CHOICE, log 41; DEDUCED, log 106) -/
def State.faultResponse (s : State) (dst : Nat) : State :=
  let q := s.queuePtr dst
  let g := s.queueGuidon dst
  let w := s.peek g (pPlus q 32) 8
  let resp := w / 2 ^ 56
  if q = 0 || resp = 0 then s else
  let s := s.poke g (pPlus q 32) 8 0
  match s.awaits.find? fun a => a.dst = dst && a.seq = w % 2 ^ 32 with
  | some a => if resp = 1 || resp = 2 then ({ s with awaits := s.awaits.erase a }).answerTo a.who (resp = 1) else s
  | none => s

/-! ## Peers in recovery (R339) -/

/-- A peer is in recovery. -/
def State.inRecovery (s : State) (m : Nat) : Bool := m ≠ s.modNo && ((s.flow m).recov.isSome || s.hoist.isSome)
/-- Since when a peer has been in recovery. -/
def State.recoverySince (s : State) (m : Nat) : Nat :=
  match (s.flow m).recov, s.hoist with
  | some t, some h => min t h.start
  | some t, none => t
  | none, some h => h.start
  | none, none => s.now

/-- The modules that a group's open network operations are bound for, as far as this module knows them. -/
def State.netPeers (s : State) (gid : Nat) : List Nat :=
  let mine (op : Nat) : Bool := match FMap.find? s.nops op with | some n => n.gid = gid && !n.done | none => false
  (s.colls.flatMap fun c => if mine c.2.op then c.2.lst else [])
  ++ s.sess.flatMap fun r => (match r.2.flush with | some op => if mine op then r.2.tos.map (fun t => t.2.1) else [] | none => [])

/-- The modules that a waiting group's operations are bound for, for the waits that the hang detector counts. -/
def State.waitPeers (s : State) (gid : Nat) : List Nat :=
  let g := s.grp gid
  match g.wait with
  | .watch w => ((FMap.find? s.watches w).bind fun x => x.peer).toList
  | _ => if g.hkind = 5 then s.netPeers gid else []

/-! ## The hang detector (R337, R338) -/

/-- The kind of a group's hang wait (Table 15-4) and since when it has lasted; none where it is in none. (DEDUCED, log 99) -/
def State.hangWait (s : State) (g : Group) : Option (Nat × Nat) :=
  match g.wait with
  | .barrier _ _ _ arw => some (if arw then 1 else 0, g.since)
  | .watch _ => some (2, g.since)
  | .sleep t => if 2 ^ 32 < t - s.now then some (3, g.since) else none
  | .none => (match g.stuck with | some t => if g.hkind = 4 || g.hkind = 5 then some (g.hkind, t) else none | none => none)
  | _ => none

/-- The resident groups of a context, in order of core and slot. -/
def State.residents (s : State) (c : Nat) : List (Nat × Group) :=
  s.groups.filter fun g => unitOfGid g.1 < 1536 && (s.blk g.2.blk).ctx = c

/-- No group of a context is saved, halted or held by a pre-emption (R337). -/
def State.allFree (s : State) (c : Nat) : Bool :=
  s.blocks.all fun b => b.2.ctx ≠ c || isSys b.2.core || ((FMap.find? s.saved b.1).isNone && (match b.2.stop with | none | some .drain => true | _ => false))

/-- For how many cycles the conditions of R337 have held for a context; none where they do not hold. (DEDUCED, log 99) -/
def State.hangCount (s : State) (c : Nat) : Option Nat :=
  let gs := s.residents c
  let ws := gs.map fun g => s.hangWait g.2
  let peers := gs.flatMap fun g => s.waitPeers g.1
  if gs.isEmpty || !ws.all Option.isSome || peers.any s.inRecovery || !s.allFree c then none
  else
    let starts := (ws.filterMap fun w => w.map fun x => x.2) ++ gs.map (fun g => (s.blk g.2.blk).placed) ++ peers.map (fun m => (s.flow m).back)
    some (s.now - starts.foldl max (s.ctx c).hangAt)

/-- A wait-for graph entry (Table 15-4). -/
def State.graphEntry (s : State) (gid : Nat) (g : Group) : BitVec 256 :=
  let kind := ((s.hangWait g).map fun x => x.1).getD 0
  let since := ((s.hangWait g).map fun x => x.2).getD s.now
  let b := s.blk g.blk
  let x : Nat × Nat × Option Nat := match g.wait with
    | .barrier clu a ph _ =>
      let w := s.barWord a
      ((barPtr (if clu then .clu else .core) (a - (if clu then cluAddr b.cbase 0 else coreAddr b.place 0))).toNat, ph % 65536 + barArr w * 2 ^ 16 + barCnt w * 2 ^ 32, none)
    | .watch k => (match FMap.find? s.watches k with | some w => (w.ptr.toNat, w.b.toNat, w.peer) | none => (0, 0, none))
    | .sleep t => (0, t, none)
    | _ => (0, 0, none)
  BitVec.ofNat 256 (x.1 % 2 ^ 64 + x.2.1 % 2 ^ 64 * 2 ^ 64
    + (unitOfGid gid % 2048 + slotOfGid gid * 2 ^ 11 + kind * 2 ^ 19 + (x.2.2.getD 0) % 512 * 2 ^ 22 + x.2.2.isSome.toNat * 2 ^ 31) * 2 ^ 128
    + (s.now - since) % 2 ^ 64 * 2 ^ 192)

/-- Write entries of the graph: those that the queue has room for, counted with the rest. -/
def State.writeGraph (s : State) (c : Nat) : List (Nat × Group) → State × Nat × Nat
  | [] => (s, 0, 0)
  | g :: gs =>
    if s.queueRoom c && !s.posts.any fun p => p.dst = c then
      let r := (s.putEntry c (s.graphEntry g.1 g.2) 1 false).writeGraph c gs
      (r.1, r.2.1 + 1, r.2.2)
    else
      let r := s.writeGraph c gs
      (r.1, r.2.1, r.2.2 + 1)

/-- HANG_DETECT (R338): the wait-for graph goes to the context's fault queue, and the group of lowest core and slot traps. -/
def State.hangDetect (s : State) (c : Nat) : State :=
  let x := s.ctx c
  match s.hangCount c, s.residents c with
  | some n, (gid, g) :: gs =>
    if !x.hangEn || n < max 1 x.hthr * 1000 then s else
    let first := (s.queueIdx (s.queueGuidon c) (s.queuePtr c)).2.1
    let r := s.writeGraph c ((gid, g) :: gs)
    let s := r.1.hangAgain c
    s.takeTrap gid { cause := .hang, aux0 := BitVec.ofNat 32 r.2.1, aux1 := BitVec.ofNat 64 (r.2.2 % 2 ^ 32 * 2 ^ 32 + first % 2 ^ 32) }
  | _, _ => s

/-! ## The deadline of a peer (R339, R364, R381) -/

/-- A request is bound for a peer and unanswered. (DEDUCED, log 100) -/
def Req.boundFor (q : Req) (m : Nat) : Bool :=
  !q.served && match q.stage with | .sent m' _ | .egress m' _ => m' = m | _ => false

/-- Decide one request for a lost peer: the state, and the group that waits for it. Writes stay at egress. (DEDUCED, log 100) -/
def State.loseReq (s : State) (id m : Nat) : State × List Nat :=
  match FMap.find? s.reqs id with
  | none => (s, [])
  | some q =>
    if !q.boundFor m then (s, []) else
    match q.client with
    | .load op => (s.loseLoad op, [s.opGroup op])
    | .write w =>
      (match (FMap.find? s.wrs w).map (fun x : Wr => x.data) with
       | some (.atom op _ _ _) => ({ (s.dropReq id) with wrs := FMap.erase s.wrs w }.loseAtom op, [s.opGroup op])
       | _ => (s, []))
    | .fetch gid => (s.dropFam q.fam, [gid])
    | .range gid => ((s.dropFam q.fam).endCont gid, [gid])
    | .prefetch _ => (s.dropReq id, [])
    | .copy k _ => ((match FMap.find? s.copies k with | some c => s.copyFail k c 0 | none => s.dropReq id), [])
    | .eop k _ => ((match FMap.find? s.eops k with | some e => s.opFail k e 0 | none => s.dropReq id), [])
    | .tok _ | .coll .. => (s.setReq id { q with stage := .refused ⟨1, .absent, pO q.ptr, s.modNo, false, q.fwd⟩ false }, [])
    | .watch _ | .foreign .. | .wback _ | .member _ | .reloc _ | .posted => (s, [])

/-- The watches on words of a peer end; their groups stay at their instruction for the trap. (DEDUCED, log 100) -/
def State.loseWatches (s : State) (m : Nat) : State × List Nat :=
  let ws := s.watches.filter fun w => w.2.peer = some m
  let s := (s.reqs.filter fun q => match q.2.client with | .watch w => ws.any fun x => x.1 = w | _ => false).foldl (fun s q => s.dropReq q.1) s
  ({ s with watches := FMap.keep s.watches fun _ w => w.peer ≠ some m }, ws.map fun w => w.2.gid)

/-- A round whose end markers are to go to a lost peer fails (R364). (DEDUCED, log 100) -/
def State.loseRounds (s : State) (m : Nat) : State :=
  (s.sess.filter fun r => r.2.flush.isSome && r.2.tos.any fun t => t.2.1 = m).foldl (fun s r =>
    match r.2.flush with
    | some op =>
      ({ s with
          sess := FMap.insert s.sess r.1 { r.2 with isOpen := false, flush := none }
          toks := FMap.keep s.toks fun _ k => !(k.die = r.2.die && k.ctx = r.2.ctx && k.sess = r.2.sess && (k.at_ = TokAt.list m || k.at_ = TokAt.read m)) }).netEnd op (some 0)
    | none => s) s

/-- A group that waits on a lost peer: its block is dropped inside its containment window, else it takes "peer lost" (R339, R381). -/
def State.peerLost (s : State) (gid m : Nat) : State :=
  match FMap.find? s.groups gid with
  | none => s
  | some g =>
    let b := s.blk g.blk
    let s := s.virtualError 7 b.ctx 0 (b.lid.getD 0)
    if b.rl && !isSys (unitOfGid gid) then s.dropBlock g.blk else s.dueTrap gid { cause := .peerLost, aux0 := BitVec.ofNat 32 m }

/-- PEER_DEADLINE (R364): PDL ms after a peer entered recovery, everything bound for it is decided in one step; what is bound for it later, while it is
still in recovery, at a later step. (DEDUCED, log 100) -/
def State.deadline (s : State) (m : Nat) : State :=
  if !s.inRecovery m || s.now - s.recoverySince m < max 1 s.regs.pdl * 1000000 then s else
  let s := s.setFlow m { s.flow m with lost := true }
  let r := s.reqs.foldl (fun (x : State × List Nat) q => let y := x.1.loseReq q.1 m; (y.1, x.2 ++ y.2)) (s, [])
  let w := r.1.loseWatches m
  let s := w.1.loseRounds m
  let s := (s.colls.filter fun c => c.2.lst.contains m).foldl (fun s c => s.collFail c.1 c.2 2) s
  (distinct (r.2 ++ w.2)).foldl (fun s g => s.peerLost g m) s

/-! ## The steps -/

/-- FAULT_RESPONSE (R362). -/
def execFaultResponse (dst : Nat) (s : State) : Host.Outcome State Fault Refusal := .next (s.faultResponse dst)
/-- FAULT_QUEUE_RIDX (R361). -/
def execFaultQueueRidx (dst : Nat) (s : State) : Host.Outcome State Fault Refusal := .next (s.ridxMoved dst)
/-- OVF_CLEAR (R360). -/
def execOvfClear (dst : Nat) (s : State) : Host.Outcome State Fault Refusal := .next (s.ovfClear dst)
/-- HANG_DETECT (R338). -/
def execHangDetect (id : Nat) (s : State) : Host.Outcome State Fault Refusal := .next (s.hangDetect id)
/-- PEER_DEADLINE (R364). -/
def execPeerDeadline (m : Nat) (s : State) : Host.Outcome State Fault Refusal := .next (s.deadline m)

end Sys2Proof.Machine
end

