-- ==== Sys2Proof/Machine/FloatI.lean ====
section
/-! DEFINITION. Floating-point instructions (R228 to R230). -/

namespace Sys2Proof.Machine

open Sys2Proof Sys2Proof.Decode

/-- A result in a format: its tag is the format's code (R194). -/
def inFmt (f : Fmt) (r : Nat × Nat) : Res := { v := r.1, tag := fmtCode f, fl := r.2 }
/-- The two 16-bit halves of a packed operation, separate, with their flags ORed (R229). -/
def halves (f : Fmt) (op : Nat → Nat → Nat → Nat × Nat) (a b d : Nat) : Res :=
  let lo := op (a % 65536) (b % 65536) (d % 65536)
  let hi := op (a / 65536) (b / 65536) (d / 65536)
  { v := lo.1 + hi.1 * 65536, tag := fmtCode f, fl := orFlags lo.2 hi.2 }

/-- FCLASS (R230): one bit set. -/
def fclassR (a : Nat) : Res :=
  let s := a / 2 ^ 31 = 1
  let e := a / 2 ^ 23 % 256
  let m := a % 2 ^ 23
  let k := if e = 255 then (if m = 0 then (if s then 0 else 7) else if m / 2 ^ 22 = 1 then 9 else 8)
    else if e = 0 then (if m = 0 then (if s then 3 else 4) else if s then 2 else 5)
    else if s then 1 else 6
  { v := 2 ^ k }

/-- FRND (R230): an integral FP32 value; no inexact. -/
def frndR (rm : RM) (a : Nat) : Res :=
  match decElem .f32 a with
  | .fin s n d =>
    let k := roundUnits { rm := rm } s n d 0
    { v := (deliver .f32 {} (.fin s k.1 1)).1, tag := 1 }
  | .inf _ => { v := a, tag := 1 }
  | x => inFmt .f32 (deliver .f32 {} x)

/-- FSCALE (R228): a·2^b. A magnitude of b beyond 500 gives what 500 gives. -/
def fscaleR (m : Mods.RmSat) (a b : Nat) : Res :=
  let k := max (-500) (min 500 (sext 32 b))
  match decElem .f32 a with
  | .fin s n d => let f := frac2 n k; inFmt .f32 (deliver .f32 { rnd := { rm := m.rm }, sat := m.sat } (.fin s f.1 (d * f.2)))
  | .inf _ => { v := a, tag := 1 }
  | x => inFmt .f32 (deliver .f32 {} x)

/-- FEXPO (R230). -/
def fexpoR (a : Nat) : Res :=
  match decElem .f32 a with
  | .fin _ n d => if n = 0 then { v := 0x80000000, fl := flInvalid } else { v := (ilog2 n d % 2 ^ 32).toNat }
  | _ => { v := 0x7FFFFFFF, fl := flInvalid }

/-- FADD. -/
def execFadd (m : Mods.RmSat) (o : Args) (s : State) := alu (.fadd m o) o s fun _ _ a b => inFmt .f32 (farith .f32 .add m.rm m.sat a.v b.v 0)
/-- FSUB. -/
def execFsub (m : Mods.RmSat) (o : Args) (s : State) := alu (.fsub m o) o s fun _ _ a b => inFmt .f32 (farith .f32 .sub m.rm m.sat a.v b.v 0)
/-- FMUL. -/
def execFmul (m : Mods.RmSat) (o : Args) (s : State) := alu (.fmul m o) o s fun _ _ a b => inFmt .f32 (farith .f32 .mul m.rm m.sat a.v b.v 0)
/-- FFMA: a·b + d. -/
def execFfma (m : Mods.RmSat) (o : Args) (s : State) := alu (.ffma m o) o s fun _ d a b => inFmt .f32 (farith .f32 .fma m.rm m.sat a.v b.v d.v)
/-- FFMS: a·b − d. -/
def execFfms (m : Mods.RmSat) (o : Args) (s : State) := alu (.ffms m o) o s fun _ d a b => inFmt .f32 (farith .f32 .fms m.rm m.sat a.v b.v d.v)
/-- FNMA: d − a·b. -/
def execFnma (m : Mods.RmSat) (o : Args) (s : State) := alu (.fnma m o) o s fun _ d a b => inFmt .f32 (farith .f32 .fnma m.rm m.sat a.v b.v d.v)
/-- FMIN. -/
def execFmin (o : Args) (s : State) := alu (.fmin o) o s fun _ _ a b => inFmt .f32 (fminmax .f32 false a.v b.v)
/-- FMAX. -/
def execFmax (o : Args) (s : State) := alu (.fmax o) o s fun _ _ a b => inFmt .f32 (fminmax .f32 true a.v b.v)
/-- FCMP: the signalling comparison (R229). -/
def execFcmp (m : Mods.Fcmp) (o : Args) (s : State) :=
  alu (.fcmp m o) o s fun _ _ a b => let r := fcond .f32 m.cmp m.unord false a.v b.v; { v := r.1.toNat, fl := r.2 }
/-- FCLASS. -/
def execFclass (o : Args) (s : State) := alu (.fclass o) o s fun _ _ a _ => fclassR a.v
/-- FRND. -/
def execFrnd (m : RM) (o : Args) (s : State) := alu (.frnd m o) o s fun _ _ a _ => frndR m a.v
/-- FSCALE. -/
def execFscale (m : Mods.RmSat) (o : Args) (s : State) := alu (.fscale m o) o s fun _ _ a b => fscaleR m a.v b.v
/-- FEXPO. -/
def execFexpo (o : Args) (s : State) := alu (.fexpo o) o s fun _ _ a _ => fexpoR a.v
/-- DADD. -/
def execDadd (m : Mods.RmSat) (o : Args) (s : State) := alu (.dadd m o) o s fun _ _ a b => inFmt .f64 (farith .f64 .add m.rm m.sat a.v b.v 0)
/-- DMUL. -/
def execDmul (m : Mods.RmSat) (o : Args) (s : State) := alu (.dmul m o) o s fun _ _ a b => inFmt .f64 (farith .f64 .mul m.rm m.sat a.v b.v 0)
/-- DFMA. -/
def execDfma (m : Mods.RmSat) (o : Args) (s : State) := alu (.dfma m o) o s fun _ d a b => inFmt .f64 (farith .f64 .fma m.rm m.sat a.v b.v d.v)
/-- DCMP: the signalling comparison (R229). -/
def execDcmp (m : Mods.Fcmp) (o : Args) (s : State) :=
  alu (.dcmp m o) o s fun _ _ a b => let r := fcond .f64 m.cmp m.unord false a.v b.v; { v := r.1.toNat, fl := r.2 }
/-- HADD2. -/
def execHadd2 (m : Mods.Half) (o : Args) (s : State) :=
  alu (.hadd2 m o) o s fun _ _ a b => halves (hfFmt m.hf) (fun x y _ => farith (hfFmt m.hf) .add m.rm m.sat x y 0) a.v b.v 0
/-- HMUL2. -/
def execHmul2 (m : Mods.Half) (o : Args) (s : State) :=
  alu (.hmul2 m o) o s fun _ _ a b => halves (hfFmt m.hf) (fun x y _ => farith (hfFmt m.hf) .mul m.rm m.sat x y 0) a.v b.v 0
/-- HFMA2. -/
def execHfma2 (m : Mods.Half) (o : Args) (s : State) :=
  alu (.hfma2 m o) o s fun _ d a b => halves (hfFmt m.hf) (fun x y z => farith (hfFmt m.hf) .fma m.rm m.sat x y z) a.v b.v d.v
/-- HMIN2. -/
def execHmin2 (m : Bool) (o : Args) (s : State) :=
  alu (.hmin2 m o) o s fun _ _ a b => halves (hfFmt m) (fun x y _ => fminmax (hfFmt m) false x y) a.v b.v 0
/-- HMAX2. -/
def execHmax2 (m : Bool) (o : Args) (s : State) :=
  alu (.hmax2 m o) o s fun _ _ a b => halves (hfFmt m) (fun x y _ => fminmax (hfFmt m) true x y) a.v b.v 0

end Sys2Proof.Machine
end

