-- ==== Sys2Proof/Machine/GroupData.lean ====
section
/-! DEFINITION. Group-data instructions (R242 to R247). Every source of every acting thread is read before any destination is written (R219). -/

namespace Sys2Proof.Machine

open Sys2Proof Sys2Proof.Decode

/-- The value of a thread register of thread `t`. -/
def regOf (c : Iss) (t : Nat) (x : Opd) (w : Nat) : Val := match x with | .t n => c.g.readT t n.val w | _ => {}

/-- The source thread of XCH (R243). (DEDUCED, log 20) -/
def xchFrom (m : XMode) (n t b : Nat) : Nat :=
  let s : Int := match m with | .idx => (b % 32 : Nat) | .xor => (t ^^^ (b % 32) : Nat) | .up => (t : Int) - b | .down => (t : Int) + b
  if 0 ≤ s && s < n then s.toNat else t

/-- A source with the state of the index that chose it (R243). -/
def Val.under (x : Val) (st : RState) : Val := { x with st := x.st.join st }

/-- XCH (R243): B is data; while some thread's B is EMPTY no source is known, so it is waited for first. (DEDUCED, log 20) -/
def execXch (m : Mods.Xch) (o : Args) (s : State) :=
  issue o s false false fun c =>
    let i : Instr := .xch m o
    let w := wd m.b64
    let ts := acting c o.hdr
    let bs := ts.map fun t => (t, readOp c t (spec i).b o.b.x o.b.x)
    let as := bs.map fun b => (b.1, regOf c (xchFrom m.mode c.g.ext0 b.1 b.2.v) o.a.x w)
    match checkEmpty c [⟨3, o.b.ea, .data none, bs⟩] with
    | some x => .error x
    | none =>
    match runChecks c o.hdr [⟨2, o.a.ea, .data none, as⟩] (dstEmpty c ts w o.d.x) with
    | some x => .error x
    | none =>
      .ok (c.s.setGrp c.gid (putResults c.b.tents c.g w o.d.x ((as.zip bs).map fun x => (x.1.1, x.1.2.under x.2.2.st, 0))))

/-- BCST (R243): once for all threads; an index outside the group gives zero, tag 31. (DEDUCED, log 20) -/
def execBcst (m : Bool) (o : Args) (s : State) :=
  issue o s false false fun c =>
    let i : Instr := .bcst m o
    let w := wd m
    let ts := acting c o.hdr
    let b := readOp c 0 (spec i).b o.b.x o.b.x
    let k := b.v % 32
    let a : Val := if k < c.g.ext0 then regOf c k o.a.x w else {}
    let bs := ts.map fun t => (t, b)
    match checkEmpty c [⟨3, o.b.ea, .data none, bs⟩] with
    | some x => .error x
    | none =>
    match runChecks c o.hdr [⟨2, o.a.ea, .data none, ts.map fun t => (t, a)⟩] (dstEmpty c ts w o.d.x) with
    | some x => .error x
    | none => .ok (c.s.setGrp c.gid (putResults c.b.tents c.g w o.d.x (ts.map fun t => (t, a.under b.st, 0))))

/-- What VOTE gives for the predicates of the acting threads (R244). -/
def voteR (m : VMode) (ps : List (Nat × Bool)) : Nat :=
  match m with
  | .ballot => ps.foldl (fun x p => if p.2 then x + 2 ^ p.1 else x) 0
  | .any => (ps.any fun p => p.2).toNat
  | .all => (ps.all fun p => p.2).toNat
  | .uni => ((ps.all fun p => p.2) || !(ps.any fun p => p.2)).toNat

/-- VOTE (R244): the state combines those of all acting threads' predicates. -/
def execVote (m : VMode) (o : Args) (s : State) :=
  issue o s false false fun c =>
    match start c (.vote m o) o with
    | .error x => .error x
    | .ok ts =>
      let ps := ts.map fun t => (t, readPr c t o.a.x)
      let st := ps.foldl (fun st p => st.join p.2.st) RState.full
      let r := voteR m (ps.map fun p => (p.1, p.2.v))
      .ok (c.s.setGrp c.gid (putResults c.b.tents c.g 32 o.d.x (ts.map fun t => (t, ({ v := r, st := st } : Val), 0))))

/-- One step of a combination (R245): value and flags. -/
def gopStep (op : GOp) (ty : GTy) (a b : Nat) : Nat × Nat :=
  match ty with
  | .f32 =>
    (match op with
     | .min => fminmax .f32 false a b
     | .max => fminmax .f32 true a b
     | _ => farith .f32 .add .rne false a b 0)
  | _ =>
    let uns := ty = .uint32
    let le := if uns then decide (a ≤ b) else decide (sext 32 a ≤ sext 32 b)
    (match op with
     | .add => (a + b) % 2 ^ 32
     | .min => if le then a else b
     | .max => if le then b else a
     | .and => a &&& b
     | .or => a ||| b
     | .xor => a ^^^ b, 0)

/-- The identity that `.excl` gives the first thread (R245). -/
def gopIdentity (op : GOp) (ty : GTy) : Nat :=
  match ty, op with
  | .f32, .add => 0x80000000
  | .f32, .min => 0x7F800000
  | .f32, .max => 0xFF800000
  | .s32, .min => 0x7FFFFFFF
  | .s32, .max => 0x80000000
  | .uint32, .min => 0xFFFFFFFF
  | _, .and => 0xFFFFFFFF
  | _, _ => 0

/-- The scanSums of a combination in index order, each with its state and the flags of its own step (R245). -/
def scanSums (op : GOp) (ty : GTy) : Nat → RState → List (Nat × Val) → List (Nat × Nat × RState × Nat)
  | _, _, [] => []
  | acc, st, (t, x) :: xs =>
    let r := gopStep op ty acc x.v
    let st := st.join x.st
    (t, r.1, st, r.2) :: scanSums op ty r.1 st xs

/-- The combination over the acting threads' values: the first is taken as it is. -/
def combine (op : GOp) (ty : GTy) : List (Nat × Val) → List (Nat × Nat × RState × Nat)
  | [] => []
  | (t, x) :: xs => (t, x.v, x.st, 0) :: scanSums op ty x.v x.st xs

/-- The flags of the steps of a combination, a step over POIS raising none. -/
def stepFlags (xs : List (Nat × Nat × RState × Nat)) : Nat :=
  xs.foldl (fun f x => if x.2.2.1 = .pois then f else orFlags f x.2.2.2) 0

/-- The tag of a combined value (R245). -/
def gTag (ty : GTy) : Nat := if ty = .f32 then 1 else 31

/-- GRED (R245): every acting thread, or the uniform D, receives the whole combination. -/
def execGred (m : Mods.Gred) (o : Args) (s : State) :=
  issue o s false false fun c =>
    match start c (.gred m o) o with
    | .error x => .error x
    | .ok ts =>
      let xs := combine m.op m.ty (ts.map fun t => (t, (srcs c (.gred m o) o t).2.1))
      match xs.getLast? with
      | none => .ok c.s
      | some z =>
        let v : Val := { v := z.2.1, tag := gTag m.ty, tag2 := gTag m.ty, st := z.2.2.1 }
        .ok (c.s.setGrp c.gid ((putResults c.b.tents c.g 32 o.d.x (ts.map fun t => (t, v, 0))).flag (stepFlags xs)))

/-- GSCN (R245): each acting thread receives its prefix; with `.excl` the prefix before it, and the first the identity. -/
def execGscn (m : Mods.Gscn) (o : Args) (s : State) :=
  issue o s false false fun c =>
    match start c (.gscn m o) o with
    | .error x => .error x
    | .ok ts =>
      let xs := combine m.op m.ty (ts.map fun t => (t, (srcs c (.gscn m o) o t).2.1))
      let vals := xs.map fun x => ({ v := x.2.1, tag := gTag m.ty, tag2 := gTag m.ty, st := x.2.2.1 } : Val)
      let vals := if m.excl then ({ v := gopIdentity m.op m.ty, tag := gTag m.ty, tag2 := gTag m.ty } : Val) :: vals else vals
      .ok (c.s.setGrp c.gid ((putResults c.b.tents c.g 32 o.d.x ((ts.zip vals).map fun x => (x.1, x.2, 0))).flag (stepFlags xs)))

/-- ELECT (R244): true for the acting thread of lowest index, false for every other acting thread. -/
def execElect (o : Args) (s : State) :=
  issue o s false false fun c =>
    match start c (.elect o) o with
    | .error x => .error x
    | .ok ts => .ok (c.s.setGrp c.gid (putResults c.b.tents c.g 32 o.d.x (ts.map fun t => (t, ({ v := (decide (ts.head? = some t)).toNat } : Val), 0))))

/-- The predicates that MOVP names: p0 to p14 of a thread, or q0 to q7 (R246). -/
def movpPreds (c : Iss) (u : Bool) (t : Nat) : List PReg :=
  if u then (List.range 8).map fun k => c.g.upred k else (List.range 15).map fun k => c.g.pred t k

/-- MOVP.pack (R246). -/
def execMovpPack (o : Args) (s : State) :=
  issue o s false false fun c =>
    match start c (.movpPack o) o with
    | .error x => .error x
    | .ok ts =>
      .ok (c.s.setGrp c.gid (putResults c.b.tents c.g 32 o.d.x (ts.map fun t =>
        let ps := movpPreds c o.hdr.u t
        (t, ({ v := (ps.foldr (fun p x => 2 * x + p.v.toNat) 0), st := ps.foldl (fun st p => st.join p.st) .full } : Val), 0))))

/-- MOVP.unpk (R246). -/
def execMovpUnpk (o : Args) (s : State) :=
  issue o s false false fun c =>
    match start c (.movpUnpk o) o with
    | .error x => .error x
    | .ok ts =>
      .ok (c.s.setGrp c.gid (ts.foldl (fun g t =>
        let a := (srcs c (.movpUnpk o) o t).2.1
        (List.range (if o.hdr.u then 8 else 15)).foldl (fun g k =>
          let p : PReg := ⟨a.v.testBit k, a.st⟩
          if o.hdr.u then g.setQ k p else g.setP t k p) g) c.g))

/-- The sibling of a number in the issuing group's block (R247, R287). -/
def sibling (c : Iss) (num : Nat) : Option Nat :=
  (List.find? (fun p : Nat × Group => p.2.blk = c.g.blk && p.2.num = num) c.s.groups).map fun p => p.1

/-- The sibling of SRD and SWR, its register within its allotment, or "group slot" (R247). -/
def siblingReg (c : Iss) (i : Instr) (o : Args) (k : Nat) : Except Stop Nat :=
  match sibling c (srcs c i o 0).2.1.v with
  | some g => if k < (c.s.grp g).allot then .ok g else .error (.trap { cause := .groupSlot })
  | none => .error (.trap { cause := .groupSlot })

/-- The register is EMPTY in the sibling for some thread. -/
def sibEmpty (g : Group) (k : Nat) (ts : List Nat) : Bool := ts.any fun t => t < g.ext0 && (g.treg t k).st = .empty

/-- SRD (R247, R198): it waits while the sibling's register is EMPTY; the register's bits, tag and state, as they stand at issue, are then on
their way, and D is EMPTY until they arrive; beyond the sibling's threads, zero. (DESIGN CHOICE, log 121) -/
def execSrd (m : BitVec 7) (o : Args) (s : State) :=
  issue o s false false fun c =>
    match start c (.srd m o) o with
    | .error x => .error x
    | .ok ts =>
      if ts = [] then .ok c.s else
      match siblingReg c (.srd m o) o m.toNat with
      | .error e => .error e
      | .ok k =>
        let sib := c.s.grp k
        if sibEmpty sib m.toNat ts then .error (.wait c.s) else
        match destOf 32 o.d.x with
        | none => .ok c.s
        | some d =>
          let vals := ts.map fun t => (t, if t < sib.ext0 then sib.treg t m.toNat else {})
          .ok ((c.s.setGrp c.gid (ts.foldl (fun g t => emptyOp g t 32 o.d.x) c.g)).addOp (.srd { gid := c.gid, dst := d, vals := vals }))

/-- SWR (R247): it waits while the sibling's register is EMPTY, then writes over it; beyond the sibling's threads nothing is written. -/
def execSwr (m : BitVec 7) (o : Args) (s : State) :=
  issue o s false false fun c =>
    match start c (.swr m o) o with
    | .error x => .error x
    | .ok ts =>
      if ts = [] then .ok c.s else
      match siblingReg c (.swr m o) o m.toNat with
      | .error e => .error e
      | .ok k =>
        let sib := c.s.grp k
        if sibEmpty sib m.toNat ts then .error (.wait c.s) else
        .ok (c.s.setGrp k (ts.foldl (fun g t =>
          if t < sib.ext0 then g.writeT t m.toNat (srcs c (.swr m o) o t).2.2 32 else g) sib))

end Sys2Proof.Machine
end

