-- ==== Sys2Proof/Machine/Integer.lean ====
section
/-! DEFINITION. Integer, logic and move instructions (R222 to R227). -/

namespace Sys2Proof.Machine

open Sys2Proof Sys2Proof.Decode

/-! ## Integer results (Table 10-4) -/

/-- The result of integer arithmetic wraps modulo 2^w (R223). -/
def wrap (w x : Nat) : Res := { v := x % 2 ^ w }
/-- A two's-complement number as a result of width `w`. -/
def wrapI (w : Nat) (x : Int) : Res := { v := (x % 2 ^ w).toNat }
/-- The number an operand stands for, signed or unsigned. -/
def num (w : Nat) (uns : Bool) (x : Nat) : Int := if uns then x else sext w x

/-- a − b. -/
def subW (w a b : Nat) : Res := wrap w (a + (2 ^ w - b))
/-- Bits [2w−1:w] of the product. -/
def mulHi (w : Nat) (uns : Bool) (a b : Nat) : Res := wrapI w (num w uns a * num w uns b / 2 ^ w)
/-- The lesser, or the greater. -/
def minMaxW (w : Nat) (uns mx : Bool) (a b : Nat) : Res := { v := if decide (num w uns a ≤ num w uns b) != mx then a else b }
/-- |a|; the most negative value maps to itself. -/
def absW (w a : Nat) : Res := wrap w (if a < 2 ^ (w - 1) then a else 2 ^ w - a)
/-- a shifted left by n; 0 when n ≥ w. -/
def shlW (w a n : Nat) : Res := if w ≤ n then { v := 0 } else wrap w (a * 2 ^ n)
/-- a shifted right by n; 0 when n ≥ w. -/
def shrW (w a n : Nat) : Res := if w ≤ n then { v := 0 } else { v := a / 2 ^ n }
/-- a shifted right by n, filled with its sign; all sign bits when n ≥ w. -/
def sarW (w a n : Nat) : Res := wrapI w (sext w a / 2 ^ min n w)
/-- a rotated left by n mod w. -/
def rotlW (w a n : Nat) : Res := let k := n % w; wrap w (a * 2 ^ k + a / 2 ^ (w - k))
/-- The number of 1 bits. -/
def popcW (w a : Nat) : Res := { v := ((List.range w).filter fun i => a.testBit i).length }
/-- The number of leading zeros; w for 0. -/
def clzW (w a : Nat) : Res := { v := if a = 0 then w else w - 1 - Nat.log2 a }
/-- The number of trailing zeros; w for 0. -/
def ctzW (w a : Nat) : Res := { v := (((List.range w).find? fun i => a.testBit i).getD w) }
/-- Bit i of the result is bit w−1−i of a. -/
def brevW (w a : Nat) : Res := { v := (List.range w).foldl (fun x i => x + (a.testBit (w - 1 - i)).toNat * 2 ^ i) 0 }

/-- FUNS (R225). -/
def funsR (r : Bool) (d a b : Nat) : Res :=
  let x := d * 2 ^ 32 + a
  let k := b % 32
  if r then wrap 32 (x / 2 ^ k) else wrap 32 (x * 2 ^ k / 2 ^ 32)
/-- BFX (R225): the bits of B above 15 are ignored. -/
def bfxR (s : Bool) (a b : Nat) : Res :=
  let pos := b % 256
  let len := b / 256 % 256
  if len = 0 || 31 < pos then { v := 0 }
  else
    let l := min (pos + len) 32 - pos
    let f := a / 2 ^ pos % 2 ^ l
    if s then wrapI 32 (sext l f) else { v := f }
/-- BFI (R225). -/
def bfiR (d a b : Nat) : Res :=
  let pos := b % 256
  let len := b / 256 % 256
  let l := min (pos + len) 32 - pos
  if 31 < pos then { v := d } else { v := d - d / 2 ^ pos % 2 ^ l * 2 ^ pos + a % 2 ^ l * 2 ^ pos }
/-- PERMB (R225): bytes 0 to 3 from a, 4 to 7 from d. -/
def permbR (d a b : Nat) : Res :=
  let x := d * 2 ^ 32 + a
  { v := (List.range 4).foldl (fun r i =>
      let y := x / 2 ^ (8 * (b / 2 ^ (4 * i) % 8)) % 256
      let y := if b.testBit (4 * i + 3) then (if 128 ≤ y then 255 else 0) else y
      r + y * 2 ^ (8 * i)) 0 }

/-- An integer condition (Table 10-5). -/
def icond (w : Nat) (uns : Bool) (c : Cmp) (a b : Nat) : Bool :=
  let x := num w uns a
  let y := num w uns b
  match c with
  | .eq => x = y | .ne => x ≠ y | .lt => x < y | .le => x ≤ y | .gt => y < x | .ge => y ≤ x | .num => true | .nan => false

/-! ## The instructions -/

/-- IADD. -/
def execIadd (m : Bool) (o : Args) (s : State) := alu (.iadd m o) o s fun _ _ a b => wrap (wd m) (a.v + b.v)
/-- ISUB. -/
def execIsub (m : Bool) (o : Args) (s : State) := alu (.isub m o) o s fun _ _ a b => subW (wd m) a.v b.v
/-- IMUL. -/
def execImul (m : Bool) (o : Args) (s : State) := alu (.imul m o) o s fun _ _ a b => wrap (wd m) (a.v * b.v)
/-- IMULH. -/
def execImulh (m : Mods.UW) (o : Args) (s : State) := alu (.imulh m o) o s fun _ _ a b => mulHi (wd m.b64) m.uns a.v b.v
/-- IMAD. -/
def execImad (m : Bool) (o : Args) (s : State) := alu (.imad m o) o s fun _ d a b => wrap (wd m) (a.v * b.v + d.v)
/-- IMIN. -/
def execImin (m : Mods.UW) (o : Args) (s : State) := alu (.imin m o) o s fun _ _ a b => minMaxW (wd m.b64) m.uns false a.v b.v
/-- IMAX. -/
def execImax (m : Mods.UW) (o : Args) (s : State) := alu (.imax m o) o s fun _ _ a b => minMaxW (wd m.b64) m.uns true a.v b.v
/-- IABS. -/
def execIabs (m : Bool) (o : Args) (s : State) := alu (.iabs m o) o s fun _ _ a _ => absW (wd m) a.v
/-- INEG. -/
def execIneg (m : Bool) (o : Args) (s : State) := alu (.ineg m o) o s fun _ _ a _ => subW (wd m) 0 a.v
/-- AND. -/
def execAnd (m : Bool) (o : Args) (s : State) := alu (.and m o) o s fun _ _ a b => { v := a.v &&& b.v }
/-- OR. -/
def execOr (m : Bool) (o : Args) (s : State) := alu (.or m o) o s fun _ _ a b => { v := a.v ||| b.v }
/-- XOR. -/
def execXor (m : Bool) (o : Args) (s : State) := alu (.xor m o) o s fun _ _ a b => { v := a.v ^^^ b.v }
/-- ANDN. -/
def execAndn (m : Bool) (o : Args) (s : State) := alu (.andn m o) o s fun _ _ a b => { v := a.v &&& (2 ^ wd m - 1 - b.v) }
/-- NOT. -/
def execNot (m : Bool) (o : Args) (s : State) := alu (.not m o) o s fun _ _ a _ => { v := 2 ^ wd m - 1 - a.v }
/-- SHL. -/
def execShl (m : Bool) (o : Args) (s : State) := alu (.shl m o) o s fun _ _ a b => shlW (wd m) a.v b.v
/-- SHR. -/
def execShr (m : Bool) (o : Args) (s : State) := alu (.shr m o) o s fun _ _ a b => shrW (wd m) a.v b.v
/-- SAR. -/
def execSar (m : Bool) (o : Args) (s : State) := alu (.sar m o) o s fun _ _ a b => sarW (wd m) a.v b.v
/-- ROTL. -/
def execRotl (m : Bool) (o : Args) (s : State) := alu (.rotl m o) o s fun _ _ a b => rotlW (wd m) a.v b.v
/-- FUNS. -/
def execFuns (m : Bool) (o : Args) (s : State) := alu (.funs m o) o s fun _ d a b => funsR m d.v a.v b.v
/-- BFX. -/
def execBfx (m : Bool) (o : Args) (s : State) := alu (.bfx m o) o s fun _ _ a b => bfxR m a.v b.v
/-- BFI. -/
def execBfi (o : Args) (s : State) := alu (.bfi o) o s fun _ d a b => bfiR d.v a.v b.v
/-- POPC. -/
def execPopc (m : Bool) (o : Args) (s : State) := alu (.popc m o) o s fun _ _ a _ => popcW (wd m) a.v
/-- CLZ. -/
def execClz (m : Bool) (o : Args) (s : State) := alu (.clz m o) o s fun _ _ a _ => clzW (wd m) a.v
/-- CTZ. -/
def execCtz (m : Bool) (o : Args) (s : State) := alu (.ctz m o) o s fun _ _ a _ => ctzW (wd m) a.v
/-- BREV. -/
def execBrev (m : Bool) (o : Args) (s : State) := alu (.brev m o) o s fun _ _ a _ => brevW (wd m) a.v
/-- PERMB. -/
def execPermb (o : Args) (s : State) := alu (.permb o) o s fun _ d a b => permbR d.v a.v b.v
/-- ICMP: all bits of D where the condition holds (R226). -/
def execIcmp (m : Mods.Icmp) (o : Args) (s : State) :=
  alu (.icmp m o) o s fun _ _ a b => { v := if icond (wd m.b64) m.uns m.cmp a.v b.v then 2 ^ wd m.b64 - 1 else 0 }
/-- SETP (R226): the float classes compare under the quiet rule. -/
def execSetp (m : Mods.Setp) (o : Args) (s : State) :=
  alu (.setp m o) o s fun _ _ a b =>
    match m.cls with
    | .int => { v := (icond (wd m.b64) m.uns m.cmp a.v b.v).toNat }
    | .f32 => let r := fcond .f32 m.cmp false true a.v b.v; { v := r.1.toNat, fl := r.2 }
    | .f64 => let r := fcond .f64 m.cmp false true a.v b.v; { v := r.1.toNat, fl := r.2 }
/-- MOV (R227): D takes the tag and state of A. -/
def execMov (m : Bool) (o : Args) (s : State) := alu (.mov m o) o s fun _ _ a _ => { v := a.v, tag := a.tag }
/-- MOVI (R227). -/
def execMovi (m : Bool) (o : Args) (s : State) := alu (.movi m o) o s fun _ _ a _ => { v := a.v }
/-- LEA (R227). -/
def execLea (m : Mods.Lea) (o : Args) (s : State) := alu (.lea m o) o s fun _ _ a b => wrap (wd m.b64) (a.v + b.v * 2 ^ m.k.toNat)

/-- IADDC (R224): D and the predicate take the exact sum's low bits and its carry; their state is that of the sources and the predicate. -/
def execIaddc (m : Mods.PW) (o : Args) (s : State) :=
  issue o s false false fun c =>
    match start c (.iaddc m o) o with
    | .error x => .error x
    | .ok ts =>
      .ok (c.s.setGrp c.gid (ts.foldl (fun g t =>
        let x := srcs c (.iaddc m o) o t
        let p := modPr c o.hdr.u t m.pr.val
        let sum := x.2.1.v + x.2.2.v + p.v.toNat
        let st := (worst x).join p.st
        let g := writeOp g t (wd m.b64) o.d.x { v := sum % 2 ^ wd m.b64, st := st.asOf c.b.tents }
        let r : PReg := ⟨decide (2 ^ wd m.b64 ≤ sum), st.asOf c.b.tents⟩
        if o.hdr.u then g.setQ m.pr.val r else g.setP t m.pr.val r) c.g))

/-- ISEL (R224): the selected source with its tag and state, and the state of the predicate. -/
def execIsel (m : Mods.PW) (o : Args) (s : State) :=
  issue o s false false fun c =>
    match start c (.isel m o) o with
    | .error x => .error x
    | .ok ts =>
      .ok (c.s.setGrp c.gid (ts.foldl (fun g t =>
        let x := srcs c (.isel m o) o t
        let p := modPr c o.hdr.u t m.pr.val
        let r := if p.v then x.2.1 else x.2.2
        writeOp g t (wd m.b64) o.d.x { r with st := (r.st.join p.st).asOf c.b.tents }) c.g))

end Sys2Proof.Machine
end

