-- ==== Sys2Proof/Machine/Scan.lean ====
section
/-! DEFINITION. The scan rotation, provisional results and the retirement of a core (R383 to R385). -/

namespace Sys2Proof.Machine

open Sys2Proof

/-- Write a partition. -/
def State.setPart (s : State) (p : Nat) (x : Part) : State := { s with parts := FMap.put s.parts p x {} }

/-- The partition that a die belongs to. -/
def State.partOf (s : State) (d : Nat) : Option Nat := (List.find? (fun (x : Nat × Part) => x.2.dies.getLsbD d) s.parts).map fun x => x.1

/-- A change is under way in a partition (Table 17-2). -/
def Part.changing (x : Part) : Bool := x.st = 1 || x.st = 3 || x.st = 4

/-- A die moves between partitions: its rotation pauses (R383). -/
def State.moving (s : State) (d : Nat) : Bool := s.parts.any fun x => x.2.changing && x.2.dies.getLsbD d != x.2.goal.getLsbD d

/-- The visible clusters of a partition's dies: NCLUS (Table 17-2). -/
def State.visibleCount (s : State) (p : Nat) : Nat := ((s.partDies p).map fun d => (s.visibleOn d).length).sum

/-- The contexts of a partition that have a descriptor. -/
def State.ctxsOf (s : State) (p : Nat) : List Nat := (s.ctxs.filter fun x => x.2.part = p && x.2.ptr ≠ 0).map fun x => x.1

/-- A topology event for every context of a partition (Table 16-13). -/
def State.topologyEvent (s : State) (p : Nat) (w1 : Nat) (ovr : Bool) : State :=
  let x := s.part p
  (s.ctxsOf p).foldl (fun s c => s.postEvent c 2 2 w1 x.nclus.toNat (ovr.toNat + x.topo.toNat * 2 ^ 32)) s

/-! ## Scans (R383, R384) -/

/-- The two cores of the pair at which a die's rotation stands. -/
def State.pairAt (s : State) (d : Nat) : List Nat := let u := 128 * d + 2 * FMap.getD s.scanAt d 0; [u, u + 1]

/-- The length of a scan: 100 µs (R383). (DEDUCED, log 89) -/
def scanCycles : Nat := 100000

/-- The rotation of a die goes to its next pair. -/
def State.nextPair (s : State) (d : Nat) : State :=
  { s with scanAt := FMap.put s.scanAt d ((FMap.getD s.scanAt d 0 + 1) % 64) 0, scanEnd := FMap.erase s.scanEnd d }

/-- The live blocks that stand on a unit. -/
def State.liveOn (s : State) (u : Nat) : List Nat := (s.blocks.filter fun x => x.2.core = u && x.2.live ≠ 0).map fun x => x.1

/-- Save the blocks of some cores, so that they leave them; a block already leaving goes as it goes. -/
def State.saveOff (s : State) (us : List Nat) (scan : Bool) : State :=
  let ks := us.flatMap s.liveOn
  let s := ks.foldl (fun s k => match (s.blk k).stop with
    | none | some .drain | some .halt => (s.treat [k] .save).onBlk k fun b => { b with scan := scan }
    | _ => s) s
  let s := ks.foldl (fun s k => s.settleBlock k) s
  ks.foldl (fun s k => s.tryRestore k) s

/-- SCAN_PAIR (R383): the next pair of a die leaves service; once its blocks have been saved, its scan begins. (DEDUCED, log 89) -/
def State.scanPair (s : State) (d : Nat) : State :=
  let us := s.pairAt d
  if 12 ≤ d || !s.regs.scen || s.moving d || (FMap.find? s.scanEnd d).isSome then s
  else if us.all fun u => (s.core u).retired then s.nextPair d
  else
    let s := us.foldl (fun s u => s.onCore u fun c => { c with scanning := !c.retired }) s
    let s := s.saveOff us true
    if us.all fun u => (s.liveOn u).isEmpty then { s with scanEnd := FMap.insert s.scanEnd d (s.now + scanCycles) } else s

/-- SCAN_PAIR. -/
def execScanPair (id : Nat) (s : State) : Host.Outcome State Fault Refusal := .next (s.scanPair id)

/-- A core passes its scan (R384): its list and OVR are cleared, and no launch waits for it any more. -/
def State.scanPass (s : State) (u : Nat) : State :=
  let s := s.onCore u fun c => { c with lids := [], ovr := false, scanning := false }
  { s with recs := FMap.mapVals s.recs fun _ r => { r with cores := r.cores.filter fun v => v ≠ u } }

/-! ## Retiring a core (R385) -/

/-- Write the last record of a LID again, with SUSPECT set (R385). (DEDUCED, log 90) -/
def State.rewriteRec (s : State) (l : Nat) : State :=
  match FMap.find? s.fins l with
  | some f =>
    let v := f.2.1 ||| 8
    { (s.writeRecord f.2.2 f.1 v) with fins := FMap.insert s.fins l (f.1, v, f.2.2) }
  | none => s

/-- Mark a launch that ran on a retired core: its record, still to be written, or written again. (DEDUCED, log 90) -/
def State.suspect (s : State) (u l : Nat) : State :=
  match FMap.find? s.recs l with
  | some r =>
    if r.cores.contains u then { s with recs := FMap.insert s.recs l { r with suspect := true } }
    else s.rewriteRec l
  | none => s.rewriteRec l

/-- The contexts of the launches on a core's list. (DEDUCED, log 90) -/
def State.lidCtxs (s : State) (ls : List Nat) : List Nat :=
  distinct (ls.filterMap fun l => match FMap.find? s.recs l with | some r => some r.ctx | none => (FMap.find? s.fins l).map fun f => f.2.2)

/-- Retire a core whose cluster's blocks have been saved (R385): the records of its launches, NCLUS and TOPO, the events, the service request. (DEDUCED, log 90) -/
def State.retireCore (s : State) (u : Nat) : State :=
  let c := s.core u
  let cs := s.lidCtxs c.lids
  let s := c.lids.foldl (fun s l => s.suspect u l) s
  let s := { (s.onCore u fun c => { c with scanning := false }) with
             recs := FMap.mapVals s.recs fun _ r => { r with cores := r.cores.filter fun v => v ≠ u } }
  let s := match s.partOf (dieOf u) with
    | none => s
    | some p =>
      let x := s.part p
      let s := s.setPart p { x with nclus := BitVec.ofNat 32 (s.visibleCount p), topo := x.topo + 1 }
      s.topologyEvent p u c.ovr
  (cs.foldl (fun s c => s.virtualError 6 c 0 0) s).service 3 u

/-- SCAN_COMPLETE (R384, R385): a scan ends; `ok0` and `ok1` say which cores of the pair passed. A core that failed is retired once the blocks
of its cluster have been saved, for which the event comes again. (DEDUCED, log 89) -/
def State.scanComplete (s : State) (d : Nat) (ok0 ok1 : Bool) : State :=
  match FMap.find? s.scanEnd d with
  | none => s
  | some e =>
    if s.now < e then s else
    let us := s.pairAt d
    let s := (us.zip [ok0, ok1]).foldl (fun s (x : Nat × Bool) =>
      if !(s.core x.1).scanning || (s.core x.1).retired then s
      else if x.2 then s.scanPass x.1
      else s.onCore x.1 fun c => { c with retired := true }) s
    let s := us.foldl (fun s u =>
      if !(s.core u).scanning then s else
      let all := clusterCores (clusterOf u)
      let s := s.saveOff all false
      if all.all fun v => (s.liveOn v).isEmpty then s.retireCore u else s) s
    if us.all fun u => !(s.core u).scanning then s.nextPair d else s

/-- SCAN_COMPLETE. -/
def execScanComplete (die : Nat) (ok0 ok1 : Bool) (s : State) : Host.Outcome State Fault Refusal := .next (s.scanComplete die ok0 ok1)

end Sys2Proof.Machine
end

