-- ==== Sys2Proof/Machine/Tables.lean ====
section
/-! DEFINITION. The supervisor's work on labels: label caches, tables and gates (R70 to R75, R373 to R375). -/

namespace Sys2Proof.Machine

open Sys2Proof Sys2Proof.Decode

/-! ## Table addresses (R372, R374) -/

/-- The level a table address names at most: its tables' limits (R374). -/
def tabLimit : TTab → Nat | .ctx | .port => 1024 | .chip => 4096 | .stack => 16384 | .acl => 65536

/-- The key that a table address names, unless it has a reserved bit or lies beyond its table (R372, R374): a context's entries and lists stand in the table
that its descriptor names (R71). -/
def State.tabKey (s : State) (t : TTab) (a : W64) : Option Nat :=
  let lvl := bf a 60 4
  let sel := bf a 48 12
  let idx := bf a 2 16
  let rule := bf a 0 2
  if bf a 18 30 ≠ 0 || tabLimit t ≤ idx then none else
  match t with
  | .acl =>
    if lvl = 0 || 4 < lvl || (lvl = 1 && 256 ≤ idx) || (lvl = 4 && 24 ≤ sel) || ((lvl = 2 || lvl = 3) && sel ≠ 0) then none
    else some (keyRule lvl (if lvl = 1 then s.ctxTable sel else sel) idx rule)
  | t =>
    if lvl ≠ 0 || rule ≠ 0 then none else
    match t with
    | .ctx => some (s.keyCtx sel idx)
    | .port => if sel ≠ 0 then none else some (keyPort idx)
    | .chip => if sel ≠ 0 then none else some (keyChip idx)
    | _ => if 24 ≤ sel then none else some (keyStack sel idx)

/-- The table that a gate's level names. -/
def gateTab : GLvl → TTab | .ctx => .ctx | .port => .port | .chip => .chip | .stack => .stack
/-- The number of a table's level. -/
def tabLvl : TTab → Nat | .ctx => 1 | .port => 2 | .chip => 3 | .stack => 4 | .acl => 0

/-! ## LTWR (R72, R374) -/

/-- A rule with a nonzero reserved bit is not written (Table 3-6). -/
def ruleOk (e : BitVec 128) : Bool := bf e 99 12 = 0 && bf e 0 33 = 0

/-- What a written entry comes to: over a GATED entry the state written is held (R72). -/
def mergeEntry (old e : BitVec 128) : BitVec 128 :=
  if eST old = 2 then setBf (setBf e 126 2 2) 124 2 (if eST e = 2 then eHS e else eST e) else e

/-- The view copy of a stack entry (R105): linear where the entry is not VALID. (DESIGN CHOICE, log 113) -/
def State.setView (s : State) (st i : Nat) : State :=
  let e := s.tab (keyStack st i)
  let k := FMap.getD s.hbm st {}
  { s with hbm := FMap.insert s.hbm st { k with views := FMap.put k.views i (if (if eST e = 2 then eHS e else eST e) = 1 then (bf e 93 3, bf e 88 5) else (0, 0)) (0, 0) } }

/-- LTWR's write: 0 where it is written, 1 where R66 or R88 refuses it, 2 where the address is bad. (DEDUCED, log 43) -/
def State.tableWrite (s : State) (t : TTab) (a : W64) (e : BitVec 128) : State × Nat :=
  match s.tabKey t a with
  | none => (s, 2)
  | some key =>
    match t with
    | .acl => if ruleOk e then (s.setTab key e, 0) else (s, 1)
    | t =>
      if !entryOk (tabLvl t) e then (s, 1)
      else
        let s := s.setTab key (mergeEntry (s.tab key) e)
        (if t = .stack then s.setView (bf a 48 12) (bf a 2 16) else s, 0)

/-- LTWR (R374): a 16-byte entry or rule, from w(b) and w(b+1). (DEDUCED, log 43) -/
def execLtwr (m : TTab) (o : Args) (s : State) : Host.Outcome State Fault Refusal :=
  issue o s false false fun c =>
    match tileStart c (.ltwr m o) o 3 2 with
    | .error x => .error x
    | .ok [] => .ok c.s
    | .ok _ =>
      let e : BitVec 128 := (wAbove c o.b.x 1) ++ (wAbove c o.b.x 0)
      let x := c.s.tableWrite m (BitVec.ofNat 64 (srcs c (.ltwr m o) o 0).2.1.v) e
      .ok (c.status x.1 o.d.x x.2)

/-! ## LINV and LSYNC (R74, R75, R373) -/

/-- A cached context entry that LINV selects: a context or all, a range of labels. -/
def lineDrops (allc : Bool) (ctx lo hi : Nat) (l : CLine) : Bool := (allc || l.ctx = ctx) && lo ≤ l.o && l.o ≤ hi

/-- Drop context-level entries from one cache. -/
def dropLines (allc : Bool) (ctx lo hi : Nat) (ls : List CLine) : List CLine := ls.filter fun l => !lineDrops allc ctx lo hi l

/-- The keys of the context-level entries that a cache holds and LINV drops. -/
def State.droppedKeys (s : State) (allc : Bool) (ctx lo hi : Nat) (ls : List CLine) : List Nat := (ls.filter (lineDrops allc ctx lo hi)).map fun l => s.keyCtx l.ctx l.o

/-- Note dropped entries for the issuing core's LSYNC (R75). -/
def State.noteDrops (s : State) (u : Nat) (keys : List Nat) : State :=
  s.onCore u fun c => { c with dropped := c.dropped ++ (distinct keys).map fun k => (k, s.nextId) }

/-- LINV at the context level (R74): `.mod` reaches every core, port and storage port, the narrower scopes the issuing core alone (R8). -/
def State.linvCtx (s : State) (u : Nat) (sc : Scope) (allc : Bool) (ctx lo hi : Nat) : State :=
  if sc = .mod then
    let keys := (s.cores.flatMap fun c => s.droppedKeys allc ctx lo hi c.2.lcache) ++ (s.ports.flatMap fun p => s.droppedKeys allc ctx lo hi p.2.lcache)
      ++ s.droppedKeys allc ctx lo hi s.spcache
    let s := { s with
      cores := FMap.mapVals s.cores fun _ c => { c with lcache := dropLines allc ctx lo hi c.lcache }
      ports := FMap.mapVals s.ports fun _ p => { p with lcache := dropLines allc ctx lo hi p.lcache }
      spcache := dropLines allc ctx lo hi s.spcache }
    s.noteDrops u keys
  else
    let keys := s.droppedKeys allc ctx lo hi (s.core u).lcache
    (s.onCore u fun c => { c with lcache := dropLines allc ctx lo hi c.lcache }).noteDrops u keys

/-- LINV at the chip level: the entry caches of the slices, which `.mod` alone reaches. -/
def State.linvChip (s : State) (u : Nat) (sc : Scope) (lo hi : Nat) : State :=
  if sc ≠ .mod then s else
  let sel (x : Nat × BitVec 128 × Nat) : Bool := lo ≤ x.1 && x.1 ≤ hi
  let keys := s.ecache.flatMap fun l => (l.2.filter sel).map fun x => keyChip x.1
  ({ s with ecache := FMap.mapVals s.ecache fun _ l => l.filter fun x => !sel x }).noteDrops u keys

/-- LINV (R373). -/
def execLinv (m : Mods.Linv) (o : Args) (s : State) : Host.Outcome State Fault Refusal :=
  issue o s false false fun c =>
    match start c (.linv m o) o with
    | .error x => .error x
    | .ok [] => .ok c.s
    | .ok _ =>
      let a := BitVec.ofNat 64 (srcs c (.linv m o) o 0).2.1.v
      let u := unitOfGid c.gid
      .ok (if m.chip then c.s.linvChip u m.scope (bf a 0 12) (bf a 16 12) else c.s.linvCtx u m.scope m.allc (bf a 32 12) (bf a 0 12) (bf a 16 12))

/-- A request that an entry dropped by an LINV of this core granted is not yet performed, nor a part of it (R75). -/
def State.undrained (s : State) (u : Nat) : Bool :=
  s.reqs.any fun q => (s.core u).dropped.any fun d => q.2.share < d.2 && (q.2.shared.contains d.1 || q.2.entries.contains d.1)

/-- LSYNC (R75). -/
def execLsync (o : Args) (s : State) : Host.Outcome State Fault Refusal :=
  issue o s false false fun c =>
    match start c (.lsync o) o with
    | .error x => .error x
    | .ok [] => .ok c.s
    | .ok _ =>
      let u := unitOfGid c.gid
      if c.s.undrained u then .error (.wait c.s) else .ok (c.s.onCore u fun k => { k with dropped := [] })

/-! ## GATE (R72, R73, R375) -/

/-- Close a gate: GATED, with the state it had held; the cached copies go (R73, R93). -/
def State.gateClose (s : State) (u : Nat) (t : TTab) (a : W64) (key : Nat) : State :=
  let e := s.tab key
  let s := s.setTab key (setBf (setBf e 124 2 (eST e)) 126 2 2)
  match t with
  | .ctx => s.linvCtx u .mod false (bf a 48 12) (bf a 2 16) (bf a 2 16)
  | .chip => { s with ecache := FMap.mapVals s.ecache fun _ l => l.filter fun x => x.1 ≠ bf a 2 16 }
  | .stack =>
    let k := FMap.getD s.hbm (bf a 48 12) {}
    { s with hbm := FMap.insert s.hbm (bf a 48 12) { k with pages := k.pages.filter fun p => p.2.2 ≠ bf a 2 16 } }
  | _ => s

/-- Open a gate: ST := HS. (DEDUCED, log 44) -/
def State.gateOpened (s : State) (key : Nat) : State := s.setTab key (setBf (setBf (s.tab key) 126 2 (eHS (s.tab key))) 124 2 0)

/-- GATE.close (R375): closes, and retires when the in-flight count is zero; at the context level also once its LINV has drained. -/
def execGateClose (m : GLvl) (o : Args) (s : State) : Host.Outcome State Fault Refusal :=
  issue o s false false fun c =>
    match start c (.gateClose m o) o with
    | .error x => .error x
    | .ok [] => .ok c.s
    | .ok _ =>
      let a := BitVec.ofNat 64 (srcs c (.gateClose m o) o 0).2.1.v
      let u := unitOfGid c.gid
      let await (s : State) (key : Nat) : Except Stop State :=
        if s.count key ≠ 0 || (m = .ctx && s.undrained u) then .error (.wait (s.onGrp c.gid fun g => { g with cont := some (.gate key) }))
        else .ok (c.status s o.d.x 0)
      match c.g.cont with
      | some (.gate key) => await c.s key
      | _ =>
        match c.s.tabKey (gateTab m) a with
        | none => .ok (c.status c.s o.d.x 2)
        | some key =>
          if eST (c.s.tab key) = 2 then .ok (c.status c.s o.d.x 1)
          else await (c.s.gateClose u (gateTab m) a key) key

/-- GATE.open (R375): the held requests are then looked up afresh (R72). (DEDUCED, log 44) -/
def execGateOpen (m : GLvl) (o : Args) (s : State) : Host.Outcome State Fault Refusal :=
  issue o s false false fun c =>
    match start c (.gateOpen m o) o with
    | .error x => .error x
    | .ok [] => .ok c.s
    | .ok _ =>
      match c.s.tabKey (gateTab m) (BitVec.ofNat 64 (srcs c (.gateOpen m o) o 0).2.1.v) with
      | none => .ok (c.status c.s o.d.x 2)
      | some key =>
        if eST (c.s.tab key) ≠ 2 then .ok (c.status c.s o.d.x 1)
        else
          let s := c.s.gateOpened key
          .ok (c.status s o.d.x 0)

end Sys2Proof.Machine
end

