-- ==== Sys2Proof/Machine/Trap.lean ====
section
/-! DEFINITION. Raising a trap, returning from a handler and halting (R357, R358). -/

namespace Sys2Proof.Machine

open Sys2Proof Sys2Proof.Decode

/-- TRAP (R358): cause 29 with the code in AUX0; the instruction has retired. -/
def execTrap (o : Args) (s : State) :=
  issueOr o s false true fun c =>
    match start c (.trap o) o with
    | .error x => .error x
    | .ok [] => .ok (.ok c.s)
    | .ok (t :: _) =>
      let x := srcs c (.trap o) o t
      .ok (.error (c.s.takeTrap c.gid { cause := .software, aux0 := BitVec.ofNat 32 (x.2.1.v % 65536) }))

/-- The step that an arrival interrupted between its two parts goes on with, where it is returned to (R335). -/
def Shadow.contAt (x : Shadow) (pc : W32) : Option Cont :=
  match x.cont with
  | some (.arw ph q) => if q = pc then some (.arw ph q) else none
  | _ => none

/-- The return from a handler to an index, under a mask and a mask stack: the shadow's code, and no longer in the handler. (DEDUCED, log 104) -/
def Group.leaveHandler (g : Group) (pc : W32) (act : BitVec 32) (stack : List MEntry) : Group :=
  { g with pc := pc, act := act, stack := stack, code := g.shadow.code, len := g.shadow.len, inH := false, cont := g.shadow.contAt pc }

/-- RPC of a group's frame, as the handler left it (R353). -/
def State.frameRpc (s : State) (gid : Nat) : W32 := BitVec.ofNat 32 (s.le (s.frameAddr gid + 4) 4)

/-- RETT (R358): to the frame's RPC with the shadow's mask and stack depth, or with `.rgn` to the region that the last REGN recorded. -/
def execRett (m : Bool) (o : Args) (s : State) :=
  issue o s true true fun c =>
    match start c (.rett m o) o with
    | .error x => .error x
    | .ok [] => .ok (c.s.pass c.gid)
    | .ok _ =>
      if !c.g.inH then .error (.trap { cause := .illegal, detail := 12 })
      else if m then
        match c.g.rgn with
        | none => .error (.trap { cause := .illegal, detail := 12 })
        | some r => .ok (c.s.setGrp c.gid (c.g.leaveHandler r.resume r.act r.stack))
      else
        .ok (c.s.setGrp c.gid (c.g.leaveHandler (c.s.frameRpc c.gid) c.g.shadow.act (c.g.stack.drop (c.g.stack.length - c.g.shadow.depth))))

/-- The record of a halt: its PC, slot and core, at the places that Table 3-8 gives those fields. (DEDUCED, log 101) -/
def haltRec (g : Group) (gid : Nat) : BitVec 256 :=
  BitVec.ofNat 256 (g.pc.toNat * 2 ^ 64 + (unitNo (unitOfGid gid) + slotOfGid gid * 2 ^ 11) * 2 ^ 192)

/-- A system core's HALT: the next interrupt of the core, one already pending at once (R358). (DEDUCED, log 101) -/
def haltSys (c : Iss) (s : State) : State :=
  let u := unitOfGid c.gid
  if 0 < (s.core u).irq then s.onCore u fun k => { k with irq := k.irq - 1 }
  else s.onGrp c.gid fun g => { g with wait := .irq, since := s.now }

/-- HALT (R358): a commit; the group halts, and its record goes to the context's fault queue; a system core waits for its next interrupt. (DEDUCED, log 101) -/
def execHalt (o : Args) (s : State) :=
  issue o s false true fun c =>
    match start c (.halt o) o with
    | .error x => .error x
    | .ok [] => .ok c.s
    | .ok _ =>
      let s := c.s.commit c.g.blk
      if isSys (unitOfGid c.gid) then .ok (haltSys c s)
      else .ok ((s.onGrp c.gid fun g => { g with wait := .halted, since := s.now }).post c.b.ctx (haltRec c.g c.gid) 3 false none)

end Sys2Proof.Machine
end

