-- ==== Sys2Proof/Machine/Super.lean ====
section
/-! DEFINITION. The supervisor's work on the domain, on queues and on contexts: HOIST, EQPOP, PSTOP, PSTART (R371, R377 to R379). -/

namespace Sys2Proof.Machine

open Sys2Proof Sys2Proof.Decode

/-! ## HOIST (R377) -/

/-- The number of a destination register. -/
def wdNum (d : Opd) : Nat := match d with | .w n => n.val | _ => 0

/-- The status with which HOIST ends at once, or none where the hoist runs: not the leader, a member or a non-member, generation exhausted. -/
def State.hoistStatus (s : State) (op m : Nat) : Option Nat :=
  let self := s.regs.mod.isSome && op = 0 && m = s.modNo && !s.regs.memb
  if self then none
  else if !s.regs.lead then some 1
  else if (op = 0 && s.regs.mask.getLsbD m) || ((op = 1 || op = 2) && !s.regs.mask.getLsbD m) then some 2
  else if s.regs.gen = 0xFFFFFFFF then some 3
  else none

/-- HOIST after its checks: the system core parks until the hoist completes. -/
def hoistBody (c : Iss) (op m : Nat) (d : Opd) : Except Stop State :=
  match c.s.hoistStatus op m with
  | some n => .ok ((c.status c.s d n).pass c.gid)
  | none =>
    if c.s.hoist.isSome then .error (.wait c.s)
    else .ok (c.park { c.s with hoist := some { op := op, mod := m, gid := some c.gid, wd := wdNum d, start := c.s.now } } .hoist)

/-- The module that HOIST names. -/
def hoistMod (c : Iss) (i : Instr) (o : Args) : Nat := (srcs c i o 0).2.1.v % 512

/-- HOIST.join (R377). -/
def execHoistJoin (o : Args) (s : State) : Host.Outcome State Fault Refusal :=
  issue o s true false fun c =>
    match start c (.hoistJoin o) o with
    | .error x => .error x
    | .ok [] => .ok (c.s.pass c.gid)
    | .ok _ => hoistBody c 0 (hoistMod c (.hoistJoin o) o) o.d.x
/-- HOIST.leave (R377). -/
def execHoistLeave (o : Args) (s : State) : Host.Outcome State Fault Refusal :=
  issue o s true false fun c =>
    match start c (.hoistLeave o) o with
    | .error x => .error x
    | .ok [] => .ok (c.s.pass c.gid)
    | .ok _ => hoistBody c 1 (hoistMod c (.hoistLeave o) o) o.d.x
/-- HOIST.evict (R377). -/
def execHoistEvict (o : Args) (s : State) : Host.Outcome State Fault Refusal :=
  issue o s true false fun c =>
    match start c (.hoistEvict o) o with
    | .error x => .error x
    | .ok [] => .ok (c.s.pass c.gid)
    | .ok _ => hoistBody c 2 (hoistMod c (.hoistEvict o) o) o.d.x
/-- HOIST.rekey (R377). -/
def execHoistRekey (o : Args) (s : State) : Host.Outcome State Fault Refusal :=
  issue o s true false fun c =>
    match start c (.hoistRekey o) o with
    | .error x => .error x
    | .ok [] => .ok (c.s.pass c.gid)
    | .ok _ => hoistBody c 3 (hoistMod c (.hoistRekey o) o) o.d.x

/-! ## EQPOP (R378) -/

/-- Write RIDX of a queue: at once where every level lets it through, else through the core's write queue. (DEDUCED, log 102) -/
def putRidx (c : Iss) (s : State) (q : W64) (v : Nat) : State :=
  let p := pPlus q 16
  let g := s.groupGuidon c.gid 0
  match s.wrTargets g (ptrBytes p (leBytes 8 v)) with
  | .ok xs => s.applyTargets g xs
  | .error _ =>
    let u := unitOfGid c.gid
    { s with
      wrs := FMap.insert s.wrs s.nextId { data := .bytes p ((leBytes 8 v).map some), ctx := c.b.ctx, blk := c.g.blk, src := [{ gid := c.gid, org := originOf c 0 p 0, len := 8 }]
                                          unit := u, place := .queue, barrier := (s.core u).barrier, remote := s.remoteOf c.b.ctx p }
      nextId := s.nextId + 1 }

/-- The core still has a write of a queue's RIDX to perform: the entry before the one it names is not taken yet. -/
def ridxPending (c : Iss) (q : W64) : Bool :=
  c.s.wrs.any fun x => x.2.unit = unitOfGid c.gid && x.2.ctx = c.b.ctx && x.2.loc.isNone && x.2.data.meets (pPlus q 16) 8

/-- A value of issue-time bytes. -/
def valueAt (bs : List (Byte × Bool)) (at_ n : Nat) : Nat := leNat (((bs.drop at_).take n).map fun b => b.1)

/-- The registers that EQPOP writes. (DEDUCED, log 102) -/
def popped (g : Group) (d : Opd) (ws : List Nat) : Group := putPacket g d (ws.map (BitVec.ofNat 64))

/-- EQPOP (R378): the oldest entry to w(d) to w(d+7), and RIDX moves on; an empty queue writes zeros, or with `.wait` waits. (DEDUCED, log 102) -/
def execEqpop (m : Bool) (o : Args) (s : State) : Host.Outcome State Fault Refusal :=
  issue o s false false fun c =>
    match start c (.eqpop m o) o with
    | .error x => .error x
    | .ok [] => .ok c.s
    | .ok _ =>
      let q := BitVec.ofNat 64 (srcs c (.eqpop m o) o 0).2.1.v
      if packetEmpty c.g o.d.x || ridxPending c q then .error (.wait c.s) else
      match issueReads c 32 [(0, q)] with
      | .error x => .error x
      | .ok hs =>
        let h := (hs.head?).getD []
        let size := valueAt h 0 4
        let widx := valueAt h 8 8
        let ridx := valueAt h 16 8
        if size = 0 || widx ≤ ridx then
          if m then .error (.wait (c.s.issueDrop c.gid)) else .ok ((c.s.issueDrop c.gid).onGrp c.gid fun g => popped g o.d.x (List.replicate 8 0))
        else
          match issueReads c 64 [(0, pPlus q (64 + 64 * (ridx % size)))] with
          | .error x => .error x
          | .ok es =>
            let e := (es.head?).getD []
            let s := putRidx c (c.s.issueDrop c.gid) q (ridx + 1)
            .ok (s.onGrp c.gid fun g => popped g o.d.x ((List.range 8).map fun k => valueAt e (8 * k) 8))

/-! ## Cobblers (R295, R379) -/

/-- A die has a resident cobbler: a marked group on one of its cores or saved from one, or one that is to start afresh (R381). -/
def State.hasCobbler (s : State) (d : Nat) : Bool :=
  (s.blocks.any fun x => x.2.lid.isNone && !isSys x.2.core && !x.2.onCore &&
    (match FMap.find? s.saved x.1 with | some v => v.restart && dieOf v.from_ = d | none => false)) ||
  s.groups.any fun g => g.2.cob &&
    (let u := unitOfGid g.1
     (u < 1536 && dieOf u = d) || (offCore ≤ u && ((FMap.find? s.saved g.2.blk).map fun v => dieOf v.from_) = some d))

/-- The launch packet of a context's cobbler and its header, where they can be read and the header is well formed. (DEDUCED, log 85) -/
def State.cobblerPacket (s : State) (c : Nat) : Option (List W64 × Header) :=
  let g := s.sysGuidon c 6
  match s.words8 g (s.ctx c).cobk with
  | .error _ => none
  | .ok pkt =>
    match s.words8 g (pw pkt 0) with
    | .error _ => none
    | .ok hw => if headerOk (pw hw) then some (pkt, headerOf (pw hw)) else none

/-- Start the cobbler of a context on a die, from COBK, as LAUNCH starts a set of one group; none where no cluster has room (R379). (DEDUCED, log 85) -/
def State.startCobbler (s : State) (c d : Nat) : Option State :=
  let x := s.ctx c
  match s.cobblerPacket c, s.freestCluster d with
  | some (pkt, h), some cl =>
    (match s.placement cl h 1 1 fun _ => false with
     | some ((u, lam) :: _) =>
       let k := s.nextId
       let b : Block := { ctx := c, part := x.part, hdr := h, cbank := pw pkt 1, prio := h.prio, cbase := k + 1, ngrp := 1, pkt := pkt }
       some (({ s with nextId := k + 2, fresh := s.fresh + 1 }).startBlock k b u lam true)
     | _ => none)
  | _, _ => none

/-- The dies of a context's COB that lie in its partition and have no resident cobbler: those whose cobbler is to be started, where its packet can be. -/
def State.cobblerDies (s : State) (c : Nat) : List Nat :=
  if (s.cobblerPacket c).isNone then [] else
  (List.range 12).filter fun d => (s.ctx c).cob.getLsbD d && (s.diesOf (s.ctx c).part).contains d && !s.hasCobbler d

/-- Start the cobblers that a context supplies. (DEDUCED, log 85) -/
def State.startCobblers (s : State) (c : Nat) (dies : List Nat) : State :=
  (dies.filter fun d => (s.cobblerDies c).contains d).foldl (fun s d => (s.startCobbler c d).getD s) s

/-! ## PSTOP (R379) -/

/-- How a context is stopped. -/
inductive How | save | halt | pause | reset
  deriving DecidableEq, Repr

/-- The state a stop leaves (Table 16-7). -/
def How.vst : How → VSt | .save | .halt => .desched | .pause => .paused | .reset => .reset
/-- The treatment it gives. -/
def How.treat : How → Treat | .save | .pause => .save | .halt => .halt | .reset => .discard

/-- The blocks of a context that a stop or start concerns: those with groups, and those waiting to start afresh. -/
def State.ctxBlocks (s : State) (c : Nat) : List Nat :=
  (s.blocks.filter fun b => b.2.ctx = c && !isSys b.2.core && (b.2.live ≠ 0 || (FMap.find? s.saved b.1).isSome)).map fun b => b.1

/-- A block has been reported for a stop (R369, R379). -/
def State.reported (s : State) (h : How) (k : Nat) : Bool :=
  match h with
  | .reset => (FMap.find? s.blocks k).isNone
  | .halt => !(s.blk k).onCore || s.haltedBlock k
  | _ => !(s.blk k).onCore

/-- Take a stop as far as it goes now: every block not yet reported has the treatment, and each goes on with it. (DEDUCED, log 84) -/
def State.stopOn (s : State) (h : How) (c : Nat) : State :=
  let ks := s.ctxBlocks c
  let s := ks.foldl (fun s k => if s.reported h k || (s.blk k).stop = some h.treat then s else s.treat [k] h.treat) s
  ks.foldl (fun s k => if h = .reset && !(s.blk k).onCore then s.eraseBlock k else s.settleBlock k) s

/-- The context is as a stop reports it: every block reported and every write that has left a store buffer performed (R328); for a pause, whose context may go
on in another module, its copies and memory phases complete too (R170, R279). A reset waits for its blocks alone. (DESIGN CHOICE, log 122) -/
def State.stopDone (s : State) (h : How) (c : Nat) : Bool :=
  ((s.ctxBlocks c).all fun k => s.reported h k)
  && (h = .reset || s.wrs.all fun x => x.2.ctx ≠ c || s.writeSettled x.1 x.2)
  && (h ≠ .pause || ((s.copies.all fun x => x.2.ctx ≠ c || x.2.done) && s.eops.all fun x => x.2.ctx ≠ c || !x.2.tileDone || x.2.done))

/-- PSTOP after its checks (R379): it retires when the context has been reported; a reset raises INC. -/
def pstopBody (h : How) (c : Iss) (i : Instr) (o : Args) : Except Stop State :=
  let n := (srcs c i o 0).2.1.v % 4096
  let x := c.s.ctx n
  let mine := c.g.cont = some .pstop
  if x.stopping && !mine then .ok (c.status c.s o.d.x 2)
  else if !mine && x.vst = h.vst then .ok (c.status c.s o.d.x 1)
  else
    let s := c.s.setCtx n { x with stopping := true, starting := false }
    let s := s.stopOn h n
    if s.stopDone h n then
      let x := s.ctx n
      let s := (s.setCtx n { x with stopping := false, vst := h.vst, inc := if h = .reset then x.inc + 1 else x.inc
                                    oldEvents := x.oldEvents || h = .reset }).storeDesc n
      .ok (c.status s o.d.x 0)
    else .error (.wait (s.onGrp c.gid fun g => { g with cont := some .pstop }))

/-- PSTOP.save (R379). -/
def execPstopSave (o : Args) (s : State) : Host.Outcome State Fault Refusal :=
  issue o s false false fun c =>
    match start c (.pstopSave o) o with
    | .error x => .error x
    | .ok [] => .ok c.s
    | .ok _ => pstopBody .save c (.pstopSave o) o
/-- PSTOP.halt (R379). -/
def execPstopHalt (o : Args) (s : State) : Host.Outcome State Fault Refusal :=
  issue o s false false fun c =>
    match start c (.pstopHalt o) o with
    | .error x => .error x
    | .ok [] => .ok c.s
    | .ok _ => pstopBody .halt c (.pstopHalt o) o
/-- PSTOP.pause (R379). -/
def execPstopPause (o : Args) (s : State) : Host.Outcome State Fault Refusal :=
  issue o s false false fun c =>
    match start c (.pstopPause o) o with
    | .error x => .error x
    | .ok [] => .ok c.s
    | .ok _ => pstopBody .pause c (.pstopPause o) o
/-- PSTOP.reset (R379). (DEDUCED, log 84) -/
def execPstopReset (o : Args) (s : State) : Host.Outcome State Fault Refusal :=
  issue o s false false fun c =>
    match start c (.pstopReset o) o with
    | .error x => .error x
    | .ok [] => .ok c.s
    | .ok _ => pstopBody .reset c (.pstopReset o) o

/-! ## PSTART (R371, R379) -/

/-- Remove the unconsumed events of an older incarnation from a context's event queue, and count them (R371). (DEDUCED, log 86) -/
def State.purgeEvents (s : State) (c : Nat) : State :=
  let x := s.ctx c
  let g := s.sysGuidon c 6
  let q := x.evq
  let i := s.queueIdx g q
  if !x.oldEvents || q = 0 || i.1 = 0 then s else
  let at_ (k : Nat) : W64 := pPlus q (64 + 32 * (k % i.1))
  let es := (List.range (min i.1 (i.2.1 - i.2.2))).map fun k => s.peek g (at_ (i.2.2 + k)) 32
  let keep := es.filter fun e => e / 2 ^ 32 % 2 ^ 32 = x.inc.toNat
  let s := (keep.mapIdx fun k e => (k, e)).foldl (fun s y => s.poke g (at_ (i.2.2 + y.1)) 32 y.2) s
  let s := s.poke g (pPlus q 8) 8 (i.2.2 + keep.length)
  s.poke g (pPlus q 24) 8 (s.peek g (pPlus q 24) 8 + (es.length - keep.length))

/-- A block of a context that is being started runs again: resumed where it was halted, restored where it was saved. -/
def State.startOn (s : State) (k : Nat) : State :=
  if s.haltedBlock k then s.resume k else if !(s.blk k).onCore then s.tryRestore k else s

/-- A block runs. -/
def State.runs (s : State) (k : Nat) : Bool := (s.blk k).onCore && !s.haltedBlock k

/-- Release the groups of a context that `HALT` or a nested trap has stopped (R356, R358). -/
def State.releaseHalted (s : State) (c : Nat) : State :=
  { s with groups := FMap.mapVals s.groups fun gid g =>
      if (s.blk g.blk).ctx = c && !isSys (unitOfGid gid) && (g.wait = .halted || g.wait = .nested) then { g with wait := .none, readyAt := s.now } else g }

/-- PSTART after its checks (R379): it retires when every block runs and every cobbler has been started. -/
def pstartBody (c : Iss) (i : Instr) (o : Args) : Except Stop State :=
  let n := (srcs c i o 0).2.1.v % 4096
  let x := c.s.ctx n
  let mine := c.g.cont = some .pstop
  if x.stopping && !mine then .ok (c.status c.s o.d.x 2)
  else if !mine && x.vst = .run then .ok (c.status c.s o.d.x 1)
  else
    let s := if mine then c.s else
      let s := (c.s.setCtx n { x with stopping := true, starting := true }).loadDesc n
      let s := s.purgeEvents n
      (s.setCtx n { s.ctx n with oldEvents := false }).releaseHalted n
    let s := (s.ctxBlocks n).foldl (fun s k => s.startOn k) s
    let s := if (s.ctxBlocks n).all s.runs then s.startCobblers n (s.cobblerDies n) else s
    if (s.ctxBlocks n).all s.runs && (s.cobblerDies n).isEmpty then
      let x := s.ctx n
      let s := { s with msix := s.msix ++ x.msix.map fun v => (x.vf, v) }
      let s := (s.setCtx n { x with stopping := false, starting := false, vst := .run, msix := [] }).storeDesc n
      .ok (c.status s o.d.x 0)
    else .error (.wait (s.onGrp c.gid fun g => { g with cont := some .pstop }))

/-- PSTART (R379). -/
def execPstart (o : Args) (s : State) : Host.Outcome State Fault Refusal :=
  issue o s false false fun c =>
    match start c (.pstart o) o with
    | .error x => .error x
    | .ok [] => .ok c.s
    | .ok _ => pstartBody c (.pstart o) o

end Sys2Proof.Machine
end

