-- ==== Sys2Proof/Machine/Partition.lean ====
section
/-! DEFINITION. Partitions of whole dies, the ring firewall and the capability table (R387 to R390). -/

namespace Sys2Proof.Machine

open Sys2Proof Sys2Proof.Decode

/-- The stacks of a die. -/
def dieStacks (d : Nat) : List Nat := [2 * d, 2 * d + 1]

/-- A chip entry grants or holds requests for a stack (Table 3-5). -/
def chipNames (e : BitVec 128) (st : Nat) : Bool := (eST e = 1 || eST e = 2) && bf e 94 2 = 0 && bf e 83 5 = st

/-- Some chip entry names a stack. -/
def State.stackNamed (s : State) (st : Nat) : Bool := s.tabs.any fun x => keyChip 0 ≤ x.1 && x.1 < keyChip 4096 && chipNames x.2 st

/-- The dies of a set. -/
def diesIn (x : BitVec 12) : List Nat := (List.range 12).filter fun d => x.getLsbD d

/-- A die that a partition would take belongs to another, or is being taken by another (R389). (DEDUCED, log 91) -/
def State.dieTaken (s : State) (p d : Nat) : Bool :=
  s.parts.any fun x => x.1 ≠ p && (x.2.dies.getLsbD d || (x.2.changing && x.2.goal.getLsbD d))

/-- The ERR code with which a write of GO fails, 0 for none (Table 17-2). -/
def State.goErr (s : State) (p : Nat) : Nat :=
  let x := s.part p
  if x.changing then 3
  else if (diesIn (x.stg &&& ~~~x.dies)).any fun d => s.dieTaken p d then 1
  else if (diesIn (x.dies &&& ~~~x.stg)).any fun d => (dieStacks d).any s.stackNamed then 2
  else 0

/-- A write of GO = 1 (R389): the conditions, and the state while the change runs. (DEDUCED, log 91) -/
def State.partitionGo (s : State) (p : Nat) : State :=
  let x := s.part p
  if s.goErr p ≠ 0 then s.setPart p { x with err := s.goErr p }
  else s.setPart p { x with goal := x.stg, st := if x.dies = 0 then 1 else if x.stg = 0 then 4 else 3 }

/-- Ring link k is closed: its two dies lie in different partitions, or one lies in none (R388). (DESIGN CHOICE, log 94) -/
def State.linkClosed (s : State) (k : Nat) : Bool :=
  match s.partOf k, s.partOf ((k + 1) % 12) with
  | some a, some b => a ≠ b
  | _, _ => true

/-- CLOSED, recomputed (R388). (DESIGN CHOICE, log 94) -/
def State.closeLinks (s : State) : State :=
  { s with regs := { s.regs with closed := BitVec.ofNat 12 (((List.range 12).map fun k => if s.linkClosed k then 2 ^ k else 0).sum) } }

/-- Forward the mailbox entries of a leaving die to a remaining die: which one is open (R389). (DEDUCED, log 91) -/
def State.forwardBox (s : State) (p d : Nat) : State :=
  let rest := s.diesOf p
  match rest[Config.coreChoice s.fresh % max 1 rest.length]? with
  | none => s
  | some t =>
    (FMap.getD s.boxes d []).foldl (fun s e => s.toBox t e) { s with boxes := FMap.erase s.boxes d, fresh := s.fresh + 1 }

/-- A block is a cobbler: its group has the cobbler mark, or will have it when it starts afresh (R295). -/
def State.isCobbler (s : State) (k : Nat) : Bool :=
  (s.groups.any fun g => g.2.blk = k && g.2.cob) || ((s.blk k).lid.isNone && ((FMap.find? s.saved k).map fun v => v.restart).getD false)

/-- The die on which a block stands, or from which it was saved. -/
def State.homeDie (s : State) (k : Nat) (b : Block) : Option Nat :=
  if b.core < 1536 then some (dieOf b.core) else if b.onCore then none else (FMap.find? s.saved k).map fun v => dieOf v.from_

/-- Take the blocks of a leaving die off it (R389): its cobbler stops, the others are saved and restored on a remaining die. -/
def State.emptyDie (s : State) (d : Nat) : State :=
  let all := (s.blocks.filter fun x => s.homeDie x.1 x.2 = some d && (x.2.live ≠ 0 || !x.2.onCore)).map fun x => x.1
  let cob := all.filter s.isCobbler
  let s := cob.foldl (fun s k => if (s.blk k).onCore then (s.treat [k] .discard).settleBlock k else s.eraseBlock k) s
  s.saveOff ((List.range 128).map fun i => 128 * d + i) false

/-- No block stands on a die. -/
def State.dieEmpty (s : State) (d : Nat) : Bool := s.blocks.all fun x => x.2.live = 0 || !(x.2.core < 1536 && dieOf x.2.core = d)

/-- Drop the L2 lines of a stack without write-back, and write zeros with fresh ECC to all of it (R389). (DEDUCED, log 93) -/
def State.wipeStack (s : State) (st : Nat) : State :=
  { s with
    l2 := FMap.keep s.l2 fun k _ => (tagOf k).stack ≠ st
    wbacks := FMap.keep s.wbacks fun _ w => w.tag.stack ≠ st }.zeroBytes (hbmAddr st 0) (2 ^ 36)

/-- The end of a change (R389): DIES, CLOSED, NCLUS, TOPO, which is 0 as the partition forms, the cobblers of the joining dies, the topology event. (DEDUCED, log 91; DEDUCED, log 92) -/
def State.partitionEnd (s : State) (p : Nat) : State :=
  let x := s.part p
  let joining := diesIn (x.goal &&& ~~~x.dies)
  let s := (s.setPart p { x with dies := x.goal }).closeLinks
  let s := s.setPart p { (s.part p) with nclus := BitVec.ofNat 32 (s.visibleCount p), topo := if x.st = 1 then 0 else x.topo + 1 }
  let s := ((s.ctxsOf p).filter fun c => (s.ctx c).vst = .run && !(s.ctx c).stopping).foldl (fun s c => s.startCobblers c joining) s
  let s := s.setPart p { (s.part p) with st := if x.goal = 0 then 0 else 2, en := decide (x.goal ≠ 0), err := 0 }
  s.topologyEvent p (2 ^ 64 - 1) false

/-- A change under way goes as far as it goes now (R389). -/
def State.partitionStep (s : State) (p : Nat) : State :=
  let x := s.part p
  if !x.changing then s else
  let ld := (List.range 12).filter x.leaves
  let s := ld.foldl (fun s d => (s.forwardBox p d).emptyDie d) s
  if !ld.all s.dieEmpty then s else
  let s := (ld.flatMap dieStacks).foldl (fun s st => s.wipeStack st) s
  s.partitionEnd p

/-- PARTITION_CHANGE (R389): with `go` a write of GO = 1, else a change under way goes on. -/
def execPartitionChange (go : Bool) (p : Nat) (s : State) : Host.Outcome State Fault Refusal :=
  .next (if 12 ≤ p then s else if go then s.partitionGo p else s.partitionStep p)

/-! ## The capability table (R390) -/

/-- A record of the capability table. -/
def capRec (assign free gran count inst type : Nat) : BitVec 128 :=
  BitVec.ofNat 128 (type + inst * 2 ^ 16 + count * 2 ^ 32 + gran * 2 ^ 64 + free * 2 ^ 80 + assign * 2 ^ 112)

/-- The ASSIGN bits of some owners. -/
def assignBits (l : List Nat) : Nat := ((distinct l).map fun p => 2 ^ (p % 16)).sum

/-- A record for resources of one kind, from the owner of each, none for one that is not assigned; 15 is the system. (DEDUCED, log 95) -/
def capOwners (type inst gran : Nat) (owners : List (Option Nat)) : BitVec 128 :=
  capRec (assignBits (owners.filterMap id)) (owners.filter fun x => x.isNone).length gran owners.length inst type

/-- The owner of an L2 slice: that of the domain in which it is active (Table 5-1). (DEDUCED, log 95) -/
def State.sliceOwner (s : State) (i : Nat) : Option Nat := (List.find? (fun (x : Nat × Dom) => x.2.act && x.2.aslices.getLsbD i) s.doms).map fun x => x.2.owner

/-- A 64 KiB unit of the chip scratchpad is named by a chip entry of target 1. -/
def State.unitNamed (s : State) (u : Nat) : Bool :=
  s.tabs.any fun x => keyChip 0 ≤ x.1 && x.1 < keyChip 4096 && (eST x.2 = 1 || eST x.2 = 2) && bf x.2 94 2 = 1 && bf x.2 64 12 ≤ u && u ≤ bf x.2 64 12 + bf x.2 56 8

/-- The capability table (R390), first record to last. Where no register allots a resource to a partition, one in use counts as the system's. (DEDUCED, log 95) -/
def State.capTable (s : State) : List (BitVec 128) :=
  let sysIf (b : Bool) : Option Nat := if b then some 15 else none
  let rows :=
    ((List.range 12).map fun d => capOwners 1 d 1 [s.partOf d])
    ++ ((List.range 12).map fun d => capOwners 2 d 8 (List.replicate (s.visibleOn d).length (s.partOf d)))
    ++ [capOwners 3 0 1 ((List.range 64).map s.sliceOwner),
        capOwners 4 0 1 ((List.range 16).map fun d => let x := FMap.getD s.doms d {}; if x.en || x.act then some x.owner else none),
        capOwners 5 0 1 ((List.range 4096).map fun u => sysIf (s.unitNamed u)),
        capOwners 6 0 1 ((List.range 4096).map fun b => sysIf (decide ((FMap.getD s.mbkts b {}).rate ≠ 0))),
        capOwners 7 0 1 ((List.range 4096).map fun b => sysIf (decide ((FMap.getD s.fbkts b {}).rate ≠ 0))),
        capOwners 8 0 1 ((List.range 4096).map fun q => let x := s.queue q; if x.en then some x.part else none),
        capOwners 9 0 1 ((List.range 4096).map fun c => let x := s.ctx c; if x.ptr ≠ 0 then some x.part else none),
        capOwners 10 0 1 ((List.range 256).map fun r => sysIf ((FMap.getD s.reps r {}).w0.getLsbD 63))]
  capRec 0 0 0 (rows.length + 2) 0 0 :: rows ++ [capRec 0 0 0 0 0 0xFFFF]

end Sys2Proof.Machine
end

