-- ==== Sys2Proof/Machine/Reloc.lean ====
section
/-! DEFINITION. The relocation engine, the thrash detector and the patrol scrubber of the base dies (R96 to R104, R376). -/

namespace Sys2Proof.Machine

open Sys2Proof Sys2Proof.Decode

/-- A stack's base die. -/
def State.base (s : State) (st : Nat) : Stack := FMap.getD s.hbm st {}
/-- Write a stack's base die. -/
def State.setBase (s : State) (st : Nat) (k : Stack) : State := { s with hbm := FMap.insert s.hbm st k }

/-! ## The thrash detector (R99, R100) -/

/-- The key of a page's move counter on its stack: region and page base. -/
def moverKey (i off : Nat) : Nat := i * 4096 + off / 4096

/-- A page is pinned (R99). -/
def State.pinned (s : State) (st key : Nat) : Bool :=
  match FMap.find? (s.base st).movers key with
  | some m => (match m.pin with | some t => s.now < t | none => false)
  | none => false

/-- The counter that is reused when every one is in use: the oldest window start of those not pinned (R100). -/
def oldestMover (ms : FMap Mover) : Option Nat :=
  match ms.filter fun x => x.2.pin.isNone with
  | [] => none
  | x :: xs => some (xs.foldl (fun m y => if y.2.start < m.2.start then y else m) x).1

/-- A counter after one more move, and whether the page is pinned by it (R99). -/
def Mover.moved (c : Mover) (now win n thr : Nat) : Mover × Bool :=
  let c := if c.count = 0 || win < now - c.start then { c with start := now, count := 0 } else c
  let c := { c with count := c.count + 1 }
  if n < c.count then ({ c with pin := some (now + thr) }, true) else (c, false)

/-- Count a move of a page (R99, R100). -/
def State.countMove (s : State) (st key : Nat) : State :=
  let k := s.base st
  if !k.en then s else
  let go (ms : FMap Mover) : State :=
    let r := (FMap.getD ms key {}).moved s.now (max 1 k.win * 1000000) k.n (max 1 k.thr * 1000000)
    let s := s.setBase st { k with movers := FMap.insert ms key r.1 }
    if r.2 then s.notice ntPin (st * 2 ^ 40 + key) else s
  if (FMap.find? k.movers key).isSome || k.movers.length < 4096 then go k.movers
  else match oldestMover k.movers with
    | some j => go (FMap.erase k.movers j)
    | none => s.setBase st { k with lost := min 255 (k.lost + 1) }

/-- PIN_EXPIRY (R99): a pin has run out, and its counter restarts. (DESIGN CHOICE, log 127) -/
def State.pinOver (s : State) (st key : Nat) : State :=
  match FMap.find? (s.base st).movers key with
  | some m =>
    (match m.pin with
     | some t => if t ≤ s.now then s.setBase st { s.base st with movers := FMap.insert (s.base st).movers key { m with pin := none, count := 0 } } else s
     | none => s)
  | none => s

/-! ## RELOC (R96, R376) -/

/-- The page entry behind an offset of a region, with its address, as the region's held descriptor gives it. (DESIGN CHOICE, log 128) -/
def State.pageAt (s : State) (st i off : Nat) : Nat × W64 :=
  let a := bf (s.tab (keyStack st i)) 56 24 * 4096 + 8 * (off / 4096)
  (a, if s.poisoned (hbmAddr st a) then 0 else BitVec.ofNat 64 (s.le (hbmAddr st a) 8))

/-- A page entry stands for a placed page that begins at an offset of its region. -/
def State.placedAt (s : State) (st i off : Nat) : Bool :=
  let pe := (s.pageAt st i off).2
  off < (bf (s.tab (keyStack st i)) 80 8 + 1) * 65536 && bf pe 62 2 = 1 && bf pe 59 3 ≤ 5 && pageOk pe && off % pageSize (bf pe 59 3) = 0

/-- The status that RELOC has before any byte is copied, 0 where the copy goes ahead, in the order of R96. (DEDUCED, log 71) -/
def State.relocCheck (s : State) (a b : W64) : Nat :=
  let st := bf a 48 5
  let i := bf a 24 14
  let off := bf a 0 24
  let fwd := bt b 63
  if bf a 53 11 ≠ 0 || bf a 38 10 ≠ 0 || bf b 48 15 ≠ 0 || 24 ≤ st || (if fwd then bf b 0 8 ≠ 0 || 24 ≤ bf b 43 5 else bf b 24 24 ≠ 0) then 6
  else if eST (s.tab (keyStack st i)) ≠ 2 || s.count (keyStack st i) ≠ 0 then 1
  else if !s.placedAt st i off then 3
  else if s.pinned st (moverKey i off) then 2
  else if !fwd then
    let pe := (s.pageAt st i off).2
    let n := pageSize (bf pe 59 3) / 4096
    if 2 ^ 24 < bf b 0 24 + n || bf b 0 24 % n ≠ 0 then 4
    else if bf b 0 24 < bf pe 0 24 + n && bf pe 0 24 < bf b 0 24 + n then 5 else 0
  else 0

/-- RELOC (R376): the status at once, or the engine is driven and the system core parks. (DEDUCED, log 71) -/
def execReloc (o : Args) (s : State) : Host.Outcome State Fault Refusal :=
  issue o s true false fun c =>
    match start c (.reloc o) o with
    | .error x => .error x
    | .ok [] => .ok (c.s.pass c.gid)
    | .ok _ =>
      let v := srcs c (.reloc o) o 0
      let a := BitVec.ofNat 64 v.2.1.v
      let b := BitVec.ofNat 64 v.2.2.v
      let st := bf a 48 5
      let n := c.s.relocCheck a b
      if n ≠ 0 then .ok ((c.status c.s o.d.x n).pass c.gid)
      else if (c.s.base st).reloc.isSome then .error (.wait c.s)
      else
        let s := c.s.setBase st { c.s.base st with
          reloc := some { i := bf a 24 14, off := bf a 0 24, fwd := bt b 63, plc := bf b 0 48, gid := c.gid, wd := match o.d.x with | .w n => n.val | _ => 0 } }
        .ok (c.park s (.reloc st))

/-- The origin of the relocation engine's traffic (R96): system, class 6. -/
def State.relocGuidon (s : State) : BitVec 33 := s.sysGuidon 0 6

/-- Copy a sector to a stack byte, with its mark; it is written with fresh ECC (R96). (DEDUCED, log 70) -/
def State.copySector (s : State) (src dst : Nat) : State :=
  let bs := s.bytes src 32
  let bad := s.poisoned src
  let s := s.applyAll dst bs
  if bad then s.poison dst else s

/-- The engine's requests for a stack's relocation. -/
def State.relocReqs (s : State) (st : Nat) : List (Nat × Req) := s.reqs.filter fun x => match x.2.client with | .reloc k => decide (k = st) | _ => false

/-- One write of a page that is moved to another region: it passes the stack level of the destination, in this module or another; each sector keeps its
mark (R96). -/
def State.relocWrite (s : State) (st m src st' i' off : Nat) : State :=
  let q : Req := { client := .reloc st, kind := .write, org := unitOrigin s.relocGuidon (lbl 0 st' i' off), ptr := lbl 0 st' i' off, len := 256
                   pay := storeOf (s.marked src 256), stage := .stack st' i' off (.remote 0) }
  if m = s.modNo then s.newReq q
  else
    let s' := s.newReq { q with stage := .egress m 4 }
    s'.onReq s.nextId fun x => s'.depart s.nextId x m 4

/-- The writes of a page that is moved to another region. A module outside every domain, or one that does not hold the destination's, is refused it. (DEDUCED, log 70) -/
def State.relocSend (s : State) (st : Nat) (r : Reloc) (src n : Nat) : State :=
  let m := r.plc / 2 ^ 34 % 512
  if m ≠ s.modNo && !(s.regs.memb && s.regs.mask.getLsbD m) then s.setBase st { s.base st with reloc := some { r with begun := true, failed := true } }
  else
    (List.range (n / 256)).foldl (fun s k => s.relocWrite st m (src + 256 * k) (r.plc / 2 ^ 43) (r.plc / 2 ^ 20 % 2 ^ 14) (r.plc / 2 ^ 8 % 2 ^ 12 * 4096 + 256 * k))
      (s.setBase st { s.base st with reloc := some { r with begun := true } })

/-- The page entries of a moved page (R96): the new placement in each, WP and XD kept. -/
def State.writePages (s : State) (st a n : Nat) (pe : W64) : State :=
  (List.range n).foldl (fun s k => s.applyAll (hbmAddr st (a + 8 * k)) (leBytes 8 pe.toNat)) s

/-- The engine reports a status, and the system core goes on. -/
def State.relocEnd (s : State) (st : Nat) (r : Reloc) (status : Nat) : State :=
  let s := s.setBase st { s.base st with reloc := none }
  (s.onGrp r.gid fun g => writeOp g 0 64 (.w ⟨r.wd % 64, Nat.mod_lt _ (by decide)⟩) { v := status }).wake r.gid

/-- A request of the engine is on its way to another module. -/
def Req.gone (q : Req) : Bool := match q.stage with | .sent _ _ => true | _ => false

/-- A forward's copy meets a refusal: what has not left the module is not written, and the engine reports status 4 once nothing is under way. -/
def State.relocFail (s : State) (st : Nat) (r : Reloc) : State :=
  let s := ((s.relocReqs st).filter fun x => !x.2.gone).foldl (fun s x => s.dropReq x.1) s
  if (s.relocReqs st).isEmpty then s.relocEnd st r 4 else s

/-- RELOC_DONE (R96): the engine goes on. A page that stays in its stack is copied at once; one that is moved to another region is written through that
region's stack level, where a gate holds it and a refusal gives status 4. Then its entries are rewritten and the move is counted. (DEDUCED, log 70) -/
def State.relocDone (s : State) (st : Nat) : State :=
  match (s.base st).reloc with
  | none => s
  | some r =>
    let x := s.pageAt st r.i r.off
    let pe := x.2
    let sz := pageSize (bf pe 59 3)
    let src := hbmAddr st (bf pe 0 24 * 4096)
    let attrs := bf pe 57 2 * 2 ^ 57 + bf pe 59 3 * 2 ^ 59
    let fin (s : State) (new : W64) : State := ((s.writePages st x.1 (sz / 4096) new).countMove st (moverKey r.i r.off)).relocEnd st r 0
    if !r.fwd then
      let s := (List.range (sz / 32)).foldl (fun s k => s.copySector (src + 32 * k) (hbmAddr st (r.plc % 2 ^ 24 * 4096) + 32 * k)) s
      fin s (BitVec.ofNat 64 (2 ^ 62 + attrs + r.plc % 2 ^ 24))
    else if r.failed then s.relocFail st r
    else if !r.begun then s.relocSend st r src sz
    else if (s.relocReqs st).isEmpty then fin s (BitVec.ofNat 64 (2 ^ 63 + attrs + r.plc))
    else s

/-! ## ECC (R102 to R104) -/

/-- PATROL_SCRUB (R102, R103): the scrubber reads a sector of a stack: clean, corrected, or not correctable, which poisons it. (DESIGN CHOICE, log 72) -/
def State.scrub (s : State) (st a found : Nat) : State :=
  if !(s.base st).sen || 2 ^ 36 ≤ a then s
  else s.eccRead (hbmAddr st a) (match found with | 0 => none | 1 => some false | _ => some true)

/-- The engine reads the sectors of the page that it moves: `found` names those in which their ECC meets an error, and whether it cannot be corrected
(R96, R102, R103). (DESIGN CHOICE, log 112) -/
def State.relocReads (s : State) (st : Nat) (found : List (Nat × Bool)) : State :=
  match (s.base st).reloc with
  | none => s
  | some r =>
    if r.begun then s else
    let pe := (s.pageAt st r.i r.off).2
    (found.filter fun x => x.1 < pageSize (bf pe 59 3) / 32).foldl (fun s x => s.eccRead (hbmAddr st (bf pe 0 24 * 4096) + 32 * x.1) (some x.2)) s

/-- RELOC_DONE: the engine reads, unless it has, and goes on. (DESIGN CHOICE, log 112) -/
def execRelocDone (st : Nat) (found : List (Nat × Bool)) (s : State) : Host.Outcome State Fault Refusal := .next ((s.relocReads st found).relocDone st)
/-- PIN_EXPIRY (R99). -/
def execPinExpiry (st key : Nat) (s : State) : Host.Outcome State Fault Refusal := .next (s.pinOver st key)
/-- PATROL_SCRUB (R102). (DESIGN CHOICE, log 72) -/
def execPatrolScrub (st a found : Nat) (s : State) : Host.Outcome State Fault Refusal := .next (s.scrub st a found)

end Sys2Proof.Machine
end

