-- ==== Sys2Proof/Machine/Window.lean ====
section
/-! DEFINITION. The management register windows (R380, R397): what each register reads as, and what a write of it does. A window is read and written in
8-byte words, of which an access of 4 bytes takes one half. Reserved fields read as zero and take no write (R11). -/

namespace Sys2Proof.Machine

open Sys2Proof

/-- A word from its fields. -/
def word64 (n : Nat) : W64 := BitVec.ofNat 64 n

/-- A word in which a write changes the bits of a mask. (DEDUCED, log 96) -/
def mergeWord (old v mask : W64) : W64 := (old &&& ~~~mask) ||| (v &&& mask)

/-- Bits `lo` and up of a mask that a write covers. (DEDUCED, log 96) -/
def covers (mask : W64) (lo n : Nat) : Bool := bf mask lo n ≠ 0

/-! ## What is read -/

/-- A bucket brought up to now (R120). -/
def State.bucketNow (s : State) (b : Nat) : Bucket :=
  (s.bucket b).refill s.now (s.reqs.any fun q => match q.2.stage with | .bucket x .. => x = b | _ => false)

/-- Table 5-6, Table 6-5. -/
def State.bucketWord (s : State) (b : Nat) (hi : Bool) : W64 :=
  let x := s.bucketNow b
  if hi then word64 ((BitVec.ofInt 32 (x.bal / 1000)).toNat + x.held % 2 ^ 32 * 2 ^ 32)
  else word64 (x.rate % 2 ^ 32 + x.pol % 4 * 2 ^ 32 + x.burst % 65536 * 2 ^ 48)

/-- The status register (R391). -/
def State.statusWord (s : State) : W64 :=
  let r := s.regs
  word64 (r.ready.toNat + r.srq.toNat * 2 + r.shed.toNat * 4 + r.rlim % 4 * 16 + r.scen.toNat * 64 + r.srcnt % 65536 * 2 ^ 16 + r.srcode % 65536 * 2 ^ 32
    + r.bstage % 256 * 2 ^ 48)

/-- Table 5-1. -/
def State.domWord (s : State) (d off : Nat) : W64 :=
  let x := FMap.getD s.doms d {}
  if off = 0 then x.slices
  else if off < 0x38 then word64 (bf ((x.hm[off / 8 - 1]?).getD 0) 0 46)
  else word64 (x.err % 16 + x.act.toNat * 2 ^ 28 + x.busy.toNat * 2 ^ 30 + x.en.toNat * 2 ^ 31 + x.owner % 16 * 2 ^ 52 + x.epoch % 256 * 2 ^ 56)

/-- Table 6-6. -/
def State.memberWord (s : State) (off : Nat) : W64 :=
  let r := s.regs
  if off = 0 then
    word64 (r.memb.toNat * 2 + r.lead.toNat * 4 + s.hoist.isSome.toNat * 8 + ((List.range 512).filter fun m => r.mask.getLsbD m).length * 2 ^ 13
      + r.leader % 512 * 2 ^ 23 + r.gen.toNat * 2 ^ 32)
  else if off = 8 then word64 (r.hdl % 2 ^ 32)
  else if 0x40 ≤ off && off < 0x80 then word64 (bf r.mask (64 * ((off - 0x40) / 8)) 64)
  else 0

/-- Table 5-3. -/
def State.replicaWord (s : State) (k off : Nat) : W64 :=
  let x := FMap.getD s.reps k {}
  let m (j : Nat) : Nat := bf (FMap.getD x.mem j 0) 0 21
  if off = 0 then word64 (bf x.w0 11 13 * 2 ^ 11 + bf x.w0 63 1 * 2 ^ 63)
  else if off < 0x28 then word64 (m ((off - 8) / 4) + m ((off - 8) / 4 + 1) * 2 ^ 32)
  else if off = 0x30 then x.stamp
  else 0

/-- Table 12-4. -/
def State.queueWord (s : State) (q off : Nat) : W64 :=
  let x := s.queue q
  if off = 0 then x.ring else if off = 8 then x.wixp
  else if off = 0x10 then
    word64 (x.rix % 2 ^ 32 + x.size % 16 * 2 ^ 35 + x.qpri % 8 * 2 ^ 39 + x.ctx % 4096 * 2 ^ 42 + x.part % 16 * 2 ^ 54 + x.err.toNat * 2 ^ 61 + (s.stalled q).toNat * 2 ^ 62
      + x.en.toNat * 2 ^ 63)
  else 0

/-- Table 17-2. -/
def State.partWord (s : State) (p off : Nat) : W64 :=
  let x := s.part p
  if off = 0 then word64 (x.dies.toNat + x.err % 8 * 2 ^ 12 + x.stg.toNat * 2 ^ 16 + x.st % 8 * 2 ^ 60 + x.en.toNat * 2 ^ 63)
  else if off = 8 then word64 (x.nclus.toNat + x.topo.toNat * 2 ^ 32)
  else if off = 0x10 then x.evq
  else 0

/-- Small registers side by side in a word: `n` of `bits` bits, from the first. -/
def packRegs (bits n : Nat) (f : Nat → Nat) : W64 := word64 (((List.range n).map fun i => f i % 2 ^ bits * 2 ^ (bits * i)).sum)

/-- A word of the cache-die window; zero where no table defines one. -/
def State.cacheWord (s : State) (off : Nat) : W64 :=
  let r := s.regs
  if off = 0 then s.statusWord
  else if 0x100 ≤ off && off < 0x200 then word64 (bf (FMap.getD r.srRing ((off - 0x100) / 16) 0) (8 * (off % 16)) 64)
  else if off = 0x200 then word64 r.srNext
  else if 0x2000 ≤ off && off < 0x2400 then s.domWord ((off - 0x2000) / 0x40) (off % 0x40)
  else if 0x3000 ≤ off && off < 0x3080 then s.memberWord (off - 0x3000)
  else if 0x4000 ≤ off && off < 0x8000 then s.replicaWord ((off - 0x4000) / 0x40) (off % 0x40)
  else if 0x10000 ≤ off && off < 0x20000 then s.bucketWord ((off - 0x10000) / 16) (off % 16 = 8)
  else if 0x20000 ≤ off && off < 0x30000 then s.bucketWord (4096 + (off - 0x20000) / 16) (off % 16 = 8)
  else if 0x40000 ≤ off && off < 0x60000 then s.queueWord ((off - 0x40000) / 0x20) (off % 0x20)
  else if off = 0x60000 then word64 (r.ten.toNat * 2 ^ 15 + r.thot % 256 * 2 ^ 16 + r.minres % 256 * 2 ^ 24 + r.aget % 2 ^ 32 * 2 ^ 32)
  else if off = 0x60008 then word64 r.pmode.toNat
  else if off = 0x60010 then word64 (r.flmax % 2 ^ 32 + r.drmax % 2 ^ 32 * 2 ^ 32)
  else if 0x62000 ≤ off && off < 0x66000 then packRegs 32 2 fun i => (s.queue ((off - 0x62000) / 4 + i)).age % 8
  else if 0x66000 ≤ off && off < 0x67000 then packRegs 8 8 fun i => (s.ctx (off - 0x66000 + i)).w % 16
  else if 0x68000 ≤ off && off < 0x68C00 then packRegs 16 4 fun i => (s.core ((off - 0x68000) / 2 + i)).tmp % 256
  else if 0x70000 ≤ off && off < 0x78000 then
    let x := s.ctx ((off - 0x70000) / 8)
    word64 (x.hthr % 2 ^ 32 + x.hangEn.toNat * 2 ^ 63)
  else if off = 0x78000 then word64 (r.pdl % 2 ^ 32)
  else if 0x80000 ≤ off && off < 0x88000 then (s.ctx ((off - 0x80000) / 8)).ptr
  else if off = 0x88000 then r.plog
  else if off = 0x88008 then r.fwq
  else if 0x90000 ≤ off && off < 0x90180 then s.partWord ((off - 0x90000) / 0x20) (off % 0x20)
  else if off = 0x90200 then word64 (r.closed.toNat + r.fwdrop % 2 ^ 32 * 2 ^ 32)
  else 0

/-- A word of a stack's window (Table 4-6). -/
def State.stackWord (s : State) (st off : Nat) : W64 :=
  let k := s.base st
  if off = 0 then
    word64 (k.n % 16 + k.win % 256 * 2 ^ 4 + k.thr % 4096 * 2 ^ 12 + k.en.toNat * 2 ^ 31 + min 4095 k.movers.length * 2 ^ 32
      + min 4095 (k.movers.filter fun m => m.2.pin.isSome).length * 2 ^ 44 + k.lost % 256 * 2 ^ 56)
  else if off = 8 then word64 (k.cec % 2 ^ 32 + k.uec % 2 ^ 32 * 2 ^ 32)
  else if off = 0x10 then word64 (k.sper % 65536 + k.sen.toNat * 2 ^ 31)
  else 0

/-- A word of a port's registers (Table 6-3). -/
def State.portWord (s : State) (p off : Nat) : W64 :=
  let x := s.port p
  if off = 0 then
    word64 (x.st % 16 + x.lanes % 16 * 2 ^ 4 + x.vcmap % 4 * 2 ^ 8 + x.cap % 256 * 2 ^ 16 + cnt x.lim 3 % 256 * 2 ^ 32 + cnt x.lim 2 % 256 * 2 ^ 40
      + cnt x.lim 1 % 256 * 2 ^ 48 + cnt x.lim 0 % 256 * 2 ^ 56)
  else if off = 8 then word64 (x.fecc % 2 ^ 32 + x.lrty % 2 ^ 32 * 2 ^ 32)
  else if off = 0x10 then word64 (x.sgf % 2 ^ 32 + x.leak % 2 ^ 32 * 2 ^ 32)
  else if off = 0x18 then word64 x.qui.toNat
  else 0

/-- Where a window address leads (R380): an offset of BAR 0. -/
inductive Win
  | cache (off : Nat)
  | stack (st off : Nat)
  | io (port off : Nat)
  | none
  deriving DecidableEq, Repr

/-- The register word at an offset of BAR 0. -/
def winAt (bar : Nat) : Win :=
  let off := bar / 8 * 8
  if off < 0x1000000 then .cache off
  else if off < 0x1180000 then .stack ((off - 0x1000000) / 0x10000) (off % 0x10000)
  else if 0x2000000 ≤ off && off < 0x2040000 then
    let x := off % 0x10000
    if x < 0xC00 then .io (12 * ((off - 0x2000000) / 0x10000) + x / 0x100) (x % 0x100) else .none
  else .none

/-- A register word. -/
def State.winWord (s : State) (bar : Nat) : W64 :=
  match winAt bar with
  | .cache off => s.cacheWord off
  | .stack st off => s.stackWord st off
  | .io p off => s.portWord p off
  | .none => 0

/-- Read `n` bytes at an offset of BAR 0: another width than 4 or 8, or an offset that no table defines, reads as zero (R380). -/
def State.winRead (s : State) (bar n : Nat) : Nat :=
  if n = 8 then (s.winWord bar).toNat else if n = 4 then bf (s.winWord bar) (8 * (bar % 8 / 4 * 4)) 32 else 0

/-! ## What a write does -/

/-- Writing RATE sets the balance to BURST × 1,024 bytes (R121). -/
def State.setRate (s : State) (b rate : Nat) : State :=
  let x := s.bucketNow b
  s.setBucket b { x with rate := rate % 2 ^ 32, bal := ((max 1 x.burst * 1024 * 1000 : Nat) : Int) }

/-- A write of a bucket's first word: BURST and POL first. -/
def State.bucketPut (s : State) (b : Nat) (v m : W64) : State :=
  let x := s.bucketNow b
  let n := mergeWord (s.bucketWord b false) v m
  let s := s.setBucket b { x with pol := bf n 32 2, burst := bf n 48 16 }
  if covers m 0 32 then s.setRate b (bf n 0 32) else s

/-- Writing 1 to SRQ clears it and SRCNT (R391). -/
def State.srqClear (s : State) : State := { s with regs := { s.regs with srq := false, srcnt := 0 } }

/-- A write of the status register (R391). -/
def State.statusPut (s : State) (v m : W64) : State :=
  let n := mergeWord s.statusWord v m
  let s : State := { s with regs := { s.regs with rlim := bf n 4 2, scen := bt n 6 } }
  if bt (v &&& m) 1 then s.srqClear else s

/-- A write of a domain's registers: in a write that sets GO the other fields come first (R110, R397). -/
def State.domPut (s : State) (d off : Nat) (v m : W64) : State :=
  let x := FMap.getD s.doms d {}
  let n := mergeWord (s.domWord d off) v m
  if off = 0 then s.setDom d { x with slices := n }
  else if off < 0x38 then s.setDom d { x with hm := x.hm.set (off / 8 - 1) (word64 (bf n 0 46)) }
  else
    let s := s.setDom d { x with en := bt n 31, owner := bf n 52 4 }
    if bt (v &&& m) 29 then s.domainGo d else s

/-- A write of a replica set's description (Table 5-3). -/
def State.replicaPut (s : State) (k off : Nat) (v m : W64) : State :=
  let x := FMap.getD s.reps k {}
  let n := mergeWord (s.replicaWord k off) v m
  let put (y : Rep) : State := { s with reps := FMap.put s.reps k y {} }
  if off = 0 then put { x with w0 := word64 (bf n 11 13 * 2 ^ 11 + bf n 63 1 * 2 ^ 63) }
  else if off < 0x28 then
    let j := (off - 8) / 4
    let one (y : Rep) (i lo : Nat) : Rep := { y with mem := FMap.put y.mem i (BitVec.ofNat 32 (bf n lo 21)) 0 }
    put (one (one x j 0) (j + 1) 32)
  else s

/-- A write of a launch queue's registers (Table 12-4): a write of EN clears ERR. -/
def State.queuePut (s : State) (q off : Nat) (v m : W64) : State :=
  let x := s.queue q
  let n := mergeWord (s.queueWord q off) v m
  if off = 0 then s.setQueue q { x with ring := n }
  else if off = 8 then s.setQueue q { x with wixp := n }
  else if off = 0x10 && covers m 32 32 then
    (s.setQueue q { x with size := bf n 35 4, qpri := bf n 39 3, ctx := bf n 42 12, part := bf n 54 4 }).setEnable q (bt n 63)
  else s

/-- A write of a partition's registers: in a write that sets GO the other fields come first (Table 17-2, R389). -/
def State.partPut (s : State) (p off : Nat) (v m : W64) : State :=
  let x := s.part p
  let n := mergeWord (s.partWord p off) v m
  if off = 0 then
    let s := s.setPart p { x with stg := BitVec.ofNat 12 (bf n 16 12) }
    if bt (v &&& m) 15 then s.partitionGo p else s
  else if off = 0x10 then s.setPart p { x with evq := n }
  else s

/-- A write of registers that lie side by side, `k` of `bits` bits in a word: each that the mask covers. -/
def putRegs (bits k : Nat) (n m : W64) (f : State → Nat → Nat → State) (s : State) : State :=
  (List.range k).foldl (fun s i => if covers m (bits * i) bits then f s i (bf n (bits * i) bits) else s) s

/-- A write of a word of the cache-die window. -/
def State.cachePut (s : State) (off : Nat) (v m : W64) : State :=
  let r := s.regs
  let n := mergeWord (s.cacheWord off) v m
  if off = 0 then s.statusPut v m
  else if 0x2000 ≤ off && off < 0x2400 then s.domPut ((off - 0x2000) / 0x40) (off % 0x40) v m
  else if off = 0x3008 then { s with regs := { r with hdl := bf n 0 32 } }
  else if 0x4000 ≤ off && off < 0x8000 then s.replicaPut ((off - 0x4000) / 0x40) (off % 0x40) v m
  else if 0x10000 ≤ off && off < 0x20000 then (if off % 16 = 0 then s.bucketPut ((off - 0x10000) / 16) v m else s)
  else if 0x20000 ≤ off && off < 0x30000 then (if off % 16 = 0 then s.bucketPut (4096 + (off - 0x20000) / 16) v m else s)
  else if 0x40000 ≤ off && off < 0x60000 then s.queuePut ((off - 0x40000) / 0x20) (off % 0x20) v m
  else if off = 0x60000 then { s with regs := { r with ten := bt n 15, thot := bf n 16 8, minres := bf n 24 8, aget := bf n 32 32 } }
  else if off = 0x60008 then s.setPmode (BitVec.ofNat 16 (bf n 0 16))
  else if off = 0x60010 then { s with regs := { r with flmax := bf n 0 32, drmax := bf n 32 32 } }
  else if 0x66000 ≤ off && off < 0x67000 then
    putRegs 8 8 n m (fun s i x => s.setCtx (off - 0x66000 + i) { s.ctx (off - 0x66000 + i) with w := x % 16 }) s
  else if 0x70000 ≤ off && off < 0x78000 then
    let c := (off - 0x70000) / 8
    let x := s.ctx c
    s.setCtx c { x with hthr := bf n 0 32, hangEn := bt n 63, hangAt := if x.hangEn then x.hangAt else s.now }
  else if off = 0x78000 then { s with regs := { r with pdl := bf n 0 32 } }
  else if 0x80000 ≤ off && off < 0x88000 then
    let c := (off - 0x80000) / 8
    (s.setCtx c { s.ctx c with ptr := n }).loadDesc c
  else if off = 0x88000 then { s with regs := { r with plog := n } }
  else if off = 0x88008 then { s with regs := { r with fwq := n } }
  else if 0x90000 ≤ off && off < 0x90180 then s.partPut ((off - 0x90000) / 0x20) (off % 0x20) v m
  else s

/-- A write of a word of a stack's window (Table 4-6). -/
def State.stackPut (s : State) (st off : Nat) (v m : W64) : State :=
  let k := s.base st
  let n := mergeWord (s.stackWord st off) v m
  if off = 0 then s.setBase st { k with n := bf n 0 4, win := bf n 4 8, thr := bf n 12 12, en := bt n 31 }
  else if off = 8 then s.setBase st { k with cec := bf n 0 32, uec := bf n 32 32 }
  else if off = 0x10 then s.setBase st { k with sper := bf n 0 16, sen := bt n 31 }
  else s

/-- A write of a port's registers (Table 6-3): 1 in QUI quiesces the port, 0 lets a quiesced port train again (R139). (DEDUCED, log 96) -/
def State.portPut (s : State) (p off : Nat) (v m : W64) : State :=
  let x := s.port p
  let n := mergeWord (s.portWord p off) v m
  if off = 0 then (if covers m 32 32 then s.setLimits p (bf n 32 32) else s)
  else if off = 8 then s.setPort p { x with fecc := bf n 0 32, lrty := bf n 32 32 }
  else if off = 0x10 then s.setPort p { x with sgf := bf n 0 32, leak := bf n 32 32 }
  else if off = 0x18 then
    let q := bt n 0
    let s := s.setPort p { x with qui := q }
    if q && !x.qui then s.quiesce p
    else if !q && x.st = 4 && !x.dead then s.setPort p { s.port p with st := 1 }
    else s
  else s

/-- Write some bits of a register word. (DEDUCED, log 96) -/
def State.winPut (s : State) (bar : Nat) (v m : W64) : State :=
  match winAt bar with
  | .cache off => s.cachePut off v m
  | .stack st off => s.stackPut st off v m
  | .io p off => s.portPut p off v m
  | .none => s

/-- Write `n` bytes at an offset of BAR 0: another width than 4 or 8, or an offset that no table defines, ignores the write (R380). -/
def State.winWrite (s : State) (bar n : Nat) (v : Nat) : State :=
  if n = 8 then s.winPut bar (word64 v) (BitVec.allOnes 64)
  else if n = 4 then
    let sh := 8 * (bar % 8 / 4 * 4)
    s.winPut bar (word64 (v % 2 ^ 32 * 2 ^ sh)) (word64 ((2 ^ 32 - 1) * 2 ^ sh))
  else s

/-! ## The steps -/

/-- SRQ_CLEAR (R391). -/
def execSrqClear (s : State) : Host.Outcome State Fault Refusal := .next s.srqClear
/-- BUCKET_RATE_WRITE (R121): of a memory bucket, or with `fab` of a fabric bucket (R140). -/
def execBucketRateWrite (fab : Bool) (b rate : Nat) (s : State) : Host.Outcome State Fault Refusal :=
  .next (if b < 4096 then s.setRate (if fab then 4096 + b else b) rate else s)
/-- REGISTER_WRITE (R10, R380): the host writes `n` bytes at an offset of BAR 0, aligned. (DESIGN CHOICE, log 108) -/
def execRegisterWrite (bar n v : Nat) (s : State) : Host.Outcome State Fault Refusal := .next (if bar % n = 0 then s.winWrite bar n v else s)

end Sys2Proof.Machine
end

