-- ==== Sys2Proof/Machine/Local.lean ====
section
/-! DEFINITION. LDS and STS: the local spaces, the frame window and, on system cores, the management register windows (R153 to R159, R354, R380, R397). -/

namespace Sys2Proof.Machine

open Sys2Proof Sys2Proof.Decode

/-- The bytes of a width of Table 7-4. -/
def lwBytes : LWidth → Nat | .b32 => 4 | .b8 | .s8 => 1 | .b16 | .s16 => 2 | .b64 => 8 | .b128 => 16
/-- How a width becomes a register's value (Table 8-2 for LD has the same ones). -/
def lwTy : LWidth → Ty | .b32 => .b32 | .b8 => .b8 | .b16 => .b16 | .s8 => .s8 | .s16 => .s16 | .b64 => .b64 | .b128 => .b128

/-- The code of a space (Table 7-1). -/
def spaceCode : Space → Nat | .lane => 0 | .core => 1 | .clu => 2 | .chip => 3

/-- The pointer of an access: A itself with `.win`, else the space and A's low 32 bits (R159). -/
def localPtr (m : Mods.Local) (a : Nat) : W64 :=
  match m.space with
  | none => BitVec.ofNat 64 a
  | some sp => BitVec.ofNat 64 (2 ^ 61 + spaceCode sp * 2 ^ 56 + a % 2 ^ 32)

/-- The checks of a local access of some threads: Table 7-2, then late promises (R156, R168). -/
def localChecks (c : Iss) (n : Nat) (k : AKind) (xs : List (Nat × W64)) : Except Stop Unit :=
  match firstStop (fun x : Nat × W64 => match localCheck c x.2 n k true with | .ok _ => .ok () | .error r => .error (pointerFault c x.1 x.2 k r)) xs with
  | .error e => .error e
  | .ok _ => firstStop (fun x => latePromise c x.1 x.2 n) xs

/-- The place of a local access that its checks have passed. -/
def localAt (c : Iss) (p : W64) (n : Nat) (k : AKind) : Place := match localCheck c p n k true with | .ok x => x | .error _ => .label

/-- The offset in BAR 0 of a system core's window address (R380). -/
def barOf (a : Nat) : Nat := a - 0x10000000

/-- One thread's LDS: its bytes are read now and delivered when it returns (R157, R159). (DEDUCED, log 34) -/
def ldsOne (c : Iss) (d : Opd) (m : Mods.Local) (s : State) (x : Nat × W64) : State :=
  let n := lwBytes m.width
  let w := lwWidth m.width
  let org := originOf c x.1 x.2 0
  match localAt c x.2 n .read with
  | .sram _ a =>
    let r := localRead c.g.blk s a n
    issueLocal c d w (lwTy m.width) m.fmt org x.1 r.1 r.2.1 r.2.2.1 none r.2.2.2 (some a) s
  | .window a => issueLocal c d w (lwTy m.width) m.fmt org x.1 (leBytes n (s.winRead (barOf a) n)) false none none [] none s
  | .label => s

/-- An LDS of `.clu` or `.chip` waits where it overlaps an atomic or reduction held in the block's buffer (R180). -/
def ldsWaits (c : Iss) (n : Nat) (x : Nat × W64) : Except Stop Unit :=
  match localAt c x.2 n .read with
  | .sram sp a => if sp < 2 then .ok () else (match localWaits c a n with | some e => .error e | none => .ok ())
  | _ => .ok ()

/-- LDS (R159). -/
def execLds (m : Mods.Local) (o : Args) (s : State) : Host.Outcome State Fault Refusal :=
  issue o s false false fun c =>
    match start c (.lds m o) o with
    | .error x => .error x
    | .ok ts =>
      if ts.isEmpty then .ok c.s else
      let n := lwBytes m.width
      let xs := ts.map fun t => (t, localPtr m (srcs c (.lds m o) o t).2.1.v)
      match localGate c false with
      | some e => .error e
      | none =>
        match localChecks c n .read xs with
        | .error e => .error e
        | .ok _ =>
          match firstStop (ldsWaits c n) xs with
          | .error e => .error e
          | .ok _ => .ok (xs.foldl (ldsOne c o.d.x m) c.s)

/-- One thread's STS: a register window is written at once (R397); the rest as a store goes (R157). (DEDUCED, log 34) -/
def stsOne (c : Iss) (n : Nat) (s : Option State) (x : Store) : Option State :=
  match x.at_ with
  | .window a => if x.data.all Option.isSome then s.map fun s => s.winWrite (barOf a) n (leNat (x.data.map fun b => b.getD 0)) else s
  | _ => putStore c none s x

/-- STS (R159). -/
def execSts (m : Mods.Local) (o : Args) (s : State) : Host.Outcome State Fault Refusal :=
  issue o s false false fun c =>
    match start c (.sts m o) o with
    | .error x => .error x
    | .ok ts =>
      if ts.isEmpty then .ok c.s else
      let n := lwBytes m.width
      let xs := ts.map fun t => (t, localPtr m (srcs c (.sts m o) o t).2.1.v)
      match localGate c true with
      | some e => .error e
      | none =>
        match localChecks c n .write xs with
        | .error e => .error e
        | .ok _ =>
          let ys := xs.map fun x =>
            let b := (srcs c (.sts m o) o x.1).2.2
            (⟨x.1, x.2, localAt c x.2 n .write, storeBytes n b.v, b.mark, none⟩ : Store)
          if ys.any Store.waits then .error (.wait c.s)
          else fits c c.s ((lastWins ys).foldl (stsOne c n) (some c.s))

end Sys2Proof.Machine
end

