-- ==== Sys2Proof/Machine/Pointer.lean ====
section
/-! DEFINITION. Pointer instructions (R80 to R85). -/

namespace Sys2Proof.Machine

open Sys2Proof Sys2Proof.Decode

/-- A pointer instruction's result, or the reason of its fault. -/
def ptrRes (c : Iss) (t : Nat) (p : Nat) (r : Except Reason Nat) : Except Stop Res :=
  match r with
  | .ok v => .ok { v := v }
  | .error e => .error (pointerFault c t (BitVec.ofNat 64 p) .pointer e)

/-- PMK (R81). -/
def pmkR (win : Bool) (a b : Nat) : Except Reason Nat :=
  if win then
    if a / 4 ≠ 0 then .error .form else .ok (2 * 2 ^ 60 + a % 4 * 2 ^ 56 + b % 2 ^ 32)
  else if a / 2 ^ 36 ≠ 0 then .error .form
  else if b / 2 ^ 24 % 256 ≠ 0 then .error .straddle
  else .ok (2 ^ 60 + a % 2 ^ 36 * 2 ^ 24 + b % 2 ^ 24)

/-- PADD (R82): the sum is exact. -/
def paddR (uns : Bool) (a b : Nat) : Except Reason Nat :=
  let n : Int := if uns then b else sext 32 b
  let move (w : Nat) : Except Reason Nat :=
    let x : Int := (a % 2 ^ w : Nat) + n
    if x < 0 || 2 ^ w ≤ x then .error .straddle else .ok (a / 2 ^ w * 2 ^ w + x.toNat)
  if a / 2 ^ 60 = 1 then move 24 else if a / 2 ^ 60 = 2 then move 32 else .error .form

/-- PDIF (R83). -/
def pdifR (a b : Nat) : Except Reason Nat :=
  if a / 2 ^ 60 ≠ b / 2 ^ 60 then .error .form
  else if a / 2 ^ 60 = 1 then
    if a / 2 ^ 24 ≠ b / 2 ^ 24 then .error .form else .ok (((a % 2 ^ 24 : Nat) - (b % 2 ^ 24 : Nat) : Int) % 2 ^ 32).toNat
  else if a / 2 ^ 60 = 2 then
    if a / 2 ^ 32 ≠ b / 2 ^ 32 then .error .form else .ok (((a % 2 ^ 32 : Nat) - (b % 2 ^ 32 : Nat) : Int) % 2 ^ 32).toNat
  else .error .form

/-- The bits of a pointer field: lowest bit and width (Table 3-12). -/
def fieldBits : PField → Nat × Nat
  | .form => (60, 4) | .outer => (50, 10) | .middle => (38, 12) | .inner => (24, 14) | .off => (0, 24) | .space => (56, 4) | .addr => (0, 32)

/-- PGET (R84). -/
def pgetR (m : PField) (a : Nat) : Nat := a / 2 ^ (fieldBits m).1 % 2 ^ (fieldBits m).2

/-- PSET (R84). -/
def psetR (m : PField) (d a : Nat) : Except Reason Nat :=
  let put (lo w : Nat) : Nat := d - d / 2 ^ lo % 2 ^ w * 2 ^ lo + a % 2 ^ w * 2 ^ lo
  match m with
  | .form => .error .form
  | .outer => if d / 2 ^ 60 ≠ 1 then .error .form else if 2 ^ 10 ≤ a then .error .form else .ok (put 50 10)
  | .middle => if d / 2 ^ 60 ≠ 1 then .error .form else if 2 ^ 12 ≤ a then .error .form else .ok (put 38 12)
  | .inner => if d / 2 ^ 60 ≠ 1 then .error .form else if 2 ^ 14 ≤ a then .error .form else .ok (put 24 14)
  | .off => if d / 2 ^ 60 ≠ 1 then .error .form else if 2 ^ 24 ≤ a then .error .straddle else .ok (put 0 24)
  | .space => if d / 2 ^ 60 ≠ 2 then .error .form else if 3 < a then .error .form else .ok (put 56 4)
  | .addr => if d / 2 ^ 60 ≠ 2 then .error .form else .ok (put 0 32)

/-- PMK. (DESIGN CHOICE, log 126) -/
def execPmk (m : Bool) (o : Args) (s : State) := aluTrap (.pmk m o) o s fun c t _ a b => ptrRes c t a.v (pmkR m a.v b.v)
/-- PADD. -/
def execPadd (m : Bool) (o : Args) (s : State) := aluTrap (.padd m o) o s fun c t _ a b => ptrRes c t a.v (paddR m a.v b.v)
/-- PDIF. (DESIGN CHOICE, log 126) -/
def execPdif (o : Args) (s : State) := aluTrap (.pdif o) o s fun c t _ a b => ptrRes c t a.v (pdifR a.v b.v)
/-- PGET: it never faults. -/
def execPget (m : PField) (o : Args) (s : State) := alu (.pget m o) o s fun _ _ a _ => { v := pgetR m a.v }
/-- PSET. -/
def execPset (m : PField) (o : Args) (s : State) := aluTrap (.pset m o) o s fun c t d a _ => ptrRes c t d.v (psetR m d.v a.v)
/-- PFORM (R85): it never faults. -/
def execPform (m : BitVec 4) (o : Args) (s : State) := alu (.pform m o) o s fun _ _ a _ => { v := (decide (a.v / 2 ^ 60 = m.toNat)).toNat }

end Sys2Proof.Machine
end

