-- ==== Sys2Proof/Machine/Sfu.lean ====
section
/-! DEFINITION. Special functions (R240, R241, R404). The spec bounds the error of a result and leaves its bits open: the bits are those of
`Config.sfuBits` wherever they lie within the bound of an enclosure of the exact value, else the enclosure's middle, rounded. -/

namespace Sys2Proof.Machine

open Sys2Proof Sys2Proof.Decode

/-! ## Enclosures of exact values, in fixed point -/

/-- Fraction bits. -/
def fxBits : Nat := 160
/-- One. -/
def fxOne : Nat := 2 ^ fxBits
/-- The error that every series stays within. -/
def fxErr : Nat := 2 ^ 12
/-- ⌊(π/2)·2^192⌋. -/
def fxHalfPi : Nat := 0x1921fb54442d18469898cc51701b839a252049c1114cf98e8
/-- ⌊(ln 2)·2^160⌋. -/
def fxLn2 : Nat := 0xb17217f7d1cf79abc9e3b39803f2f6af40f34326
/-- ⌊(log₂ e)·2^160⌋. -/
def fxLog2e : Nat := 0x171547652b82fe1777d0ffda0d23a7d11d6aef551

/-- A value known to lie between lo/d and hi/d. -/
structure Encl where
  lo : Int
  hi : Int
  d  : Nat
  deriving DecidableEq, Repr

/-- The enclosure of a fixed-point result. -/
def encl (x : Int) : Encl := ⟨x - fxErr, x + fxErr, fxOne⟩
/-- The negated enclosure. -/
def Encl.neg (e : Encl) : Encl := ⟨-e.hi, -e.lo, e.d⟩

/-- Σ y^k/k! from the k-th term on. -/
def expSeries (y : Nat) : Nat → Nat → Nat → Nat → Nat
  | 0, _, _, acc => acc
  | n + 1, k, term, acc => let t := term * y / (fxOne * k); expSeries y n (k + 1) t (acc + t)
/-- 2^f for a fraction f, in fixed point. -/
def exp2Frac (f : Nat) : Nat := expSeries (f * fxLn2 / fxOne) 45 1 fxOne fxOne

/-- Alternating series of sine and cosine: the next term is −term·y²/((k+1)(k+2)). -/
def trigSeries (y2 : Nat) : Nat → Nat → Int → Int → Int
  | 0, _, _, acc => acc
  | n + 1, k, term, acc =>
    let t := -(term * y2 / (fxOne * ((k + 1) * (k + 2))))
    trigSeries y2 n (k + 2) t (acc + t)
/-- Cosine and sine of a fixed-point angle of at most π/2 either way. -/
def cosSin (y : Int) : Int × Int :=
  let y2 := (y * y / fxOne).toNat
  (trigSeries y2 30 0 fxOne fxOne, trigSeries y2 30 1 y y)
/-- Cosine and sine after `q` quarter turns. -/
def quarter (q : Nat) (x : Int × Int) : Int × Int :=
  match q % 4 with | 0 => x | 1 => (-x.2, x.1) | 2 => (-x.1, -x.2) | _ => (x.2, -x.1)

/-- Σ z^(2k+1)/(2k+1). -/
def atanhSeries (z2 : Nat) : Nat → Nat → Nat → Nat → Nat
  | 0, _, _, acc => acc
  | n + 1, k, p, acc => let p := p * z2 / fxOne; atanhSeries z2 n (k + 2) p (acc + p / k)
/-- log₂ of a mantissa in [1, 2). -/
def log2Frac (m : Nat) : Nat :=
  let z := (m - fxOne) * fxOne / (m + fxOne)
  2 * atanhSeries (z * z / fxOne) 55 3 z z * fxLog2e / fxOne

/-- ⌊√n⌋ from bit `k` down. -/
def isqrtFrom (n : Nat) : Nat → Nat → Nat
  | 0, r => if (r + 1) * (r + 1) ≤ n then r + 1 else r
  | k + 1, r => isqrtFrom n k (if (r + 2 ^ (k + 1)) * (r + 2 ^ (k + 1)) ≤ n then r + 2 ^ (k + 1) else r)
/-- ⌊√n⌋. -/
def isqrt (n : Nat) : Nat := isqrtFrom n (Nat.log2 n / 2) 0

/-- A finite FP32 value as fixed point, exact. -/
def fxOf (s : Bool) (n d : Nat) : Int := signedNum s (n * fxOne / d)

/-- e^(−y) for a nonnegative fixed-point y: a fraction t/d with 1 ≤ t·2^k/d < 2; beyond 2^8, as nearly nothing. -/
def expNeg (y : Nat) : Encl :=
  let z := y * fxLog2e / fxOne                      -- y·log₂ e
  if 2 ^ 9 * fxOne ≤ y then ⟨0, 1, 2 ^ 300⟩
  else
    let i := z / fxOne
    let f := z % fxOne
    -- 2^−(i + f) = 2^(1 − f) / 2^(i + 1)
    let t := if f = 0 then 2 * fxOne else exp2Frac (fxOne - f)
    ⟨(t : Int) - fxErr, t + fxErr, fxOne * 2 ^ (i + 1)⟩

/-! ## The functions -/

/-- The SFU functions, by the sub value of their opcode (R240). -/
inductive Sfu | frcp | frsq | fsqrt | fex2 | flg2 | fsin | fcos | ftanh | fsigm
  deriving DecidableEq, Repr

/-- The sub value of the opcode. -/
def Sfu.sub : Sfu → Nat
  | .frcp => 0 | .frsq => 1 | .fsqrt => 2 | .fex2 => 3 | .flg2 => 4 | .fsin => 5 | .fcos => 6 | .ftanh => 8 | .fsigm => 9

/-- The bound of a function for an input (R240): ulps of the exact result's binade, an absolute error in units of 2^−16, or any value in [−1, 1]. -/
inductive Bound | ulps (n : Nat) | abs16 | unit
  deriving DecidableEq, Repr

/-- R240's bounds. -/
def sfuBound (f : Sfu) (n d : Nat) : Bound :=
  match f with
  | .frcp | .frsq => .ulps 1
  | .fsqrt => .ulps 0
  | .fex2 | .flg2 => .ulps 2
  | .fsin | .fcos => if n ≤ 2 ^ 15 * d then .ulps 2 else if n ≤ 2 ^ 24 * d then .abs16 else .unit
  | .ftanh | .fsigm => .ulps 3

/-- The exact value of a function of a finite nonzero ±n/d, enclosed. -/
def sfuExact (f : Sfu) (s : Bool) (n d : Nat) : Encl :=
  let x := fxOf s n d
  let tiny := n * 2 ^ 14 < d
  match f with
  | .frcp => let y := signedNum s d; ⟨y, y, n⟩
  | .frsq => let r := isqrt (d * 2 ^ 400 / n); ⟨r, r + 1, 2 ^ 200⟩
  | .fsqrt => let r := isqrt (n * 2 ^ 400 / d); if r * r * d = n * 2 ^ 400 then ⟨r, r, 2 ^ 200⟩ else ⟨r, r + 1, 2 ^ 200⟩
  | .fex2 =>
    let i := x / fxOne
    let e := exp2Frac (x % fxOne).toNat
    if i < -400 then ⟨0, 1, 2 ^ 300⟩
    else if 0 ≤ i then ⟨((e : Int) - fxErr) * 2 ^ i.toNat, (e + fxErr) * 2 ^ i.toNat, fxOne⟩
    else ⟨(e : Int) - fxErr, e + fxErr, fxOne * 2 ^ (-i).toNat⟩
  | .flg2 =>
    let e := ilog2 n d
    let m := let p := frac2 (n * fxOne) (-e); p.1 / (p.2 * d)
    encl (e * fxOne + log2Frac m)
  | .fsin =>
    if tiny then
      -- between x − x³/6 and x
      let lo : Int := (6 * n * d * d : Nat) - (n * n * n : Nat)
      let r : Encl := ⟨lo, (6 * n * d * d : Nat), 6 * d * d * d⟩
      if s then r.neg else r
    else
      let k := (x * 2 ^ 32 + fxHalfPi / 2) / fxHalfPi
      encl (quarter (k % 4).toNat (cosSin (x - k * fxHalfPi / 2 ^ 32))).2
  | .fcos =>
    let k := (x * 2 ^ 32 + fxHalfPi / 2) / fxHalfPi
    encl (quarter (k % 4).toNat (cosSin (x - k * fxHalfPi / 2 ^ 32))).1
  | .ftanh =>
    let r : Encl :=
      if tiny then ⟨((3 * n * d * d : Nat) : Int) - (n * n * n : Nat), (3 * n * d * d : Nat), 3 * d * d * d⟩
      else
        let t := expNeg (2 * x.natAbs)
        -- (1 − t)/(1 + t), falling in t
        let at_ (u : Int) : Int := ((t.d : Int) - u) * fxOne / (t.d + u)
        ⟨at_ t.hi - 1, at_ t.lo + 1, fxOne⟩
    if s then r.neg else r
  | .fsigm =>
    let t := expNeg x.natAbs
    -- t/(1 + t) below zero, 1/(1 + t) above
    if s then ⟨t.lo * fxOne / (t.d + t.lo), t.hi * fxOne * 2 ^ 200 / (t.d + t.hi) / 2 ^ 200 + 1, fxOne⟩
    else ⟨(t.d : Int) * fxOne / (t.d + t.hi), (t.d : Int) * fxOne / (t.d + t.lo) + 1, fxOne⟩

/-- The exact cases of Table 10-9, for a finite nonzero input: a result that raises no inexact. (DESIGN CHOICE, log 21) -/
def sfuExactCase (f : Sfu) (s : Bool) (n d : Nat) : Option XV :=
  let e := ilog2 n d
  let p := frac2 1 e
  let pow2 := n * p.2 = p.1 * d
  match f with
  | .frcp => if pow2 && -126 ≤ -e && -e ≤ 127 then some (.fin s d n) else none
  | .frsq => if !s && pow2 && e % 2 = 0 then let q := frac2 1 (-(e / 2)); some (.fin false q.1 q.2) else none
  | .fsqrt => let r := isqrt (n * 2 ^ 400 / d); if !s && r * r * d = n * 2 ^ 400 then some (.fin false r (2 ^ 200)) else none
  | .fex2 =>
    if n % d = 0 then
      let k := signedNum s (n / d)
      if -149 ≤ k && k ≤ 127 then let q := frac2 1 k; some (.fin false q.1 q.2) else none
    else none
  | .flg2 => if !s && pow2 then some (ofInt e) else none
  | _ => none

/-- A candidate's bits are a finite FP32 value within the bound of every value of the enclosure. (DESIGN CHOICE, log 21) -/
def within (b : Bound) (e : Encl) (y : Nat) : Bool :=
  match decElem .f32 y with
  | .fin s n d =>
    let y := signedNum s n
    match b with
    | .unit => n ≤ d
    | .abs16 => [e.lo, e.hi].all fun v => (y * e.d - v * d).natAbs * 2 ^ 16 ≤ d * e.d
    | .ulps k =>
      let low := min e.lo.natAbs e.hi.natAbs
      let u := frac2 k (max (if low = 0 then -126 else ilog2 low e.d) (-126) - 23)
      [e.lo, e.hi].all fun v => (y * e.d - v * d).natAbs * u.2 ≤ u.1 * (d * e.d)
  | _ => false

/-- The result of a function of a finite nonzero value that is no exact case: bits and flags. (DESIGN CHOICE, log 21) -/
def sfuOpen (f : Sfu) (a : Nat) (s : Bool) (n d : Nat) : Nat × Nat :=
  let e := sfuExact f s n d
  let mid := e.lo + e.hi
  let r := deliver .f32 {} (.fin (mid < 0) mid.natAbs (2 * e.d))
  let y := (Config.sfuBits f.sub (BitVec.ofNat 32 a)).toNat
  if f = .fsqrt then (r.1, orFlags r.2 flInexact)
  else if f = .fex2 && 0 < fxOf s n d && 128 * d ≤ n then (0x7F800000, flOver + flInexact)
  else if within (sfuBound f n d) e y then (y, orFlags (r.2 &&& flUnder) flInexact)
  else (r.1, orFlags r.2 flInexact)

/-- An SFU function of FP32 bits: bits and flags (R240, Table 10-9). -/
def sfuR (f : Sfu) (a : Nat) : Nat × Nat :=
  let nanInv : Nat × Nat := (0x7FC00000, flInvalid)
  match decElem .f32 a with
  | .nan sg => (0x7FC00000, if sg then flInvalid else 0)
  | .rsv => nanInv
  | .inf s =>
    (match f with
     | .frcp => (if s then 0x80000000 else 0, 0)
     | .frsq => if s then nanInv else (0, 0)
     | .fsqrt => if s then nanInv else (0x7F800000, 0)
     | .fex2 => (if s then 0 else 0x7F800000, 0)
     | .flg2 => if s then nanInv else (0x7F800000, 0)
     | .fsin | .fcos => nanInv
     | .ftanh => (if s then 0xBF800000 else 0x3F800000, 0)
     | .fsigm => (if s then 0 else 0x3F800000, 0))
  | .fin s n d =>
    if n = 0 then
      (match f with
       | .frcp | .frsq => (if s then 0xFF800000 else 0x7F800000, 0)
       | .fsqrt | .fsin | .ftanh => (a, 0)
       | .fex2 | .fcos => (0x3F800000, 0)
       | .flg2 => (0xFF800000, 0)
       | .fsigm => (0x3F000000, 0))
    else if s && (f = .frsq || f = .fsqrt || f = .flg2) then nanInv
    else match sfuExactCase f s n d with
      | some x => ((deliver .f32 {} x).1, 0)
      | none => sfuOpen f a s n d

/-- FTWID (R241): cosine and sine of 2πk/2^n, each correctly rounded. -/
def ftwidR (k n : Nat) : Nat × Nat :=
  if 24 < n then (0x7FC00000 + 0x7FC00000 * 2 ^ 32, flInvalid)
  else
    let j := 4 * (k % 2 ^ n)
    let q := j / 2 ^ n
    let r := j % 2 ^ n
    if r = 0 then
      (match q with
       | 0 => (0x3F800000, 0) | 1 => (0x3F800000 * 2 ^ 32, 0) | 2 => (0xBF800000, 0) | _ => (0xBF800000 * 2 ^ 32, 0))
    else
      let x := quarter q (cosSin ((r * fxHalfPi / 2 ^ n / 2 ^ 32 : Nat)))
      let c := deliver .f32 {} (.fin (x.1 < 0) x.1.natAbs fxOne)
      let d := deliver .f32 {} (.fin (x.2 < 0) x.2.natAbs fxOne)
      (c.1 + d.1 * 2 ^ 32, orFlags c.2 d.2)

/-! ## Issue and arrival -/

/-- Issue an SFU instruction: sources are read now (R404), D is EMPTY until the result arrives (R240, R198). (DESIGN CHOICE, log 22) -/
def sfuIssue (i : Instr) (o : Args) (s : State) (f : Nat → Nat → Nat × Nat) : Host.Outcome State Fault Refusal :=
  issue o s false false fun c =>
    match start c i o with
    | .error x => .error x
    | .ok ts =>
      match destOf (spec i).d.width o.d.x with
      | none => .ok c.s
      | some d =>
        if ts = [] then .ok c.s else
        let vals := ts.map fun t =>
          let x := srcs c i o t
          let r := f x.2.1.v x.2.2.v
          let st := worst x
          (t, BitVec.ofNat 64 r.1, st, BitVec.ofNat 32 (if st = .pois then 0 else r.2))
        .ok ((c.s.setGrp c.gid (ts.foldl (fun g t => emptyOp g t (spec i).d.width o.d.x) c.g)).addOp (.sfu { gid := c.gid, dst := d, vals := vals, seq := c.s.nextId }))

/-- FRCP. -/
def execFrcp (o : Args) (s : State) := sfuIssue (.frcp o) o s fun a _ => sfuR .frcp a
/-- FRSQ. -/
def execFrsq (o : Args) (s : State) := sfuIssue (.frsq o) o s fun a _ => sfuR .frsq a
/-- FSQRT. -/
def execFsqrt (o : Args) (s : State) := sfuIssue (.fsqrt o) o s fun a _ => sfuR .fsqrt a
/-- FEX2. -/
def execFex2 (o : Args) (s : State) := sfuIssue (.fex2 o) o s fun a _ => sfuR .fex2 a
/-- FLG2. -/
def execFlg2 (o : Args) (s : State) := sfuIssue (.flg2 o) o s fun a _ => sfuR .flg2 a
/-- FSIN. -/
def execFsin (o : Args) (s : State) := sfuIssue (.fsin o) o s fun a _ => sfuR .fsin a
/-- FCOS. -/
def execFcos (o : Args) (s : State) := sfuIssue (.fcos o) o s fun a _ => sfuR .fcos a
/-- FTWID. -/
def execFtwid (o : Args) (s : State) := sfuIssue (.ftwid o) o s ftwidR
/-- FTANH. -/
def execFtanh (o : Args) (s : State) := sfuIssue (.ftanh o) o s fun a _ => sfuR .ftanh a
/-- FSIGM. -/
def execFsigm (o : Args) (s : State) := sfuIssue (.fsigm o) o s fun a _ => sfuR .fsigm a

/-- A step of the part: the state it leads to. -/
def stepTo (s : State) : Host.Outcome State Fault Refusal := .next s

/-- SFU_RESULT: the results of operation `id` arrive, those of one group in issue order (R220, R240). (DESIGN CHOICE, log 22) -/
def execSfuResult (id : Nat) (s : State) : Host.Outcome State Fault Refusal :=
  match FMap.find? s.ops id with
  | some (.sfu x) =>
    if s.ops.any fun p => match p.2 with | .sfu y => y.gid = x.gid && y.seq < x.seq | _ => false then stepTo s
    else
      let b := s.blk (s.grp x.gid).blk
      let put (g : Group) : Group := x.vals.foldl (fun (g : Group) v =>
        (deliverDest g v.1 x.dst { v := v.2.1.toNat, tag := 1, tag2 := 1, st := b.settle v.2.2.1 }).flag v.2.2.2.toNat) g
      stepTo { s.onGrp x.gid put with ops := FMap.erase s.ops id }
  | _ => stepTo s

end Sys2Proof.Machine
end

