-- ==== Sys2Proof/Machine/System.lean ====
section
/-! DEFINITION. Boot and power (R3, R392, R393). -/

namespace Sys2Proof.Machine

open Sys2Proof

/-! ## Boot (R392) -/

/-- The number of the unit that a service request of the module as a whole names: system core 0 (Table 3-8). -/
def sysUnit : Nat := 1777

/-- What a boot stage's training finds broken: a core, a port or a stack is retired, and boot goes on. -/
inductive Broken | core | port | stack
  deriving DecidableEq, Repr

/-- The kind of a broken unit, by number. (DEDUCED, log 98) -/
def brokenOf : Nat → Broken | 0 => .core | 1 => .port | _ => .stack

/-- A failure at stage 2 or 3 (R392). (DEDUCED, log 98) -/
def State.bootFail (s : State) (b : Broken) (n : Nat) : State :=
  match b with
  | .core => (s.onCore n fun c => { c with retired := true }).service 9 n
  | .port => (s.setPort n { s.port n with st := 0, dead := true }).service 9 sysUnit
  | .stack => (s.setBase n { s.base n with retired := true }).service 9 sysUnit

/-- Stage 4: zeros and fresh ECC in every sector of every stack, page tables absent. -/
def State.zeroHbm (s : State) : State := s.zeroBytes 0 (24 * 2 ^ 36)

/-- The links that boot has not retired begin to train (stage 5). -/
def State.startPorts (s : State) : State :=
  (List.range 48).foldl (fun s p => let x := s.port p; if x.st = 0 && !x.dead then s.setPort p { x with st := 1 } else s) s

/-- A stage is over (R392). (DEDUCED, log 98) -/
def State.nextStage (s : State) : State :=
  let at_ (s : State) (n : Nat) : State := { s with regs := { s.regs with bstage := n } }
  match s.regs.bstage with
  | 1 => if s.regs.badImage then s else at_ s 2
  | 2 => at_ s 3
  | 3 => at_ s 4
  | 4 => at_ s.zeroHbm.startPorts 5
  | 5 => let s := at_ s 6; { s with regs := { s.regs with ready := true } }
  | _ => s

/-- POWER_GOOD (R3, R392): the first makes `%cyc` zero and begins stage 1 with every partition in rotation mode; each later one ends the stage, or, with
`ok` false, reports its failure: an image at stage 1, a unit of a kind at stages 2 and 3. (DEDUCED, log 98) -/
def State.powerGood (s : State) (ok : Bool) (kind n : Nat) : State :=
  if !s.regs.power then { s with regs := { s.regs with power := true, cyc := 0, bstage := 1, pmode := 0xFFFF } }
  else if ok then s.nextStage
  else if s.regs.bstage = 1 then { s with regs := { s.regs with badImage := true } }.service 10 sysUnit
  else if s.regs.bstage = 2 || s.regs.bstage = 3 then s.bootFail (brokenOf kind) n
  else s

/-- POWER_GOOD. -/
def execPowerGood (ok : Bool) (kind n : Nat) (s : State) : Host.Outcome State Fault Refusal := .next (s.powerGood ok kind n)

/-! ## Shedding power (R393) -/

/-- The priority of a context: the highest of its blocks. (DEDUCED, log 97) -/
def State.ctxPrio (s : State) (c : Nat) : Nat := (s.ctxBlocks c).foldl (fun m k => max m (s.blk k).prio) 0

/-- The contexts that run and have blocks. -/
def State.busyCtxs (s : State) : List Nat := (s.ctxs.filter fun x => x.2.vst = .run && !x.2.stopping && !(s.ctxBlocks x.1).isEmpty).map fun x => x.1

/-- The running context of the lowest priority, the lowest number among equals. (DEDUCED, log 97) -/
def State.lowestCtx (s : State) : Option Nat :=
  match s.busyCtxs with
  | [] => none
  | c :: cs => some (cs.foldl (fun m x => if s.ctxPrio x < s.ctxPrio m then x else m) c)

/-- Halt a context in place, as PSTOP.halt does, as far as it goes now (R311, R379). -/
def State.shedCtx (s : State) (c : Nat) : State :=
  let s := (s.setCtx c { s.ctx c with stopping := true, starting := false, shedding := true }).stopOn .halt c
  if (s.ctxBlocks c).all fun k => s.reported .halt k then
    (s.setCtx c { s.ctx c with stopping := false, shedding := false, vst := .desched }).storeDesc c
  else s

/-- Halt the next context: the one whose halt is under way first. -/
def State.shedNext (s : State) : State :=
  match List.find? (fun (x : Nat × Ctx) => x.2.shedding) s.ctxs with
  | some x => s.shedCtx x.1
  | none => match s.lowestCtx with | some c => s.shedCtx c | none => s

/-- A die holds a block of a running context. -/
def State.dieRuns (s : State) (d : Nat) : Bool := s.blocks.any fun x => x.2.core < 1536 && dieOf x.2.core = d && x.2.live ≠ 0 && (s.ctx x.2.ctx).vst = .run

/-- POWER_SHED (R393): the step in force: none, issue spacing, contexts halted in place, idle dies in retention. (DEDUCED, log 97) -/
def State.powerShed (s : State) (n : Nat) : State :=
  if n = 0 then { s with regs := { s.regs with shed := false, retain := 0 } }
  else
    let s := if s.regs.shed then s else { s with regs := { s.regs with shed := true } }.service 8 sysUnit
    if n = 1 then s
    else if n = 2 then s.shedNext
    else { s with regs := { s.regs with retain := BitVec.ofNat 12 (((List.range 12).map fun d => if s.dieRuns d then 0 else 2 ^ d).sum) } }

/-- POWER_SHED. -/
def execPowerShed (step : Nat) (s : State) : Host.Outcome State Fault Refusal := .next (s.powerShed step)

end Sys2Proof.Machine
end

