-- ==== Sys2Proof/Machine/Dispatch.lean ====
section
/-! DEFINITION. The dispatch: one arm per constructor of Instr, each one direct call of its meaning. -/

namespace Sys2Proof.Machine

open Sys2Proof

def exec (i : Instr) (s : State) : Host.Outcome State Fault Refusal :=
  match i with
  | .iadd m o => Sys2Proof.Machine.execIadd m o s
  | .isub m o => Sys2Proof.Machine.execIsub m o s
  | .iaddc m o => Sys2Proof.Machine.execIaddc m o s
  | .imul m o => Sys2Proof.Machine.execImul m o s
  | .imulh m o => Sys2Proof.Machine.execImulh m o s
  | .imad m o => Sys2Proof.Machine.execImad m o s
  | .imin m o => Sys2Proof.Machine.execImin m o s
  | .imax m o => Sys2Proof.Machine.execImax m o s
  | .iabs m o => Sys2Proof.Machine.execIabs m o s
  | .ineg m o => Sys2Proof.Machine.execIneg m o s
  | .and m o => Sys2Proof.Machine.execAnd m o s
  | .or m o => Sys2Proof.Machine.execOr m o s
  | .xor m o => Sys2Proof.Machine.execXor m o s
  | .andn m o => Sys2Proof.Machine.execAndn m o s
  | .not m o => Sys2Proof.Machine.execNot m o s
  | .shl m o => Sys2Proof.Machine.execShl m o s
  | .shr m o => Sys2Proof.Machine.execShr m o s
  | .sar m o => Sys2Proof.Machine.execSar m o s
  | .rotl m o => Sys2Proof.Machine.execRotl m o s
  | .funs m o => Sys2Proof.Machine.execFuns m o s
  | .bfx m o => Sys2Proof.Machine.execBfx m o s
  | .bfi o => Sys2Proof.Machine.execBfi o s
  | .popc m o => Sys2Proof.Machine.execPopc m o s
  | .clz m o => Sys2Proof.Machine.execClz m o s
  | .ctz m o => Sys2Proof.Machine.execCtz m o s
  | .brev m o => Sys2Proof.Machine.execBrev m o s
  | .permb o => Sys2Proof.Machine.execPermb o s
  | .isel m o => Sys2Proof.Machine.execIsel m o s
  | .icmp m o => Sys2Proof.Machine.execIcmp m o s
  | .setp m o => Sys2Proof.Machine.execSetp m o s
  | .mov m o => Sys2Proof.Machine.execMov m o s
  | .movi m o => Sys2Proof.Machine.execMovi m o s
  | .lea m o => Sys2Proof.Machine.execLea m o s
  | .pmk m o => Sys2Proof.Machine.execPmk m o s
  | .padd m o => Sys2Proof.Machine.execPadd m o s
  | .pdif o => Sys2Proof.Machine.execPdif o s
  | .pget m o => Sys2Proof.Machine.execPget m o s
  | .pset m o => Sys2Proof.Machine.execPset m o s
  | .pform m o => Sys2Proof.Machine.execPform m o s
  | .fadd m o => Sys2Proof.Machine.execFadd m o s
  | .fsub m o => Sys2Proof.Machine.execFsub m o s
  | .fmul m o => Sys2Proof.Machine.execFmul m o s
  | .ffma m o => Sys2Proof.Machine.execFfma m o s
  | .ffms m o => Sys2Proof.Machine.execFfms m o s
  | .fnma m o => Sys2Proof.Machine.execFnma m o s
  | .fmin o => Sys2Proof.Machine.execFmin o s
  | .fmax o => Sys2Proof.Machine.execFmax o s
  | .fcmp m o => Sys2Proof.Machine.execFcmp m o s
  | .fclass o => Sys2Proof.Machine.execFclass o s
  | .frnd m o => Sys2Proof.Machine.execFrnd m o s
  | .fscale m o => Sys2Proof.Machine.execFscale m o s
  | .fexpo o => Sys2Proof.Machine.execFexpo o s
  | .dadd m o => Sys2Proof.Machine.execDadd m o s
  | .dmul m o => Sys2Proof.Machine.execDmul m o s
  | .dfma m o => Sys2Proof.Machine.execDfma m o s
  | .dcmp m o => Sys2Proof.Machine.execDcmp m o s
  | .hadd2 m o => Sys2Proof.Machine.execHadd2 m o s
  | .hmul2 m o => Sys2Proof.Machine.execHmul2 m o s
  | .hfma2 m o => Sys2Proof.Machine.execHfma2 m o s
  | .hmin2 m o => Sys2Proof.Machine.execHmin2 m o s
  | .hmax2 m o => Sys2Proof.Machine.execHmax2 m o s
  | .cvt m o => Sys2Proof.Machine.execCvt m o s
  | .cvti m o => Sys2Proof.Machine.execCvti m o s
  | .pack2 o => Sys2Proof.Machine.execPack2 o s
  | .unpk2 o => Sys2Proof.Machine.execUnpk2 o s
  | .scle m o => Sys2Proof.Machine.execScle m o s
  | .fmtset o => Sys2Proof.Machine.execFmtset o s
  | .fmtget o => Sys2Proof.Machine.execFmtget o s
  | .lmul m o => Sys2Proof.Machine.execLmul m o s
  | .ladd m o => Sys2Proof.Machine.execLadd m o s
  | .lcvt m o => Sys2Proof.Machine.execLcvt m o s
  | .frcp o => Sys2Proof.Machine.execFrcp o s
  | .frsq o => Sys2Proof.Machine.execFrsq o s
  | .fsqrt o => Sys2Proof.Machine.execFsqrt o s
  | .fex2 o => Sys2Proof.Machine.execFex2 o s
  | .flg2 o => Sys2Proof.Machine.execFlg2 o s
  | .fsin o => Sys2Proof.Machine.execFsin o s
  | .fcos o => Sys2Proof.Machine.execFcos o s
  | .ftwid o => Sys2Proof.Machine.execFtwid o s
  | .ftanh o => Sys2Proof.Machine.execFtanh o s
  | .fsigm o => Sys2Proof.Machine.execFsigm o s
  | .xch m o => Sys2Proof.Machine.execXch m o s
  | .bcst m o => Sys2Proof.Machine.execBcst m o s
  | .vote m o => Sys2Proof.Machine.execVote m o s
  | .gred m o => Sys2Proof.Machine.execGred m o s
  | .gscn m o => Sys2Proof.Machine.execGscn m o s
  | .elect o => Sys2Proof.Machine.execElect o s
  | .movpPack o => Sys2Proof.Machine.execMovpPack o s
  | .movpUnpk o => Sys2Proof.Machine.execMovpUnpk o s
  | .srd m o => Sys2Proof.Machine.execSrd m o s
  | .swr m o => Sys2Proof.Machine.execSwr m o s
  | .bra m o => Sys2Proof.Machine.execBra m o s
  | .brai o => Sys2Proof.Machine.execBrai o s
  | .call m o => Sys2Proof.Machine.execCall m o s
  | .ret o => Sys2Proof.Machine.execRet o s
  | .ifp o => Sys2Proof.Machine.execIfp o s
  | .elsp o => Sys2Proof.Machine.execElsp o s
  | .endp o => Sys2Proof.Machine.execEndp o s
  | .loopb o => Sys2Proof.Machine.execLoopb o s
  | .loope o => Sys2Proof.Machine.execLoope o s
  | .brkp o => Sys2Proof.Machine.execBrkp o s
  | .contp o => Sys2Proof.Machine.execContp o s
  | .exit o => Sys2Proof.Machine.execExit o s
  | .nop o => Sys2Proof.Machine.execNop o s
  | .regn o => Sys2Proof.Machine.execRegn o s
  | .yield o => Sys2Proof.Machine.execYield o s
  | .ld m o => Sys2Proof.Machine.execLd m o s
  | .st m o => Sys2Proof.Machine.execSt m o s
  | .ldv m o => Sys2Proof.Machine.execLdv m o s
  | .stv m o => Sys2Proof.Machine.execStv m o s
  | .lds m o => Sys2Proof.Machine.execLds m o s
  | .sts m o => Sys2Proof.Machine.execSts m o s
  | .atom m o => Sys2Proof.Machine.execAtom m o s
  | .red m o => Sys2Proof.Machine.execRed m o s
  | .pref m o => Sys2Proof.Machine.execPref m o s
  | .wbr m o => Sys2Proof.Machine.execWbr m o s
  | .invl1 m o => Sys2Proof.Machine.execInvl1 m o s
  | .icinv m o => Sys2Proof.Machine.execIcinv m o s
  | .fence m o => Sys2Proof.Machine.execFence m o s
  | .commit m o => Sys2Proof.Machine.execCommit m o s
  | .cpy o => Sys2Proof.Machine.execCpy o s
  | .cpys o => Sys2Proof.Machine.execCpys o s
  | .sleept m o => Sys2Proof.Machine.execSleept m o s
  | .waitc m o => Sys2Proof.Machine.execWaitc m o s
  | .mma m o => Sys2Proof.Machine.execMma m o s
  | .mdist m o => Sys2Proof.Machine.execMdist m o s
  | .mtopkReg m o => Sys2Proof.Machine.execMtopkReg m o s
  | .mtopkMem m o => Sys2Proof.Machine.execMtopkMem m o s
  | .mzero m o => Sys2Proof.Machine.execMzero m o s
  | .mldt m o => Sys2Proof.Machine.execMldt m o s
  | .mstt o => Sys2Proof.Machine.execMstt o s
  | .mdrn m o => Sys2Proof.Machine.execMdrn m o s
  | .magr o => Sys2Proof.Machine.execMagr o s
  | .magrGet o => Sys2Proof.Machine.execMagrGet o s
  | .mprog o => Sys2Proof.Machine.execMprog o s
  | .mbatch o => Sys2Proof.Machine.execMbatch o s
  | .mwait o => Sys2Proof.Machine.execMwait o s
  | .mpair m o => Sys2Proof.Machine.execMpair m o s
  | .mfree m o => Sys2Proof.Machine.execMfree m o s
  | .binit m o => Sys2Proof.Machine.execBinit m o s
  | .arv m o => Sys2Proof.Machine.execArv m o s
  | .wtb m o => Sys2Proof.Machine.execWtb m o s
  | .arw m o => Sys2Proof.Machine.execArw m o s
  | .watch m o => Sys2Proof.Machine.execWatch m o s
  | .rsend o => Sys2Proof.Machine.execRsend o s
  | .rpost o => Sys2Proof.Machine.execRpost o s
  | .rflush o => Sys2Proof.Machine.execRflush o s
  | .rstat m o => Sys2Proof.Machine.execRstat m o s
  | .coll m o => Sys2Proof.Machine.execColl m o s
  | .launch m o => Sys2Proof.Machine.execLaunch m o s
  | .mbxrd m o => Sys2Proof.Machine.execMbxrd m o s
  | .mbxfwd m o => Sys2Proof.Machine.execMbxfwd m o s
  | .pennant o => Sys2Proof.Machine.execPennant o s
  | .trap o => Sys2Proof.Machine.execTrap o s
  | .rett m o => Sys2Proof.Machine.execRett m o s
  | .halt o => Sys2Proof.Machine.execHalt o s
  | .linv m o => Sys2Proof.Machine.execLinv m o s
  | .lsync o => Sys2Proof.Machine.execLsync o s
  | .ltwr m o => Sys2Proof.Machine.execLtwr m o s
  | .gateClose m o => Sys2Proof.Machine.execGateClose m o s
  | .gateOpen m o => Sys2Proof.Machine.execGateOpen m o s
  | .reloc o => Sys2Proof.Machine.execReloc o s
  | .hoistJoin o => Sys2Proof.Machine.execHoistJoin o s
  | .hoistLeave o => Sys2Proof.Machine.execHoistLeave o s
  | .hoistEvict o => Sys2Proof.Machine.execHoistEvict o s
  | .hoistRekey o => Sys2Proof.Machine.execHoistRekey o s
  | .eqpop m o => Sys2Proof.Machine.execEqpop m o s
  | .pstopSave o => Sys2Proof.Machine.execPstopSave o s
  | .pstopHalt o => Sys2Proof.Machine.execPstopHalt o s
  | .pstopPause o => Sys2Proof.Machine.execPstopPause o s
  | .pstopReset o => Sys2Proof.Machine.execPstopReset o s
  | .pstart o => Sys2Proof.Machine.execPstart o s
  | .sfuResult id => Sys2Proof.Machine.execSfuResult id s
  | .mmaChunk id => Sys2Proof.Machine.execMmaChunk id s
  | .engineOpComplete id part => Sys2Proof.Machine.execEngineOpComplete id part s
  | .barrierWake id => Sys2Proof.Machine.execBarrierWake id s
  | .watchReport id => Sys2Proof.Machine.execWatchReport id s
  | .sendListDepart id => Sys2Proof.Machine.execSendListDepart id s
  | .tokenArrive id => Sys2Proof.Machine.execTokenArrive id s
  | .tokenReturn id => Sys2Proof.Machine.execTokenReturn id s
  | .endMarkerArrive id => Sys2Proof.Machine.execEndMarkerArrive id s
  | .tokenDispositionAck id => Sys2Proof.Machine.execTokenDispositionAck id s
  | .collContribution id => Sys2Proof.Machine.execCollContribution id s
  | .launchComplete id => Sys2Proof.Machine.execLaunchComplete id s
  | .relocDone st found => Sys2Proof.Machine.execRelocDone st found s
  | .hoistBarrier mask secret gen leader => Sys2Proof.Machine.execHoistBarrier mask secret gen leader s
  | .hoistDeadline m => Sys2Proof.Machine.execHoistDeadline m s
  | .runSelect id => Sys2Proof.Machine.execRunSelect id s
  | .icacheFill id => Sys2Proof.Machine.execIcacheFill id s
  | .loadReturn x => Sys2Proof.Machine.execLoadReturn x s
  | .atomReturn id => Sys2Proof.Machine.execAtomReturn id s
  | .contextLevelLookup x => Sys2Proof.Machine.execContextLevelLookup x s
  | .portLevelLookup x => Sys2Proof.Machine.execPortLevelLookup x s
  | .chipLevelLookup x => Sys2Proof.Machine.execChipLevelLookup x s
  | .stackLevelLookup x => Sys2Proof.Machine.execStackLevelLookup x s
  | .gatedReread id => Sys2Proof.Machine.execGatedReread id s
  | .gateTimeout id => Sys2Proof.Machine.execGateTimeout id s
  | .grantRequest x => Sys2Proof.Machine.execGrantRequest x s
  | .writeApply id => Sys2Proof.Machine.execWriteApply id s
  | .homeSliceAtomic id => Sys2Proof.Machine.execHomeSliceAtomic id s
  | .l2WriteBack evict id => Sys2Proof.Machine.execL2WriteBack evict id s
  | .replicaSequence id => Sys2Proof.Machine.execReplicaSequence id s
  | .bucketRelease id => Sys2Proof.Machine.execBucketRelease id s
  | .wcqDrain id => Sys2Proof.Machine.execWcqDrain id s
  | .storeBufferDrain id => Sys2Proof.Machine.execStoreBufferDrain id s
  | .sideLogEnter id => Sys2Proof.Machine.execSideLogEnter id s
  | .faultResponse dst => Sys2Proof.Machine.execFaultResponse dst s
  | .faultQueueRidx dst => Sys2Proof.Machine.execFaultQueueRidx dst s
  | .copyComplete id first n => Sys2Proof.Machine.execCopyComplete id first n s
  | .sleepWake id => Sys2Proof.Machine.execSleepWake id s
  | .hangDetect id => Sys2Proof.Machine.execHangDetect id s
  | .peerDeadline m => Sys2Proof.Machine.execPeerDeadline m s
  | .flowFlitIngress port fec lo hi early body => Sys2Proof.Machine.execFlowFlitIngress port fec lo hi early body s
  | .sealGroupVerify mine m id => Sys2Proof.Machine.execSealGroupVerify mine m id s
  | .sealGroupFail mine m id => Sys2Proof.Machine.execSealGroupFail mine m id s
  | .releasePacketApply m seq => Sys2Proof.Machine.execReleasePacketApply m seq s
  | .sealGroupClose m vc => Sys2Proof.Machine.execSealGroupClose m vc s
  | .linkReplay port => Sys2Proof.Machine.execLinkReplay port s
  | .creditReturn port freed => Sys2Proof.Machine.execCreditReturn port freed s
  | .creditAudit port sent freed => Sys2Proof.Machine.execCreditAudit port sent freed s
  | .reachabilityNotice m plane => Sys2Proof.Machine.execReachabilityNotice m plane s
  | .portDegrade port lanes cap => Sys2Proof.Machine.execPortDegrade port lanes cap s
  | .portQuiesce port => Sys2Proof.Machine.execPortQuiesce port s
  | .spdmSession m ok => Sys2Proof.Machine.execSpdmSession m ok s
  | .domainSwitchGo id => Sys2Proof.Machine.execDomainSwitchGo id s
  | .domainWalkBegin id => Sys2Proof.Machine.execDomainWalkBegin id s
  | .domainSwitchEnd id => Sys2Proof.Machine.execDomainSwitchEnd id s
  | .domainChangedReplay id => Sys2Proof.Machine.execDomainChangedReplay id s
  | .pinExpiry st key => Sys2Proof.Machine.execPinExpiry st key s
  | .patrolScrub st a found => Sys2Proof.Machine.execPatrolScrub st a found s
  | .frontEndDeliver id => Sys2Proof.Machine.execFrontEndDeliver id s
  | .doorbellWrite id wix => Sys2Proof.Machine.execDoorbellWrite id wix s
  | .queueAgeing id => Sys2Proof.Machine.execQueueAgeing id s
  | .groupAgeing id => Sys2Proof.Machine.execGroupAgeing id s
  | .drainTimeout id => Sys2Proof.Machine.execDrainTimeout id s
  | .thermalMigration x => Sys2Proof.Machine.execThermalMigration x s
  | .resourceClaim bytes id => Sys2Proof.Machine.execResourceClaim bytes id s
  | .saveAreaFreed id => Sys2Proof.Machine.execSaveAreaFreed id s
  | .restoreRetry id => Sys2Proof.Machine.execRestoreRetry id s
  | .scanPair id => Sys2Proof.Machine.execScanPair id s
  | .scanComplete die ok0 ok1 => Sys2Proof.Machine.execScanComplete die ok0 ok1 s
  | .partitionChange go p => Sys2Proof.Machine.execPartitionChange go p s
  | .powerShed step => Sys2Proof.Machine.execPowerShed step s
  | .powerGood ok kind n => Sys2Proof.Machine.execPowerGood ok kind n s
  | .srqClear => Sys2Proof.Machine.execSrqClear s
  | .ovfClear dst => Sys2Proof.Machine.execOvfClear dst s
  | .bucketRateWrite fab b rate => Sys2Proof.Machine.execBucketRateWrite fab b rate s
  | .portLimitWrite port v => Sys2Proof.Machine.execPortLimitWrite port v s
  | .queueSizeWrite id size => Sys2Proof.Machine.execQueueSizeWrite id size s
  | .registerWrite bar n v => Sys2Proof.Machine.execRegisterWrite bar n v s
  | .moduleNumberAssignment n => Sys2Proof.Machine.execModuleNumberAssignment n s
  | .portTrainingDone port => Sys2Proof.Machine.execPortTrainingDone port s
  | .writeAcknowledgement id => Sys2Proof.Machine.execWriteAcknowledgement id s
  | .queueEnableWrite id en => Sys2Proof.Machine.execQueueEnableWrite id en s

end Sys2Proof.Machine
end

