-- ==== Sys2Proof/Machine/Fetch.lean ====
section
/-! DEFINITION. Fetching an instruction of a kernel's code (R27 to R30, R50, R51), the traps of its decode (R46), and the placing of a word for the next step. -/

namespace Sys2Proof.Machine

open Sys2Proof Sys2Proof.Decode

/-- The cycle counter moves on (R3). (DESIGN CHOICE, log 4; DESIGN CHOICE, log 110) -/
def State.tick (s : State) : State := { s with regs := { s.regs with cyc := s.regs.cyc + BitVec.ofNat 64 s.pace } }

/-- The fetch line of an index (R28). -/
def linePtr (g : Group) : W64 := pPlus g.code (192 * (g.pc.toNat / 16))

/-- The instruction word of an index in its line (R28): three little-endian words. -/
def wordAt (bits : BitVec 1536) (pc : W32) : W96 := BitVec.ofNat 96 (bf bits (96 * (pc.toNat % 16)) 96)

/-- The line of a core's instruction cache that holds the next instruction of a group (R50). -/
def State.fetchLine (s : State) (gid : Nat) : Option ILine :=
  let g := s.grp gid
  (s.core (unitOfGid gid)).icache.find? fun l => l.ctx = (s.blk g.blk).ctx && l.ptr = linePtr g

/-- What the decode checks know of a group (R38, R48). -/
def State.envOf (s : State) (gid : Nat) : Env := ⟨isSys (unitOfGid gid), (s.grp gid).allot, (s.blk (s.grp gid).blk).hdr.cbsz⟩

/-- The trap of a failing decode check (R46). -/
def trapOfErr (e : DErr) : Trap :=
  { cause := match e.trap with | .illegal => .illegal | .privileged => .privileged | .unitAbsent => .unitAbsent, detail := e.detail, field := e.field }

/-- The group is held by a refused request of its own: a load, an atomic, a fetch, a range lookup (R361, R362, R188). (DEDUCED, log 10) -/
def State.heldByFault (s : State) (gid : Nat) : Bool :=
  s.reqs.any fun x => match x.2.stage with
    | .refused _ true =>
      (match x.2.client with
       | .load op => (match FMap.find? s.ops op with | some (.load o) => o.gid = gid | _ => false)
       | .write w => s.wrs.any fun y => y.1 = w && y.2.gids.contains gid && (match y.2.data with | .atom _ _ _ _ => true | _ => false)
       | .fetch k => k = gid
       | .range k => k = gid
       | _ => false)
    | _ => false

/-- A fetch of the line is under way at a core. (DEDUCED, log 10) -/
def State.fetching (s : State) (unit ctx : Nat) (p : W64) : Bool :=
  s.reqs.any fun x => match x.2.client with
    | .fetch _ => x.2.core = unit && gCtx x.2.org.guidon = ctx && x.2.org.ptr = p
    | _ => false

/-- The level-0 check of a group's next line (R54, R57): its code base is a label stack, and the line lies in its region. -/
def State.lineFault (s : State) (gid : Nat) : Option Trap :=
  let g := s.grp gid
  let bad (r : Reason) : Option Trap :=
    let o : Origin := { ptr := linePtr g, pc := g.pc, guidon := s.groupGuidon gid 0, unit := unitNo (unitOfGid gid), slot := slotOfGid gid }
    some { cause := .pointerFault, frec := faultRec o .fetch ⟨0, r, 0, s.modNo, false, 0⟩ }
  if pForm g.code ≠ 1 then bad .form
  else if 2 ^ 24 < pOff g.code + 192 * (g.pc.toNat / 16 + 1) then bad .straddle
  else none

/-- Ask for a group's next line (R30). The fetch does not search the core's write-combining queue: R119 speaks of loads. (DESIGN CHOICE, log 125) -/
def State.askLine (s : State) (gid : Nat) : State :=
  let g := s.grp gid
  let u := unitOfGid gid
  if s.fetching u (s.blk g.blk).ctx (linePtr g) then s
  else s.newReq
    { client := .fetch gid, kind := .fetch, ptr := linePtr g, len := 192, stage := .context, core := u
      org := { ptr := linePtr g, pc := g.pc, guidon := s.groupGuidon gid 0, unit := unitNo u, slot := slotOfGid gid } }

/-- A line that a hit has touched is the most recently used (R50). -/
def State.touchLine (s : State) (gid : Nat) (l : ILine) : State :=
  s.onCore (unitOfGid gid) fun c => { c with icache := c.icache.map fun x => if x.ctx = l.ctx && x.ptr = l.ptr then { x with used := s.now } else x }

/-! ## The constant bank (R20) -/

/-- The operands of an instruction that lie in the constant bank: offset and bytes. -/
def bankParts (i : Instr) : List (Nat × Nat) :=
  let sp := spec i
  match argsOf i with
  | none => []
  | some o => [(o.d.x, sp.d.width / 8), (o.a.x, sp.a.width / 8), (o.b.x, match i with | .cpys _ => 32 | _ => sp.b.width / 8)].filterMap fun x =>
      match x.1 with | .cb off => some (off.toNat, x.2) | _ => none

/-- A part of the constant bank is read for an instruction: its bytes stand in the block as they are now, its request gone. -/
def State.bankRead (s : State) (gid off n : Nat) : Except Stop State :=
  let g := s.grp gid
  let c : Iss := ⟨s, gid, g, s.blk g.blk⟩
  let p := pPlus c.b.cbank off
  match boundLabel c 0 c.b.cbank .read (off + n) with
  | .error x => .error x
  | .ok _ =>
  match issueReadsAs c 0 n [(0, p)] with
  | .error x => .error x
  | .ok bs =>
    let s := match s.issueReq gid p with | some x => s.dropFam x.2.fam | none => s
    .ok (s.onBlk g.blk fun b => { b with bank := ((bs.head?).getD []).zipIdx.foldl (fun m x => FMap.put m (off + x.2) x.1.1 0) b.bank })

/-- Read, for the instruction that a group issues, what it takes from its constant bank: through every level, at each use; where a level holds the read up,
or it leads to another module, the instruction waits at issue. (DEDUCED, log 75) -/
def State.bankTurn (s : State) (gid : Nat) (i : Instr) : Except Stop State :=
  (bankParts i).foldl (fun s x => match s with | .ok s => s.bankRead gid x.1 x.2 | e => e) (.ok s)

/-- What a fetch comes to: an instruction to execute in a state, or a state in which none was. -/
inductive Fetched
  | exec (i : Instr) (s : State)
  | done (s : State)
  deriving DecidableEq, Repr

/-- Take the trap that has become due in a group (R352). -/
def State.takeDue (s : State) (gid : Nat) (t : Trap) (rest : List Trap) : State :=
  (s.onGrp gid fun g => { g with due := rest }).takeTrap gid t

/-- Reach the next instruction of the group that holds the lane: a trap that is due, a refused request that holds it, the end of its code
(R29), a line to be filled, a word that a decode check refuses (R46), or the instruction. (DESIGN CHOICE, log 12) -/
def State.fetch (s : State) (gid : Nat) : Fetched :=
  let g := s.grp gid
  match g.due with
  | t :: rest => .done (s.takeDue gid t rest)
  | [] =>
    if g.wait ≠ .none || s.heldByFault gid then .done (s.endRun gid)
    else if 16 * g.len.toNat ≤ g.pc.toNat then .done (s.takeTrap gid { cause := .fetchRange })
    else match s.lineFault gid with
    | some t => .done (s.takeTrap gid t)
    | none =>
      match s.fetchLine gid with
      | none => .done ((s.askLine gid).endRun gid)
      | some l =>
        match decodeWord (s.envOf gid) (wordAt l.bits g.pc) with
        | .error e => .done (s.takeTrap gid (trapOfErr e))
        | .ok i =>
          match s.bankTurn gid i with
          | .ok s' => .exec i (s'.touchLine gid l)
          | .error x => .done (s.stopped gid x)

/-! ## Placing a word -/

/-- The unit that `withFetchWord` places its group on: a system core for the supervisor opcodes, which run nowhere else (R48), else compute core 0. (DESIGN CHOICE, log 7) -/
def wordUnit (w : W96) : Nat := if isSup (field w 84 12) then 1536 else 0

/-- Place an instruction word where the next step fetches: a group of one thread in slot 0 of a unit that holds lane 0, its turn, with the
word as the first of its code and the code's one line in the instruction cache. (DESIGN CHOICE, log 7) -/
def State.placeWord (s : State) (w : W96) : State :=
  let u := wordUnit w
  let g : Group := { blk := s.nextId, allot := 128, code := 0x1000000000000000, len := 1 }
  let s := { s with
    groups := FMap.insert s.groups (u * 256) g
    blocks := FMap.insert s.blocks s.nextId { core := u, part := if isSys u then 15 else 0, hdr := { regs := 128, cbsz := 65536 }, groups := [u * 256], live := 1 }
    lanes := FMap.insert s.lanes (u * 32) { slot := some 0 }
    agenda := [], cur := u * 32, nextId := s.nextId + 1 }
  let line : ILine := { ctx := 0, ptr := 0x1000000000000000, bits := BitVec.ofNat 1536 w.toNat }
  s.onCore u fun c => { c with icache := line :: c.icache.filter (fun l => !(l.ctx = 0 && l.ptr = 0x1000000000000000)) }

end Sys2Proof.Machine
end

