-- ==== Sys2Proof/Machine/Step.lean ====
section
/-! DEFINITION. One step of the module: the head of the agenda, or the lane whose turn it is. -/

namespace Sys2Proof.Machine

open Sys2Proof

/-- The lane whose turn it is issues for the group that holds it, or chooses a run. (DESIGN CHOICE, log 1) -/
def stepLane (s : State) : Host.Outcome State Fault Refusal :=
  match s.issuer with
  | none => .next (s.laneTurn s.cur)
  | some gid =>
    match s.fetch gid with
    | .exec i s' => exec i s'
    | .done s' => .next s'

/-- One step: an agendum is taken if there is one, else the lane `cur` has its turn; `pace` cycles pass with it. (DESIGN CHOICE, log 1; DESIGN CHOICE, log 7) -/
def step (s : State) : Host.Outcome State Fault Refusal :=
  match s.agenda with
  | .event i :: rest =>
    if (Decode.code i).isSome then .refused .notAnEvent
    else exec i { s.tick with agenda := rest }
  | .turn l :: rest => .next { s.tick with agenda := rest, cur := l }
  | [] => stepLane s.tick

/-- The state with an instruction where the next step fetches: `w` gives its first `nbits` bits, the bits above are zero. (DESIGN CHOICE, log 7) -/
def State.withFetchWord (s : State) (nbits w : Nat) : State := s.placeWord (BitVec.ofNat 96 (w % 2 ^ nbits))

end Sys2Proof.Machine
end

