-- ==== Sys2Proof/Safety.lean ====
section
/-! DEFINITION. What counts as a safe run, and the terms in which the statements speak of an instruction that is to issue: its issue context,
the checks of R203 it passes, and the results it delivers. -/

namespace Sys2Proof.Safety

open Sys2Proof Sys2Proof.Machine Sys2Proof.Decode

/-- A state is safe when its next step ends in a next state: no fault, no refusal. -/
def StepsOn (s : Machine.State) : Prop := ∃ t, Machine.step s = Host.Outcome.next t

/-- A safe run: every state that `n` steps reach steps on. -/
def Safe (n : Nat) (s : Machine.State) : Prop := ∃ t, core.run n s = Host.Outcome.next t

/-! ## An instruction that is to issue -/

/-- What group `gid` issues with: the state, the group, its block. -/
def issOf (s : State) (gid : Nat) : Iss := ⟨s, gid, s.grp gid, s.blk (s.grp gid).blk⟩

/-- A value that its reader takes: not EMPTY (R198), its tag accepted (R195), not TENT where a TENT value waits (R199), not POIS where poison
is consumed (R200). -/
def Taken (role : Role) (x : Val) : Prop :=
  x.st ≠ .empty ∧ tagFits role.fmt x = true ∧ (role.waits = true → x.st.isTent = false) ∧ (role.consumes = true → x.st ≠ .pois)

/-- The checks of R203 find nothing: the guard is neither TENT nor POIS for any of its readers, every reader takes every source, and the
destination awaits no other producer. -/
def Passes (c : Iss) (h : Hdr) (rs : List Read) (dst : Bool) : Prop :=
  (∀ t ∈ guardThreads c h, (guardAt c h t).2.isTent = false ∧ (guardAt c h t).2 ≠ .pois) ∧
  (∀ r ∈ rs, ∀ x ∈ r.vals, Taken r.role x.2) ∧ dst = false

/-- Group `gid` holds the lane whose turn it is, and no check stops instruction `i` with operands `o`. -/
def Issues (s : State) (gid : Nat) (i : Instr) (o : Args) : Prop :=
  s.issuer = some gid ∧
  Passes (issOf s gid) o.hdr (reads (issOf s gid) i o (acting (issOf s gid) o.hdr))
    (dstEmpty (issOf s gid) (acting (issOf s gid) o.hdr) (spec i).d.width o.d.x)

/-- The sources D, A, B of a thread of the issuing group. -/
def srcsOf (s : State) (gid : Nat) (i : Instr) (o : Args) (t : Nat) : Val × Val × Val := srcs (issOf s gid) i o t

/-- The issuing group's acting threads. -/
def actingOf (s : State) (gid : Nat) (o : Args) : List Nat := acting (issOf s gid) o.hdr

/-- What a register-to-register instruction leads to (R219): every acting thread's destination of width `w` takes its result, with the state that
its sources give it (R200), its flags are ORed into `%fflags` (R218), and the instruction retires (R303). -/
def delivered (s : State) (gid : Nat) (o : Args) (w : Nat) (rs : List (Nat × Val × Nat)) : State :=
  (s.setGrp gid (putResults (s.blk (s.grp gid).blk).tents (s.grp gid) w o.d.x rs)).retire gid o.hdr false false

/-- A register-to-register instruction with one result of its own for each acting thread: `exec` answers the state in which each thread's result
`f t d a b` has been delivered. -/
def Computes (i : Instr) (o : Args) (s : State) (gid : Nat) (f : Nat → Val → Val → Val → Res) : Prop :=
  Machine.exec i s = .next (delivered s gid o (spec i).d.width ((actingOf s gid o).map fun t =>
    let x := srcsOf s gid i o t
    let r := f t x.1 x.2.1 x.2.2
    (t, ({ v := r.v, tag := r.tag, tag2 := r.tag, st := worst x } : Val), r.fl)))

/-- The state in which group `gid` has taken its group record `g`, and the instruction has retired with the pc that the record holds. -/
def jumped (s : State) (gid : Nat) (o : Args) (ends : Bool) (g : Group) : State := (s.setGrp gid g).retire gid o.hdr true ends

end Sys2Proof.Safety
end

