-- ==== Sys2Proof/WellFormed.lean ====
section
/-! DEFINITION. Well-formed instructions: the decode checks of Table 2-6 on the syntax. A word decodes exactly to a well-formed instruction. -/

namespace Sys2Proof

open Decode

/-- The guard agrees with the opcode and with U (check 4, R248). -/
def guardOk (op : Nat) (h : Hdr) : Bool :=
  match h.guard with
  | .always => true
  | .on _ n => !noGuard op && (!h.u || n.val < 8)

/-- A well-formed instruction under `env`: checks 2 to 12 of Table 2-6 pass. A step of the part has no word and nothing to check. -/
def Instr.wf (env : Env) (i : Instr) : Bool :=
  match code i, argsOf i with
  | some (op, _), some o =>
    (!isSup op || env.sys) && !(env.sys && sysAbsent op) && guardOk op o.hdr && modsOk env.sys i && operandChecks env i o = none
  | _, _ => true

/-- An instruction that a word encodes. -/
def Instr.isWord (i : Instr) : Bool := (code i).isSome

end Sys2Proof
end

