-- ==== Sys2Proof/Certificates/Slice0/Obligations.lean ====
section
/-! DEFINITION. The statements: what the rules of the spec say of decoding, of a step, of each instruction and of each event of the part. The helpers
of `Sys2Proof.Claims` put formulas of the spec's tables into Lean; each statement's docstring names the rules. -/

namespace Sys2Proof.Claims

open Sys2Proof Sys2Proof.Machine Sys2Proof.Decode Sys2Proof.Safety

/-! ## Formulas of the result tables -/

/-- A result of width `w`: a whole number modulo 2^w (R223). -/
def word (w : Nat) (x : Int) : Res := { v := (x % 2 ^ w).toNat }

/-- The number that `w` bits stand for, unsigned or in two's complement. -/
def asInt (w : Nat) (uns : Bool) (x : Nat) : Int := if uns || decide (x % 2 ^ w < 2 ^ (w - 1)) then (x % 2 ^ w : Nat) else (x % 2 ^ w : Nat) - 2 ^ w

/-- The number whose bit i is `f i`, for `w` bits. -/
def ofBits (w : Nat) (f : Nat → Bool) : Nat := ((List.range w).map fun i => if f i then 2 ^ i else 0).sum

/-- The conditions of Table 10-5 on numbers. -/
def holds (c : Cmp) (x y : Int) : Bool :=
  match c with
  | .eq => decide (x = y) | .ne => decide (x ≠ y) | .lt => decide (x < y) | .le => decide (x ≤ y)
  | .gt => decide (x > y) | .ge => decide (x ≥ y) | .num => true | .nan => false

/-- The instruction with these operands computes `f` of its sources, D, A and B, for every acting thread, in every state in which it issues. -/
def Alu (i : Instr) (o : Args) (f : Nat → Val → Val → Val → Res) : Prop := ∀ s gid, Issues s gid i o → Computes i o s gid f

end Sys2Proof.Claims

open Sys2Proof Sys2Proof.Machine Sys2Proof.Decode Sys2Proof.Safety Sys2Proof.Claims

/-! ## Integer, logic and move instructions -/

/-- R223, Table 10-4: the result of each integer and logic instruction, for w = 32 or 64, with n the value of B. -/
def Obligations.IntegerResults : Prop :=
  (∀ m o, Alu (.iadd m o) o fun _ _ a b => word (wd m) (a.v + b.v)) ∧
  (∀ m o, Alu (.isub m o) o fun _ _ a b => word (wd m) ((a.v : Int) - b.v)) ∧
  (∀ m o, Alu (.imul m o) o fun _ _ a b => word (wd m) (a.v * b.v)) ∧
  (∀ m o, Alu (.imulh m o) o fun _ _ a b => word (wd m.b64) (asInt (wd m.b64) m.uns a.v * asInt (wd m.b64) m.uns b.v / 2 ^ wd m.b64)) ∧
  (∀ m o, Alu (.imad m o) o fun _ d a b => word (wd m) (a.v * b.v + d.v)) ∧
  (∀ m o, Alu (.imin m o) o fun _ _ a b =>
    word (wd m.b64) (min (asInt (wd m.b64) m.uns a.v) (asInt (wd m.b64) m.uns b.v))) ∧
  (∀ m o, Alu (.imax m o) o fun _ _ a b =>
    word (wd m.b64) (max (asInt (wd m.b64) m.uns a.v) (asInt (wd m.b64) m.uns b.v))) ∧
  (∀ m o, Alu (.iabs m o) o fun _ _ a _ => word (wd m) (asInt (wd m) false a.v).natAbs) ∧
  (∀ m o, Alu (.ineg m o) o fun _ _ a _ => word (wd m) (-(a.v : Int))) ∧
  (∀ m o, Alu (.and m o) o fun _ _ a b => { v := ofBits (wd m) fun i => a.v.testBit i && b.v.testBit i }) ∧
  (∀ m o, Alu (.or m o) o fun _ _ a b => { v := ofBits (wd m) fun i => a.v.testBit i || b.v.testBit i }) ∧
  (∀ m o, Alu (.xor m o) o fun _ _ a b => { v := ofBits (wd m) fun i => a.v.testBit i != b.v.testBit i }) ∧
  (∀ m o, Alu (.andn m o) o fun _ _ a b => { v := ofBits (wd m) fun i => a.v.testBit i && !b.v.testBit i }) ∧
  (∀ m o, Alu (.not m o) o fun _ _ a _ => { v := ofBits (wd m) fun i => !a.v.testBit i }) ∧
  (∀ m o, Alu (.shl m o) o fun _ _ a b => { v := ofBits (wd m) fun i => decide (b.v ≤ i) && a.v.testBit (i - b.v) }) ∧
  (∀ m o, Alu (.shr m o) o fun _ _ a b => { v := ofBits (wd m) fun i => decide (i + b.v < wd m) && a.v.testBit (i + b.v) }) ∧
  (∀ m o, Alu (.sar m o) o fun _ _ a b => { v := ofBits (wd m) fun i => a.v.testBit (min (i + b.v) (wd m - 1)) }) ∧
  (∀ m o, Alu (.rotl m o) o fun _ _ a b => { v := ofBits (wd m) fun i => a.v.testBit ((i + (wd m - b.v % wd m)) % wd m) }) ∧
  (∀ m o, Alu (.popc m o) o fun _ _ a _ => { v := (List.range (wd m)).countP fun i => a.v.testBit i }) ∧
  (∀ m o, Alu (.clz m o) o fun _ _ a _ => { v := ((List.range (wd m)).takeWhile fun i => !a.v.testBit (wd m - 1 - i)).length }) ∧
  (∀ m o, Alu (.ctz m o) o fun _ _ a _ => { v := ((List.range (wd m)).takeWhile fun i => !a.v.testBit i).length }) ∧
  (∀ m o, Alu (.brev m o) o fun _ _ a _ => { v := ofBits (wd m) fun i => a.v.testBit (wd m - 1 - i) })

/-- R225: the bit-field and permutation instructions; `pos` is b[7:0], `len` is b[15:8], and L = min(pos + len, 32) − pos. -/
def Sys2Proof.Claims.BitFieldResults : Prop :=
  (∀ m o, Alu (.funs m o) o fun _ d a b =>
    { v := ofBits 32 fun i => (d.v * 2 ^ 32 + a.v).testBit (if m then i + b.v % 32 else i + 32 - b.v % 32) }) ∧
  (∀ m o, Alu (.bfx m o) o fun _ _ a b =>
    let pos := b.v % 256
    let len := b.v / 256 % 256
    let l := min (pos + len) 32 - pos
    if len = 0 ∨ 31 < pos then { v := 0 }
    else { v := ofBits 32 fun i => if i < l then a.v.testBit (pos + i) else m && a.v.testBit (pos + l - 1) }) ∧
  (∀ o, Alu (.bfi o) o fun _ d a b =>
    let pos := b.v % 256
    let len := b.v / 256 % 256
    { v := ofBits 32 fun i => if pos ≤ i ∧ i < pos + len then a.v.testBit (i - pos) else d.v.testBit i }) ∧
  (∀ o, Alu (.permb o) o fun _ d a b =>
    let x := d.v * 2 ^ 32 + a.v
    { v := ofBits 32 fun i =>
        let sel := b.v / 2 ^ (4 * (i / 8)) % 8
        if b.v.testBit (4 * (i / 8) + 3) then x.testBit (8 * sel + 7) else x.testBit (8 * sel + i % 8) })

/-- R224: `IADDC` forms the exact sum with the carry in predicate PR, D takes it modulo 2^w and PR takes whether it reached 2^w, both with the
state of the sources and PR; `ISEL` gives the source that PR selects, its tag and its state joined with PR's (R202). -/
def Sys2Proof.Claims.CarryAndSelect : Prop :=
  (∀ m o s gid, Issues s gid (.iaddc m o) o →
    exec (.iaddc m o) s = .next ((s.setGrp gid ((actingOf s gid o).foldl (fun g t =>
      let x := srcsOf s gid (.iaddc m o) o t
      let p := modPr (issOf s gid) o.hdr.u t m.pr.val
      let st := ((worst x).join p.st).asOf (s.blk (s.grp gid).blk).tents
      let sum := x.2.1.v + x.2.2.v + (if p.v then 1 else 0)
      let g := writeOp g t (wd m.b64) o.d.x { v := sum % 2 ^ wd m.b64, st := st }
      if o.hdr.u then g.setQ m.pr.val ⟨decide (sum ≥ 2 ^ wd m.b64), st⟩ else g.setP t m.pr.val ⟨decide (sum ≥ 2 ^ wd m.b64), st⟩) (s.grp gid))).retire gid o.hdr false false)) ∧
  (∀ m o s gid, Issues s gid (.isel m o) o →
    exec (.isel m o) s = .next (delivered s gid o (wd m.b64) ((actingOf s gid o).map fun t =>
      let x := srcsOf s gid (.isel m o) o t
      let p := modPr (issOf s gid) o.hdr.u t m.pr.val
      (t, if p.v then { x.2.1 with st := x.2.1.st.join p.st } else { x.2.2 with st := x.2.2.st.join p.st }, 0))))

/-- R225; R224: `BitFieldResults` and `CarryAndSelect` together. -/
def Obligations.BitsAndCarries : Prop := Claims.BitFieldResults ∧ Claims.CarryAndSelect

/-- R226, R227: `ICMP` and `SETP`, the float classes under the quiet rule; `MOV` keeps the tag of A; `MOVI`; `LEA`. -/
def Obligations.CompareAndMove : Prop :=
  (∀ m o, Alu (.icmp m o) o fun _ _ a b =>
    { v := if holds m.cmp (asInt (wd m.b64) m.uns a.v) (asInt (wd m.b64) m.uns b.v) then 2 ^ wd m.b64 - 1 else 0 }) ∧
  (∀ m o, m.cls = .int → Alu (.setp m o) o fun _ _ a b =>
    { v := if holds m.cmp (asInt (wd m.b64) m.uns a.v) (asInt (wd m.b64) m.uns b.v) then 1 else 0 }) ∧
  (∀ m o, m.cls ≠ .int → Alu (.setp m o) o fun _ _ a b =>
    let r := fcond (if m.cls = .f64 then .f64 else .f32) m.cmp false true a.v b.v
    { v := if r.1 then 1 else 0, fl := r.2 }) ∧
  (∀ m o, Alu (.mov m o) o fun _ _ a _ => { v := a.v, tag := a.tag }) ∧
  (∀ m o, Alu (.movi m o) o fun _ _ a _ => { v := a.v }) ∧
  (∀ m o, Alu (.lea m o) o fun _ _ a b => word (wd m.b64) (a.v + b.v * 2 ^ m.k.toNat))

/-! ## Pointer instructions -/

namespace Sys2Proof.Claims

/-- Bits [lo + w − 1 : lo] of a value. -/
def slice (x lo w : Nat) : Nat := x / 2 ^ lo % 2 ^ w

/-- R81. -/
def pmkSpec (win : Bool) (a b : Nat) : Except Reason Nat :=
  if win = false then
    if slice a 36 28 ≠ 0 then .error .form
    else if slice b 24 8 ≠ 0 then .error .straddle
    else .ok (1 * 2 ^ 60 + slice a 0 36 * 2 ^ 24 + slice b 0 24)
  else if slice a 2 62 ≠ 0 then .error .form
  else .ok (2 * 2 ^ 60 + slice a 0 2 * 2 ^ 56 + slice b 0 32)

/-- R82: the sum is exact, so nothing wraps. -/
def paddSpec (uns : Bool) (a b : Nat) : Except Reason Nat :=
  let n : Int := asInt 32 uns b
  if slice a 60 4 = 1 then
    let x : Int := slice a 0 24 + n
    if x < 0 ∨ x > 0xFFFFFF then .error .straddle else .ok (slice a 24 40 * 2 ^ 24 + x.toNat)
  else if slice a 60 4 = 2 then
    let x : Int := slice a 0 32 + n
    if x < 0 ∨ x > 0xFFFFFFFF then .error .straddle else .ok (slice a 32 32 * 2 ^ 32 + x.toNat)
  else .error .form

/-- R83. -/
def pdifSpec (a b : Nat) : Except Reason Nat :=
  if slice a 60 4 ≠ slice b 60 4 ∨ (slice a 60 4 ≠ 1 ∧ slice a 60 4 ≠ 2) then .error .form
  else if slice a 60 4 = 1 then
    if slice a 24 36 ≠ slice b 24 36 then .error .form else .ok (word 32 ((slice a 0 24 : Int) - slice b 0 24)).v
  else if slice a 32 28 ≠ slice b 32 28 then .error .form else .ok (word 32 ((slice a 0 32 : Int) - slice b 0 32)).v

/-- Table 3-12: the lowest bit of a pointer field, and its width. -/
def ptrField : PField → Nat × Nat
  | .form => (60, 4) | .outer => (50, 10) | .middle => (38, 12) | .inner => (24, 14) | .off => (0, 24) | .space => (56, 4) | .addr => (0, 32)

/-- R84: `PSET` into field `m` of d; field 0 does not decode. -/
def psetSpec (m : PField) (d a : Nat) : Except Reason Nat :=
  let lo := (ptrField m).1
  let w := (ptrField m).2
  if (m = .outer ∨ m = .middle ∨ m = .inner ∨ m = .off) ∧ slice d 60 4 ≠ 1 then .error .form
  else if (m = .space ∨ m = .addr) ∧ slice d 60 4 ≠ 2 then .error .form
  else if (m = .outer ∧ a ≥ 2 ^ 10) ∨ (m = .middle ∧ a ≥ 2 ^ 12) ∨ (m = .inner ∧ a ≥ 2 ^ 14) ∨ (m = .space ∧ a > 3) then .error .form
  else if m = .off ∧ a ≥ 2 ^ 24 then .error .straddle
  else .ok (ofBits 64 fun i => if lo ≤ i ∧ i < lo + w then a.testBit (i - lo) else d.testBit i)

/-- A pointer instruction completes where no acting thread's pointers fault: each thread's D takes `f d a b`, with tag 31. -/
def PtrOk (i : Instr) (o : Args) (f : Nat → Nat → Nat → Except Reason Nat) : Prop :=
  ∀ s gid (v : Nat → Nat), Issues s gid i o →
    (∀ t ∈ actingOf s gid o, let x := srcsOf s gid i o t; f x.1.v x.2.1.v x.2.2.v = .ok (v t)) →
    Computes i o s gid fun t _ _ _ => { v := v t }

/-- Where some acting thread's pointers fault, the lowest such thread's "pointer fault" at level 0 with KIND 4 is taken, with `ptr` of its sources in
PTR, and no destination is written (R80). -/
def PtrFaults (i : Instr) (o : Args) (f : Nat → Nat → Nat → Except Reason Nat) (ptr : Val × Val × Val → Nat) : Prop :=
  ∀ s gid before t after r, Issues s gid i o → actingOf s gid o = before ++ t :: after →
    (∀ t' ∈ before, ∃ v, let x := srcsOf s gid i o t'; f x.1.v x.2.1.v x.2.2.v = .ok v) →
    (let x := srcsOf s gid i o t; f x.1.v x.2.1.v x.2.2.v = .error r) →
    exec i s = .next (s.takeTrap gid
      { cause := .pointerFault, thread := t
        frec := faultRec (originOf (issOf s gid) t (BitVec.ofNat 64 (ptr (srcsOf s gid i o t))) 0) .pointer ⟨0, r, 0, s.modNo, false, 0⟩ })

end Sys2Proof.Claims

/-- R81 to R85: the result of each pointer instruction where no acting thread's pointers fault; `PGET` and `PFORM` never fault. -/
def Sys2Proof.Claims.PointerResults : Prop :=
  (∀ m o, PtrOk (.pmk m o) o fun _ a b => pmkSpec m a b) ∧
  (∀ m o, PtrOk (.padd m o) o fun _ a b => paddSpec m a b) ∧
  (∀ o, PtrOk (.pdif o) o fun _ a b => pdifSpec a b) ∧
  (∀ m o, m ≠ .form → PtrOk (.pset m o) o fun d a _ => psetSpec m d a) ∧
  (∀ m o, Alu (.pget m o) o fun _ _ a _ => { v := slice a.v (ptrField m).1 (ptrField m).2 }) ∧
  (∀ m o, Alu (.pform m o) o fun _ _ a _ => { v := if slice a.v 60 4 = m.toNat then 1 else 0 })

/-- R80 to R84: where the rules give a fault, the instruction takes the precise "pointer fault" of the lowest thread it occurs in, with the source
pointer (A, or D for `PSET`), and D is unchanged: the state is that of the trap alone. -/
def Sys2Proof.Claims.PointerFaults : Prop :=
  (∀ m o, PtrFaults (.pmk m o) o (fun _ a b => pmkSpec m a b) fun x => x.2.1.v) ∧
  (∀ m o, PtrFaults (.padd m o) o (fun _ a b => paddSpec m a b) fun x => x.2.1.v) ∧
  (∀ o, PtrFaults (.pdif o) o (fun _ a b => pdifSpec a b) fun x => x.2.1.v) ∧
  (∀ m o, m ≠ .form → PtrFaults (.pset m o) o (fun d a _ => psetSpec m d a) fun x => x.1.v)

/-- R81 to R85; R80 to R84: `PointerResults` and `PointerFaults` together. -/
def Obligations.Pointers : Prop := Claims.PointerResults ∧ Claims.PointerFaults

/-! ## Floating-point, conversion and log instructions -/

/-- R228 to R230: each FP32, FP64 and packed instruction delivers the exact result of its effect in Table 10-6, rounded once by RM and SAT, with the
tag of its format and its flags; `FCMP` and `DCMP` make the signalling comparison. -/
def Sys2Proof.Claims.FloatEffects : Prop :=
  (∀ m o, Alu (.fadd m o) o fun _ _ a b => inFmt .f32 (farith .f32 .add m.rm m.sat a.v b.v 0)) ∧
  (∀ m o, Alu (.fsub m o) o fun _ _ a b => inFmt .f32 (farith .f32 .sub m.rm m.sat a.v b.v 0)) ∧
  (∀ m o, Alu (.fmul m o) o fun _ _ a b => inFmt .f32 (farith .f32 .mul m.rm m.sat a.v b.v 0)) ∧
  (∀ m o, Alu (.ffma m o) o fun _ d a b => inFmt .f32 (farith .f32 .fma m.rm m.sat a.v b.v d.v)) ∧
  (∀ m o, Alu (.ffms m o) o fun _ d a b => inFmt .f32 (farith .f32 .fms m.rm m.sat a.v b.v d.v)) ∧
  (∀ m o, Alu (.fnma m o) o fun _ d a b => inFmt .f32 (farith .f32 .fnma m.rm m.sat a.v b.v d.v)) ∧
  (∀ o, Alu (.fmin o) o fun _ _ a b => inFmt .f32 (fminmax .f32 false a.v b.v)) ∧
  (∀ o, Alu (.fmax o) o fun _ _ a b => inFmt .f32 (fminmax .f32 true a.v b.v)) ∧
  (∀ m o, Alu (.fcmp m o) o fun _ _ a b => let r := fcond .f32 m.cmp m.unord false a.v b.v; { v := if r.1 then 1 else 0, fl := r.2 }) ∧
  (∀ o, Alu (.fclass o) o fun _ _ a _ => fclassR a.v) ∧
  (∀ m o, Alu (.frnd m o) o fun _ _ a _ => frndR m a.v) ∧
  (∀ m o, Alu (.fscale m o) o fun _ _ a b => fscaleR m a.v b.v) ∧
  (∀ o, Alu (.fexpo o) o fun _ _ a _ => fexpoR a.v) ∧
  (∀ m o, Alu (.dadd m o) o fun _ _ a b => inFmt .f64 (farith .f64 .add m.rm m.sat a.v b.v 0)) ∧
  (∀ m o, Alu (.dmul m o) o fun _ _ a b => inFmt .f64 (farith .f64 .mul m.rm m.sat a.v b.v 0)) ∧
  (∀ m o, Alu (.dfma m o) o fun _ d a b => inFmt .f64 (farith .f64 .fma m.rm m.sat a.v b.v d.v)) ∧
  (∀ m o, Alu (.dcmp m o) o fun _ _ a b => let r := fcond .f64 m.cmp m.unord false a.v b.v; { v := if r.1 then 1 else 0, fl := r.2 }) ∧
  (∀ m o, Alu (.hadd2 m o) o fun _ _ a b => halves (hfFmt m.hf) (fun x y _ => farith (hfFmt m.hf) .add m.rm m.sat x y 0) a.v b.v 0) ∧
  (∀ m o, Alu (.hmul2 m o) o fun _ _ a b => halves (hfFmt m.hf) (fun x y _ => farith (hfFmt m.hf) .mul m.rm m.sat x y 0) a.v b.v 0) ∧
  (∀ m o, Alu (.hfma2 m o) o fun _ d a b => halves (hfFmt m.hf) (fun x y z => farith (hfFmt m.hf) .fma m.rm m.sat x y z) a.v b.v d.v) ∧
  (∀ m o, Alu (.hmin2 m o) o fun _ _ a b => halves (hfFmt m) (fun x y _ => fminmax (hfFmt m) false x y) a.v b.v 0) ∧
  (∀ m o, Alu (.hmax2 m o) o fun _ _ a b => halves (hfFmt m) (fun x y _ => fminmax (hfFmt m) true x y) a.v b.v 0)

/-- R230: `FCLASS` writes a mask with exactly one bit set: for the sign s, the exponent e and the fraction m of A, in the order of the rule. -/
def Sys2Proof.Claims.FclassOneBit : Prop :=
  ∀ o s gid, Issues s gid (.fclass o) o → Computes (.fclass o) o s gid fun _ _ a _ =>
    let neg := a.v.testBit 31
    let e := slice a.v 23 8
    let m := slice a.v 0 23
    { v :=
        if e = 255 ∧ m.testBit 22 then 2 ^ 9 else if e = 255 ∧ m ≠ 0 then 2 ^ 8 else if e = 255 ∧ !neg then 2 ^ 7 else if e = 255 then 2 ^ 0
        else if e ≠ 0 ∧ !neg then 2 ^ 6 else if e ≠ 0 then 2 ^ 1
        else if m ≠ 0 ∧ !neg then 2 ^ 5 else if m ≠ 0 then 2 ^ 2 else if !neg then 2 ^ 4 else 2 ^ 3 }

/-- R229: an exact zero sum takes −0 under `.rd` and +0 otherwise, and no flag is raised: for every finite FP32 value x that is no zero, x + (−x). -/
def Sys2Proof.Claims.ZeroSumSign : Prop :=
  ∀ (rm : RM) (sat : Bool) (x : Nat), x < 2 ^ 31 → slice x 23 8 ≠ 255 → x ≠ 0 →
    farith .f32 .add rm sat x (x + 2 ^ 31) 0 = (if rm = .rd then 0x80000000 else 0, 0) ∧
    farith .f32 .add rm sat (x + 2 ^ 31) x 0 = (if rm = .rd then 0x80000000 else 0, 0)

/-- R228 to R230; R230; R229: `FloatEffects`, `FclassOneBit` and `ZeroSumSign` together. -/
def Obligations.FloatResults : Prop := Claims.FloatEffects ∧ Claims.FclassOneBit ∧ Claims.ZeroSumSign

/-- R231 to R236 and R238: `CVTI`, `PACK2`, `SCLE`, `LMUL` and `LADD` deliver their results; `UNPK2` gives each half of A, zero-extended, to the even and
the odd register; `FMTSET` changes nothing but the tag of a D that is not POIS; `FMTGET` delivers A's tag, FULL. -/
def Obligations.ConvertResults : Prop :=
  (∀ m o, m.f2i = true → Alu (.cvti m o) o fun t _ a b => f2iR m a.v b.v t) ∧
  (∀ m o, m.f2i = false → Alu (.cvti m o) o fun t _ a b => i2fR m a.v b.v t) ∧
  (∀ o, Alu (.pack2 o) o fun _ _ a b => { v := slice b.v 0 16 * 2 ^ 16 + slice a.v 0 16, tag := if a.tag = b.tag then a.tag else 31 }) ∧
  (∀ o s gid, s.issuer = some gid →
    Passes (issOf s gid) o.hdr (reads (issOf s gid) (.unpk2 o) o (actingOf s gid o))
      (dstEmpty (issOf s gid) (actingOf s gid o) (if o.hdr.u then 128 else 64) o.d.x) →
    exec (.unpk2 o) s = .next (delivered s gid o (if o.hdr.u then 128 else 64) ((actingOf s gid o).map fun t =>
      let a := (srcsOf s gid (.unpk2 o) o t).2.1
      (t, { a with v := slice a.v 0 16 + a.v / 2 ^ 16 * 2 ^ (if o.hdr.u then 64 else 32), tag2 := a.tag }, 0)))) ∧
  (∀ m o, Alu (.scle m o) o fun _ _ a _ => scleR m a.v) ∧
  (∀ o s gid, Issues s gid (.fmtset o) o →
    exec (.fmtset o) s = .next ((s.setGrp gid ((actingOf s gid o).foldl (fun g t =>
      let tag := (srcsOf s gid (.fmtset o) o t).2.1.v % 32
      match o.d.x with
      | .t n => if (g.treg t n).st = .pois then g else g.setT t n { g.treg t n with tag := tag }
      | .w n => if (g.ureg n).st = .pois then g else g.setW n { g.ureg n with tag := tag }
      | _ => g) (s.grp gid))).retire gid o.hdr false false)) ∧
  (∀ o s gid, Issues s gid (.fmtget o) o →
    exec (.fmtget o) s = .next (delivered s gid o 32 ((actingOf s gid o).map fun t =>
      (t, { v := (srcsOf s gid (.fmtget o) o t).2.1.tag }, 0)))) ∧
  (∀ m o, Alu (.lmul m o) o fun _ _ a b => logMap (lfFmt m) (lmulE (lfFmt m)) a.v b.v) ∧
  (∀ m o, Alu (.ladd m o) o fun _ _ a b => logMap (lfFmt m) (laddE (lfFmt m)) a.v b.v)

/-- R232: `CVT` where each acting thread's source is POIS, or has a tag that names a format it can be converted from (`fm`): a POIS source gives a POIS
result without a flag; any other gives the converted element, with the tag DST and the state of A and of B where B is read. -/
def Sys2Proof.Claims.CvtResults : Prop :=
  ∀ m o s gid (fm : Nat → Fmt), s.issuer = some gid →
    let c := issOf s gid
    let as := (actingOf s gid o).map fun t => (t, cvtSrc c t o.a.x)
    let bOf (t : Nat) : Val := readOp c t (spec (.cvt m o)).b o.b.x o.a.x
    Passes c o.hdr [⟨2, o.a.ea, .data none, as⟩,
      ⟨3, o.b.ea, .data none, (as.filter fun x => cvtUsesB m x.2.tag && x.2.st ≠ .pois).map fun x => (x.1, bOf x.1)⟩]
      (dstEmpty c (actingOf s gid o) (fmtWidth m.dst) o.d.x) →
    (∀ x ∈ as, x.2.st = .pois ∨ cvtFmt m o.a.x x.2 = .ok (fm x.1)) →
    exec (.cvt m o) s = .next (delivered s gid o (fmtWidth m.dst) (as.map fun x =>
      if x.2.st = .pois then (x.1, { st := .pois }, 0)
      else
        let b : Val := if cvtUsesB m x.2.tag then bOf x.1 else {}
        let r := cvtR m (fm x.1) x.2.v b.v x.1
        (x.1, { v := r.v, tag := fmtCode m.dst, tag2 := fmtCode m.dst, st := x.2.st.join b.st }, r.fl)))

/-- R237, R239: `LCVT` where the tag of each acting thread's A is 16 to 18 or A is POIS: a POIS A gives a POIS result, any other the converted codes,
with the tag of LF. -/
def Sys2Proof.Claims.LcvtResults : Prop :=
  ∀ m o s gid (sf : Nat → Fmt), Issues s gid (.lcvt m o) o →
    (∀ t ∈ actingOf s gid o, let a := (srcsOf s gid (.lcvt m o) o t).2.1
      a.st = .pois ∨ (16 ≤ a.tag ∧ a.tag ≤ 18 ∧ fmtOf a.tag = some (sf t))) →
    exec (.lcvt m o) s = .next (delivered s gid o 32 ((actingOf s gid o).map fun t =>
      let x := srcsOf s gid (.lcvt m o) o t
      if x.2.1.st = .pois then (t, { v := 0, st := worst x }, 0)
      else
        let r := lcvtR m (sf t) x.1.v x.2.1.v x.2.2.v
        (t, { v := r.v, tag := fmtCode (lfFmt m.lf), tag2 := fmtCode (lfFmt m.lf), st := worst x }, r.fl)))

/-- R232; R237, R239: `CvtResults` and `LcvtResults` together. -/
def Obligations.FormatConversions : Prop := Claims.CvtResults ∧ Claims.LcvtResults

/-! ## Special functions -/

namespace Sys2Proof.Claims

/-- An SFU instruction that issues for some thread leaves D EMPTY in every acting thread, and an operation with the results `f a b` outstanding (R240,
R198): its values are those of the sources as read now. -/
def Sfu (i : Instr) (o : Args) (w : Nat) (f : Nat → Nat → Nat × Nat) : Prop :=
  ∀ s gid d, Issues s gid i o → destOf w o.d.x = some d → actingOf s gid o ≠ [] →
    exec i s = .next (State.retire
      { (s.setGrp gid ((actingOf s gid o).foldl (fun g t => emptyOp g t w o.d.x) (s.grp gid))) with
        nextId := s.nextId + 1
        ops := FMap.insert s.ops s.nextId (.sfu
          { gid := gid, dst := d, seq := s.nextId
            vals := (actingOf s gid o).map fun t =>
              let x := srcsOf s gid i o t
              let r := f x.2.1.v x.2.2.v
              (t, BitVec.ofNat 64 r.1, worst x, BitVec.ofNat 32 (if worst x = .pois then 0 else r.2)) }) } gid o.hdr false false)

end Sys2Proof.Claims

/-- R240, R241, R198: each SFU instruction that issues leaves D EMPTY and its result outstanding. -/
def Sys2Proof.Claims.SfuIssues : Prop :=
  (∀ o, Sfu (.frcp o) o 32 fun a _ => sfuR .frcp a) ∧ (∀ o, Sfu (.frsq o) o 32 fun a _ => sfuR .frsq a) ∧
  (∀ o, Sfu (.fsqrt o) o 32 fun a _ => sfuR .fsqrt a) ∧ (∀ o, Sfu (.fex2 o) o 32 fun a _ => sfuR .fex2 a) ∧
  (∀ o, Sfu (.flg2 o) o 32 fun a _ => sfuR .flg2 a) ∧ (∀ o, Sfu (.fsin o) o 32 fun a _ => sfuR .fsin a) ∧
  (∀ o, Sfu (.fcos o) o 32 fun a _ => sfuR .fcos a) ∧ (∀ o, Sfu (.ftwid o) o 64 ftwidR) ∧
  (∀ o, Sfu (.ftanh o) o 32 fun a _ => sfuR .ftanh a) ∧ (∀ o, Sfu (.fsigm o) o 32 fun a _ => sfuR .fsigm a)

/-- R220, R240: SFU_RESULT delivers the results of an operation once no older SFU operation of its group is outstanding: D takes them with tag 1, FULL
unless a seal group still holds the data, the flags are ORed into `%fflags`, and the operation is gone; before that it changes nothing. -/
def Sys2Proof.Claims.SfuArrives : Prop :=
  ∀ s id x, FMap.find? s.ops id = some (.sfu x) →
    exec (.sfuResult id) s = .next (if (s.ops.any fun p => match p.2 with | .sfu y => y.gid = x.gid && y.seq < x.seq | _ => false) then s
      else { s.onGrp x.gid (fun g => x.vals.foldl (fun g v =>
               (deliverDest g v.1 x.dst { v := v.2.1.toNat, tag := 1, tag2 := 1, st := (s.blk (s.grp x.gid).blk).settle v.2.2.1 }).flag v.2.2.2.toNat) g) with
             ops := FMap.erase s.ops id })

/-- R240, R241, R198; R220, R240: `SfuIssues` and `SfuArrives` together. -/
def Obligations.SpecialFunctions : Prop := Claims.SfuIssues ∧ Claims.SfuArrives

/-- Table 10-9, Table 10-10: special values of the special functions, with their flags. -/
def Obligations.SfuSpecialValues : Prop :=
  sfuR .frcp 0xFF800000 = (0x80000000, 0) ∧ sfuR .frcp 0x7F800000 = (0, 0) ∧ sfuR .frcp 0 = (0x7F800000, 0) ∧ sfuR .frcp 0x80000000 = (0xFF800000, 0) ∧
  sfuR .frcp 0x40000000 = (0x3F000000, 0) ∧
  sfuR .frsq 0xFF800000 = (0x7FC00000, flInvalid) ∧ sfuR .frsq 0xBF800000 = (0x7FC00000, flInvalid) ∧ sfuR .frsq 0x40800000 = (0x3F000000, 0) ∧
  sfuR .fsqrt 0xBF800000 = (0x7FC00000, flInvalid) ∧ sfuR .fsqrt 0x80000000 = (0x80000000, 0) ∧
  sfuR .fex2 0xFF800000 = (0, 0) ∧ sfuR .fex2 0 = (0x3F800000, 0) ∧ sfuR .fex2 0x40400000 = (0x41000000, 0) ∧
  sfuR .flg2 0 = (0xFF800000, 0) ∧ sfuR .flg2 0xBF800000 = (0x7FC00000, flInvalid) ∧ sfuR .flg2 0x41000000 = (0x40400000, 0) ∧
  sfuR .fsin 0x80000000 = (0x80000000, 0) ∧ sfuR .fcos 0x80000000 = (0x3F800000, 0) ∧ sfuR .fsin 0x7F800000 = (0x7FC00000, flInvalid) ∧
  sfuR .ftanh 0xFF800000 = (0xBF800000, 0) ∧ sfuR .fsigm 0xFF800000 = (0, 0) ∧ sfuR .fsigm 0 = (0x3F000000, 0) ∧
  ftwidR 0 5 = (0x3F800000, 0) ∧ ftwidR 1 2 = (0x3F800000 * 2 ^ 32, 0) ∧ ftwidR 1 3 = (0x3F3504F3 + 0x3F3504F3 * 2 ^ 32, flInexact) ∧
  ftwidR 3 3 = (0xBF3504F3 + 0x3F3504F3 * 2 ^ 32, flInexact) ∧ ftwidR 6 2 = (0xBF800000, 0)

/-! ## Group-data instructions -/

namespace Sys2Proof.Claims

/-- R243: the thread whose register `XCH` takes, for thread `t` of `n` with B `b`; outside 0 … n−1 it is `t`. -/
def xchSource (m : XMode) (n t b : Nat) : Nat :=
  let k : Int := match m with | .idx => (b % 32 : Nat) | .xor => (t ^^^ (b % 32) : Nat) | .up => (t : Int) - b | .down => (t : Int) + b
  if 0 ≤ k ∧ k < n then k.toNat else t

/-- A thread register operand as thread `t` holds it. -/
def regAt (g : Group) (t : Nat) (x : Opd) (w : Nat) : Val := match x with | .t n => g.readT t n w | _ => {}

/-- R245: the combination of the values of a prefix of the acting threads, in index order; of none, the identity. -/
def prefixOf (op : GOp) (ty : GTy) (xs : List Val) : Val :=
  let tag := if ty = .f32 then 1 else 31
  match xs with
  | [] => { v := gopIdentity op ty, tag := tag, tag2 := tag }
  | x :: rest =>
    { v := rest.foldl (fun acc y => (gopStep op ty acc y.v).1) x.v, tag := tag, tag2 := tag, st := rest.foldl (fun st y => st.join y.st) x.st }

end Sys2Proof.Claims

/-- R243: `XCH` and `BCST`. Every B is read first, and an EMPTY one waits; then the source register of the chosen thread is delivered with its tag, and
with its state joined with B's. -/
def Obligations.ExchangeResults : Prop :=
  (∀ m o s gid, s.issuer = some gid →
    let c := issOf s gid
    let w := wd m.b64
    let b (t : Nat) : Val := readOp c t (spec (.xch m o)).b o.b.x o.b.x
    let a (t : Nat) : Val := regAt (s.grp gid) (xchSource m.mode (s.grp gid).ext0 t (b t).v) o.a.x w
    (∀ t ∈ actingOf s gid o, (b t).st ≠ .empty) →
    Passes c o.hdr [⟨2, o.a.ea, .data none, (actingOf s gid o).map fun t => (t, a t)⟩] (dstEmpty c (actingOf s gid o) w o.d.x) →
    exec (.xch m o) s = .next (delivered s gid o w ((actingOf s gid o).map fun t => (t, { a t with st := (a t).st.join (b t).st }, 0)))) ∧
  (∀ m o s gid, s.issuer = some gid →
    let c := issOf s gid
    let w := wd m
    let b : Val := readOp c 0 (spec (.bcst m o)).b o.b.x o.b.x
    let a : Val := if b.v % 32 < (s.grp gid).ext0 then regAt (s.grp gid) (b.v % 32) o.a.x w else {}
    (actingOf s gid o ≠ [] → b.st ≠ .empty) →
    Passes c o.hdr [⟨2, o.a.ea, .data none, (actingOf s gid o).map fun t => (t, a)⟩] (dstEmpty c (actingOf s gid o) w o.d.x) →
    exec (.bcst m o) s = .next (delivered s gid o w ((actingOf s gid o).map fun t => (t, { a with st := a.st.join b.st }, 0))))

/-- R244 to R246: `VOTE`, `ELECT`, `GRED`, `GSCN`, `MOVP.pack` and `MOVP.unpk`. -/
def Obligations.GroupDataResults : Prop :=
  (∀ m o s gid, Issues s gid (.vote m o) o →
    exec (.vote m o) s = .next (delivered s gid o 32 ((actingOf s gid o).map fun t =>
      let p (t : Nat) : PReg := readPr (issOf s gid) t o.a.x
      let v := match m with
        | .ballot => ((actingOf s gid o).map fun t => if (p t).v then 2 ^ t else 0).sum
        | .any => if (actingOf s gid o).any fun t => (p t).v then 1 else 0
        | .all => if (actingOf s gid o).all fun t => (p t).v then 1 else 0
        | .uni => if ((actingOf s gid o).all fun t => (p t).v) || ((actingOf s gid o).all fun t => !(p t).v) then 1 else 0
      (t, { v := v, st := (actingOf s gid o).foldl (fun st t => st.join (p t).st) .full }, 0)))) ∧
  (∀ o s gid, Issues s gid (.elect o) o →
    exec (.elect o) s = .next (delivered s gid o 32 ((actingOf s gid o).map fun t =>
      (t, { v := if (actingOf s gid o).head? = some t then 1 else 0 }, 0)))) ∧
  (∀ m o s gid, Issues s gid (.gred m o) o → actingOf s gid o ≠ [] →
    let vals := (actingOf s gid o).map fun t => (srcsOf s gid (.gred m o) o t).2.1
    exec (.gred m o) s = .next ((s.setGrp gid ((putResults (s.blk (s.grp gid).blk).tents (s.grp gid) 32 o.d.x
      ((actingOf s gid o).map fun t => (t, prefixOf m.op m.ty vals, 0))).flag
        (stepFlags (combine m.op m.ty ((actingOf s gid o).zip vals))))).retire gid o.hdr false false)) ∧
  (∀ m o s gid, Issues s gid (.gscn m o) o →
    let vals := (actingOf s gid o).map fun t => (srcsOf s gid (.gscn m o) o t).2.1
    exec (.gscn m o) s = .next ((s.setGrp gid ((putResults (s.blk (s.grp gid).blk).tents (s.grp gid) 32 o.d.x
      ((actingOf s gid o).zipIdx.map fun x => (x.1, prefixOf m.op m.ty (vals.take (if m.excl then x.2 else x.2 + 1)), 0))).flag
        (stepFlags (combine m.op m.ty ((actingOf s gid o).zip vals))))).retire gid o.hdr false false)) ∧
  (∀ o s gid, Issues s gid (.movpPack o) o →
    exec (.movpPack o) s = .next (delivered s gid o 32 ((actingOf s gid o).map fun t =>
      let p (i : Nat) : PReg := if o.hdr.u then (s.grp gid).upred i else (s.grp gid).pred t i
      let n := if o.hdr.u then 8 else 15
      (t, { v := ofBits n fun i => (p i).v, st := (List.range n).foldl (fun st i => st.join (p i).st) .full }, 0)))) ∧
  (∀ o s gid, Issues s gid (.movpUnpk o) o →
    exec (.movpUnpk o) s = .next ((s.setGrp gid ((actingOf s gid o).foldl (fun g t =>
      let a := (srcsOf s gid (.movpUnpk o) o t).2.1
      (List.range (if o.hdr.u then 8 else 15)).foldl (fun g i =>
        if o.hdr.u then g.setQ i ⟨a.v.testBit i, a.st⟩ else g.setP t i ⟨a.v.testBit i, a.st⟩) g) (s.grp gid))).retire gid o.hdr false false))

namespace Sys2Proof.Claims

/-- Group `k` is the resident sibling of number A in the issuing group's block, register `r` lies within its allotment, and it is EMPTY in none of the
threads it has among the acting ones (R247). -/
def SiblingReady (s : State) (gid : Nat) (i : Instr) (o : Args) (r k : Nat) : Prop :=
  sibling (issOf s gid) (srcsOf s gid i o 0).2.1.v = some k ∧ r < (s.grp k).allot ∧
  ∀ t ∈ actingOf s gid o, t < (s.grp k).ext0 → ((s.grp k).treg t r).st ≠ .empty

end Sys2Proof.Claims

/-- R247, R198: `SRD` takes the sibling register's bits, tag and state, and zero beyond the sibling's threads, and leaves D EMPTY until they arrive; LOAD_RETURN
delivers them, with a TENT state that has verified since as FULL; `SWR` gives the sibling register B's bits, tag and state, and writes nothing beyond its threads; both
wait while the sibling's register is EMPTY. That `SRD` takes the register as it stands at issue is the model's choice (log entry 121). -/
def Obligations.SiblingAccess : Prop :=
  (∀ m o s gid k d, Issues s gid (.srd m o) o → actingOf s gid o ≠ [] → SiblingReady s gid (.srd m o) o m.toNat k → destOf 32 o.d.x = some d →
    exec (.srd m o) s = .next (State.retire
      { (s.setGrp gid ((actingOf s gid o).foldl (fun g t => emptyOp g t 32 o.d.x) (s.grp gid))) with
        nextId := s.nextId + 1
        ops := FMap.insert s.ops s.nextId (.srd
          { gid := gid, dst := d, vals := (actingOf s gid o).map fun t => (t, if t < (s.grp k).ext0 then (s.grp k).treg t m.toNat else {}) }) }
      gid o.hdr false false)) ∧
  (∀ s id e x, FMap.find? s.ops id = some (.srd x) →
    exec (.loadReturn ⟨id, e⟩) s = .next (State.onGrp { s with ops := FMap.erase s.ops id } x.gid fun g =>
      x.vals.foldl (fun g v => deliverDest g v.1 x.dst { v := v.2.v.toNat, tag := v.2.tag, tag2 := v.2.tag, st := (s.blk (s.grp x.gid).blk).settle v.2.st }) g)) ∧
  (∀ m o s gid k t, Issues s gid (.srd m o) o → sibling (issOf s gid) (srcsOf s gid (.srd m o) o 0).2.1.v = some k → m.toNat < (s.grp k).allot →
    t ∈ actingOf s gid o → t < (s.grp k).ext0 → ((s.grp k).treg t m.toNat).st = .empty →
    exec (.srd m o) s = .next ((s.stick gid 0).endRun gid)) ∧
  (∀ m o s gid k, Issues s gid (.swr m o) o → actingOf s gid o ≠ [] → SiblingReady s gid (.swr m o) o m.toNat k →
    exec (.swr m o) s = .next ((s.setGrp k ((actingOf s gid o).foldl (fun g t =>
      if t < (s.grp k).ext0 then g.writeT t m.toNat (srcsOf s gid (.swr m o) o t).2.2 32 else g) (s.grp k))).retire gid o.hdr false false))


/-! ## Control flow -/

namespace Sys2Proof.Claims

/-- R249: whether a branch with `held` threads whose guard holds, of `n` active ones, is taken; none is the trap "divergent branch". A uniform one
is decided by its own guard. -/
def branches (u : Bool) (m : BMode) (held n : Nat) : Option Bool :=
  if u then some (decide (held ≠ 0))
  else match m with
    | .any => some (decide (held ≠ 0))
    | .all => some (decide (held = n))
    | .uni => if held = n then some true else if held = 0 then some false else none

/-- The decision of a branch that is to issue. -/
def decides (s : State) (gid : Nat) (o : Args) (m : BMode) : Option Bool :=
  branches o.hdr.u m (actingOf s gid o).length (activeThreads (s.grp gid)).length

/-- The value of operand A, and of operand B, as the group reads them once. -/
def groupA (s : State) (gid : Nat) (i : Instr) (o : Args) : Val := readOp (issOf s gid) 0 (spec i).a o.a.x o.b.x
def groupB (s : State) (gid : Nat) (i : Instr) (o : Args) : Val := readOp (issOf s gid) 0 (spec i).b o.b.x o.b.x

/-- The next index of a group. -/
def nextPc (s : State) (gid : Nat) : W32 := (s.grp gid).pc + 1
/-- The index a displacement away, modulo 2^32 (R249). -/
def away (s : State) (gid disp : Nat) : W32 := BitVec.ofNat 32 ((s.grp gid).pc.toNat + disp)

/-- Predicate A of thread `t`. -/
def predA (s : State) (gid : Nat) (o : Args) (t : Nat) : Bool := (readPr (issOf s gid) t o.a.x).v

/-- `x` is the mask of the active threads whose predicate A is true. -/
def IsPredMask (s : State) (gid : Nat) (o : Args) (x : BitVec 32) : Prop :=
  ∀ t, x.getLsbD t = (decide (t ∈ activeThreads (s.grp gid)) && predA s gid o t)

end Sys2Proof.Claims

/-- R249: a taken `BRA` goes to index + displacement, a taken `CALL` also writes index + 1 to its destination, a taken `RET` goes to A's value, and a
branch that is not taken goes on at index + 1; a divergent guard under `.uni` traps. -/
def Sys2Proof.Claims.BranchResults : Prop :=
  (∀ m o s gid b, Issues s gid (.bra m o) o → decides s gid o m = some b →
    exec (.bra m o) s = .next (jumped s gid o false { s.grp gid with
      pc := if b then away s gid (groupA s gid (.bra m o) o).v else nextPc s gid })) ∧
  (∀ m o s gid b, Issues s gid (.call m o) o → decides s gid o m = some b →
    exec (.call m o) s = .next (jumped s gid o false (if b then
        { writeOp (s.grp gid) 0 32 o.d.x { v := (nextPc s gid).toNat } with pc := away s gid (groupA s gid (.call m o) o).v }
      else { s.grp gid with pc := nextPc s gid }))) ∧
  (∀ o s gid b, Issues s gid (.ret o) o → decides s gid o .uni = some b →
    exec (.ret o) s = .next (jumped s gid o false { s.grp gid with
      pc := if b then BitVec.ofNat 32 (groupA s gid (.ret o) { o with b := o.a }).v else nextPc s gid })) ∧
  (∀ m o s gid, Issues s gid (.bra m o) o → decides s gid o m = none →
    exec (.bra m o) s = .next (s.takeTrap gid { cause := .divergent })) ∧
  (∀ m o s gid, Issues s gid (.call m o) o → decides s gid o m = none →
    exec (.call m o) s = .next (s.takeTrap gid { cause := .divergent })) ∧
  (∀ o s gid, Issues s gid (.ret o) o → decides s gid o .uni = none →
    exec (.ret o) s = .next (s.takeTrap gid { cause := .divergent }))

/-- R249: `BRAI` goes to (a + b) mod 2^32, the same for every acting thread, or, where no thread's guard holds, to index + 1; a B that differs among
the acting threads traps. -/
def Sys2Proof.Claims.BraiResults : Prop :=
  (∀ o s gid tgt, Issues s gid (.brai o) o → decides s gid o .uni = some true → actingOf s gid o ≠ [] →
    (∀ t ∈ actingOf s gid o, let x := srcsOf s gid (.brai o) o t; x.2.2.v = (srcsOf s gid (.brai o) o ((actingOf s gid o).headD 0)).2.2.v) →
    (let x := srcsOf s gid (.brai o) o ((actingOf s gid o).headD 0); tgt = BitVec.ofNat 32 (x.2.1.v + x.2.2.v)) →
    exec (.brai o) s = .next (jumped s gid o false { s.grp gid with pc := tgt })) ∧
  (∀ o s gid, Issues s gid (.brai o) o → decides s gid o .uni = some false ∨ (decides s gid o .uni = some true ∧ actingOf s gid o = []) →
    exec (.brai o) s = .next (jumped s gid o false { s.grp gid with pc := nextPc s gid })) ∧
  (∀ o s gid t t', Issues s gid (.brai o) o → decides s gid o .uni = some true → t ∈ actingOf s gid o → t' ∈ actingOf s gid o →
    (srcsOf s gid (.brai o) o t).2.2.v ≠ (srcsOf s gid (.brai o) o t').2.2.v →
    exec (.brai o) s = .next (s.takeTrap gid { cause := .divergent })) ∧
  (∀ o s gid, Issues s gid (.brai o) o → decides s gid o .uni = none → exec (.brai o) s = .next (s.takeTrap gid { cause := .divergent }))

/-- R249; R249: `BranchResults` and `BraiResults` together. -/
def Obligations.Branches : Prop := Claims.BranchResults ∧ Claims.BraiResults

/-- R251: `IFP`, `ELSP` and `ENDP` push, turn and pop an IF entry; a full stack traps with detail 1, a missing IF entry with detail 2. -/
def Sys2Proof.Claims.MaskIf : Prop :=
  (∀ o s gid p, Issues s gid (.ifp o) o → IsPredMask s gid o p → (s.grp gid).stack.length < 16 →
    exec (.ifp o) s = .next (jumped s gid o false { s.grp gid with
      pc := nextPc s gid, act := (s.grp gid).act &&& p
      stack := ⟨.ifThen, (s.grp gid).act, (s.grp gid).act &&& p, away s gid (groupB s gid (.ifp o) o).v, 0⟩ :: (s.grp gid).stack })) ∧
  (∀ o s gid e rest, Issues s gid (.elsp o) o → (s.grp gid).stack = e :: rest → e.kind = .ifThen →
    exec (.elsp o) s = .next (jumped s gid o false { s.grp gid with
      pc := nextPc s gid, act := e.m &&& ~~~e.t
      stack := { e with kind := .ifElse, res := away s gid (groupB s gid (.elsp o) o).v } :: rest })) ∧
  (∀ o s gid e rest, Issues s gid (.endp o) o → (s.grp gid).stack = e :: rest → e.kind ≠ .loop →
    exec (.endp o) s = .next (jumped s gid o false { s.grp gid with pc := nextPc s gid, act := e.m, stack := rest })) ∧
  (∀ o s gid, Issues s gid (.ifp o) o → 16 ≤ (s.grp gid).stack.length →
    exec (.ifp o) s = .next (s.takeTrap gid { cause := .maskStack, detail := 1 })) ∧
  (∀ o s gid, Issues s gid (.elsp o) o → (∀ e ∈ (s.grp gid).stack.head?, e.kind ≠ .ifThen) →
    exec (.elsp o) s = .next (s.takeTrap gid { cause := .maskStack, detail := 2 })) ∧
  (∀ o s gid, Issues s gid (.endp o) o → (∀ e ∈ (s.grp gid).stack.head?, e.kind = .loop) →
    exec (.endp o) s = .next (s.takeTrap gid { cause := .maskStack, detail := 2 }))

/-- R251: `LOOPB` pushes a LOOP entry; `BRKP` and `CONTP` take the threads with a true predicate out of the mask and of every IF entry above the innermost LOOP
entry, and `CONTP` keeps them there as continued; `LOOPE` goes round for the threads whose predicate is true and the continued ones, or pops the entry. -/
def Sys2Proof.Claims.MaskLoop : Prop :=
  (∀ o s gid, Issues s gid (.loopb o) o → (s.grp gid).stack.length < 16 →
    exec (.loopb o) s = .next (jumped s gid o false { s.grp gid with
      pc := nextPc s gid
      stack := ⟨.loop, (s.grp gid).act, 0, away s gid (groupB s gid (.loopb o) o).v, nextPc s gid⟩ :: (s.grp gid).stack })) ∧
  (∀ o s gid p ifs e rest, Issues s gid (.brkp o) o → IsPredMask s gid o p → (s.grp gid).stack = ifs ++ e :: rest → e.kind = .loop →
    (∀ x ∈ ifs, x.kind ≠ .loop) →
    exec (.brkp o) s = .next (jumped s gid o false { s.grp gid with
      pc := nextPc s gid, act := (s.grp gid).act &&& ~~~((s.grp gid).act &&& p)
      stack := (ifs.map fun x => { x with m := x.m &&& ~~~((s.grp gid).act &&& p), t := x.t &&& ~~~((s.grp gid).act &&& p) }) ++ e :: rest })) ∧
  (∀ o s gid p ifs e rest, Issues s gid (.contp o) o → IsPredMask s gid o p → (s.grp gid).stack = ifs ++ e :: rest → e.kind = .loop →
    (∀ x ∈ ifs, x.kind ≠ .loop) →
    exec (.contp o) s = .next (jumped s gid o false { s.grp gid with
      pc := nextPc s gid, act := (s.grp gid).act &&& ~~~((s.grp gid).act &&& p)
      stack := (ifs.map fun x => { x with m := x.m &&& ~~~((s.grp gid).act &&& p), t := x.t &&& ~~~((s.grp gid).act &&& p) }) ++
        { e with t := e.t ||| ((s.grp gid).act &&& p) } :: rest })) ∧
  (∀ o s gid p e rest, Issues s gid (.loope o) o → IsPredMask s gid o p → (s.grp gid).stack = e :: rest → e.kind = .loop →
    exec (.loope o) s = .next (jumped s gid o false (
      let a := ((s.grp gid).act &&& p) ||| e.t
      if a = 0 then { s.grp gid with pc := nextPc s gid, act := e.m, stack := rest }
      else { s.grp gid with pc := e.body, act := a, stack := { e with t := 0 } :: rest })))

/-- R251; R251: `MaskIf` and `MaskLoop` together. -/
def Obligations.MaskStack : Prop := Claims.MaskIf ∧ Claims.MaskLoop

/-- R252, R253: `EXIT` ends the group where every thread leaves every mask, and otherwise takes the acting threads out of all of them; `NOP` only goes on;
`REGN` counts in `%ent` and records the index after it, the mask and the stack; `YIELD` puts the group behind the others and ends its run. -/
def Obligations.EndAndRegion : Prop :=
  (∀ o s gid, Issues s gid (.exit o) o → actingOf s gid o = [] → exec (.exit o) s = .next (s.retire gid o.hdr false true)) ∧
  (∀ o s gid, Issues s gid (.exit o) o → actingOf s gid o ≠ [] → o.hdr.u = true →
    exec (.exit o) s = .next ((s.endGroup gid).retire gid o.hdr false true)) ∧
  (∀ o s gid (e : BitVec 32), Issues s gid (.exit o) o → actingOf s gid o ≠ [] → o.hdr.u = false →
    (∀ t, e.getLsbD t = decide (t < 32 ∧ t ∈ actingOf s gid o)) →
    exec (.exit o) s = .next (
      let g : Group := { s.grp gid with
        act := (s.grp gid).act &&& ~~~e, stack := (s.grp gid).stack.map fun x => { x with m := x.m &&& ~~~e, t := x.t &&& ~~~e } }
      (if g.act = 0 ∧ ∀ x ∈ g.stack, x.m = 0 ∧ x.t = 0 then s.endGroup gid else s.setGrp gid g).retire gid o.hdr false true)) ∧
  (∀ o s gid, Issues s gid (.nop o) o → exec (.nop o) s = .next (s.retire gid o.hdr false false)) ∧
  (∀ o s gid, Issues s gid (.regn o) o →
    exec (.regn o) s = .next ((if actingOf s gid o = [] then s else s.setGrp gid { s.grp gid with
      ent := (s.grp gid).ent + 1, rgn := some ⟨nextPc s gid, (s.grp gid).act, (s.grp gid).stack⟩ }).retire gid o.hdr false false)) ∧
  (∀ o s gid, Issues s gid (.yield o) o →
    exec (.yield o) s = .next ((if actingOf s gid o = [] then s else s.setGrp gid { s.grp gid with yielded := true }).retire gid o.hdr false true))

/-! ## Memory instructions -/

namespace Sys2Proof.Claims

/-- An access through labels finds room at the rate buckets: fewer than 64 requests of its context wait there for its core (R312). -/
def BucketRoom (s : State) (gid : Nat) : Prop := s.atBuckets (unitOfGid gid) (s.blk (s.grp gid).blk).ctx < 64

/-- A load of `n` bytes of these threads may issue: no earlier acquire is outstanding (R175), the rate buckets have room (R312), every pointer passes level 0
(R57, R153 to R157), no late copy is met (R168), and nothing that it overlaps holds it (R180, R185). -/
def MayLoad (s : State) (gid n : Nat) (xs : List (Nat × W64)) : Prop :=
  let c := issOf s gid
  s.acquiring gid = false ∧ BucketRoom s gid ∧
  ∀ x ∈ xs, latePromise c x.1 x.2 n = .ok () ∧
    ∃ p, checkAccess c x.1 x.2 n .read false = .ok p ∧
      match p with | .sram sp a => 2 ≤ sp → localWaits c a n = none | _ => loadWaits c x.2 n = none

/-- The pointer in A of each acting thread. -/
def ptrsOf (s : State) (gid : Nat) (i : Instr) (o : Args) : List (Nat × W64) :=
  (actingOf s gid o).map fun t => (t, BitVec.ofNat 64 (srcsOf s gid i o t).2.1.v)

/-- R177: an element's base is a label stack, and the element of `n` bytes at the low 16 bits of its offset lies in the region; with `al` at a multiple of
its width. -/
def ElementOk (n : Nat) (al : Bool) (base : W64) (off : Nat) : Prop :=
  pForm base = 1 ∧ pOff base + off % 65536 + n ≤ 2 ^ 24 ∧ (al = true → (pOff base + off % 65536) % n = 0)

/-- The elements of a vector instruction: base in A, offset in `off`. -/
def elementsOf (s : State) (gid : Nat) (i : Instr) (o : Args) (off : Val × Val × Val → Nat) : List (Nat × W64) :=
  (actingOf s gid o).map fun t => let x := srcsOf s gid i o t; (t, pPlus (BitVec.ofNat 64 x.2.1.v) (off x % 65536))

end Sys2Proof.Claims

/-- R175, R177, R159: a load that may issue is outstanding for every acting thread, with D EMPTY there: `LD` from its pointers, `LDV` from its elements
under one count of GTH, `LDS` from a local space. -/
def Sys2Proof.Claims.LoadIssues : Prop :=
  (∀ m o s gid, Issues s gid (.ld m o) o → MayLoad s gid (tyBytes m.ty) (ptrsOf s gid (.ld m o) o) →
    exec (.ld m o) s = .next (((ptrsOf s gid (.ld m o) o).foldl
      (loadOne (issOf s gid) o.d.x (spec (.ld m o)).d.width m.ty m.ca none) s).retire gid o.hdr false false)) ∧
  (∀ m o s gid, Issues s gid (.ldv m o) o → actingOf s gid o ≠ [] →
    let xs := elementsOf s gid (.ldv m o) o fun x => x.2.2.v
    (∀ t ∈ actingOf s gid o, let x := srcsOf s gid (.ldv m o) o t; ElementOk (tyBytes m.ty) false (BitVec.ofNat 64 x.2.1.v) x.2.2.v) →
    MayLoad s gid (tyBytes m.ty) xs → (s.grp gid).gth < 255 →
    exec (.ldv m o) s = .next ((xs.foldl
      (loadOne (issOf s gid) o.d.x (spec (.ldv m o)).d.width m.ty m.ca (some (s.vector gid xs.length).2)) (s.vector gid xs.length).1).retire gid o.hdr false false)) ∧
  (∀ m o s gid, Issues s gid (.lds m o) o → s.acquiring gid = false →
    let xs := (actingOf s gid o).map fun t => (t, localPtr m (srcsOf s gid (.lds m o) o t).2.1.v)
    (∀ x ∈ xs, latePromise (issOf s gid) x.1 x.2 (lwBytes m.width) = .ok () ∧
      ∃ p, localCheck (issOf s gid) x.2 (lwBytes m.width) .read true = .ok p ∧
        match p with | .sram sp a => 2 ≤ sp → localWaits (issOf s gid) a (lwBytes m.width) = none | _ => True) →
    exec (.lds m o) s = .next ((xs.foldl (ldsOne (issOf s gid) o.d.x m) s).retire gid o.hdr false false))

/-- R198, R220: what one thread's load through a label stack leaves: D's registers EMPTY in that thread alone, and an operation with its destination,
its type and the bytes that have been found on the way; where some byte is missing, one request with its pointer at the context level. -/
def Sys2Proof.Claims.LoadOutstanding : Prop :=
  ∀ (s : State) gid t p (d : Opd) w ty ca gth g, FMap.find? s.groups gid = some g →
    let c := issOf s gid
    let s' := issueLoad c d w ty ca gth s (t, p)
    s'.grp gid = emptyOp g t w d ∧
    (∀ k, k ≠ gid → FMap.find? s'.groups k = FMap.find? s.groups k) ∧ s'.mem = s.mem ∧ s'.blocks = s.blocks ∧
    ∃ l : LoadOp, FMap.find? s'.ops s.nextId = some (.load l) ∧ l.gid = gid ∧ l.thread = t ∧ (∀ x ∈ destOf w d, l.dst = x) ∧ l.ty = ty ∧
      l.bytes.length = tyBytes ty ∧
      (l.bytes.all Option.isSome = true → s'.reqs = s.reqs) ∧
      (l.bytes.all Option.isSome = false → ∃ q, FMap.find? s'.reqs (s.nextId + 1) = some q ∧ q.client = .load s.nextId ∧ q.ptr = p ∧
        q.len = tyBytes ty ∧ q.stage = .context ∧ q.kind = .read)

/-- R175, R177, R159; R198, R220: `LoadIssues` and `LoadOutstanding` together. -/
def Obligations.Loads : Prop := Claims.LoadIssues ∧ Claims.LoadOutstanding

namespace Sys2Proof.Claims

/-- The core's side log has room for what a state holds (R183). -/
def LogRoom (s : State) (gid : Nat) (after : State) : Prop :=
  after.logSize (unitOfGid gid) ≤ 64 ∨ after.logSize (unitOfGid gid) ≤ s.logSize (unitOfGid gid)

/-- Stores of these threads may issue: no earlier acquire is outstanding and no write of the group waits for the full side log (R175, R183), no late copy
is met (R168), no TENT data goes straight into SRAM (R147), the release is performed (R176), and the log has room (R183). -/
def MayStore (s : State) (gid n : Nat) (rel : Option Scope) (xs : List Store) (after : State) : Prop :=
  let c := issOf s gid
  s.acquiring gid = false ∧ s.logBlocked gid = false ∧
  (∀ x ∈ xs, latePromise c x.t x.ptr n = .ok () ∧ x.waits = false) ∧
  (∀ sc ∈ rel, ∃ s', release c sc (xs.map fun x => x.ptr) = .ok s') ∧ LogRoom s gid after

/-- The stores that `ST` issues, given where each pointer leads. -/
def storesOf (s : State) (gid : Nat) (i : Instr) (o : Args) (n : Nat) (at_ : Nat → Place) : List Store :=
  (actingOf s gid o).map fun t =>
    let x := srcsOf s gid i o t
    ⟨t, BitVec.ofNat 64 x.2.1.v, at_ t, (leBytes n x.2.2.v).map some, x.2.2.st.mark, none⟩

/-- The state after some stores: a release commits first (R176); of two threads that write one byte the later one's enters (R316). There is none where one
of them finds the buffer or the queue full (R181, R119). -/
def stored (s : State) (gid : Nat) (rel : Option Scope) (xs : List Store) : Option State :=
  (lastWins xs).foldl (putStore (issOf s gid) rel) (some (if rel.isSome then s.commit (s.grp gid).blk else s))

/-- The bytes of a write but those of a trap frame that software does not write (R10, Table 16-2). -/
def writable (a : Nat) (bs : List (Option Byte)) : List (Option Byte) := bs.mapIdx fun i b => if frameRo (a + i) then none else b

end Sys2Proof.Claims

/-- R176, R177, R181, R159: stores that may issue enter the block's buffer or SRAM in thread order; a vector store also counts in GTH until its elements have
entered; `STS` writes local spaces, and a window of registers at once. Where a write finds the buffer or the queue full, the block commits and the instruction waits. -/
def Obligations.StoreIssues : Prop :=
  (∀ m o s gid (at_ : Nat → Place), Issues s gid (.st m o) o →
    (∀ t ∈ actingOf s gid o, checkAccess (issOf s gid) t (BitVec.ofNat 64 (srcsOf s gid (.st m o) o t).2.1.v) (tyBytes m.ty) .write false = .ok (at_ t)) →
    let xs := storesOf s gid (.st m o) o (tyBytes m.ty) at_
    actingOf s gid o ≠ [] → BucketRoom s gid → ∀ after, stored s gid m.rel xs = some after → MayStore s gid (tyBytes m.ty) m.rel xs after →
    exec (.st m o) s = .next (after.retire gid o.hdr false false)) ∧
  (∀ m o s gid (at_ : Nat → Place), Issues s gid (.st m o) o →
    (∀ t ∈ actingOf s gid o, checkAccess (issOf s gid) t (BitVec.ofNat 64 (srcsOf s gid (.st m o) o t).2.1.v) (tyBytes m.ty) .write false = .ok (at_ t)) →
    let xs := storesOf s gid (.st m o) o (tyBytes m.ty) at_
    actingOf s gid o ≠ [] → BucketRoom s gid → stored s gid m.rel xs = none → MayStore s gid (tyBytes m.ty) m.rel xs s →
    exec (.st m o) s = .next (((s.commit (s.grp gid).blk).stick gid 0).endRun gid)) ∧
  (∀ m o s gid, Issues s gid (.stv m o) o → actingOf s gid o ≠ [] →
    (∀ t ∈ actingOf s gid o, let x := srcsOf s gid (.stv m o) o t; ElementOk (tyBytes m.ty) false (BitVec.ofNat 64 x.2.1.v) x.1.v) →
    (s.grp gid).gth < 255 →
    let xs := (elementsOf s gid (.stv m o) o fun x => x.1.v).map fun p =>
      let b := (srcsOf s gid (.stv m o) o p.1).2.2
      (⟨p.1, p.2, .label, (leBytes (tyBytes m.ty) b.v).map some, b.st.mark, some s.nextId⟩ : Store)
    let v := (s.vector gid xs.length).1
    BucketRoom s gid →
    ∀ after, (lastWins xs).foldl (putStore (issOf s gid) m.rel) (some (if m.rel.isSome then v.commit (s.grp gid).blk else v)) = some after →
    MayStore s gid (tyBytes m.ty) m.rel xs after →
    exec (.stv m o) s = .next (({ after with ops := FMap.insert after.ops s.nextId (.gth ⟨gid, after.gthLeft s.nextId, (s.grp gid).gthN⟩) }).retire
      gid o.hdr false false)) ∧
  (∀ m o s gid (at_ : Nat → Place), Issues s gid (.sts m o) o → actingOf s gid o ≠ [] →
    (∀ t ∈ actingOf s gid o,
      localCheck (issOf s gid) (localPtr m (srcsOf s gid (.sts m o) o t).2.1.v) (lwBytes m.width) .write true = .ok (at_ t)) →
    let xs := (actingOf s gid o).map fun t =>
      let x := srcsOf s gid (.sts m o) o t
      (⟨t, localPtr m x.2.1.v, at_ t, (leBytes (lwBytes m.width) x.2.2.v).map some, x.2.2.st.mark, none⟩ : Store)
    ∀ after, (lastWins xs).foldl (stsOne (issOf s gid) (lwBytes m.width)) (some s) = some after → MayStore s gid (lwBytes m.width) none xs after →
    exec (.sts m o) s = .next (after.retire gid o.hdr false false))

/-- R157, R316, R10: a store of full data to `.lane` or `.core` that meets no poisoned unit in part writes its bytes into SRAM at once: every byte of memory that
its range does not hold reads as before, its own bytes read as stored but for a trap frame's read-only ones, which read as before, and beside memory, poison marks
and watches nothing changes. -/
def Obligations.LocalStoreFrame : Prop :=
  ∀ (s : State) gid (x : Store) sp a, x.at_ = .sram sp a → sp < 2 → s.refusedUnits a (writable a x.data) = [] →
    ∃ s', putStore (issOf s gid) none (some s) x = some s' ∧
    (∀ b, (b < a ∨ a + x.data.length ≤ b) → s'.byte b = s.byte b) ∧
    (∀ i v, x.data[i]? = some (some v) → frameRo (a + i) = false → s'.byte (a + i) = v) ∧
    (∀ i, x.data[i]? = some none ∨ frameRo (a + i) = true → s'.byte (a + i) = s.byte (a + i)) ∧
    s' = { s with mem := s'.mem, pois := s'.pois, watches := s'.watches }

namespace Sys2Proof.Claims

/-- The parts of an atomic instruction, given the pointer of each acting thread and where it leads. -/
def partsFor (s : State) (gid : Nat) (i : Instr) (o : Args) (n : Nat) (cmp : Bool) (ps : List (Nat × W64)) (at_ : Nat → Place) : List APart :=
  ps.map fun p =>
    let x := srcsOf s gid i o p.1
    let d : Val := if cmp then x.1 else {}
    ⟨p.1, p.2, at_ p.1, BitVec.ofNat 64 (x.2.2.v % 2 ^ (8 * n)), BitVec.ofNat 64 (d.v % 2 ^ (8 * n)), joinMark x.2.2.mark d.mark⟩

end Sys2Proof.Claims

namespace Sys2Proof.Claims

/-- Atomics of these parts may issue: nothing holds them (R168, R175, R183, R185, R147), and the release is performed (R176). -/
def MayAtom (s : State) (gid n : Nat) (red : Bool) (rel : Option Scope) (xs : List APart) : Prop :=
  atomWaits (issOf s gid) n red xs = .ok () ∧ ∀ sc ∈ rel, ∃ s', release (issOf s gid) sc (xs.map fun x => x.ptr) = .ok s'

/-- What an atomic does to its block before it goes (R176, R180, R366): a release commits; one outside `.lane` and `.core` makes the block not restartable,
and with a returned value commits it. -/
def atomBefore (s : State) (gid : Nat) (rel : Option Scope) (returns : Bool) (xs : List APart) : State :=
  let k := (s.grp gid).blk
  let s := if rel.isSome then s.commit k else s
  if xs.any fun x => x.at_.shared then (if returns then (s.noRestart k).commit k else s.noRestart k) else s

/-- Every location's part on its way, in the order of the pointers; there is no such state where one of them finds the buffer or the queue full. -/
def atomSent (s0 s : State) (gid : Nat) (op : AOp) (ty : ATy) (opId : Option Nat) (rel : Option Scope) (xs : List APart) : Option State :=
  ((byPointer xs).mapIdx fun i g => (i, g)).foldl (putAtomLoc (issOf s0 gid) op ty opId rel none) (some s)

/-- The operation of an `ATOM` whose results are outstanding: one location for each pointer, with the operands of its threads in their order (R187). -/
def atomOp (s : State) (gid : Nat) (m : Mods.Atom) (d : Opd) (w gth : Nat) (xs : List APart) : AtomOp :=
  { gid := gid, dst := destOf w d, op := m.op, ty := m.ty, gth := if m.v then some gth else none, num := (s.grp gid).atmN
    acq := if m.ord = Sys2Proof.Ord.acq ∨ m.ord = Sys2Proof.Ord.ar then some m.scope else none
    org := originOf (issOf s gid) ((xs.head?.map fun x : APart => x.t).getD 0) ((xs.head?.map fun x : APart => x.ptr).getD 0) 0
    locs := (byPointer xs).map fun g => { ptr := ((g.head?).map fun x : APart => x.ptr).getD 0, threads := g.map fun x => (x.t, x.val, x.cmp) } }

/-- The state with an `ATOM` outstanding: D EMPTY in its threads, the count of ATM, or of GTH with `.v`, one higher. -/
def atomOpened (s0 s : State) (gid : Nat) (m : Mods.Atom) (d : Opd) (w : Nat) (xs : List APart) : State :=
  let k := s.nextId
  let s := { s with nextId := k + 2 }
  let s := s.onGrp gid fun g => xs.foldl (fun g (x : APart) => emptyOp g x.t w d)
    (if m.v then { g with gth := g.gth + 1, gthN := g.gthN + 1 } else { g with atm := g.atm + 1, atmN := g.atmN + 1 })
  let s := { s with ops := FMap.insert s.ops k (.atom (atomOp s0 gid m d w (k + 1) xs)) }
  if m.v then { s with ops := FMap.insert s.ops (k + 1) (.gth ⟨gid, 1, (s0.grp gid).gthN⟩) } else s

/-- The scope of a release in an order. -/
def relOf (o : Sys2Proof.Ord) (sc : Scope) : Option Scope := if o = .rel ∨ o = .ar then some sc else none

end Sys2Proof.Claims

/-- R186 to R188, R177: `ATOM` and `RED` for threads whose pointers pass level 0, at multiples of their width (R174), that may issue: one part for each
pointer goes on its way; `ATOM`'s results are outstanding, counted in ATM or GTH. -/
def Obligations.AtomicIssues : Prop :=
  (∀ m o s gid (at_ : Nat → Place), Issues s gid (.atom m o) o → actingOf s gid o ≠ [] →
    let n := atyBytes m.ty
    let ps := if m.v then elementsOf s gid (.atom m o) o (fun x => x.1.v) else ptrsOf s gid (.atom m o) o
    let xs := partsFor s gid (.atom m o) o n (!m.v) ps at_
    let rel := relOf m.ord m.scope
    let s1 := atomBefore s gid rel true xs
    (m.v = true → ∀ t ∈ actingOf s gid o, let x := srcsOf s gid (.atom m o) o t; ElementOk n true (BitVec.ofNat 64 x.2.1.v) x.1.v) →
    (∀ p ∈ ps, checkAccess (issOf s gid) p.1 p.2 n .atomic true = .ok (at_ p.1)) →
    MayAtom s gid n false rel xs → (if m.v then (s.grp gid).gth else (s.grp gid).atm) < 255 →
    ∀ after, atomSent s (atomOpened s s1 gid m o.d.x (spec (.atom m o)).d.width xs) gid m.op m.ty (some s1.nextId) rel xs = some after → LogRoom s gid after →
    exec (.atom m o) s = .next (after.retire gid o.hdr false false)) ∧
  (∀ m o s gid (at_ : Nat → Place), Issues s gid (.red m o) o → actingOf s gid o ≠ [] →
    let n := atyBytes m.ty
    let ps := ptrsOf s gid (.red m o) o
    let xs := partsFor s gid (.red m o) o n false ps at_
    let rel := if m.rel then some m.scope else none
    (∀ p ∈ ps, checkAccess (issOf s gid) p.1 p.2 n .atomic true = .ok (at_ p.1)) →
    MayAtom s gid n true rel xs → ∀ after, atomSent s (atomBefore s gid rel false xs) gid m.op m.ty none rel xs = some after → LogRoom s gid after →
    exec (.red m o) s = .next (after.retire gid o.hdr false false))

/-- R191, R182: `FENCE` with a release goes on once every earlier write of the group and every write it has observed is performed at its scope, and with an
acquire once no load or atomic is outstanding; past `.grp` a release commits the block. `COMMIT` commits, with `.vfy` once nothing of the block is TENT. -/
def Obligations.FenceCommit : Prop :=
  (∀ m o s gid, Issues s gid (.fence m o) o → actingOf s gid o ≠ [] →
    let rel := m.ord = .rel ∨ m.ord = .ar
    let s1 := if rel ∧ m.scope ≠ .grp then s.commit (s.grp gid).blk else s
    (rel → s1.released gid m.scope = true) → (m.ord = .acq ∨ m.ord = .ar → s1.awaitsLoads gid = false) →
    exec (.fence m o) s = .next (((if rel ∧ m.scope ≠ .grp then s1.onCore (unitOfGid gid) fun k => { k with barrier := s1.nextId } else s1).endCont gid).retire
      gid o.hdr false false)) ∧
  (∀ m o s gid, Issues s gid (.fence m o) o → actingOf s gid o ≠ [] → (m.ord = .rel ∨ m.ord = .ar) → m.scope ≠ .grp →
    (s.commit (s.grp gid).blk).released gid m.scope = false →
    exec (.fence m o) s = .next ((((s.commit (s.grp gid).blk).onGrp gid fun g => { g with cont := some .await }).stick gid 0).endRun gid)) ∧
  (∀ vfy o s gid, Issues s gid (.commit vfy o) o → actingOf s gid o ≠ [] →
    (vfy = true → s.tentRegs (s.grp gid).blk = false ∧
      ∀ x ∈ s.wrs, x.2.place = .buffer → x.2.blk = (s.grp gid).blk → x.2.tent = none) →
    exec (.commit vfy o) s = .next ((s.commit (s.grp gid).blk).retire gid o.hdr false false))

namespace Sys2Proof.Claims

/-- The pointer in A and the length in B of a range instruction. -/
def rangePtr (s : State) (gid : Nat) (i : Instr) (o : Args) : W64 := BitVec.ofNat 64 (srcsOf s gid i o 0).2.1.v
def rangeLen (s : State) (gid : Nat) (i : Instr) (o : Args) : Nat := (srcsOf s gid i o 0).2.2.v

/-- R52, R122: a range lies in a region that a label stack names. -/
def RangeOk (p : W64) (len : Nat) : Prop := pForm p = 1 ∧ (len = 0 ∨ pOff p + len ≤ 2 ^ 24)

/-- The request of a prefetch of a thread (R123): it fills, and is no load. -/
def prefReq (s : State) (gid : Nat) (l1 : Bool) (x : Nat × W64) : Req :=
  { client := .prefetch l1, kind := .read, org := originOf (issOf s gid) x.1 x.2 0, ptr := x.2, len := 1, stage := .context, core := unitOfGid gid,
    const := l1, fill := l1 }

/-- The state in which the instruction caches of the cores in scope have lost some lines, and the fills of such lines that are under way fill nothing any more. -/
def icacheLess (s : State) (sc : Scope) (u : Nat) (gone : Nat → W64 → Bool) : State :=
  { s with
    cores := FMap.mapVals s.cores (fun v k => if inScope sc u v then { k with icache := k.icache.filter fun l => !gone l.ctx l.ptr } else k)
    reqs := FMap.mapVals s.reqs fun _ q => if inScope sc u q.core && gone (gCtx q.org.guidon) q.org.ptr then q.unfetch else q }

end Sys2Proof.Claims

/-- R52, R53, R123: `PREF` sends one request for each acting thread whose pointer is a label stack, and waits for nothing; `ICINV` drops the lines of its
range, or with `.all` those of its context, from the instruction caches in scope, with the fills that are under way, once its fence is met, and ends the run; until
then it waits, and a pre-emption waits for it. -/
def Sys2Proof.Claims.PrefetchAndIcache : Prop :=
  (∀ l1 o s gid, Issues s gid (.pref l1 o) o →
    exec (.pref l1 o) s = .next (((ptrsOf s gid (.pref l1 o) o).foldl (fun s' x => if pForm x.2 = 1 then s'.newReq (prefReq s gid l1 x) else s') s).retire
      gid o.hdr false false)) ∧
  (∀ m o s gid, Issues s gid (.icinv m o) o → actingOf s gid o ≠ [] → s.fenced gid m.scope = true →
    let p := rangePtr s gid (.icinv m o) o
    let len := rangeLen s gid (.icinv m o) o
    (m.all = false → RangeOk p len) →
    exec (.icinv m o) s = .next (((icacheLess s m.scope (unitOfGid gid) fun ctx ptr =>
      if m.all then isSys (unitOfGid gid) || decide (ctx = (s.blk (s.grp gid).blk).ctx)
      else decide (ctx = (s.blk (s.grp gid).blk).ctx) && decide (len ≠ 0) && overlap ptr 192 p len).endCont gid).retire gid o.hdr false true)) ∧
  (∀ m o s gid, Issues s gid (.icinv m o) o → actingOf s gid o ≠ [] → s.fenced gid m.scope = false →
    (m.all = false → RangeOk (rangePtr s gid (.icinv m o) o) (rangeLen s gid (.icinv m o) o)) →
    exec (.icinv m o) s = .next (((s.onGrp gid fun g => { g with cont := some .await }).stick gid 0).endRun gid))

/-- R122, R124, R125: `WBR`, once its fence is met, and `INVL1` look their range up once; `WBR` then writes back every dirty line of the range and retires once those write-backs
have been applied; `INVL1` drops the range, or with `.all` everything of its context, from the L1s in scope. An empty range passes. -/
def Sys2Proof.Claims.RangeOps : Prop :=
  (∀ inv o s gid, Issues s gid (.wbr inv o) o → actingOf s gid o ≠ [] → (s.grp gid).cont = none →
    let p := rangePtr s gid (.wbr inv o) o
    let len := rangeLen s gid (.wbr inv o) o
    RangeOk p len → s.fenced gid .mod = true → (∀ x ∈ s.wrs, x.2.onCore = true → x.2.unit ≠ unitOfGid gid) →
    exec (.wbr inv o) s = .next (if len = 0 then (s.endCont gid).retire gid o.hdr false false else s.stopped gid (beginRange (issOf s gid) p len inv.toNat))) ∧
  (∀ inv o s gid, Issues s gid (.wbr inv o) o → actingOf s gid o ≠ [] → (s.grp gid).cont = none → s.fenced gid .mod = false →
    exec (.wbr inv o) s = .next (((s.onGrp gid fun g => { g with cont := some .await }).stick gid 0).endRun gid)) ∧
  (∀ inv o s gid ids, Issues s gid (.wbr inv o) o → actingOf s gid o ≠ [] → (s.grp gid).cont = some (.wbr ids) →
    (∀ k ∈ ids, FMap.find? s.wbacks k = none) →
    exec (.wbr inv o) s = .next ((s.endCont gid).retire gid o.hdr false false)) ∧
  (∀ m o s gid, Issues s gid (.invl1 m o) o → actingOf s gid o ≠ [] → m.all = true →
    exec (.invl1 m o) s = .next ((s.l1All m.scope (unitOfGid gid) (s.blk (s.grp gid).blk).ctx).retire gid o.hdr false false)) ∧
  (∀ m o s gid, Issues s gid (.invl1 m o) o → actingOf s gid o ≠ [] → m.all = false → (s.grp gid).cont = none →
    let p := rangePtr s gid (.invl1 m o) o
    let len := rangeLen s gid (.invl1 m o) o
    RangeOk p len →
    exec (.invl1 m o) s = .next (if len = 0 then s.retire gid o.hdr false false else s.stopped gid (beginRange (issOf s gid) p len 2))) ∧
  (∀ m o s gid r st i off, Issues s gid (.invl1 m o) o → actingOf s gid o ≠ [] → m.all = false → (s.grp gid).cont = some (.range r) →
    s.rangeAt r = some (.region st i off) →
    exec (.invl1 m o) s = .next ((((s.dropReq r).l1Range m.scope (unitOfGid gid) st i off (rangeLen s gid (.invl1 m o) o)).endCont gid).retire
      gid o.hdr false false))

/-- R52, R53, R123; R122, R124, R125: `PrefetchAndIcache` and `RangeOps` together. -/
def Obligations.CacheControl : Prop := Claims.PrefetchAndIcache ∧ Claims.RangeOps

/-! ## Copies, waits, barriers, watches -/

namespace Sys2Proof.Claims

/-- R163: a copy of this shape between these pointers may issue: its ranges pass their checks, `dl` and `sl` being the SRAM behind local ones; its engine,
its counter and the rate buckets have room; no earlier acquire is outstanding; and what its source holds includes the group's own earlier writes. -/
def MayCopy (s : State) (gid : Nat) (dst src : W64) (x : CopyDesc) (dl sl : Option Nat) : Prop :=
  let c := issOf s gid
  let base (p : W64) : Nat := if pForm p = 2 then bf p 0 32 else pOff p
  copyPtr c dst .write (copyRange (base dst) x.e x.ds) (decide (x.e.1 = 0)) = .ok dl ∧
  (if x.zf then sl = none else copyPtr c src .read (copyRange (base src) x.e x.ss) (decide (x.e.1 = 0)) = .ok sl) ∧
  s.copyQueue (clusterOf (unitOfGid gid)) < 64 ∧ (s.grp gid).cpy < 255 ∧ BucketRoom s gid ∧ s.acquiring gid = false ∧
  (x.zf = false → (if privateSpace dst then s else s.commit (s.grp gid).blk).released gid (sourceScope s (s.blk (s.grp gid).blk).ctx src) = true)

/-- The state with a copy of some bytes under way: the promised time in D, the counter one higher, the copy in its cluster's engine (R163, R166). Which time is
promised, not before the present cycle, is the model's free value (log entry 46). -/
def copyOpened (s : State) (gid : Nat) (d : Opd) (dst src : W64) (x : CopyDesc) (dl sl : Option Nat) : State :=
  let g0 := s.grp gid
  let base (p : W64) : Nat := if pForm p = 2 then bf p 0 32 else pOff p
  let s1 := if privateSpace dst then s else s.commit g0.blk
  let due := promiseFrom s.now (2 * s.fresh)
  let s2 := s1.onGrp gid fun g => { writeOp g 0 64 d { v := due } with cpyN := g.cpyN + 1, cpy := g.cpy + 1 }
  let rd := copyRange (base dst) x.e x.ds
  let k : Copy :=
    { gid := gid, blk := g0.blk, ctx := (s.blk g0.blk).ctx, clu := clusterOf (unitOfGid gid), unit := unitOfGid gid, num := g0.cpyN, dst := dst, src := src
      dloc := dl, sloc := sl, e := x.e, ss := x.ss, ds := x.ds, zf := x.zf, lo := rd.1, hi := rd.2, promise := due, left := [(0, x.e.1 * x.e.2.1 * x.e.2.2)]
      org := { originOf (issOf s gid) 0 dst 1 with unit := 1536 + clusterOf (unitOfGid gid), slot := 0 } }
  { s2 with copies := FMap.insert s2.copies s2.nextId k, nextId := s2.nextId + 1, fresh := s2.fresh + 1 }

/-- A copy instruction passes the checks of R203 over all its sources: its pair of pointers, and a descriptor in registers. -/
def CopyPasses (s : State) (gid : Nat) (i : Instr) (o : Args) : Prop :=
  s.issuer = some gid ∧ actingOf s gid o ≠ [] ∧
  Passes (issOf s gid) o.hdr (copyReads (issOf s gid) i o) (dstEmpty (issOf s gid) (actingOf s gid o) 64 o.d.x)

/-- Word `k` of the descriptor that B names. -/
def descWord (s : State) (gid : Nat) (o : Args) (k : Nat) : Nat :=
  match o.b.x with
  | .w n => ((s.grp gid).ureg (n.val + k)).v.toNat
  | .cb off => bankVal (s.blk (s.grp gid).blk) (off.toNat + 8 * k) 64
  | _ => 0

end Sys2Proof.Claims

/-- R160 to R163: `CPY` is the copy of one row of B bytes, `CPYS` that of its descriptor; each that may issue is under way afterwards, with the promised time
in D. A copy of no bytes is complete at once, promised for the present cycle; a descriptor with E1, E2 = 0 or a reserved bit traps. -/
def Sys2Proof.Claims.CopyIssues : Prop :=
  (∀ o s gid n dl sl, CopyPasses s gid (.cpy o) o → o.a.x = .w n →
    let dst := ((s.grp gid).ureg n.val).v
    let src := ((s.grp gid).ureg (n.val + 1)).v
    let x : CopyDesc := ⟨((srcsOf s gid (.cpy o) o 0).2.2.v % 2 ^ 32, 1, 1), (0, 0), (0, 0), false⟩
    MayCopy s gid dst src x dl sl → x.e.1 ≠ 0 →
    exec (.cpy o) s = .next ((copyOpened s gid o.d.x dst src x dl sl).retire gid o.hdr false false)) ∧
  (∀ o s gid n x dl sl, CopyPasses s gid (.cpys o) o → o.a.x = .w n →
    let dst := ((s.grp gid).ureg n.val).v
    let src := ((s.grp gid).ureg (n.val + 1)).v
    copyDesc (descWord s gid o 0) (descWord s gid o 1) (descWord s gid o 2) (descWord s gid o 3) = some x →
    MayCopy s gid dst src x dl sl → x.e.1 ≠ 0 →
    exec (.cpys o) s = .next ((copyOpened s gid o.d.x dst src x dl sl).retire gid o.hdr false false)) ∧
  (∀ o s gid n dl sl, CopyPasses s gid (.cpy o) o → o.a.x = .w n →
    let dst := ((s.grp gid).ureg n.val).v
    let x : CopyDesc := ⟨(0, 1, 1), (0, 0), (0, 0), false⟩
    (srcsOf s gid (.cpy o) o 0).2.2.v % 2 ^ 32 = 0 → MayCopy s gid dst ((s.grp gid).ureg (n.val + 1)).v x dl sl →
    exec (.cpy o) s = .next (
      let s1 := if privateSpace dst then s else s.commit (s.grp gid).blk
      let s2 := s1.onGrp gid fun g => { writeOp g 0 64 o.d.x { v := s.now } with cpyN := g.cpyN + 1 }
      ({ s2 with fresh := s2.fresh + 1 } : State).retire gid o.hdr false false)) ∧
  (∀ o s gid, CopyPasses s gid (.cpys o) o →
    (let w (k : Nat) := descWord s gid o k; slice (w 0) 32 16 = 0 ∨ slice (w 0) 48 16 = 0 ∨ 1 < w 3) →
    exec (.cpys o) s = .next (s.takeTrap gid { cause := .copyDescriptor }))

/-- R162, Table 7-6: the fields of a descriptor whose extents are not 0 and whose reserved bits are. -/
def Sys2Proof.Claims.CopyDescriptor : Prop :=
  ∀ e0 e1 e2 (a b c d : Int) (zf : Bool), e0 < 2 ^ 32 → 0 < e1 → e1 < 2 ^ 16 → 0 < e2 → e2 < 2 ^ 16 →
    (∀ x ∈ [a, b, c, d], -2 ^ 31 ≤ x ∧ x < 2 ^ 31) →
    copyDesc (e0 + e1 * 2 ^ 32 + e2 * 2 ^ 48) ((a % 2 ^ 32).toNat + (b % 2 ^ 32).toNat * 2 ^ 32) ((c % 2 ^ 32).toNat + (d % 2 ^ 32).toNat * 2 ^ 32) zf.toNat
      = some ⟨(e0, e1, e2), (a, b), (c, d), zf⟩

/-- R160 to R163; R162, Table 7-6: `CopyIssues` and `CopyDescriptor` together. -/
def Obligations.Copies : Prop := Claims.CopyIssues ∧ Claims.CopyDescriptor

/-- R167: `SLEEPT` passes at once where its time has come, and otherwise its group sleeps until it; a sleeping group wakes at its instruction's successor
when its time has come, and not before. -/
def Sys2Proof.Claims.Sleeping : Prop :=
  (∀ rel o s gid, Issues s gid (.sleept rel o) o →
    let a := (srcsOf s gid (.sleept rel o) o 0).2.1.v
    let t := if rel then (s.now + a) % 2 ^ 64 else a
    exec (.sleept rel o) s = .next (
      if actingOf s gid o = [] ∨ t ≤ s.now then jumped s gid o true { s.grp gid with pc := nextPc s gid }
      else (s.onGrp gid fun g => { g with wait := .sleep t, since := s.now }).retire gid o.hdr true true)) ∧
  (∀ s gid g t, FMap.find? s.groups gid = some g → g.wait = .sleep t →
    exec (.sleepWake gid) s = .next (if t ≤ s.now then s.onGrp gid fun g => { g with wait := .none, cont := none, pc := g.pc + 1, readyAt := s.now } else s))

/-- R169: `WAITC` with an operand of 255 or more retires at once; otherwise it retires where every operation of its class but the n most recent is complete,
waits while one is not, and traps for the oldest that has failed, which is then reported. -/
def Sys2Proof.Claims.WaitForClass : Prop :=
  (∀ m o s gid, Issues s gid (.waitc m o) o → 255 ≤ (srcsOf s gid (.waitc m o) o 0).2.1.v →
    exec (.waitc m o) s = .next (s.retire gid o.hdr false false)) ∧
  (∀ m o s gid, Issues s gid (.waitc m o) o → actingOf s gid o ≠ [] → (srcsOf s gid (.waitc m o) o 0).2.1.v < 255 →
    let n := (srcsOf s gid (.waitc m o) o 0).2.1.v
    s.met gid m n = .clear →
    exec (.waitc m o) s = .next ((match m with
      | .cpy => s.covered gid fun x => !x.mma && decide (x.num < (s.grp gid).cpyN - n)
      | .mma => s.covered gid fun x => x.mma && decide (x.num < (s.grp gid).mmaN - n)
      | _ => s).retire gid o.hdr false false)) ∧
  (∀ m o s gid t s', Issues s gid (.waitc m o) o → actingOf s gid o ≠ [] → (srcsOf s gid (.waitc m o) o 0).2.1.v < 255 →
    s.met gid m (srcsOf s gid (.waitc m o) o 0).2.1.v = .failed t s' → exec (.waitc m o) s = .next (s'.takeTrap gid t)) ∧
  (∀ (s : State) gid n, (∀ (k : Nat) (c : Copy), (k, c) ∈ s.copies → c.gid = gid → (s.grp gid).cpyN - n ≤ c.num) → s.met gid .cpy n = .clear) ∧
  (∀ (s : State) gid n (k : Nat) (c : Copy), (k, c) ∈ s.copies → c.gid = gid → c.num < (s.grp gid).cpyN - n → s.met gid .cpy n ≠ .clear)

/-- R167; R169: `Sleeping` and `WaitForClass` together. -/
def Obligations.Waiting : Prop := Claims.Sleeping ∧ Claims.WaitForClass

namespace Sys2Proof.Claims

/-- The barrier word that A names passes the local checks, at SRAM byte `a`, and no write of the block's buffer overlaps it. -/
def BarrierAt (s : State) (gid : Nat) (sp : BSpace) (i : Instr) (o : Args) (a : Nat) : Prop :=
  barPlace (issOf s gid) (barPtr sp (srcsOf s gid i o 0).2.1.v) = .ok a

/-- What an arrival of `n` leaves of CNT, ARR and PH (R332). -/
def arrived (cnt arr ph n : Nat) : Nat × Nat := if arr + n = cnt then (0, ph + 1) else (arr + n, ph)

/-- The fields of the barrier word at a byte. -/
def cntAt (s : State) (a : Nat) : Nat := bf (s.barWord a) 32 16
def arrAt (s : State) (a : Nat) : Nat := bf (s.barWord a) 16 16
def phAt (s : State) (a : Nat) : Nat := bf (s.barWord a) 0 16

/-- The state after an arrival of `n` at an unpoisoned word (R332): the word's step, and the phase that was read in D. -/
def afterArrival (s : State) (gid : Nat) (sp : BSpace) (a n : Nat) (d : Opd) : State :=
  let s1 := s.commit (s.grp gid).blk
  let x := arrived (cntAt s a) (arrAt s a) (phAt s a) n
  let s2 := s1.setBar a (cntAt s a) x.1 x.2
  let s3 := if sp = .clu then s2.noRestart (s.grp gid).blk else s2
  s3.onGrp gid fun g => writeOp g 0 32 d { v := phAt s a }

end Sys2Proof.Claims

/-- R330 to R332: `BINIT` sets CNT to B and ARR to 0 and keeps PH; `ARV` arrives with B once the release at its scope is performed, and gives the phase it
read; a count of 0 or past 65,535, an unset word and an arrival of 0 or past CNT trap with details 1, 2 and 3; a poisoned word is left as it is, and gives a POIS
phase (R189). -/
def Sys2Proof.Claims.BarrierWords : Prop :=
  (∀ m o s gid a, Issues s gid (.binit m o) o → actingOf s gid o ≠ [] → BarrierAt s gid m (.binit m o) o a →
    let n := (srcsOf s gid (.binit m o) o 0).2.2.v
    barWaits (issOf s gid) a = none → 0 < n → n ≤ 65535 →
    exec (.binit m o) s = .next ((if s.anyPoison a 8 then s else s.setBar a n 0 (phAt s a)).retire gid o.hdr false false)) ∧
  (∀ m o s gid a, Issues s gid (.binit m o) o → actingOf s gid o ≠ [] → BarrierAt s gid m (.binit m o) o a →
    (let n := (srcsOf s gid (.binit m o) o 0).2.2.v; n = 0 ∨ 65535 < n) →
    exec (.binit m o) s = .next (s.takeTrap gid { cause := .barrier, detail := 1 })) ∧
  (∀ m o s gid a, Issues s gid (.arv m o) o → actingOf s gid o ≠ [] → BarrierAt s gid m.sp (.arv m o) o a →
    let n := (srcsOf s gid (.arv m o) o 0).2.2.v
    (s.commit (s.grp gid).blk).released gid m.scope = true → s.anyPoison a 8 = false →
    0 < n → arrAt s a + n ≤ cntAt s a →
    exec (.arv m o) s = .next ((afterArrival s gid m.sp a n o.d.x).retire gid o.hdr false false)) ∧
  (∀ m o s gid a, Issues s gid (.arv m o) o → actingOf s gid o ≠ [] → BarrierAt s gid m.sp (.arv m o) o a →
    let s1 := s.commit (s.grp gid).blk
    let s2 := if m.sp = .clu then s1.noRestart (s.grp gid).blk else s1
    s1.released gid m.scope = true → s.anyPoison a 8 = true →
    exec (.arv m o) s = .next ((s2.onGrp gid fun g => writeOp g 0 32 o.d.x { v := 0, st := .pois }).retire gid o.hdr false false)) ∧
  (∀ m o s gid a, Issues s gid (.arv m o) o → actingOf s gid o ≠ [] → BarrierAt s gid m.sp (.arv m o) o a →
    let n := (srcsOf s gid (.arv m o) o 0).2.2.v
    (s.commit (s.grp gid).blk).released gid m.scope = true → s.anyPoison a 8 = false →
    (cntAt s a = 0 ∨ n = 0 ∨ cntAt s a < arrAt s a + n) →
    exec (.arv m o) s = .next ((s.commit (s.grp gid).blk).takeTrap gid { cause := .barrier, detail := if cntAt s a = 0 then 2 else 3 }))

/-- R332, R334, R335: `WTB` goes on where the word's phase is not its B modulo 65,536, and parks where it is; `ARW` arrives and then parks unless its arrival has
ended the phase; an `ARW` whose arrival has been counted goes on in its wait; BARRIER_WAKE lets a parked group go on once the phase has changed. -/
def Sys2Proof.Claims.BarrierWaiting : Prop :=
  (∀ m o s gid a, Issues s gid (.wtb m o) o → actingOf s gid o ≠ [] → BarrierAt s gid m.sp (.wtb m o) o a →
    barWaits (issOf s gid) a = none →
    let p := (srcsOf s gid (.wtb m o) o 0).2.2.v % 65536
    exec (.wtb m o) s = .next ((if phAt s a ≠ p ∨ s.anyPoison a 8 = true then s.pass gid
      else s.onGrp gid fun g => { g with wait := .barrier (decide (m.sp = .clu)) a p false, since := s.now }).retire gid o.hdr true false)) ∧
  (∀ m o s gid a, Issues s gid (.arw m o) o → actingOf s gid o ≠ [] → (s.grp gid).arrived = none → BarrierAt s gid m.sp (.arw m o) o a →
    let n := (srcsOf s gid (.arw m o) o 0).2.2.v
    (s.commit (s.grp gid).blk).released gid m.scope = true → s.anyPoison a 8 = false →
    0 < n → arrAt s a + n ≤ cntAt s a →
    let s1 := (afterArrival s gid m.sp a n o.d.x).onGrp gid fun g => { g with cont := some (.arw (phAt s a) g.pc) }
    exec (.arw m o) s = .next ((barPark (issOf s gid) s1 (decide (m.sp = .clu)) a (phAt s a) true).retire gid o.hdr true false)) ∧
  (∀ m o s gid a ph, s.issuer = some gid → (s.grp gid).arrived = some ph → BarrierAt s gid m.sp (.arw m o) o a →
    exec (.arw m o) s = .next ((barPark (issOf s gid) s (decide (m.sp = .clu)) a ph true).retire gid o.hdr true false)) ∧
  (∀ s gid clu a p arw, (s.grp gid).wait = .barrier clu a p arw →
    exec (.barrierWake gid) s = .next (if phAt s a ≠ p ∨ s.anyPoison a 8 = true then s.wake gid else s))

/-- R330 to R332; R332, R334, R335: `BarrierWords` and `BarrierWaiting` together. -/
def Obligations.Barriers : Prop := Claims.BarrierWords ∧ Claims.BarrierWaiting

/-- R336: `WATCH` parks its group with a watch on the word that A names: a local word is read at once, a labelled one by a request; when a read finds another
value than B, the watch ends: the value is in D and the group goes on. -/
def Obligations.Watching : Prop :=
  (∀ m o s gid sp a, Issues s gid (.watch m o) o → actingOf s gid o ≠ [] → s.acquiring gid = false → BucketRoom s gid →
    let v := srcsOf s gid (.watch m o) o 0
    let n := if m.b64 then 8 else 4
    let p := BitVec.ofNat 64 v.2.1.v
    checkAccess (issOf s gid) 0 p n .read true = .ok (.sram sp a) →
    ∃ w : Watch, w.gid = gid ∧ w.ptr = p ∧ w.b64 = m.b64 ∧ w.b = BitVec.ofNat 64 (v.2.2.v % 2 ^ (8 * n)) ∧ w.wd = o.d.x ∧
      let parked := s.onGrp gid fun g => { g with wait := .watch s.nextId, since := s.now }
      let s1 : State := { parked with watches := FMap.insert s.watches s.nextId w, nextId := s.nextId + 1 }
      exec (.watch m o) s = .next ((s1.watchRead s.nextId w (sramKey a) (sramUnit a) false (s.le a n) (s.anyPoison a n)).retire gid o.hdr true false)) ∧
  (∀ m o s gid, Issues s gid (.watch m o) o → actingOf s gid o ≠ [] → s.acquiring gid = false → BucketRoom s gid →
    let v := srcsOf s gid (.watch m o) o 0
    let n := if m.b64 then 8 else 4
    let p := BitVec.ofNat 64 v.2.1.v
    checkAccess (issOf s gid) 0 p n .read true = .ok .label →
    ∃ w : Watch, w.gid = gid ∧ w.ptr = p ∧ w.b64 = m.b64 ∧ w.b = BitVec.ofNat 64 (v.2.2.v % 2 ^ (8 * n)) ∧ w.wd = o.d.x ∧
      let parked := s.onGrp gid fun g => { g with wait := .watch s.nextId, since := s.now }
      let s1 : State := { parked with watches := FMap.insert s.watches s.nextId w, nextId := s.nextId + 1 }
      exec (.watch m o) s = .next ((s1.newReq (watchReq s.nextId w (unitOfGid gid))).retire gid o.hdr true false)) ∧
  (∀ (s : State) id (w : Watch) key own late v pois, v ≠ w.b.toNat ∨ pois = true →
    s.watchRead id w key own late v pois =
      (({ s with watches := FMap.erase s.watches id } : State).onGrp w.gid fun g =>
        writeOp g 0 (8 * w.bytes) w.wd { v := v, st := if pois then .pois else .full }).wake w.gid) ∧
  (∀ s id w, FMap.find? s.watches id = some w → (s.grp w.gid).wait ≠ .watch id →
    exec (.watchReport id) s = .next { s with watches := FMap.erase s.watches id }) ∧
  (∀ s id w a, FMap.find? s.watches id = some w → (s.grp w.gid).wait = .watch id → s.watchLocal w = some a → w.due s.now = true →
    exec (.watchReport id) s = .next (s.watchRead id w (sramKey a) (sramUnit a) false (s.le a w.bytes) (s.anyPoison a w.bytes)))

/-! ## Traps -/

/-- R358: `TRAP` takes a trap of cause 29 with bits [15:0] of A in AUX0; `RETT` goes back to the index in its frame, under the shadow's mask and stack depth,
with `.rgn` to what the last `REGN` recorded; outside a handler, and with no region, it traps; `HALT` commits, halts and posts its record. -/
def Obligations.TrapsAndReturns : Prop :=
  (∀ o s gid t rest, Issues s gid (.trap o) o → actingOf s gid o = t :: rest →
    exec (.trap o) s = .next (s.takeTrap gid
      { cause := .software, aux0 := BitVec.ofNat 32 (slice (srcsOf s gid (.trap o) o t).2.1.v 0 16) })) ∧
  (∀ o s gid, Issues s gid (.rett false o) o → actingOf s gid o ≠ [] → (s.grp gid).inH = true →
    exec (.rett false o) s = .next (jumped s gid o true ((s.grp gid).leaveHandler
      (BitVec.ofNat 32 (s.le (s.frameAddr gid + 4) 4)) (s.grp gid).shadow.act
      ((s.grp gid).stack.drop ((s.grp gid).stack.length - (s.grp gid).shadow.depth))))) ∧
  (∀ o s gid r, Issues s gid (.rett true o) o → actingOf s gid o ≠ [] → (s.grp gid).inH = true → (s.grp gid).rgn = some r →
    exec (.rett true o) s = .next (jumped s gid o true ((s.grp gid).leaveHandler r.resume r.act r.stack))) ∧
  (∀ m o s gid, Issues s gid (.rett m o) o → actingOf s gid o ≠ [] → ((s.grp gid).inH = false ∨ (m = true ∧ (s.grp gid).rgn = none)) →
    exec (.rett m o) s = .next (s.takeTrap gid { cause := .illegal, detail := 12 })) ∧
  (∀ o s gid, Issues s gid (.halt o) o → actingOf s gid o ≠ [] → isSys (unitOfGid gid) = false →
    exec (.halt o) s = .next (((((s.commit (s.grp gid).blk).onGrp gid fun g => { g with wait := .halted, since := s.now }).post
      (s.blk (s.grp gid).blk).ctx (haltRec (s.grp gid) gid) 3 false none)).retire gid o.hdr false true)) ∧
  (∀ o s gid, Issues s gid (.halt o) o → actingOf s gid o ≠ [] → isSys (unitOfGid gid) = true →
    let s1 := s.commit (s.grp gid).blk
    exec (.halt o) s = .next ((if 0 < (s1.core (unitOfGid gid)).irq then s1.onCore (unitOfGid gid) fun k => { k with irq := k.irq - 1 }
      else s1.onGrp gid fun g => { g with wait := .irq, since := s1.now }).retire gid o.hdr false true))

/-! ## The matrix engine -/

namespace Sys2Proof.Claims

/-- An instruction whose operand in `field` (2 A, 3 B) is the first of `k` uniform registers passes the checks of R203 over all of them, and acts. -/
def GroupIssues (s : State) (gid : Nat) (i : Instr) (o : Args) (field k : Nat) : Prop :=
  s.issuer = some gid ∧ actingOf s gid o ≠ [] ∧
  Passes (issOf s gid) o.hdr (tileReads (issOf s gid) i o field k) (dstEmpty (issOf s gid) (actingOf s gid o) (spec i).d.width o.d.x)

/-- Uniform register `k` above the one that an operand names. -/
def above (s : State) (gid : Nat) (x : Opd) (k : Nat) : W64 := match x with | .w n => ((s.grp gid).ureg (n.val + k)).v | _ => 0

/-- No limit of R259 or R312 holds an engine operation: fewer than 16 of the group are open, its counter and the rate buckets have room; no acquire is outstanding. -/
def EngineRoom (s : State) (gid : Nat) : Prop := s.openOps gid < 16 ∧ (s.grp gid).mma < 255 ∧ BucketRoom s gid ∧ s.acquiring gid = false

/-- The strided operand of rows of `rb` bytes passes the checks of R163 and meets no late copy (R168); `loc` is the SRAM behind a local one. -/
def OperandOk (s : State) (gid : Nat) (p : W64) (k : AKind) (rb rows st planes ps : Nat) (loc : Option Nat) : Prop :=
  ∃ r : Int × Int, opRange (issOf s gid) p k rb rows st planes ps = .ok (loc, r.1, r.2) ∧ opPromise (issOf s gid) p r = .ok ()

/-- A write of the engine may be queued: to `.lane` or `.core`, or past the block's first commit point (R261). -/
def WriteOk (s : State) (gid : Nat) (p : W64) : Prop := privateSpace p = true ∨ (s.blk (s.grp gid).blk).rl = false

/-- The tile that an operand names is bound so. -/
def TileAt (s : State) (gid : Nat) (x : Opd) (t : Tile) : Prop := FMap.find? (s.grp gid).tiles (tileNo x) = some t

/-- The operation is queued (R259), and its word retires. -/
def queued (s0 s : State) (gid : Nat) (o : Args) (op : MOp) (tile : Nat) (t : Tile) (locs : List (Option Nat)) (p : W64) : State :=
  ((issOf s0 gid).enqueue s op tile t locs p).retire gid o.hdr false false

/-- R265: a multiplication is queued: A's and B's rows, and their scale rows for a block format, are read as their descriptor says; K is a multiple of the
chunk, and of the block; the tile has the mode and the kind that the instruction needs. -/
def MulOk (s : State) (gid : Nat) (i : Instr) (o : Args) (m : Mods.Mma) (t : Tile) (l : Nat → Option Nat) : Prop :=
  let k := (srcsOf s gid i o 0).2.2.v % 2 ^ 32
  let w (j : Nat) := above s gid o.a.x j
  GroupIssues s gid i o 2 (if isBlock m.fmt then 5 else 3) ∧ TileAt s gid o.d.x t ∧ t.pair = m.pair ∧
  t.mode = (if m.fmt = .f64 then .f64 else if m.welt then .welt else .f32) ∧
  k % chunkOf m.fmt = 0 ∧ (isBlock m.fmt = true → k % blockSize m.fmt = 0) ∧
  OperandOk s gid (w 0) .read (k * elemBits m.fmt / 8) 64 (slice (w 2).toNat 0 32) 1 0 (l 0) ∧
  OperandOk s gid (w 1) .read (k * elemBits m.fmt / 8) t.cols (slice (w 2).toNat 32 32) 1 0 (l 1) ∧
  (isBlock m.fmt = true → OperandOk s gid (w 3) .read (k / blockSize m.fmt) 64 (k / blockSize m.fmt) 1 0 (l 2) ∧
    OperandOk s gid (w 4) .read (k / blockSize m.fmt) t.cols (k / blockSize m.fmt) 1 0 (l 3)) ∧
  (isBlock m.fmt = false → l 2 = none ∧ l 3 = none) ∧ EngineRoom s gid

end Sys2Proof.Claims

/-- R254, R259, R265: `MMA` and `MDIST` that pass their checks are queued for their array; a tile that is unbound, or of another mode or kind, traps with "tile
mode", and a K that is no multiple of the chunk with "matrix shape". -/
def Sys2Proof.Claims.MultiplyIssues : Prop :=
  (∀ m o s gid t l, MulOk s gid (.mma m o) o m t l →
    exec (.mma m o) s = .next (queued s s gid o (.mma m ((srcsOf s gid (.mma m o) o 0).2.2.v % 2 ^ 32) ((List.range 5).map (above s gid o.a.x)))
      (tileNo o.d.x) t ((List.range 4).map l) (above s gid o.a.x 0))) ∧
  (∀ m o s gid t l, MulOk s gid (.mdist m o) o m t l →
    exec (.mdist m o) s = .next (queued s s gid o (.dist m ((srcsOf s gid (.mdist m o) o 0).2.2.v % 2 ^ 32) ((List.range 5).map (above s gid o.a.x)))
      (tileNo o.d.x) t ((List.range 4).map l) (above s gid o.a.x 0))) ∧
  (∀ m o s gid, GroupIssues s gid (.mma m o) o 2 (if isBlock m.fmt then 5 else 3) →
    (∀ t, TileAt s gid o.d.x t → t.pair ≠ m.pair ∨ t.mode ≠ (if m.fmt = .f64 then .f64 else if m.welt then .welt else .f32)) →
    exec (.mma m o) s = .next (s.takeTrap gid { cause := .tileMode })) ∧
  (∀ m o s gid t, GroupIssues s gid (.mma m o) o 2 (if isBlock m.fmt then 5 else 3) → TileAt s gid o.d.x t → t.pair = m.pair →
    t.mode = (if m.fmt = .f64 then .f64 else if m.welt then .welt else .f32) →
    (srcsOf s gid (.mma m o) o 0).2.2.v % 2 ^ 32 % chunkOf m.fmt ≠ 0 →
    exec (.mma m o) s = .next (s.takeTrap gid { cause := .matrixShape }))

/-- R254, R273 to R275: `MZERO`, `MLDT` and `MPAIR` bind their name, to the lowest free slot where it is unbound (`MPAIR` to one on each core of the pair, after
giving up the old ones); `MFREE` gives names up. -/
def Sys2Proof.Claims.TileNames : Prop :=
  (∀ m o s gid s' t, Issues s gid (.mzero m o) o → actingOf s gid o ≠ [] → s.openOps gid < 16 → (s.grp gid).mma < 255 →
    (issOf s gid).bindOne (tileNo o.d.x) m = some (s', t) →
    exec (.mzero m o) s = .next (queued s s' gid o (.zero m) (tileNo o.d.x) t [] 0)) ∧
  (∀ m o s gid s' t loc, GroupIssues s gid (.mldt m o) o 2 2 → EngineRoom s gid →
    let p := above s gid o.a.x 0
    let rs := above s gid o.a.x 1
    let cols := match FMap.find? (s.grp gid).tiles (tileNo o.d.x) with | some t => t.cols | none => 64
    OperandOk s gid p .read (imageRow m cols) 64 (slice rs.toNat 0 32) (imagePlanes m) (slice rs.toNat 32 32) loc →
    (issOf s gid).bindOne (tileNo o.d.x) m = some (s', t) →
    exec (.mldt m o) s = .next (queued s s' gid o (.ldt m p rs) (tileNo o.d.x) t [loc] p)) ∧
  (∀ m o s gid k j, Issues s gid (.mpair m o) o → actingOf s gid o ≠ [] → unitOfGid gid % 2 = 0 → s.openOps gid < 16 → (s.grp gid).mma < 255 →
    let u := unitOfGid gid
    let n := tileNo o.d.x
    let s1 := match FMap.find? (s.grp gid).tiles n with
      | some t => (s.releaseSlots u t).onGrp gid fun g => { g with tiles := FMap.erase g.tiles n }
      | none => s
    s1.freeSlot u = some k → s1.freeSlot (u + 1) = some j →
    exec (.mpair m o) s = .next (queued s (((s1.setPlane u k { own := gid }).setPlane (u + 1) j { own := gid }).onGrp gid fun g =>
      { g with tiles := FMap.insert g.tiles n ⟨m, true, k, j⟩ }) gid o (.pair m) n ⟨m, true, k, j⟩ [] 0)) ∧
  (∀ m o s gid, Issues s gid (.mpair m o) o → actingOf s gid o ≠ [] → unitOfGid gid % 2 = 1 →
    exec (.mpair m o) s = .next (s.takeTrap gid { cause := .pair })) ∧
  (∀ all o s gid, Issues s gid (.mfree all o) o → actingOf s gid o ≠ [] →
    exec (.mfree all o) s = .next (((((s.grp gid).tiles.filter fun x => all || decide (x.1 = tileNo o.d.x)).foldl
      (fun s' x => s'.releaseSlots (unitOfGid gid) x.2) s).onGrp gid fun g =>
        { g with tiles := FMap.keep g.tiles fun k _ => !(all || decide (k = tileNo o.d.x)) }).retire gid o.hdr false false)) ∧
  (∀ (s : State) gid n m g t, FMap.find? s.groups gid = some g → FMap.find? g.tiles n = some t →
    (issOf s gid).bindOne n m = some (s.onGrp gid fun g => { g with tiles := FMap.insert g.tiles n { t with mode := m } }, { t with mode := m })) ∧
  (∀ (s : State) gid n m k, FMap.find? (s.grp gid).tiles n = none → k < 8 → FMap.find? (s.core (unitOfGid gid)).slots k = none →
    (∀ j, j < k → FMap.find? (s.core (unitOfGid gid)).slots j ≠ none) →
    (issOf s gid).bindOne n m = some ((s.setPlane (unitOfGid gid) k { own := gid }).onGrp gid fun g => { g with tiles := FMap.insert g.tiles n ⟨m, false, k, 0⟩ },
      ⟨m, false, k, 0⟩))

/-- R261, R270, R273, R275: `MSTT`, `MDRN` and both forms of `MTOPK` that pass their checks are queued; a register form leaves its registers EMPTY; a welt tile
ranks nothing, and only a welt tile drains in another mode than `.diff`. -/
def Sys2Proof.Claims.DrainIssues : Prop :=
  (∀ o s gid t loc, GroupIssues s gid (.mstt o) o 2 2 → TileAt s gid o.d.x t → EngineRoom s gid →
    let p := above s gid o.a.x 0
    let rs := above s gid o.a.x 1
    OperandOk s gid p .write (imageRow t.mode t.cols) 64 (slice rs.toNat 0 32) (imagePlanes t.mode) (slice rs.toNat 32 32) loc → WriteOk s gid p →
    exec (.mstt o) s = .next (queued s s gid o (.stt p rs) (tileNo o.d.x) t [loc] p)) ∧
  (∀ m o s gid t loc, GroupIssues s gid (.mdrn m o) o 2 2 → TileAt s gid o.d.x t → (m.mode = .diff ∨ t.mode = .welt) → EngineRoom s gid →
    let p := above s gid o.a.x 0
    let rs := above s gid o.a.x 1
    OperandOk s gid p .write (t.cols * elemBits m.dst / 8) 64 (slice rs.toNat 0 32) (if m.mode = .pn then 2 else 1) (slice rs.toNat 32 32) loc →
    WriteOk s gid p →
    exec (.mdrn m o) s = .next (queued s s gid o (.drn m p rs (FMap.getD (s.grp gid).ag (tileNo o.b.x) 0)) (tileNo o.d.x) t [loc] p)) ∧
  (∀ m o s gid t loc, GroupIssues s gid (.mtopkMem m o) o 3 2 → TileAt s gid o.a.x t → t.mode ≠ .welt → EngineRoom s gid →
    let p := above s gid o.b.x 0
    let rs := above s gid o.b.x 1
    OperandOk s gid p .write (16 + (if m.val then 4 * (m.k1.toNat + 1) else 0)) 64 (slice rs.toNat 0 32) 1 0 loc → WriteOk s gid p →
    exec (.mtopkMem m o) s = .next (queued s s gid o (.topkMem m p rs) (tileNo o.a.x) t [loc] p)) ∧
  (∀ m o s gid t d, s.issuer = some gid → actingOf s gid o ≠ [] → o.d.x = .t d → TileAt s gid o.a.x t → t.mode ≠ .welt →
    s.openOps gid < 16 → (s.grp gid).mma < 255 →
    let n := (m.k1.toNat + 4) / 4 + (if m.val then m.k1.toNat + 1 else 0)
    Passes (issOf s gid) o.hdr [] false → (∀ t ∈ actingOf s gid o, ∀ j < n, ((s.grp gid).treg t (d.val + j)).st ≠ .empty) →
    exec (.mtopkReg m o) s = .next ((((issOf s gid).enqueue s (.topkReg m d.val (actingOf s gid o)) (tileNo o.a.x) t [] 0).onGrp gid fun g =>
      (actingOf s gid o).foldl (fun g t => (List.range n).foldl (fun g j => g.setT t (d.val + j) { g.treg t (d.val + j) with st := .empty }) g) g).retire
        gid o.hdr false false)) ∧
  (∀ m o s gid, GroupIssues s gid (.mdrn m o) o 2 2 → (∀ t, TileAt s gid o.d.x t → m.mode ≠ .diff ∧ t.mode ≠ .welt) →
    exec (.mdrn m o) s = .next (s.takeTrap gid { cause := .tileMode }))

/-- R254, R259, R265; R261, R270, R273, R275: `MultiplyIssues` and `DrainIssues` together. -/
def Obligations.EngineWork : Prop := Claims.MultiplyIssues ∧ Claims.DrainIssues

/-- R269: `MAGR` holds bits [48:32] of A as they are and its threshold brought into [0, 1]: a NaN is taken as 1 and raises "invalid"; `MAGR.get` reads the
register. R276: `MPROG` sets `%prog` where no operation of the group is open. -/
def Sys2Proof.Claims.AgreementRegisters : Prop :=
  (∀ o s gid, Issues s gid (.magr o) o → actingOf s gid o ≠ [] →
    let a := (srcsOf s gid (.magr o) o 0).2.1.v
    let T := slice a 0 32
    let one := 0x3F800000
    let nan := slice T 23 8 = 255 ∧ slice T 0 23 ≠ 0
    let held := if nan then one else if T.testBit 31 then 0 else if one < T then one else T
    exec (.magr o) s = .next ((s.setGrp gid ({ s.grp gid with
      ag := FMap.put (s.grp gid).ag (tileNo o.d.x) (BitVec.ofNat 64 (slice a 32 17 * 2 ^ 32 + held)) 0 }.flag (if nan then flInvalid else 0))).retire
        gid o.hdr false false)) ∧
  (∀ o s gid, Issues s gid (.magrGet o) o → actingOf s gid o ≠ [] →
    exec (.magrGet o) s = .next ((s.setGrp gid (writeOp (s.grp gid) 0 64 o.d.x
      { v := (FMap.getD (s.grp gid).ag (tileNo o.a.x) 0).toNat })).retire gid o.hdr false false)) ∧
  (∀ o s gid, Issues s gid (.mprog o) o → actingOf s gid o ≠ [] → s.openOps gid = 0 →
    exec (.mprog o) s = .next ((s.setGrp gid { s.grp gid with prog := BitVec.ofNat 32 (srcsOf s gid (.mprog o) o 0).2.1.v }).retire gid o.hdr false false))

/-- R262, R277: `MBATCH` closes the open batch under the next number, 1 after 65,535, and delivers it; `MWAIT` goes on where no closed batch has the number, or
every operation of it is complete, waits while one is not, and meets a failed one with the trap "matrix failed", after which that one is reported. -/
def Sys2Proof.Claims.Batches : Prop :=
  (∀ o s gid, Issues s gid (.mbatch o) o → actingOf s gid o ≠ [] → ((s.grp gid).closed.filter fun b => s.incomplete b.2).length < 16 →
    let n := if 65535 ≤ (s.grp gid).batch then 1 else (s.grp gid).batch + 1
    exec (.mbatch o) s = .next ((s.setGrp gid (writeOp { s.grp gid with
      batch := n, openB := []
      closed := ((s.grp gid).closed.filter fun b => decide (b.1 ≠ n) && b.2.any fun k => (FMap.find? s.eops k).isSome) ++ [(n, (s.grp gid).openB)] }
        0 32 o.d.x { v := n })).retire gid o.hdr false false)) ∧
  (∀ o s gid, Issues s gid (.mwait o) o → (∀ b ∈ (s.grp gid).closed, b.1 ≠ (srcsOf s gid (.mwait o) o 0).2.1.v) →
    exec (.mwait o) s = .next (s.retire gid o.hdr false false)) ∧
  (∀ o s gid b, Issues s gid (.mwait o) o → actingOf s gid o ≠ [] →
    (s.grp gid).closed.find? (fun b => b.1 = (srcsOf s gid (.mwait o) o 0).2.1.v) = some b →
    (∀ x ∈ s.eops, x.1 ∈ b.2 → x.2.failed = none) → s.incomplete b.2 = false →
    exec (.mwait o) s = .next (((s.covered gid fun x => x.mma && b.2.contains x.key).onGrp gid fun g =>
      { g with closed := g.closed.filter fun x => x.1 ≠ b.1 }).retire gid o.hdr false false)) ∧
  (∀ o s gid b k e rest, Issues s gid (.mwait o) o → actingOf s gid o ≠ [] →
    (s.grp gid).closed.find? (fun b => b.1 = (srcsOf s gid (.mwait o) o 0).2.1.v) = some b →
    s.eops.filter (fun x => b.2.contains x.1 && x.2.failed.isSome) = (k, e) :: rest → e.done = true →
    exec (.mwait o) s = .next ((({ s with eops := FMap.erase s.eops k } : State).takeTrap gid
      { cause := .matrixFailed, aux0 := BitVec.ofNat 32 e.ncan, aux1 := BitVec.ofNat 64 (e.prog.toNat + e.pc.toNat * 2 ^ 32), frec := e.failed.getD 0 })))

/-- R254, R273 to R275; R269; R262, R277: `TileNames` and `AgreementRegisters` and `Batches` together. -/
def Obligations.EngineControl : Prop := Claims.TileNames ∧ Claims.AgreementRegisters ∧ Claims.Batches

/-! ## Token routing and collectives -/

namespace Sys2Proof.Claims

/-- The die and the context of a group. -/
def dieAt (gid : Nat) : Nat := dieOf (unitOfGid gid)
def ctxAt (s : State) (gid : Nat) : Nat := (s.blk (s.grp gid).blk).ctx

/-- The four words of a descriptor in uniform registers. -/
def fourWords (s : State) (gid : Nat) (x : Opd) : List W64 := descWords (issOf s gid) x

/-- The round of a session that a descriptor names, as it stands at issue. -/
def roundAt (s : State) (gid : Nat) (d : List W64) : Session := s.roundOf d (dieAt gid) (ctxAt s gid) (routeOrg (issOf s gid) 0 0)

/-- The key of the session that a descriptor names. -/
def roundKey (s : State) (gid : Nat) (d : List W64) : Nat := sessKey (dieAt gid) (ctxAt s gid) (bf (dw d 1) 32 16)

/-- The group's earlier writes are performed in this module past the commit, and no acquire is outstanding. -/
def PastWrites (s : State) (gid : Nat) : Prop := (s.commit (s.grp gid).blk).ownReleased gid .mod = true ∧ s.acquiring gid = false

end Sys2Proof.Claims

/-- R344, R346 to R348: `RSEND` appends a token for each acting thread to the send lists of its session; `RPOST` opens a receive buffer; `RFLUSH` sends every list
of the session on its way and counts in NET until the session has ended; `RSTAT` delivers a count. -/
def Sys2Proof.Claims.RoutingIssues : Prop :=
  (∀ o s gid xs, GroupIssues s gid (.rsend o) o 3 4 →
    let d := fourWords s gid o.b.x
    let r := roundAt s gid d
    r.flush = none → routeOk d = true → rsendCheck (issOf s gid) r (sendsOf (issOf s gid) o (actingOf s gid o)) = .ok xs → PastWrites s gid →
    (s.commit (s.grp gid).blk).entriesUsed (dieAt gid) + xs.length ≤ 8192 →
    let s1 := ((s.commit (s.grp gid).blk).noRestart (s.grp gid).blk).issueDrop gid
    exec (.rsend o) s = .next ((xs.foldl (appendToken (issOf s gid) (roundKey s gid d)) { s1 with sess := FMap.insert s1.sess (roundKey s gid d) r }).retire
      gid o.hdr false false)) ∧
  (∀ o s gid, GroupIssues s gid (.rpost o) o 2 4 →
    let d := fourWords s gid o.a.x
    let w (k lo n : Nat) := bf (dw d k) lo n
    let k := (s.grp gid).blk
    w 3 48 16 = 0 → 1 ≤ w 2 32 32 → w 2 32 32 ≤ 65535 → 1 ≤ w 3 16 16 → w 2 0 32 ≤ 16384 →
    s.openBuf (dieAt gid) (ctxAt s gid) (w 3 32 16) (w 3 0 16) = none →
    boundHere (issOf s gid) (dw d 0) .write (32 * w 2 32 32) = .ok () → boundHere (issOf s gid) (dw d 1) .write (w 2 32 32 * w 2 0 32) = .ok () →
    ((s.commit k).bufs.filter fun x => decide (x.2.die = dieAt gid) && x.2.isOpen).length < 1024 → (s.grp gid).net < 255 → s.acquiring gid = false →
    ∃ b : RBuf, b.die = dieAt gid ∧ b.ctx = ctxAt s gid ∧ b.sess = w 3 32 16 ∧ b.exp = w 3 0 16 ∧ b.hdr = dw d 0 ∧ b.pay = dw d 1 ∧ b.cap = w 2 32 32 ∧
      b.ps = w 2 0 32 ∧ b.e = w 3 16 16 ∧ b.count = 0 ∧ b.ends = 0 ∧ b.redir = 0 ∧ b.isOpen = true ∧
      let x := ((s.commit k).noRestart k).netBegin gid .post
      b.op = x.2 ∧
      exec (.rpost o) s = .next ((({ x.1 with
        bufs := FMap.insert (FMap.keep x.1.bufs fun _ y => !(y.is (dieAt gid) (ctxAt s gid) (w 3 32 16) (w 3 0 16) && y.ended)) x.1.nextId b
        nextId := x.1.nextId + 1 } : State).takeHeld (dieAt gid) (ctxAt s gid) (w 3 32 16) (w 3 0 16)).retire gid o.hdr false false)) ∧
  (∀ o s gid vs, GroupIssues s gid (.rflush o) o 3 4 →
    let d := fourWords s gid o.b.x
    let r := roundAt s gid d
    r.flush = none → routeOk d = true → readMap (issOf s gid) r.map ((List.range r.nexp).map fun e => (0, e)) = .ok vs →
    (s.grp gid).net < 255 → s.acquiring gid = false →
    let x := ((s.commit (s.grp gid).blk).issueDrop gid).netBegin gid .flush
    let s1 : State := { x.1 with sess := FMap.insert x.1.sess (roundKey s gid d) { r with flush := some x.2, tos := validExperts vs } }
    let lists := s1.toks.filter fun y => decide (y.2.die = dieAt gid) && decide (y.2.src = s1.modNo) && decide (y.2.ctx = ctxAt s gid) &&
      decide (y.2.sess = r.sess) && (match y.2.at_ with | .list _ => true | _ => false)
    exec (.rflush o) s = .next (((lists.foldl (fun s' y => s'.listGo y.2) s1).flushCheck (roundKey s gid d)).retire gid o.hdr false false)) ∧
  (∀ m o s gid, Issues s gid (.rstat m o) o → actingOf s gid o ≠ [] →
    let a := (srcsOf s gid (.rstat m o) o 0).2.1.v
    let b := s.lastBuf (dieAt gid) (ctxAt s gid) (slice a 16 16) (slice a 0 16)
    let r := FMap.find? s.sess (sessKey (dieAt gid) (ctxAt s gid) (slice a 16 16))
    exec (.rstat m o) s = .next ((s.setGrp gid (writeOp (s.grp gid) 0 64 o.d.x
      { v := match m with
          | .cnt => (b.map fun x => x.count).getD 0 | .ends => (b.map fun x => x.ends).getD 0 | .redir => (b.map fun x => x.redir).getD 0
          | .sent => (r.map fun x => x.sent).getD 0 | .ret => (r.map fun x => x.ret).getD 0 | .drop => (r.map fun x => x.drop).getD 0
        st := (worst (srcsOf s gid (.rstat m o) o 0)).asOf (s.blk (s.grp gid).blk).tents })).retire gid o.hdr false false))

/-- R351: `COLL` whose member list is sound, names this module at its rank and members of the domain alone, and whose tag is free, is under way: counted in NET,
its descriptor sent to every other member. A bad list traps with detail 1, a tag in use with detail 2. -/
def Sys2Proof.Claims.CollectiveIssues : Prop :=
  (∀ m o s gid lst, GroupIssues s gid (.coll m o) o 2 4 →
    let d := fourWords s gid o.a.x
    let rank := bf (dw d 2) 48 16
    let g := bf (dw d 2) 32 16
    let tag := BitVec.ofNat 32 (srcsOf s gid (.coll m o) o 0).2.2.v
    rank < g → g ≤ 512 → readList (issOf s gid) (dw d 3) g = .ok lst →
    (distinct lst).length = g → lst[rank]?.getD 0 = s.modNo → (∀ x ∈ lst, s.member x = true) → s.collOf tag = none →
    let k : Coll := { op := s.nextId, unit := unitOfGid gid, m := m, tag := tag, snd := dw d 0, rcv := dw d 1, rank := rank, g := g, n := bf (dw d 2) 0 32
                      lst := lst, heard := [rank], org := routeOrg (issOf s gid) 0 (dw d 0) }
    boundHere (issOf s gid) k.snd .read (k.sizes.1 * ctyBytes m.ty) = .ok () → boundHere (issOf s gid) k.rcv .write (k.sizes.2 * ctyBytes m.ty) = .ok () →
    PastWrites s gid → (s.grp gid).net < 255 →
    let x := (((s.commit (s.grp gid).blk).noRestart (s.grp gid).blk).issueDrop gid).netBegin gid .coll
    let s1 : State := { x.1 with colls := FMap.insert x.1.colls x.1.nextId { k with op := x.2 }, nextId := x.1.nextId + 1 }
    exec (.coll m o) s = .next ((k.others.foldl (fun s' j => s'.collSend k j 0 0 0 k.desc) s1).retire
      gid o.hdr false false)) ∧
  (∀ m o s gid, GroupIssues s gid (.coll m o) o 2 4 →
    (let d := fourWords s gid o.a.x; bf (dw d 2) 32 16 ≤ bf (dw d 2) 48 16 ∨ 512 < bf (dw d 2) 32 16) →
    exec (.coll m o) s = .next (s.takeTrap gid { cause := .collective, detail := 1 })) ∧
  (∀ m o s gid lst, GroupIssues s gid (.coll m o) o 2 4 →
    let d := fourWords s gid o.a.x
    let g := bf (dw d 2) 32 16
    bf (dw d 2) 48 16 < g → g ≤ 512 → readList (issOf s gid) (dw d 3) g = .ok lst →
    (distinct lst).length = g → lst[bf (dw d 2) 48 16]?.getD 0 = s.modNo → (∀ x ∈ lst, s.member x = true) →
    (s.collOf (BitVec.ofNat 32 (srcsOf s gid (.coll m o) o 0).2.2.v)).isSome = true →
    exec (.coll m o) s = .next (s.takeTrap gid { cause := .collective, detail := 2 }))

/-- R344, R346 to R348; R351: `RoutingIssues` and `CollectiveIssues` together. -/
def Obligations.Network : Prop := Claims.RoutingIssues ∧ Claims.CollectiveIssues

/-! ## Launches -/

namespace Sys2Proof.Claims

/-- A status in D, as `LAUNCH`, `MBXFWD`, the gates and the instructions on queues and contexts deliver it: FULL, tag 31. -/
def withStatus (s : State) (gid : Nat) (d : Opd) (n : Nat) : State := s.onGrp gid fun g => { writeOp g 0 64 d { v := n } with cont := none }

/-- The packet in the eight registers from A on. -/
def packetAt (s : State) (gid : Nat) (x : Opd) : List W64 := (List.range 8).map (above s gid x)

end Sys2Proof.Claims

/-- R295, R298: `LAUNCH` by a cobbler commits, and delivers 3 for a LID that is not live, 4 for a set beyond the last, 5 where no cluster of the die is visible, 6 where
the set could never be held, and, once its blocks have cores and the group's writes are performed, starts the set and delivers 0; by any other group it traps. -/
def Sys2Proof.Claims.LaunchResults : Prop :=
  (∀ m o s gid, GroupIssues s gid (.launch m o) o 2 8 → (s.grp gid).cob = false →
    exec (.launch m o) s = .next (s.takeTrap gid { cause := .launchPrivilege })) ∧
  (∀ m o s gid, GroupIssues s gid (.launch m o) o 2 8 → (s.grp gid).cob = true →
    let s1 := s.commit (s.grp gid).blk
    let p := packetAt s gid o.a.x
    let b := (srcsOf s gid (.launch m o) o 0).2.2.v
    let part := (s.blk (s.grp gid).blk).part
    let done (s' : State) (n : Nat) := exec (.launch m o) s = .next ((withStatus s' gid o.d.x n).retire gid o.hdr false true)
    (s1.liveRec (pktLid p) part = none → done s1 3) ∧
    ∀ r, s1.liveRec (pktLid p) part = some r →
      (r.t ≤ pktFirst p → done s1 4) ∧
      (pktFirst p < r.t → s1.launchCluster (dieAt gid) b = none → done s1 5) ∧
      ∀ cl, pktFirst p < r.t → s1.launchCluster (dieAt gid) b = some cl →
        let could := if b = 16 then (s1.visibleOn (dieAt gid)).any (fun x => s1.everFits x r.hdr r.gpb r.bps) else s1.everFits cl r.hdr r.gpb r.bps
        (could = false → done s1 6) ∧
        (could = true → s1.placement cl r.hdr r.gpb r.bps (fun _ => false) = none → m = true → done s1 1) ∧
        ∀ pl, could = true → s1.placement cl r.hdr r.gpb r.bps (fun _ => false) = some pl → s1.released gid .mod = true →
          let s2 := (s1.noRestart (s.grp gid).blk).launchSet (pktLid p) r (pktFirst p) pl
          done { s2 with recs := FMap.modify s2.recs (pktLid p) fun r => { r with launched := r.launched + 1 } } 0)

/-- R297, R299, R300: `MBXRD` takes the oldest entry of its die's mailbox, waits while there is none, and with `.try` gives zeros; `MBXFWD` delivers 2 for a die outside
the partition, 3 for a LID that is not live, and else puts the packet into that die's mailbox and delivers 0, or with `.try` 1 where it is full; `PENNANT` passes once the
group's writes are performed. -/
def Sys2Proof.Claims.MailboxAndPennant : Prop :=
  (∀ m o s gid, Issues s gid (.mbxrd m o) o → actingOf s gid o ≠ [] → packetEmpty (s.grp gid) o.d.x = false → (s.grp gid).cob = true →
    exec (.mbxrd m o) s = .next ((match FMap.getD s.boxes (dieAt gid) [] with
      | p :: rest => (({ s with boxes := FMap.put s.boxes (dieAt gid) rest [] } : State).onGrp gid fun g => putPacket g o.d.x p).pass gid
      | [] => if m then (s.onGrp gid fun g => putPacket g o.d.x (List.replicate 8 0)).pass gid
              else s.onGrp gid fun g => { g with wait := .mailbox, since := s.now }).retire gid o.hdr true true)) ∧
  (∀ m o s gid, GroupIssues s gid (.mbxfwd m o) o 2 8 → (s.grp gid).cob = true →
    let s1 := s.commit (s.grp gid).blk
    let p := packetAt s gid o.a.x
    let b := (srcsOf s gid (.mbxfwd m o) o 0).2.2.v
    let part := (s.blk (s.grp gid).blk).part
    let done (s' : State) (n : Nat) := exec (.mbxfwd m o) s = .next ((withStatus s' gid o.d.x n).retire gid o.hdr false true)
    (b ∉ s1.partDies part → done s1 2) ∧
    (b ∈ s1.partDies part → s1.liveRec (pktLid p) part = none → done s1 3) ∧
    (b ∈ s1.partDies part → s1.liveRec (pktLid p) part ≠ none → s1.boxFree b = 0 → m = true → done s1 1) ∧
    (b ∈ s1.partDies part → s1.liveRec (pktLid p) part ≠ none → s1.boxFree b ≠ 0 → done ((s1.noRestart (s.grp gid).blk).toBox b p) 0)) ∧
  (∀ o s gid, Issues s gid (.pennant o) o → actingOf s gid o ≠ [] →
    let k := (s.grp gid).blk
    (s.commit k).released gid .mod = true →
    exec (.pennant o) s = .next ((((s.commit k).noRestart k).passGroup k (s.grp gid).num).retire gid o.hdr false false)) ∧
  (∀ o s gid, Issues s gid (.pennant o) o → actingOf s gid o ≠ [] → (s.commit (s.grp gid).blk).released gid .mod = false →
    exec (.pennant o) s = .next (((s.commit (s.grp gid).blk).stick gid 0).endRun gid))

/-- R295, R298; R297, R299, R300: `LaunchResults` and `MailboxAndPennant` together. -/
def Obligations.Launching : Prop := Claims.LaunchResults ∧ Claims.MailboxAndPennant

/-! ## The supervisor's instructions -/

/-- R373, R74, R75: `LINV` drops the cached entries that it selects, at the context level or the chip level; `LSYNC` goes on once no request that a dropped entry granted
is left. -/
def Sys2Proof.Claims.LabelCaches : Prop :=
  (∀ m o s gid, Issues s gid (.linv m o) o → actingOf s gid o ≠ [] →
    let a := (srcsOf s gid (.linv m o) o 0).2.1.v
    exec (.linv m o) s = .next ((if m.chip then s.linvChip (unitOfGid gid) m.scope (slice a 0 12) (slice a 16 12)
      else s.linvCtx (unitOfGid gid) m.scope m.allc (slice a 32 12) (slice a 0 12) (slice a 16 12)).retire gid o.hdr false false)) ∧
  (∀ o s gid, Issues s gid (.lsync o) o → actingOf s gid o ≠ [] →
    exec (.lsync o) s = .next (if s.undrained (unitOfGid gid) then (s.stick gid 0).endRun gid
      else (s.onCore (unitOfGid gid) fun k => { k with dropped := [] }).retire gid o.hdr false false)) ∧
  (∀ (s : State) u allc ctx lo hi v l, l ∈ ((s.linvCtx u .mod allc ctx lo hi).core v).lcache →
    l ∈ (s.core v).lcache ∧ ((allc = false ∧ l.ctx ≠ ctx) ∨ l.o < lo ∨ hi < l.o)) ∧
  (∀ (s : State) u allc ctx lo hi v l, l ∈ (s.core v).lcache → ((allc = false ∧ l.ctx ≠ ctx) ∨ l.o < lo ∨ hi < l.o) →
    l ∈ ((s.linvCtx u .mod allc ctx lo hi).core v).lcache)

/-- R374, R375: `LTWR` delivers 2 for a bad table address, 1 for an entry that the levels' rules refuse, and else writes the entry and delivers 0; `GATE.close` delivers 2
and 1, or closes the entry (GATED, with the state it had) and delivers 0 once nothing it granted is in flight; `GATE.open` gives a gated entry the state it held. -/
def Sys2Proof.Claims.TablesAndGates : Prop :=
  (∀ m o s gid, GroupIssues s gid (.ltwr m o) o 3 2 →
    let a := BitVec.ofNat 64 (srcsOf s gid (.ltwr m o) o 0).2.1.v
    let e : BitVec 128 := above s gid o.b.x 1 ++ above s gid o.b.x 0
    let done (s' : State) (n : Nat) := exec (.ltwr m o) s = .next ((withStatus s' gid o.d.x n).retire gid o.hdr false false)
    (s.tabKey m a = none → done s 2) ∧
    ∀ key, s.tabKey m a = some key →
      ((if m = .acl then ruleOk e else entryOk (tabLvl m) e) = false → done s 1) ∧
      (m = .acl → ruleOk e = true → done (s.setTab key e) 0) ∧
      (m ≠ .acl → entryOk (tabLvl m) e = true →
        let s1 := s.setTab key (mergeEntry (s.tab key) e)
        done (if m = .stack then s1.setView (bf a 48 12) (bf a 2 16) else s1) 0)) ∧
  (∀ m o s gid, Issues s gid (.gateClose m o) o → actingOf s gid o ≠ [] → (s.grp gid).cont = none →
    let a := BitVec.ofNat 64 (srcsOf s gid (.gateClose m o) o 0).2.1.v
    let u := unitOfGid gid
    let done (s' : State) (n : Nat) := exec (.gateClose m o) s = .next ((withStatus s' gid o.d.x n).retire gid o.hdr false false)
    (s.tabKey (gateTab m) a = none → done s 2) ∧
    ∀ key, s.tabKey (gateTab m) a = some key →
      (eST (s.tab key) = 2 → done s 1) ∧
      (eST (s.tab key) ≠ 2 →
        let s1 := s.gateClose u (gateTab m) a key
        (s1.count key = 0 → (m = .ctx → s1.undrained u = false) → done s1 0) ∧
        (s1.count key ≠ 0 ∨ (m = .ctx ∧ s1.undrained u = true) →
          exec (.gateClose m o) s = .next (((s1.onGrp gid fun g => { g with cont := some (.gate key) }).stick gid 0).endRun gid)))) ∧
  (∀ m o s gid key, Issues s gid (.gateClose m o) o → actingOf s gid o ≠ [] → (s.grp gid).cont = some (.gate key) →
    (s.count key = 0 → (m = .ctx → s.undrained (unitOfGid gid) = false) →
      exec (.gateClose m o) s = .next ((withStatus s gid o.d.x 0).retire gid o.hdr false false)) ∧
    (s.count key ≠ 0 ∨ (m = .ctx ∧ s.undrained (unitOfGid gid) = true) →
      exec (.gateClose m o) s = .next (((s.onGrp gid fun g => { g with cont := some (.gate key) }).stick gid 0).endRun gid))) ∧
  (∀ m o s gid, Issues s gid (.gateOpen m o) o → actingOf s gid o ≠ [] →
    let a := BitVec.ofNat 64 (srcsOf s gid (.gateOpen m o) o 0).2.1.v
    let done (s' : State) (n : Nat) := exec (.gateOpen m o) s = .next ((withStatus s' gid o.d.x n).retire gid o.hdr false false)
    (s.tabKey (gateTab m) a = none → done s 2) ∧
    ∀ key, s.tabKey (gateTab m) a = some key →
      (eST (s.tab key) ≠ 2 → done s 1) ∧ (eST (s.tab key) = 2 → done (s.gateOpened key) 0))

/-- R373, R74, R75; R374, R375: `LabelCaches` and `TablesAndGates` together. -/
def Obligations.Tables : Prop := Claims.LabelCaches ∧ Claims.TablesAndGates

/-- R376, R96: `RELOC` delivers the first status that its checks find, and else gives the page to the stack's engine and parks, behind a page that the engine still moves; R377: `HOIST` delivers 1, 2 or 3 where it may
not run, waits behind another hoist, and else begins one and parks. -/
def Sys2Proof.Claims.RelocAndHoist : Prop :=
  (∀ o s gid, Issues s gid (.reloc o) o → actingOf s gid o ≠ [] →
    let v := srcsOf s gid (.reloc o) o 0
    let a := BitVec.ofNat 64 v.2.1.v
    let b := BitVec.ofNat 64 v.2.2.v
    let st := bf a 48 5
    (s.relocCheck a b ≠ 0 → exec (.reloc o) s = .next (((withStatus s gid o.d.x (s.relocCheck a b)).pass gid).retire gid o.hdr true false)) ∧
    (s.relocCheck a b = 0 → (s.base st).reloc = none →
      exec (.reloc o) s = .next (((s.setBase st { s.base st with
        reloc := some { i := bf a 24 14, off := bf a 0 24, fwd := bt b 63, plc := bf b 0 48, gid := gid, wd := wdNum o.d.x } }).onGrp gid fun g =>
          { g with wait := .reloc st, since := s.now }).retire gid o.hdr true false)) ∧
    (s.relocCheck a b = 0 → (s.base st).reloc.isSome = true → exec (.reloc o) s = .next ((s.stick gid 0).endRun gid))) ∧
  (∀ (i : Args → Instr) (op : Nat) o s gid, (i, op) ∈ [(Instr.hoistJoin, 0), (.hoistLeave, 1), (.hoistEvict, 2), (.hoistRekey, 3)] →
    Issues s gid (i o) o → actingOf s gid o ≠ [] →
    let m := (srcsOf s gid (i o) o 0).2.1.v % 512
    (∀ n, s.hoistStatus op m = some n → exec (i o) s = .next (((withStatus s gid o.d.x n).pass gid).retire gid o.hdr true false)) ∧
    (s.hoistStatus op m = none → s.hoist = none →
      exec (i o) s = .next ((({ s with hoist := some { op := op, mod := m, gid := some gid, wd := wdNum o.d.x, start := s.now } } : State).onGrp gid fun g =>
        { g with wait := .hoist, since := s.now }).retire gid o.hdr true false)) ∧
    (s.hoistStatus op m = none → s.hoist.isSome = true → exec (i o) s = .next ((s.stick gid 0).endRun gid)))

/-- R377: where a hoist may not run: 1 off the leader, 2 for a join of a member or a leave or evict of a non-member, 3 with the generation exhausted; a module without a
domain may join itself. -/
def Sys2Proof.Claims.HoistStatus : Prop :=
  ∀ (s : State) op m,
    (s.regs.mod.isSome = true → s.regs.memb = false → s.hoistStatus 0 s.modNo = none) ∧
    (¬ (s.regs.mod.isSome = true ∧ op = 0 ∧ m = s.modNo ∧ s.regs.memb = false) →
      (s.regs.lead = false → s.hoistStatus op m = some 1) ∧
      (s.regs.lead = true → ((op = 0 ∧ s.regs.mask.getLsbD m = true) ∨ ((op = 1 ∨ op = 2) ∧ s.regs.mask.getLsbD m = false)) → s.hoistStatus op m = some 2) ∧
      (s.regs.lead = true → ¬ ((op = 0 ∧ s.regs.mask.getLsbD m = true) ∨ ((op = 1 ∨ op = 2) ∧ s.regs.mask.getLsbD m = false)) →
        s.hoistStatus op m = if s.regs.gen = 0xFFFFFFFF then some 3 else none))

/-- R376, R96; R377: `RelocAndHoist` and `HoistStatus` together. -/
def Obligations.Supervision : Prop := Claims.RelocAndHoist ∧ Claims.HoistStatus

/-- R378: `EQPOP` delivers the oldest entry of a queue and moves RIDX on, and zeros from an empty one, or with `.wait` waits there; R379: `PSTOP` and `PSTART` deliver 2 while
another stop or start of the context is under way, 1 where it is already so, and else do their work and deliver 0 once every block has been reported, or runs again. -/
def Obligations.QueuesAndContexts : Prop :=
  (∀ m o s gid, Issues s gid (.eqpop m o) o → actingOf s gid o ≠ [] →
    packetEmpty (s.grp gid) o.d.x = true ∨ ridxPending (issOf s gid) (BitVec.ofNat 64 (srcsOf s gid (.eqpop m o) o 0).2.1.v) = true →
    exec (.eqpop m o) s = .next ((s.stick gid 0).endRun gid)) ∧
  (∀ m o s gid h, Issues s gid (.eqpop m o) o → actingOf s gid o ≠ [] → packetEmpty (s.grp gid) o.d.x = false →
    let q := BitVec.ofNat 64 (srcsOf s gid (.eqpop m o) o 0).2.1.v
    ridxPending (issOf s gid) q = false → issueReads (issOf s gid) 32 [(0, q)] = .ok [h] →
    let size := valueAt h 0 4
    let widx := valueAt h 8 8
    let ridx := valueAt h 16 8
    (size = 0 ∨ widx ≤ ridx → m = false →
      exec (.eqpop m o) s = .next (((s.issueDrop gid).onGrp gid fun g => popped g o.d.x (List.replicate 8 0)).retire gid o.hdr false false)) ∧
    (size = 0 ∨ widx ≤ ridx → m = true → exec (.eqpop m o) s = .next (((s.issueDrop gid).stick gid 0).endRun gid)) ∧
    ∀ e, size ≠ 0 → ridx < widx → issueReads (issOf s gid) 64 [(0, pPlus q (64 + 64 * (ridx % size)))] = .ok [e] →
      exec (.eqpop m o) s = .next (((putRidx (issOf s gid) (s.issueDrop gid) q (ridx + 1)).onGrp gid fun g =>
        popped g o.d.x ((List.range 8).map fun k => valueAt e (8 * k) 8)).retire gid o.hdr false false)) ∧
  (∀ (i : Args → Instr) (h : How) o s gid, (i, h) ∈ [(Instr.pstopSave, How.save), (.pstopHalt, .halt), (.pstopPause, .pause), (.pstopReset, .reset)] →
    Issues s gid (i o) o → actingOf s gid o ≠ [] →
    let n := (srcsOf s gid (i o) o 0).2.1.v % 4096
    let done (s' : State) (k : Nat) := exec (i o) s = .next ((withStatus s' gid o.d.x k).retire gid o.hdr false false)
    ((s.ctx n).stopping = true → (s.grp gid).cont ≠ some .pstop → done s 2) ∧
    ((s.ctx n).stopping = false → (s.grp gid).cont ≠ some .pstop → (s.ctx n).vst = h.vst → done s 1) ∧
    (((s.grp gid).cont ≠ some .pstop → (s.ctx n).stopping = false ∧ (s.ctx n).vst ≠ h.vst) →
      let s1 := (s.setCtx n { s.ctx n with stopping := true, starting := false }).stopOn h n
      (s1.stopDone h n = true → done ((s1.setCtx n { s1.ctx n with
        stopping := false, vst := h.vst, inc := if h = .reset then (s1.ctx n).inc + 1 else (s1.ctx n).inc
        oldEvents := (s1.ctx n).oldEvents || decide (h = .reset) }).storeDesc n) 0) ∧
      (s1.stopDone h n = false →
        exec (i o) s = .next (((s1.onGrp gid fun g => { g with cont := some .pstop }).stick gid 0).endRun gid)))) ∧
  (∀ o s gid, Issues s gid (.pstart o) o → actingOf s gid o ≠ [] →
    let n := (srcsOf s gid (.pstart o) o 0).2.1.v % 4096
    let done (s' : State) (k : Nat) := exec (.pstart o) s = .next ((withStatus s' gid o.d.x k).retire gid o.hdr false false)
    ((s.ctx n).stopping = true → (s.grp gid).cont ≠ some .pstop → done s 2) ∧
    ((s.ctx n).stopping = false → (s.grp gid).cont ≠ some .pstop → (s.ctx n).vst = .run → done s 1) ∧
    (((s.grp gid).cont ≠ some .pstop → (s.ctx n).stopping = false ∧ (s.ctx n).vst ≠ .run) →
      let s1 := ((s.setCtx n { s.ctx n with stopping := true, starting := true }).loadDesc n).purgeEvents n
      let s2 := if (s.grp gid).cont = some .pstop then s else (s1.setCtx n { s1.ctx n with oldEvents := false }).releaseHalted n
      let s3 := (s2.ctxBlocks n).foldl (fun s' k => s'.startOn k) s2
      let s4 := s3.startCobblers n (s3.cobblerDies n)
      (∀ k ∈ s3.ctxBlocks n, s3.runs k = true) → (∀ k ∈ s4.ctxBlocks n, s4.runs k = true) → s4.cobblerDies n = [] →
      let x := s4.ctx n
      done ((({ s4 with msix := s4.msix ++ x.msix.map fun v => (x.vf, v) } : State).setCtx n
        { x with stopping := false, starting := false, vst := .run, msix := [] }).storeDesc n) 0))

/-! ## Events of the memory path -/

namespace Sys2Proof.Claims

/-- Request `id` is `q`. -/
def Pending (s : State) (id : Nat) (q : Req) : Prop := FMap.find? s.reqs id = some q

/-- The event with the number `id` leads from `s` to `t`. -/
def Leads (i : Instr) (s t : State) : Prop := exec i s = .next t

/-- A request as the context level looks it up: one that goes through the storage port takes engine class 4 (R152). -/
def atContext (s : State) (q : Req) : Req := if s.storage q then { q with org := { q.org with guidon := gWithCls q.org.guidon 4 } } else q

/-- The state after a request's lookup of its context entry, and the entry as the label cache or the table gives it, none where its sector is lost (R70). -/
def ctxSeen (s : State) (q : Req) (e : Ecc) : State × Option (BitVec 128) :=
  s.ctxEntry (s.cacheFor (atContext s q)) (gCtx (atContext s q).org.guidon) (pO q.ptr) e

/-- The key of a request's context entry. -/
def ctxKey (s : State) (q : Req) : Nat := s.keyCtx (gCtx (atContext s q).org.guidon) (pO q.ptr)

/-- A request that the context level looks up now meets the entry `ent`, and the level decides `d`. -/
def CtxSays (s : State) (q : Req) (e : Ecc) (ent : BitVec 128) (d : Dec) : Prop :=
  q.stage = .context ∧ s.loadBehind q = false ∧ (ctxSeen s q e).2 = some ent ∧ decCtx s (atContext s q).org.guidon q.kind q.ptr ent = d

/-- The state after the port level's read of its table; what the level decides. -/
def portSeen (s : State) (q : Req) (e : Ecc) : State := (s.readTab (keyPort q.label) e).1
def PortSays (s : State) (q : Req) (e : Ecc) (d : Dec) : Prop := q.stage = .port ∧ decPort (portSeen s q e) q.org.guidon q.kind q.label q.fwd q.ptr = d

/-- The state after a request's lookup of its chip entry, the entry, and what the level decides. -/
def chipSeen (s : State) (q : Req) (e : Ecc) : State × Option (BitVec 128) := s.chipEntry (pM q.ptr) e
def ChipSays (s : State) (q : Req) (e : Ecc) (ent : BitVec 128) (d : Dec) : Prop :=
  q.stage = .chip ∧ (chipSeen s q e).2 = some ent ∧ decChip s q.org.guidon q.kind q.fwd q.ptr ent (q.pay.isRange && gSup q.org.guidon) = d

/-- The state after a request's lookup at the stack level: its table and the page-entry cache have been read; what the level decides. -/
def stackSeen (s : State) (e : Ecc) (st i off : Nat) : State := ((s.readTab (keyStack st i) e).1).pageTurn st i off e
def stackSays (s : State) (q : Req) (e : Ecc) (st i off : Nat) : Dec := decStack (stackSeen s e st i off) q.org.guidon q.kind q.fwd st i off false

/-- No request that has waited longer waits in the same place. -/
def FirstAt (s : State) (q : Req) (same : Stage → Bool) : Prop := ∀ x ∈ s.reqs, same x.2.stage = true → q.arrived ≤ x.2.arrived

end Sys2Proof.Claims

/-- R59 to R61, R69, R70, R92, R94: a request that a level grants goes on to the next one, and counts at the entry that granted it: from the context level to the chip level, to
the port level of this module or to its fabric bucket; from the port level to the chip level; from the chip level, split at a line's end and then counted, to its rule's bucket. -/
def Obligations.LevelGrants : Prop :=
  (∀ s id q e ent p, Pending s id q → CtxSays s q e ent (.chip p) →
    Leads (.contextLevelLookup ⟨id, e⟩) s (((ctxSeen s q e).1.countUp (ctxKey s q)).setReq id { atContext s q with stage := .chip, shared := q.shared ++ [ctxKey s q] })) ∧
  (∀ s id q e ent m l, Pending s id q → CtxSays s q e ent (.fabric m l) →
    let q' := { atContext s q with label := l, shared := q.shared ++ [ctxKey s q] }
    let s1 := (ctxSeen s q e).1.countUp (ctxKey s q)
    let b := 4096 + (s.grants 1 (gCtx q'.org.guidon) (eACL ent) q'.org.guidon q.kind).getD 0
    Leads (.contextLevelLookup ⟨id, e⟩) s (
      if m = s.modNo then s1.setReq id { q' with stage := .port }
      else if (s.bucket b).rate = 0 then s1.depart id q' m 2
      else (s1.tickBucket b).arrive id q' (.bucket b (s.egressCharge id (atContext s q) m) (.remote m)))) ∧
  (∀ s id q e p, Pending s id q → PortSays s q e (.chip p) →
    Leads (.portLevelLookup ⟨id, e⟩) s (((portSeen s q e).countUp (keyPort q.label)).setReq id { q with stage := .chip, shared := q.shared ++ [keyPort q.label] })) ∧
  (∀ s id q e m l, Pending s id q → PortSays s q e (.portAgain m l) →
    let s1 := (portSeen s q e).countUp (keyPort q.label)
    let q' := { q with label := l, fwd := q.fwd + 1, shared := q.shared ++ [keyPort q.label] }
    Leads (.portLevelLookup ⟨id, e⟩) s (if m = (portSeen s q e).modNo then s1.setReq id q' else s1.depart id q' m 2)) ∧
  (∀ s id q e ent b t, Pending s id q → ChipSays s q e ent (.target b t) →
    (s.firstPart q ent < q.len → Leads (.chipLevelLookup ⟨id, e⟩) s ((chipSeen s q e).1.splitReq id q (s.firstPart q ent))) ∧
    (q.len ≤ s.firstPart q ent →
      let s1 := (chipSeen s q e).1.countUp (keyChip (pM q.ptr))
      let q' := { q with entries := q.entries ++ [keyChip (pM q.ptr)], ent := ent, fwd0 := q.fwd, ptrC := q.ptr }
      Leads (.chipLevelLookup ⟨id, e⟩) s (
        if q.pay.isRange = true ∨ (s1.bucket b).rate = 0 then s1.issueTo id q' else (s1.tickBucket b).arrive id q' (.bucket b (chargeOf q') .entry)))) ∧
  (∀ s id q e ent m p, Pending s id q → ChipSays s q e ent (.chipAgain m p) →
    let s1 := (chipSeen s q e).1.countUp (keyChip (pM q.ptr))
    let q' := { q with entries := q.entries ++ [keyChip (pM q.ptr)], ptr := p, fwd := q.fwd + 1 }
    Leads (.chipLevelLookup ⟨id, e⟩) s (if m = s.modNo then s1.setReq id q' else s1.depart id q' m 3)) ∧
  (∀ s id q e st i off pa, Pending s id q → q.stage = .stack st i off (.remote 0) → s.stampOk q = true → stackSays s q e st i off = .place pa →
    Leads (.stackLevelLookup ⟨id, e⟩) s ((stackSeen s e st i off).stackServe id q pa e)) ∧
  (∀ s id q e t b off sl pa, Pending s id q → q.stage = .slice (.line t b off sl) → q.kind = .read ∨ q.kind = .fetch → s.stampOk q = true → s.frozen t = false →
    s.held q.org.guidon q.kind t b q.len = false → s.hasWay t sl = true → stackSays s q e t.stack t.i off = .place pa →
    Leads (.stackLevelLookup ⟨id, e⟩) s ((((stackSeen s e t.stack t.i off).eccRead pa e.ofData).fillLine t sl b pa).serveLine id q t b))

/-- R58 to R61, R66, R72, R77: a level that refuses a request names itself, the reason and the label in its record; an entry whose sector is lost refuses with "poison"; at a
gated entry the request is held, and looked up afresh once the entry has left GATED, in order of arrival; one held longer than the entry's bound is refused with "gate". -/
def Obligations.LevelRefusals : Prop :=
  (∀ s id q e ent r, Pending s id q → CtxSays s q e ent (.refuse r) →
    Leads (.contextLevelLookup ⟨id, e⟩) s ((ctxSeen s q e).1.refuse id (atContext s q) ⟨1, r, pO q.ptr, s.modNo, false, q.fwd⟩)) ∧
  (∀ s id q e, Pending s id q → q.stage = .context → s.loadBehind q = false → (ctxSeen s q e).2 = none →
    Leads (.contextLevelLookup ⟨id, e⟩) s ((ctxSeen s q e).1.refuse id (atContext s q) ⟨1, .poison, pO q.ptr, s.modNo, false, q.fwd⟩)) ∧
  (∀ s id q e ent, Pending s id q → CtxSays s q e ent .gated →
    let s1 := (ctxSeen s q e).1
    Leads (.contextLevelLookup ⟨id, e⟩) s (s1.arrive id (atContext s q) (.held 1 (ctxKey s q) (s1.now + eGTO (s1.tab (ctxKey s q))) .context))) ∧
  (∀ s id q e r, Pending s id q → PortSays s q e (.refuse r) →
    Leads (.portLevelLookup ⟨id, e⟩) s ((portSeen s q e).refuse id q ⟨2, r, q.label, (portSeen s q e).modNo, false, q.fwd⟩)) ∧
  (∀ s id q e, Pending s id q → PortSays s q e .gated →
    let s1 := portSeen s q e
    Leads (.portLevelLookup ⟨id, e⟩) s (s1.arrive id q (.held 2 (keyPort q.label) (s1.now + eGTO (s1.tab (keyPort q.label))) .port))) ∧
  (∀ s id q e ent r, Pending s id q → ChipSays s q e ent (.refuse r) →
    Leads (.chipLevelLookup ⟨id, e⟩) s ((chipSeen s q e).1.refuse id q ⟨3, r, pM q.ptr, s.modNo, false, q.fwd⟩)) ∧
  (∀ s id q e, Pending s id q → q.stage = .chip → (chipSeen s q e).2 = none →
    Leads (.chipLevelLookup ⟨id, e⟩) s ((chipSeen s q e).1.refuse id q ⟨3, .poison, pM q.ptr, s.modNo, false, q.fwd⟩)) ∧
  (∀ s id q e ent, Pending s id q → ChipSays s q e ent .gated →
    let s1 := (chipSeen s q e).1
    Leads (.chipLevelLookup ⟨id, e⟩) s (s1.arrive id q (.held 3 (keyChip (pM q.ptr)) (s1.now + eGTO (s1.tab (keyChip (pM q.ptr)))) .chip))) ∧
  (∀ s id q e st i off r, Pending s id q → q.stage = .stack st i off (.remote 0) → s.stampOk q = true → stackSays s q e st i off = .refuse r →
    Leads (.stackLevelLookup ⟨id, e⟩) s ((stackSeen s e st i off).refuse id { q with home := none } ⟨4, r, i, s.modNo, false, q.fwd⟩)) ∧
  (∀ s id q lvl key end_ back, Pending s id q → q.stage = .held lvl key end_ back → eST (s.tab key) ≠ 2 →
    FirstAt s q (fun st => match st with | .held _ k _ _ => decide (k = key) | _ => false) →
    Leads (.gatedReread id) s ((s.setReq id { q with stage := back }).lookAgain id .clean)) ∧
  (∀ s id q lvl key end_ back, Pending s id q → q.stage = .held lvl key end_ back → eST (s.tab key) = 2 →
    Leads (.gateTimeout id) s (if end_ < s.now then
      s.refuse id { q with stage := back } ⟨lvl, .gate, keyLabel lvl key, s.modNo, false, q.fwd⟩ else s))

/-- R105, R108, R111, R113, R115, R117, R120, R187, R190: what owners do: a bucket lets the first of its requests pass and charges it, and a target's domain or replica set takes
it; a write's line takes its grant; a granted store and an atomic are performed at the line or at the bank; HOME stamps replica stores and passes them on; acknowledgements
finish a write; a request of an older epoch goes again to its present home. -/
def Obligations.OwnersPerform : Prop :=
  (∀ s id q b n t, Pending s id q → q.stage = .bucket b n t →
    FirstAt s q (fun st => match st with | .bucket b' _ _ => decide (b' = b) | _ => false) →
    let x := (s.bucket b).refill s.now true
    let go (s' : State) : State := match t with | .remote m => s'.depart id q m 2 | _ => s'.issueTo id q
    Leads (.bucketRelease id) s (if x.rate = 0 then go s else if x.passes = true then go (s.setBucket b (x.charge n)) else s.setBucket b x)) ∧
  (∀ s id q m lvl, Pending s id q → q.stage = .egress m lvl → s.flowOpen m = true → Leads (.bucketRelease id) s (s.depart id q m lvl)) ∧
  (∀ (s : State) id (q : Req), bf q.ent 94 2 = 0 → (FMap.getD s.doms (domOf q.ent) {}).busy = true → s.issueTo id q = s.arrive id q (.domainHeld (domOf q.ent))) ∧
  (∀ (s : State) id (q : Req) t b off sl, bf q.ent 94 2 = 0 → (FMap.getD s.doms (domOf q.ent) {}).busy = false → q.pay.isRange = false →
    s.chipTarget q.len q.ptr q.ent = some (.line t b off sl) → s.issueTo id q =
      s.arrive id { q with stamp := some (domOf q.ent, (FMap.getD s.doms (domOf q.ent) {}).epoch), turn := s.nextId } (.slice (.line t b off sl))) ∧
  (∀ s id q e t b off sl pa, Pending s id q → q.stage = .slice (.line t b off sl) → q.kind = .write ∨ q.kind = .atomic → s.stampOk q = true → s.firstAt q t = true →
    q.half = false → s.held q.org.guidon q.kind t b q.len = false → s.hasWay t sl = true → stackSays s q e t.stack t.i off = .place pa →
    Leads (.grantRequest ⟨id, e⟩) s ((stackSeen s e t.stack t.i off).granted id q t sl (.line t b off sl))) ∧
  (∀ s id q t b off sl m ps, Pending s id q → q.stage = .slice (.line t b off sl) → q.pay = .store m ps → s.stampOk q = true →
    s.held q.org.guidon .write t b q.len = true → s.firstAt q t = true → s.inStamp q = true →
    let bs := maskBytes b (s.mayWrite q (s.lineAt t b) m)
    Leads (.writeApply id) s ((((s.lineApply t sl q.org.guidon bs).poisonLine t (ps.map fun i => (b + i) / 32)).discarded q (s.lineRefuses t bs).length).storeDone id q
      (.line t b off sl))) ∧
  (∀ s id q a m ps, Pending s id q → q.stage = .slice (.chip a) → q.pay = .store m ps →
    Leads (.writeApply id) s (((s.putMarked q (chipAddr a) (s.mayWrite q (s.addrAt (chipAddr a)) m) ps).touch
      (distinct ((List.range q.len).map fun i => sectorOfChip (a + i)))).storeDone id q (.chip a))) ∧
  (∀ s id q t b off sl op ty vals, Pending s id q → q.stage = .slice (.line t b off sl) → q.pay = .atomic op ty vals → s.stampOk q = true → s.firstAt q t = true →
    s.inStamp q = true → s.held q.org.guidon .atomic t b q.len = true → s.atHand t b (atyBytes ty) = true →
    let v := (List.range (atyBytes ty)).map fun i => s.lineByte t (b + i)
    let q' := { q with stage := Stage.ready (.line t b off sl) }
    ((∃ x ∈ v, x.2 = true) → Leads (.homeSliceAtomic id) s (s.finish id q' (List.replicate vals.length 0) true)) ∧
    ((∀ x ∈ v, x.2 = false) →
      let r := q.performs id op ty vals (leNat (v.map fun x => x.1))
      let s1 := s.lineApply t sl q.org.guidon (maskBytes b (s.mayWrite q (s.lineAt t b) ((leBytes (atyBytes ty) r.1).map some)))
      Leads (.homeSliceAtomic id) s (if r.2.2 = true then s1.finish id q' r.2.1 false else s1.setReq id { q with result := replyBytes (atyBytes ty) r.2.1 false }))) ∧
  (∀ s id q a op ty vals, Pending s id q → q.stage = .slice (.chip a) → q.pay = .atomic op ty vals →
    Leads (.homeSliceAtomic id) s ((s.atomStep id q (chipAddr a) op ty vals).touch [sectorOfChip a])) ∧
  (∀ s id q set i off, Pending s id q → q.stage = .slice (.replica set i off) → repHome (FMap.getD s.reps set {}) ≠ s.modNo →
    Leads (.replicaSequence id) s (s.depart id { q with label := set } (repHome (FMap.getD s.reps set {})) 5)) ∧
  (∀ s id q set i off m mk ps, Pending s id q → q.stage = .slice (.replica set i off) → q.pay = .store mk ps →
    let r := FMap.getD s.reps set {}
    repHome r = s.modNo → s.sequencing = false → (∀ x ∈ s.reqs, (∀ a b c, x.2.stage ≠ .slice (.replica a b c)) ∨ q.turn ≤ x.2.turn) → s.ownReplica set = some m →
    bt r.w0 63 = true → 1 ≤ bf r.w0 11 4 → bf r.w0 11 4 ≤ 8 →
    Leads (.replicaSequence id) s (((s.toOwn id q m i off (stampName set (r.stamp.toNat + 1)) q.pay .write).multicast id q set i off q.pay).arrive id
      { q with label := set } (.members true))) ∧
  (∀ s id q, Pending s id q → q.stage = .members true →
    Leads (.writeAcknowledgement id) s (if (s.partsAt id).all (fun x => x.2.served) then s.allApplied id q else s)) ∧
  (∀ s id q t, Pending s id q → q.stage = .ready t → q.served = true → q.kind = .write → q.mcast = none → Leads (.writeAcknowledgement id) s (s.finish id q [] false)) ∧
  (∀ s id q d ep, Pending s id q → q.stamp = some (d, ep) → q.inSlice = true →
    let x := FMap.getD s.doms d {}
    x.epoch ≠ ep → x.busy = false → (∀ r ∈ s.reqs, r.2.inSlice = true → r.2.stamp = q.stamp → q.arrived ≤ r.2.arrived) →
    Leads (.domainChangedReplay id) s ((s.countDown (q.entries.filter isStackKey)).issueTo id
      { q with entries := q.entries.filter fun k => !isStackKey k, fwd := q.fwd0, ptr := q.ptrC, home := none }))

/-- R50, R175, R187, R189, R194, R247: results on their way back: a load none of whose bytes is missing is delivered, unless an older load of its group overlaps it; a sibling's
register arrives; a read served at its owner gives its bytes to its load; an atomic all of whose locations have returned gives each thread its value, and ATM falls; a line all
of whose parts have come enters its core's instruction cache. -/
def Obligations.ResultsReturn : Prop :=
  (∀ s id e o, FMap.find? s.ops id = some (.load o) → o.bytes.all Option.isSome = true → o.gth = none → o.loc = none →
    s.olderLoad o.gid o.org.ptr o.bytes.length id = false →
    let v := tyValue o.ty (o.bytes.map fun b => b.getD 0)
    let st : RState := if o.pois then .pois else match o.tent with | some m => .tent m | none => .full
    let s1 : State := { s with ops := FMap.erase s.ops id }
    Leads (.loadReturn ⟨id, e⟩) s (s1.onGrp o.gid fun g => deliverDest g o.thread o.dst
      { v := v.1, tag := v.2, tag2 := v.2, st := st.asOf (s.blk (s.grp o.gid).blk).tents })) ∧
  (∀ s id e o a, FMap.find? s.ops id = some (.load o) → o.bytes.all Option.isSome = true → o.loc = some a →
    s.olderLoad o.gid o.org.ptr o.bytes.length id = false →
    Leads (.loadReturn ⟨id, e⟩) s ((s.sramRead a e).deliverLoad id { o with pois := o.pois || decide (e = .data true) })) ∧
  (∀ s id e o, FMap.find? s.ops id = some (.srd o) →
    let s1 : State := { s with ops := FMap.erase s.ops id }
    Leads (.loadReturn ⟨id, e⟩) s (s1.onGrp o.gid fun g => o.vals.foldl (fun g x => deliverDest g x.1 o.dst
      { v := x.2.v.toNat, tag := x.2.tag, tag2 := x.2.tag, st := (s.blk (s.grp o.gid).blk).settle x.2.st }) g)) ∧
  (∀ s id e q op o, FMap.find? s.ops id = none → Pending (s.serve id e) id q → q.served = true → q.client = .load op → FMap.find? (s.serve id e).ops op = some (.load o) →
    (s.serve id e).olderLoad o.gid o.org.ptr o.bytes.length op = false →
    let o' := o.take (pOff q.ptr0 - pOff o.org.ptr) q.result q.tent
    let s1 := (s.serve id e).dropReq id
    Leads (.loadReturn ⟨id, e⟩) s (if o'.bytes.all Option.isSome then s1.deliverLoad op o' else { s1 with ops := FMap.insert s1.ops op (.load o') })) ∧
  (∀ s id a d, FMap.find? s.ops id = some (.atom a) → a.dst = some d → (∀ l ∈ a.locs, l.result.isSome = true) →
    let s1 : State := { s with ops := FMap.erase s.ops id }
    let s2 := s1.onGrp a.gid fun g => a.values.foldl (fun g x => deliverDest g x.1 d { x.2 with st := x.2.st.asOf (s.blk (s.grp a.gid).blk).tents }) g
    Leads (.atomReturn id) s (match a.gth with | some v => s2.elementDone v | none => s2.onGrp a.gid fun g => { g with atm := g.atm - 1 })) ∧
  (∀ s id q gid bs, Pending s id q → q.client = .fetch gid →
    let s1 := (s.famParts q.fam).foldl (fun s' x => s'.serve x.1 .clean) s
    s1.brought q.fam = some bs →
    let l : ILine := { ctx := gCtx q.org.guidon, ptr := q.org.ptr, bits := BitVec.ofNat 1536 (leNat (bs.map fun x => x.1)), used := s1.now }
    Leads (.icacheFill id) s ((s1.dropFam q.fam).onCore q.core fun c => { c with icache := icachePut c.icache l }))

/-- R107, R119, R157, R179, R183 to R185: writes on their way out: a local entry of a committed block is applied at its SRAM; a queue entry nothing stands before leaves for its
owner, and a full queue lets nothing in; the answered head of a group's log is reissued; a refused write enters the log if there is room, else stays; a slice whose set is full
evicts its least recently used line; a write-back's rows go to their stacks after the earlier ones of its line. -/
def Obligations.WritesLeave : Prop :=
  (∀ s id w a, FMap.find? s.wrs id = some w → w.place = .buffer → (s.blk w.blk).rl = false → w.tent = none → s.blockedIn id w = false →
    w.loc = some a → Leads (.storeBufferDrain id) s (s.applyLocal id w a)) ∧
  (∀ s id w, FMap.find? s.wrs id = some w → w.place = .buffer → (s.blk w.blk).rl = true → Leads (.storeBufferDrain id) s s) ∧
  (∀ s id w, FMap.find? s.wrs id = some w → w.place = .buffer → (s.blk w.blk).rl = false → w.tent = none → s.blockedIn id w = false →
    w.loc = none → (w.data.isStore && s.isReplica w.ctx w.data.range.1) = false →
    Leads (.storeBufferDrain id) s (if 32 < (s.enqueue id w).queueSize w.unit then s else s.enqueue id w)) ∧
  (∀ s id w, FMap.find? s.wrs id = some w → w.place = .buffer → (s.blk w.blk).rl = false → w.tent = none → s.blockedIn id w = false →
    w.loc = none → (w.data.isStore && s.isReplica w.ctx w.data.range.1) = true →
    (∀ x ∈ s.wrs, x.1 < id → x.2.place = .buffer → x.2.blk = w.blk → (x.2.data.isStore && s.isReplica x.2.ctx x.2.data.range.1) = false) → s.joining w = [] →
    Leads (.storeBufferDrain id) s (s.launchWr id { w with rep := true } false)) ∧
  (∀ s id w, FMap.find? s.wrs id = some w → w.place = .queue →
    (∀ x ∈ s.wrs, x.1 ≠ id → x.2.onCore = true → x.2.unit = w.unit → (w.barrier ≤ x.1 ∨ x.2.sameVector w = true) ∧
      (x.1 < id → x.2.ctx = w.ctx → overlap x.2.data.range.1 x.2.data.range.2 w.data.range.1 w.data.range.2 = false)) →
    s.loadsBefore w = false → s.releaseHeld w = false → s.partsBehind w = false →
    (s.joining w = [] → Leads (.wcqDrain id) s (s.launchWr id w false)) ∧
    (s.joining w ≠ [] → Leads (.wcqDrain id) s (if 64 < s.logSize w.unit + (s.joining w).length then s else s.joinLog id w))) ∧
  (∀ s id w, FMap.find? s.wrs id = some w → w.place = .log → s.replayable id w = true →
    Leads (.wcqDrain id) s (s.launchWr id { w with answered := none } true)) ∧
  (∀ s id q k r w, Pending s id q → q.client = .write k → q.stage = .refused r false → FMap.find? s.wrs k = some w → w.place ≠ .log →
    (∀ b d, w.data ≠ .bytes b d) → s.logSize w.unit + 1 ≤ 64 →
    let s1 := (s.dropReq id).writePart k
    Leads (.sideLogEnter id) s (({ s1 with
      wrs := FMap.insert s1.wrs s1.nextId { w with place := .log, refuse := some r, reqs := 0 }, nextId := s1.nextId + 1 } : State).report
        (match w.src with | y :: _ => y.org | [] => q.org) q.kind r (some s1.nextId))) ∧
  (∀ s id q k r w, Pending s id q → q.client = .write k → q.stage = .refused r false → FMap.find? s.wrs k = some w → w.place = .log →
    let s1 : State := { s.dropReq id with wrs := FMap.insert (s.dropReq id).wrs k { w with refuse := some r, answered := none, reqs := 0 } }
    Leads (.sideLogEnter id) s (s1.report (match w.src with | y :: _ => y.org | [] => q.org) q.kind r (some k))) ∧
  (∀ s id q k r w, Pending s id q → q.client = .write k → q.stage = .refused r false → FMap.find? s.wrs k = some w → w.place ≠ .log →
    (∀ b d, w.data ≠ .bytes b d) → 64 ≤ s.logSize w.unit → Leads (.sideLogEnter id) s s) ∧
  (∀ s id l, s.line? (tagOf id) = some l → l.wb = 0 → 15 ≤ (s.sameSet (tagOf id) l.slice).length → (∀ x ∈ s.sameSet (tagOf id) l.slice, l.used ≤ x.2.used) →
    s.frozen (tagOf id) = false → Leads (.l2WriteBack true id) s (s.writeBack (tagOf id) true)) ∧
  (∀ s id w, FMap.find? s.wbacks id = some w → (∀ x ∈ s.wbacks, x.2.tag = w.tag → w.seq ≤ x.2.seq) →
    Leads (.l2WriteBack false id) s ((w.rows.foldl (fun s' k => s'.rowTurn id w k) s).backCheck id))

/-! ## Events of the engines, the front end, the fabric and the module -/

namespace Sys2Proof.Claims

/-- Engine operation `k` is `e`, neither done nor cancelled. -/
def EngineOp (s : State) (k : Nat) (e : EOp) : Prop := FMap.find? s.eops k = some e ∧ e.done = false ∧ e.cancelled = false

/-- Engine operation `k` is `e`, and its tile phase may go on: it heads its arrays' queues, and no pre-emption stops it. -/
def TilePhase (s : State) (k : Nat) (e : EOp) : Prop := EngineOp s k e ∧ e.tileDone = false ∧ s.heads k e = true ∧ s.opStops k e = false

/-- The operand reads of a multiplication's chunk at `pos`: the 64 rows of A, then the columns of B, with their scales. -/
def chunkPipes (e : EOp) (m : Mods.Mma) (K pos : Nat) (d : List W64) : List Pipe :=
  chunkReads m.fmt K pos 64 ((e.locs[0]?).getD none) ((e.locs[2]?).getD none) ((d[0]?).getD 0) ((d[3]?).getD 0) (bf ((d[2]?).getD 0) 0 32) ++
  chunkReads m.fmt K pos e.bind.cols ((e.locs[1]?).getD none) ((e.locs[3]?).getD none) ((d[1]?).getD 0) ((d[4]?).getD 0) (bf ((d[2]?).getD 0) 32 32)

/-- The tile after a chunk whose operands are `bs`: each of its planes takes its columns of B; the flags. -/
def chunked (s : State) (e : EOp) (m : Mods.Mma) (dist : Bool) (bs : List (List (Byte × Bool))) : State × Nat × Nat :=
  (e.bind.homes e.unit).foldl (fun (x : State × Nat × Nat) h =>
    let q := (s.plane h.1 h.2).chunk m.fmt e.bind.mode dist (lanesOf bs 64) (((lanesOf (bs.drop 128) e.bind.cols).drop (64 * x.2.1)).take 64)
      (bs.any fun r => r.any fun b => b.2)
    (x.1.setPlane h.1 h.2 q.1, x.2.1 + 1, orFlags x.2.2 q.2)) (s, 0, 0)

/-- Copy `k` is `c`, not done, and no request is under way for its byte `first`. -/
def CopyAt (s : State) (k : Nat) (c : Copy) (first : Nat) : Prop :=
  FMap.find? s.copies k = some c ∧ c.done = false ∧ ∀ x ∈ s.reqs, x.2.client ≠ .copy k first

/-- Copy `k` is `c`, not done, and request `q` is under way for its byte `first`. -/
def CopyAsks (s : State) (k : Nat) (c : Copy) (first : Nat) (q : Req) : Prop :=
  FMap.find? s.copies k = some c ∧ c.done = false ∧ (List.find? (fun x : Nat × Req => x.2.client = Client.copy k first) s.reqs).map (·.2) = some q

/-- The bytes of a copy's piece are written: straight into SRAM, where the last one ends the copy, or by a request. -/
def copyWrites (s : State) (k : Nat) (c : Copy) (first : Nat) (bs : List (Byte × Bool)) : State :=
  let p := ptrBy c.dst (c.offs first).2
  match c.dloc with
  | some a => (s.localPut (a + bf p 0 32) bs).copyMoved k c
  | none => s.newReq (engineReq (.copy k first) .write c.org p bs.length (storeOf bs) c.unit)

end Sys2Proof.Claims

/-- R259, R266, R270, R275, R277, R278: the engine of a tile: a multiplication takes its operands in chunks and ends with `%prog` 0; zeroing and pairing clear a tile; a store reads
the tile's image, a drain its rows; a write of SRAM is written there, any other is requested; a cancelled operation has no effect; one with nothing left to do completes: MMA falls
and its flags are ORed into `%fflags`. R163 to R165: a copy's pieces are read and written, and a refusal that no service mends fails it. -/
def Obligations.EngineEvents : Prop :=
  (∀ s k e m dist K d, TilePhase s k e → e.op = (if dist = true then .dist m K d else .mma m K d) →
    let pos := (s.grp e.gid).prog.toNat
    (e.begun = false → pos % chunkOf m.fmt ≠ 0 ∨ K < pos → Leads (.mmaChunk k) s (s.opFail k e 0)) ∧
    (e.begun = true ∨ (pos % chunkOf m.fmt = 0 ∧ pos ≤ K) →
      (K ≤ pos → Leads (.mmaChunk k) s ((s.onGrp e.gid fun g => { g with prog := 0 }).tilePhaseEnd k e)) ∧
      (pos < K → (∀ r, s.pipes k e (chunkPipes e m K pos d) = .failed r → Leads (.mmaChunk k) s (s.opFail k { e with begun := true } r)) ∧
        (∀ t, s.pipes k e (chunkPipes e m K pos d) = .wait t → Leads (.mmaChunk k) s (t.setOp k { e with begun := true })) ∧
        ∀ bs, s.pipes k e (chunkPipes e m K pos d) = .all bs →
          let r := chunked s e m dist bs
          let e' : EOp := { e with begun := true, flags := e.flags ||| BitVec.ofNat 32 r.2.2 }
          let pos' := pos + chunkOf m.fmt
          Leads (.mmaChunk k) s (if K ≤ pos' then ((r.1.dropEop k).onGrp e.gid fun g => { g with prog := 0 }).tilePhaseEnd k e'
            else ((r.1.dropEop k).onGrp e.gid fun g => { g with prog := BitVec.ofNat 32 pos' }).setOp k e')))) ∧
  (∀ s k e i m, TilePhase s k e → e.op = .zero m ∨ e.op = .pair m →
    Leads (.engineOpComplete k i) s (((e.bind.homes e.unit).foldl (fun s h => s.setPlane h.1 h.2 { own := (s.plane h.1 h.2).own, rel := (s.plane h.1 h.2).rel }) s).tilePhaseEnd k e)) ∧
  (∀ s k e i p rs, TilePhase s k e → e.op = .stt p rs →
    Leads (.engineOpComplete k i) s (s.tilePhaseEnd k { e with
      pz := s.tilePz e.bind e.unit
      writes := (s.imageRows e.bind e.unit).map fun r => (ptrBy p ((r.1 * bf rs 32 32 + r.2.1 * bf rs 0 32 : Nat) : Int), (e.locs.head?).getD none, r.2.2) })) ∧
  (∀ s k e i m p rs ag, TilePhase s k e → e.op = .drn m p rs ag →
    let r := s.drainRows m e.bind e.unit ag
    Leads (.engineOpComplete k i) s (s.tilePhaseEnd k { e with
      pz := s.tilePz e.bind e.unit, flags := e.flags ||| BitVec.ofNat 32 r.2
      writes := r.1.map fun r => (ptrBy p ((r.1 * bf rs 32 32 + r.2.1 * bf rs 0 32 : Nat) : Int), (e.locs.head?).getD none, r.2.2) })) ∧
  (∀ s k e i p l bs, EngineOp s k e → e.tileDone = true → s.eopReq k i = none → e.writes[i % e.writes.length]? = some (p, l, bs) →
    let s1 := s.setOp k { e with writes := e.writes.eraseIdx (i % e.writes.length) }
    let xs := bs.map fun b => (b, e.pz)
    Leads (.engineOpComplete k i) s (match l with
      | some a => s1.localPut (a + bf p 0 32) xs
      | none => s1.newReq (engineReq (.eop k s.nextId) .write e.org p xs.length (storeOf xs) e.unit))) ∧
  (∀ s k e i, EngineOp s k e → e.tileDone = true → e.writes = [] → s.eopReqs k = [] →
    let s1 := s.onGrp e.gid fun g => { g with fflags := g.fflags ||| e.flags, mma := g.mma - 1 }
    Leads (.engineOpComplete k i) s (if e.failed.isSome ∧ isDead e.gid = false then s1.setOp k { e with done := true } else { s1 with eops := FMap.erase s1.eops k })) ∧
  (∀ s k e i id q, EngineOp s k e → e.tileDone = true → s.eopReq k i = some (id, q) →
    (∀ r, s.famFailed q.fam = some r → Leads (.engineOpComplete k i) s (s.opFail k e r)) ∧
    (s.famFailed q.fam = none → s.famPast q.fam = false → Leads (.engineOpComplete k i) s s)) ∧
  (∀ s k e i, FMap.find? s.eops k = some e → e.done = false → e.cancelled = true → s.heads k e = true →
    Leads (.engineOpComplete k i) s ((s.tilePhaseEnd k e).opComplete k { e with tileDone := true })) ∧
  (∀ s k c first n, CopyAt s k c first → c.piece first n ≠ 0 → s.copyTurn c = true →
    let m := c.piece first n
    let c' : Copy := { c with left := cutPiece c.left first m, begun := true }
    let s1 : State := { s with copies := FMap.insert s.copies k c' }
    let p := ptrBy c.src (c.offs first).1
    Leads (.copyComplete k first n) s (
      if c.zf = true then copyWrites s1 k c' first (List.replicate m (0, false))
      else match c.sloc with
        | some a => copyWrites s1 k c' first (s1.marked (a + bf p 0 32) m)
        | none => s1.newReq (engineReq (.copy k first) .read c.org p m .load c.unit))) ∧
  (∀ s k c first n q, CopyAsks s k c first q →
    (∀ r, s.famFailed q.fam = some r → Leads (.copyComplete k first n) s (s.copyFail k c r)) ∧
    (∀ bs, s.famFailed q.fam = none → q.kind = .read → s.brought q.fam = some bs →
      Leads (.copyComplete k first n) s (copyWrites (s.dropFam q.fam) k c first bs)) ∧
    (s.famFailed q.fam = none → q.kind = .write → s.famPast q.fam = true →
      let len := (s.famParts q.fam).foldl (fun n x => n + x.2.len) 0
      Leads (.copyComplete k first n) s (((s.l1Drops c.unit c.ctx (ptrBy c.dst (c.offs first).2) len).famLeave q.fam (some ⟨c.gid, false, c.num, k⟩) c.ctx c.blk c.unit).copyMoved k c)))

/-- R344 to R347, R351, R398: a send list leaves when it holds 16 tokens, its round is flushed or 2,048 cycles have passed; a token is held where no buffer is open, returned with
WHY 3 where its payload is too long, else takes the next slot, its payload written and then its header; a returned header takes the next overflow slot or is dropped; markers count
in ENDS; acknowledgements count at the round; a member's packet is heard, combined, or written to RCV. -/
def Obligations.RoutingEvents : Prop :=
  (∀ (s : State) id k m, FMap.find? s.toks id = some k → k.at_ = .list m →
    Leads (.sendListDepart id) s (if 16 ≤ (s.sendList k).length ∨ (∃ r, FMap.find? s.sess (sessKey k.die k.ctx k.sess) = some r ∧ r.flush.isSome = true) ∨
        (∃ x ∈ s.sendList k, 2048 ≤ s.now - x.2.since) then s.listGo k else s)) ∧
  (∀ (s : State) id k m, FMap.find? s.toks id = some k → k.at_ = .read m → k.loc = none → 0 < hLen k.hdr →
    (s.doneOf (.tok id) = .none → Leads (.sendListDepart id) s (s.newReq (engineReq (.tok id) .read k.org (hPtr k.hdr) (hLen k.hdr) .load 0))) ∧
    (∀ r, s.doneOf (.tok id) = .failed r → Leads (.sendListDepart id) s ((s.dropClient (.tok id)).tokReturn id k 4)) ∧
    (∀ bs, s.doneOf (.tok id) = .bytes bs → Leads (.sendListDepart id) s ((s.dropClient (.tok id)).tokGo id { k with pay := bs }))) ∧
  (∀ (s : State) id k d, FMap.find? s.toks id = some k → k.at_ = .way d → k.mark = false →
    (s.openBuf d k.ctx k.sess k.exp = none → s.holding d < 256 →
      Leads (.tokenArrive id) s { s with toks := FMap.insert s.toks id { k with at_ := .held d, since := s.nextId }, nextId := s.nextId + 1 }) ∧
    ∀ b x, s.openBuf d k.ctx k.sess k.exp = some (b, x) →
      (x.ps < hLen k.hdr → Leads (.tokenArrive id) s (s.tokReturn id k 3)) ∧
      (hLen k.hdr ≤ x.ps → x.count < x.cap → Leads (.tokenArrive id) s
        (((s.setBuf b { x with count := x.count + 1, pend := x.pend + 1 }).setTok id { k with at_ := .placing b x.count false }).tokPlace id)) ∧
      (hLen k.hdr ≤ x.ps → x.cap ≤ x.count → hE2 k.hdr ≠ 65535 → hSC k.hdr = false → Leads (.tokenArrive id) s
        ((s.setBuf b { x with redir := x.redir + 1 }).tokGo id { k with hdr := setBf k.hdr 103 1 1, exp := hE2 k.hdr })) ∧
      (hLen k.hdr ≤ x.ps → x.cap ≤ x.count → hE2 k.hdr = 65535 ∨ hSC k.hdr = true → Leads (.tokenArrive id) s (s.tokReturn id k (if hSC k.hdr then 1 else 2)))) ∧
  (∀ (s : State) id k b slot pay x, FMap.find? s.toks id = some k → k.at_ = .placing b slot pay → FMap.find? s.bufs b = some x →
    let head (s' : State) := (s'.setTok id { k with at_ := .placing b slot true }).newReq
      (engineReq (.tok id) .write x.org (pInto x.hdr (32 * slot)) 32 (storeOf ((leBytes 32 k.hdr.toNat).map fun y => (y, false))) 0)
    (s.doneOf (.tok id) = .none → Leads (.tokenArrive id) s (if pay = true ∨ k.pay = [] then head s
      else s.newReq (engineReq (.tok id) .write x.org (pInto x.pay (slot * x.ps)) k.pay.length (storeOf k.pay) 0))) ∧
    (s.doneOf (.tok id) = .wait → Leads (.tokenArrive id) s s) ∧
    (∀ bs, s.doneOf (.tok id) = .bytes bs → pay = false → Leads (.tokenArrive id) s (head (s.dropClient (.tok id)))) ∧
    (∀ bs, s.doneOf (.tok id) = .bytes bs → pay = true →
      Leads (.tokenArrive id) s (((((s.dropClient (.tok id)).setBuf b { x with pend := x.pend - 1 }).dropTok id).tokAck k).bufCheck b)) ∧
    (∀ r, s.doneOf (.tok id) = .failed r →
      Leads (.tokenArrive id) s ((((s.dropClient (.tok id)).setBuf b { x with failed := true, pend := x.pend - 1 }).tokReturn id k 1).bufCheck b))) ∧
  (∀ (s : State) id k r, FMap.find? s.toks id = some k → k.at_ = .back → FMap.find? s.sess (sessKey k.die k.ctx k.sess) = some r →
    let key := sessKey k.die k.ctx k.sess
    Leads (.tokenReturn id) s (if r.ret < r.ocap then
        (({ s with sess := FMap.insert s.sess key { r with ret := r.ret + 1 } }).setTok id { k with at_ := .overflow r.ret }).tokOver id
      else (({ s with sess := FMap.insert s.sess key { r with drop := r.drop + 1 } }).dropTok id).disposed key)) ∧
  (∀ (s : State) id k d, FMap.find? s.toks id = some k → k.at_ = .way d → k.mark = true →
    (s.openBuf d k.ctx k.sess k.exp = none →
      Leads (.endMarkerArrive id) s (({ s with toks := FMap.insert s.toks id { k with at_ := .held d, since := s.nextId }, nextId := s.nextId + 1 } : State).tokAck k)) ∧
    ∀ b x, s.openBuf d k.ctx k.sess k.exp = some (b, x) → FMap.find? ((s.dropTok id).tokAck k).bufs b = some x →
      Leads (.endMarkerArrive id) s ((((s.dropTok id).tokAck k).setBuf b { x with ends := x.ends + 1, isOpen := decide (x.ends + 1 < x.e) }).bufCheck b)) ∧
  (∀ (s : State) id k, FMap.find? s.toks id = some k → k.at_ = .ack → k.mark = false →
    let key := sessKey k.die k.ctx k.sess
    Leads (.tokenDispositionAck id) s (({ s.dropTok id with sess := FMap.modify (s.dropTok id).sess key fun r => { r with acked := r.acked + 1 } } : State).flushCheck key)) ∧
  (∀ (s : State) id m k c, s.hoist = none → FMap.find? s.cmsgs id = some m → s.collOf m.tag = some (k, c) →
    let s1 : State := { s with cmsgs := FMap.erase s.cmsgs id }
    let n := ctyBytes c.m.ty
    let acc := m.vals.zipIdx.foldl (fun (a : FMap (W64 × Bool)) x =>
      FMap.insert a (m.first + x.2) (match FMap.find? a (m.first + x.2) with | some y => combineElem c.m y x.1 | none => x.1)) c.acc
    (m.kind = 0 → m.vals = c.desc → Leads (.collContribution id) s { s1 with colls := FMap.insert s1.colls k { c with heard := c.heard ++ [m.rank] } }) ∧
    (m.kind = 0 → m.vals ≠ c.desc → Leads (.collContribution id) s (s1.collFail k c 1)) ∧
    (m.kind = 1 → c.got + m.vals.length < c.g * c.own → Leads (.collContribution id) s { s1 with
      colls := FMap.insert s1.colls k { c with acc := acc, got := c.got + m.vals.length } }) ∧
    (m.kind = 2 → s.doneOf (.coll k (id + 1)) = .none → Leads (.collContribution id) s (s.newReq (engineReq (.coll k (id + 1)) .write c.org
      (pInto c.rcv ((c.rcvAt m.blk + m.first) * n)) (m.vals.length * n) (storeOf (bytesOf n m.vals)) 0))) ∧
    (∀ bs, m.kind = 2 → s.doneOf (.coll k (id + 1)) = .bytes bs →
      Leads (.collContribution id) s (((s1.dropClient (.coll k (id + 1))).setColl k { c with done := c.done + m.vals.length }).collDone k)) ∧
    (∀ r, m.kind = 2 → s.doneOf (.coll k (id + 1)) = .failed r → Leads (.collContribution id) s (s.collFail k c 3))) ∧
  (∀ (s : State) k c, s.hoist = none → FMap.find? s.cmsgs k = none → FMap.find? s.colls k = some c → c.g ≤ c.heard.length →
    (c.dest < c.g → Leads (.collContribution k) s (s.collPart k c)) ∧ (c.g ≤ c.dest → Leads (.collContribution k) s (s.collDone k)))

namespace Sys2Proof.Claims

/-- What the front end has of a queue once it has observed it: its starvation count up to the present, whether the count runs on, and AGE 0 where no packet is pending (R305,
R308). That counts are judged when the front end observes a queue is the model's choice (log entry 123). -/
def observed (s : State) (q : Nat) : LQueue :=
  { s.queue q with
    starve := (s.queue q).starve + (if (s.queue q).counts then s.now - (s.queue q).seen else 0), seen := s.now, counts := s.starves q
    age := match s.readWix (s.queue q) with | .ok w => if pending (s.queue q) w = 0 then 0 else (s.queue q).age | .error _ => (s.queue q).age }

/-- A launch queue's context runs and is not being stopped, and it is the queue's turn at the front end, which finds `h` at its head (R305, R379). -/
def QueueTurn (s : State) (q : Nat) (h : Head) : Prop :=
  (s.ctx (s.queue q).ctx).vst = .run ∧ (s.ctx (s.queue q).ctx).stopping = false ∧
    (s.setQueue q (observed s q)).nextQueue = some q ∧ (s.setQueue q (observed s q)).headOf q = h

end Sys2Proof.Claims

/-- R291 to R293, R305, R379: what FRONT_END_DELIVER, DOORBELL_WRITE, QUEUE_AGEING, QUEUE_ENABLE_WRITE and QUEUE_SIZE_WRITE do, each of which completes: the front end delivers
a head packet with its LID and COUNT to the mailbox of its die, under a live launch record; a packet that fails a check leaves only its record; a fault on the ring holds the
queue or ends it; a doorbell stores the index; a queue ages by one for each AGET that it starves; EN clears ERR; a size outside 2 to 16 is a ring error. -/
def Obligations.FrontEndEvents : Prop :=
  (∀ (s : State) q pkt h die lid, QueueTurn s q (.deliver pkt h die lid) →
    let s1 := s.setQueue q (observed s q)
    let x := s1.queue q
    let n := if pktCount pkt = 0 then setsIn h pkt - pktFirst pkt else pktCount pkt
    let p := [pw pkt 0, pw pkt 1, pw pkt 2, pw pkt 3, pw pkt 4, pw pkt 5, setBf (pw pkt 6) 50 14 lid, setBf (pw pkt 7) 32 32 n]
    let r : LRec := { q := q, ctx := x.ctx, part := x.part, hdr := h, pkt := p, die := die, t := setsIn h pkt
                      count := n, bps := blocksPer h pkt, gpb := groupsPer h pkt, prio := min x.qpri h.prio }
    exec (.frontEndDeliver q) s = .next (((({ s1 with recs := FMap.insert s1.recs lid r } : State).setQueue q { x with open_ := x.open_ ++ [lid] }).toBox die p).advance q)) ∧
  (∀ (s : State) q pkt st, QueueTurn s q (.bad pkt st) →
    let s1 := s.setQueue q (observed s q)
    exec (.frontEndDeliver q) s = .next ((s1.writeRecord (s1.queue q).ctx (pw pkt 2) (doneRecord 0 st false false false)).advance q)) ∧
  (∀ (s : State) q, QueueTurn s q .ring → exec (.frontEndDeliver q) s = .next ((s.setQueue q (observed s q)).ringError q)) ∧
  (∀ (s : State) q p r, QueueTurn s q (.refused p r) →
    let s1 := s.setQueue q (observed s q)
    let x := s1.queue q
    let o : Origin := { ptr := p, guidon := guidonOf s1.modNo x.part x.ctx 6 false false, unit := 1785 }
    exec (.frontEndDeliver q) s = .next (if r.reason = .absent ∨ r.reason = .gate then
        (s1.setQueue q { x with held := some (o, .read, r) }).report o .read r (some (ringWho q))
      else (s1.setQueue q { x with err := true, en := false, counts := false }).post dstPlog (faultRec o .read r) 0 false none)) ∧
  (∀ (s : State) q, (s.ctx (s.queue q).ctx).vst ≠ .run ∨ (s.ctx (s.queue q).ctx).stopping = true → exec (.frontEndDeliver q) s = .next s) ∧
  (∀ (s : State) q wix,
    let x := s.queue q
    let s1 := (s.poke (guidonOf s.modNo x.part x.ctx 5 false true) x.wixp 8 wix).setQueue q { x with wix := wix }
    exec (.doorbellWrite q wix) s = .next (s1.setQueue q (observed s1 q))) ∧
  (∀ (s : State) q,
    let s1 := s.setQueue q (observed s q)
    let x := s1.queue q
    exec (.queueAgeing q) s = .next (if x.counts = true ∧ 1000 * max 1 s1.regs.aget ≤ x.starve then
      s1.setQueue q { x with age := min 7 (x.age + 1), starve := x.starve - 1000 * max 1 s1.regs.aget } else s1)) ∧
  (∀ (s : State) q en,
    let s1 := s.setQueue q { s.queue q with en := en, err := false }
    let s2 := s1.setQueue q (observed s1 q)
    exec (.queueEnableWrite q en) s = .next (if en = true ∧ ((s.queue q).size < 2 ∨ 16 < (s.queue q).size) then s2.ringError q else s2)) ∧
  (∀ (s : State) q n,
    let s1 := s.setQueue q { s.queue q with size := n % 16 }
    exec (.queueSizeWrite q n) s = .next (if (s.queue q).en = true ∧ n % 16 < 2 then s1.ringError q else s1))

namespace Sys2Proof.Claims

/-- A group stands on no lane's slot. -/
def OffLane (s : State) (gid : Nat) (g : Group) : Prop :=
  ∀ l, FMap.find? s.lanes (laneKey (s.blk g.blk) g (unitOfGid gid)) = some l → l.slot ≠ some (slotOfGid gid)

end Sys2Proof.Claims

/-- R300 to R304, R306, R308: what LAUNCH_COMPLETE, RUN_SELECT and GROUP_AGEING do, each of which completes: a launch that is over leaves its pennant, its record, its interrupt
and its LID; a lane that holds no group gives a run to a ready group of the highest lane priority, or in rotation mode of the next context; a group that is ready off its lane
rises by one for each AGET. -/
def Obligations.LaunchEvents : Prop :=
  (∀ (s : State) lid r, FMap.find? (s.countSilent lid).recs lid = some r → (s.countSilent lid).launchOver lid r = true →
    let s1 := s.countSilent lid
    let s2 := (if r.pennant = true then s1 else s1.doPennant lid r).l1DropAll
    let v := doneRecord lid 0 r.suspect true true
    let s3 := s2.writeRecord r.ctx (pw r.pkt 2) v
    let s4 := (if bt (pw r.pkt 6) 39 = true then s3.postEvent r.ctx 1 0 v.toNat (pw r.pkt 2).toNat r.q else s3).clearLaunch lid
    exec (.launchComplete lid) s = .next (if bt (pw r.pkt 6) 38 = true ∧ r.cores ≠ [] then s2
      else State.queueTurn { s4.setQueue r.q { s4.queue r.q with open_ := (s4.queue r.q).open_.filter fun l => l ≠ lid } with
        recs := FMap.erase s4.recs lid, fins := FMap.insert s4.fins lid (pw r.pkt 2, v, r.ctx) } r.q)) ∧
  (∀ (s : State) lid r, FMap.find? (s.countSilent lid).recs lid = some r → (s.countSilent lid).launchOver lid r = false →
    exec (.launchComplete lid) s = .next (s.countSilent lid)) ∧
  (∀ (s : State) key x xs y, (FMap.getD s.lanes key {}).slot = none → key / 32 < offCore → s.readyOn key = x :: xs → s.rotates key (s.blk x.2.blk).part = false →
    s.pickPrio (x :: xs) = some y →
    exec (.runSelect key) s = .next (({ (s.onGrp y.1 fun g => { g with run := 0, raise := 0, aged := 0, yielded := false }) with
      lanes := FMap.put s.lanes key { FMap.getD s.lanes key {} with slot := some (slotOfGid y.1) } {} } : State).settleUnit (key / 32))) ∧
  (∀ (s : State) key x xs y, (FMap.getD s.lanes key {}).slot = none → key / 32 < offCore → s.readyOn key = x :: xs → s.rotates key (s.blk x.2.blk).part = true →
    let c := s.nextCtx (FMap.getD s.lanes key {}) ((x :: xs).map fun y => (s.blk y.2.blk).ctx)
    bestOf earlier ((x :: xs).filter fun y => (s.blk y.2.blk).ctx = c.1) = some y →
    exec (.runSelect key) s = .next (({ (s.onGrp y.1 fun g => { g with run := 0, raise := 0, aged := 0, yielded := false }) with
      lanes := FMap.put s.lanes key { FMap.getD s.lanes key {} with rctx := c.1, runs := c.2, slot := some (slotOfGid y.1) } {} } : State).settleUnit (key / 32))) ∧
  (∀ (s : State) key, s.readyOn key = [] → key / 32 < offCore → exec (.runSelect key) s = .next (s.settleUnit (key / 32))) ∧
  (∀ (s : State) xs y, s.pickPrio xs = some y → y ∈ xs ∧ ∀ x ∈ xs, s.lanePrio x.2 ≤ s.lanePrio y.2) ∧
  (∀ (s : State) gid g, FMap.find? s.groups gid = some g → OffLane s gid g → s.isReady g = true →
    s.rotates (laneKey (s.blk g.blk) g (unitOfGid gid)) (s.blk g.blk).part = false →
    let n := g.aged + (s.now - g.readyAt)
    exec (.groupAgeing gid) s = .next (if 1000 * max 1 s.regs.aget ≤ n then
      s.setGrp gid { g with raise := min 7 (g.raise + 1), aged := n - 1000 * max 1 s.regs.aget, readyAt := s.now } else s)) ∧
  (∀ (s : State) gid g, FMap.find? s.groups gid = some g →
    (s.isReady g = false ∨ s.rotates (laneKey (s.blk g.blk) g (unitOfGid gid)) (s.blk g.blk).part = true) → exec (.groupAgeing gid) s = .next s)

/-- R309 to R311, R367, R370, R381, R401, R406: a drained block that still runs at DRMAX is saved with its set; a hot core saves its longest resident for the coolest core of its
cluster; a claim spills a group of a halted block whose rows a waiting set's placement lacks, or whose tile slots a restore does; a save goes on as soon as its image has room; a saved block comes back, or a dropped one
starts afresh, on the first core of its order that qualifies. -/
def Obligations.PlacementEvents : Prop :=
  (∀ (s : State) k b, FMap.find? s.blocks k = some b → b.stop = some .drain →
    Leads (.drainTimeout k) s (if b.chosen + s.regs.drmax * 1000 ≤ s.now then s.treat (s.setOf k) .save else s)) ∧
  (∀ (s : State) u tmp, s.regs.ten = false ∨ tmp % 256 < s.regs.thot → Leads (.thermalMigration ⟨u, tmp⟩) s (s.onCore u fun c => { c with tmp := tmp % 256 })) ∧
  (∀ (s : State) u tmp, s.regs.ten = true → s.regs.thot ≤ tmp % 256 → u < 1536 →
    let s1 := s.onCore u fun c => { c with tmp := tmp % 256 }
    (∀ k, (∀ x ∈ s.blocks, x.2.mig = true → ((FMap.find? s.saved x.1).map fun v => v.from_).getD x.2.core ≠ u) → s1.migrant u = some k →
      Leads (.thermalMigration ⟨u, tmp⟩) s ((s1.onBlk k fun b => { b with mig := true }).treat [k] .save)) ∧
    ((∀ x ∈ s.blocks, x.2.mig = true → ((FMap.find? s.saved x.1).map fun v => v.from_).getD x.2.core ≠ u) → s1.migrant u = none → Leads (.thermalMigration ⟨u, tmp⟩) s s1) ∧
    ((∃ x ∈ s.blocks, x.2.mig = true ∧ ((FMap.find? s.saved x.1).map fun v => v.from_).getD x.2.core = u) → Leads (.thermalMigration ⟨u, tmp⟩) s (s1.settleUnit u))) ∧
  (∀ (s : State) gid g, FMap.find? s.groups gid = some g → s.haltedBlock g.blk = true → unitOfGid gid < 1536 →
    s.lacks (unitOfGid gid) (some (laneOf (s.blk g.blk) g)) = true ∨ (s.ownedSlots (unitOfGid gid) [gid] ≠ [] ∧ s.lacksTiles (unitOfGid gid) = true) →
    Leads (.resourceClaim false gid) s (s.spillGroup gid)) ∧
  (∀ (s : State) k, s.haltedBlock k = true → s.holdsBytes k (s.blk k) = true → s.lacks (s.blk k).core none = true → Leads (.resourceClaim true k) s (s.spillBytes k)) ∧
  (∀ (s : State) k b t, FMap.find? s.blocks k = some b → b.onCore = true → b.live ≠ 0 → b.stop = some .save → s.canSave k = true → s.doSave k = some t →
    Leads (.saveAreaFreed k) s t) ∧
  (∀ (s : State) k b, FMap.find? s.blocks k = some b → b.onCore = true → b.live ≠ 0 → b.stop = some .save → (s.canSave k = false ∨ s.doSave k = none) →
    Leads (.saveAreaFreed k) s s) ∧
  (∀ (s : State) k b v u lam, FMap.find? s.blocks k = some b → FMap.find? s.saved k = some v → b.onCore = false → s.restorable b.ctx = true →
    (s.restoreOrder k).findSome? (fun u => if s.promised (clusterOf u) (s.prioNow b) = true then none else (s.qualifies k u).map fun lam => (u, lam)) = some (u, lam) →
    let b' : Block := { b with prio := s.prioNow b, mig := false, scan := false, stop := none }
    (v.restart = false →
      let s1 := ((((s.setBlk k b').moveBlock k u lam).onBlk k fun b => { b with placed := s.now }).freeImages k)
      Leads (.restoreRetry k) s (((({ s1 with saved := FMap.erase s1.saved k } : State).noteLid u b.lid).l1DropCtx u b.ctx).lateDiscards k)) ∧
    (v.restart = true → Leads (.restoreRetry k) s (({ s.freeImages k with saved := FMap.erase s.saved k } : State).startBlock k b' u lam b.lid.isNone))) ∧
  (∀ (s : State) k b v, FMap.find? s.blocks k = some b → FMap.find? s.saved k = some v →
    (∀ u ∈ s.restoreOrder k, s.promised (clusterOf u) (s.prioNow b) = true ∨ s.qualifies k u = none) → Leads (.restoreRetry k) s s)

/-- R337 to R339, R360 to R362, R364, R391: a response to the awaited sequence number is applied and its word cleared; a moved RIDX posts what was held, one record where one
was; writing 1 to OVF clears it; the hang detector writes the wait-for graph and traps the group of lowest core and slot; a lost peer's operations are decided at its
deadline; writing 1 to SRQ clears it and SRCNT. -/
def Obligations.FaultEvents : Prop :=
  (∀ (s : State) dst a, s.queuePtr dst ≠ 0 →
    let w := s.peek (s.queueGuidon dst) (pPlus (s.queuePtr dst) 32) 8
    let s1 := s.poke (s.queueGuidon dst) (pPlus (s.queuePtr dst) 32) 8 0
    (w / 2 ^ 56 = 1 ∨ w / 2 ^ 56 = 2) → (List.find? (fun (a : Awaiting) => a.dst = dst && a.seq = w % 2 ^ 32) s1.awaits) = some a →
    Leads (.faultResponse dst) s (({ s1 with awaits := s1.awaits.erase a } : State).answerTo a.who (w / 2 ^ 56 = 1))) ∧
  (∀ (s : State) dst, (s.queuePtr dst = 0 ∨ s.peek (s.queueGuidon dst) (pPlus (s.queuePtr dst) 32) 8 / 2 ^ 56 = 0) → Leads (.faultResponse dst) s s) ∧
  (∀ (s : State) dst, (∀ p ∈ s.posts, p.dst ≠ dst) → Leads (.faultQueueRidx dst) s s) ∧
  (∀ (s : State) dst p, s.posts = [p] → p.dst = dst → Leads (.faultQueueRidx dst) s (s.postNext dst)) ∧
  (∀ (s : State) dst, Leads (.ovfClear dst) s (if s.queuePtr dst = 0 then s else
    s.poke (s.queueGuidon dst) (pPlus (s.queuePtr dst) 24) 4 (s.peek (s.queueGuidon dst) (pPlus (s.queuePtr dst) 24) 4 / 2 * 2))) ∧
  (∀ (s : State) c n gid g gs, s.hangCount c = some n → s.residents c = (gid, g) :: gs → (s.ctx c).hangEn = true → max 1 (s.ctx c).hthr * 1000 ≤ n →
    let first := (s.queueIdx (s.queueGuidon c) (s.queuePtr c)).2.1
    let r := s.writeGraph c ((gid, g) :: gs)
    Leads (.hangDetect c) s ((r.1.setCtx c { r.1.ctx c with hangAt := r.1.now }).takeTrap gid
      { cause := .hang, aux0 := BitVec.ofNat 32 r.2.1, aux1 := BitVec.ofNat 64 (r.2.2 % 2 ^ 32 * 2 ^ 32 + first % 2 ^ 32) })) ∧
  (∀ (s : State) c, (s.hangCount c = none ∨ (s.ctx c).hangEn = false) → Leads (.hangDetect c) s s) ∧
  (∀ (s : State) m, s.inRecovery m = true → max 1 s.regs.pdl * 1000000 ≤ s.now - s.recoverySince m →
    let s1 := s.setFlow m { s.flow m with lost := true }
    let r := s1.reqs.foldl (fun (x : State × List Nat) q => let y := x.1.loseReq q.1 m; (y.1, x.2 ++ y.2)) (s1, [])
    let w := r.1.loseWatches m
    let s2 := w.1.loseRounds m
    let s3 := (s2.colls.filter fun c => c.2.lst.contains m).foldl (fun s c => s.collFail c.1 c.2 2) s2
    Leads (.peerDeadline m) s ((distinct (r.2 ++ w.2)).foldl (fun s g => s.peerLost g m) s3)) ∧
  (∀ (s : State) m, (s.inRecovery m = false ∨ s.now - s.recoverySince m < max 1 s.regs.pdl * 1000000) → Leads (.peerDeadline m) s s) ∧
  (∀ s : State, Leads .srqClear s { s with regs := { s.regs with srq := false, srcnt := 0 } })

/-- R126 to R133, R135 to R137, R145 to R149: a flit that arrives is counted in RECV and its corrected codewords in FECC; of a member's present generation it joins its seal group;
a verified group is applied in its order, a failed one dropped whole; a release-tagged packet waits for all before it; an egress group sends the flits that its VC has credit for;
a refused group goes again; replays, credits and audits keep the port's counters; a notice clears a plane, and what had gone by it goes again. -/
def Obligations.FabricEvents : Prop :=
  (∀ (s : State) port fec (lo hi : W64) body, let h : BitVec 128 := hi ++ lo
    s.regs.mod.isSome = true → (s.port port).works = true → bf h 124 2 = 0 →
    let m := bf h 107 9
    let vc := bf h 126 2
    let f := s.flow m
    let s1 := s.setPort port { s.port port with fecc := min (2 ^ 32 - 1) ((s.port port).fecc + fec) }
    let x := s1.port port
    let s2 := s1.setPort port { x with recv := bump x.recv (x.vcOf vc) 1 }
    let gone := s1.setPort port { x with recv := bump x.recv (x.vcOf vc) 1, rfree := bump x.rfree (x.vcOf vc) 1 }
    let pkts := if bt h 122 then [({ seq := bf h 0 64, rel := bt h 121, fep := bf h 64 16, vc := vc, gen := s.regs.gen.toNat, body := body } : Packet)] else []
    ((bf h 90 8 ≠ s.regs.gen.toNat % 256 ∨ s.regs.mask.getLsbD m = false) → ∀ early,
      Leads (.flowFlitIngress port fec lo hi early body) s (gone.setPort port { gone.port port with sgf := min (2 ^ 32 - 1) ((gone.port port).sgf + 1) })) ∧
    (bf h 90 8 = s.regs.gen.toNat % 256 → s.regs.mask.getLsbD m = true →
      (f.deaf = true → ∀ early, Leads (.flowFlitIngress port fec lo hi early body) s gone) ∧
      (f.deaf = false → bf h 117 4 = 0 → (∀ g ∈ f.in_, g.id = bf h 0 64 → g.closed = false) →
        Leads (.flowFlitIngress port fec lo hi false body) s (s2.setFlow m { f with in_ := f.in_.filter (fun y => y.id ≠ bf h 0 64) ++
          [{ id := bf h 0 64, peer := m, port := port, vc := vc, pkts := pkts, flits := 1, hdrs := [h], closed := bt h 116 }] })) ∧
      (f.deaf = false → bf h 117 4 ≠ 0 → (∀ g ∈ f.in_, ¬(g.port = port ∧ g.vc = vc ∧ g.closed = false)) → ∀ early, Leads (.flowFlitIngress port fec lo hi early body) s gone) ∧
      ∀ g, f.deaf = false → bf h 117 4 ≠ 0 → (f.in_.find? fun g => g.port = port && g.vc = vc && !g.closed) = some g →
        Leads (.flowFlitIngress port fec lo hi false body) s (s2.setFlow m { f with in_ := f.in_.filter (fun y => y.id ≠ g.id) ++
          [{ g with pkts := g.pkts ++ pkts, flits := g.flits + 1, hdrs := g.hdrs ++ [h], closed := bt h 116 }] }))) ∧
  (∀ (s : State) m id, Leads (.sealGroupVerify true m id) s (s.setFlow m { s.flow m with out := (s.flow m).out.filter fun g => g.id ≠ id, bad := FMap.erase (s.flow m).bad (2 * id) })) ∧
  (∀ (s : State) m id g p, ((s.flow m).in_.find? fun g => g.id = id && g.closed) = some g → g.pkts = [p] → (∀ b ∈ s.blocks, ∀ y ∈ b.2.seals, y.1 ≠ sealKey m id) →
    let s1 := (s.setFlow m { s.flow m with in_ := (s.flow m).in_.filter fun y => y.id ≠ id, bad := FMap.erase (s.flow m).bad (2 * id + 1) }).freeSeal g
    let s2 := if (s1.flow m).had p.seq then s1 else if p.rel then s1.setFlow m { s1.flow m with held := (s1.flow m).held ++ [p] } else s1.applyPacket m p
    (∀ b ∈ s2.blocks, ∀ y ∈ b.2.seals, y.1 ≠ sealKey m id) → Leads (.sealGroupVerify false m id) s s2) ∧
  (∀ (s : State) m id g, ((s.flow m).in_.find? fun g => g.id = id) = some g →
    let n := FMap.getD (s.flow m).bad (2 * id + 1) 0 + 1
    let s1 := ((s.setPort g.port { s.port g.port with sgf := min (2 ^ 32 - 1) ((s.port g.port).sgf + 1) }).freeSeal g).setFlow m
      { s.flow m with in_ := (s.flow m).in_.filter (fun y => y.id ≠ id), bad := FMap.insert (s.flow m).bad (2 * id + 1) n, deaf := (s.flow m).deaf || decide (4 ≤ n) }
    Leads (.sealGroupFail false m id) s ((if n = 4 then (s1.service 6 m).askHoist m else s1).failBlocks g)) ∧
  (∀ (s : State) m id g, ((s.flow m).out.find? fun g => g.id = id) = some g →
    let n := FMap.getD (s.flow m).bad (2 * id) 0 + 1
    let f := { s.flow m with bad := FMap.insert (s.flow m).bad (2 * id) n }
    Leads (.sealGroupFail true m id) s (if 4 ≤ n then (s.setFlow m { f with stopped := true }).reachCheck else (s.setFlow m f).push m { g with left := g.flits })) ∧
  (∀ (s : State) m seq p, ((s.flow m).held.find? fun p => p.seq = seq) = some p →
    let s1 := s.setFlow m { s.flow m with held := (s.flow m).held.filter fun x => x.seq ≠ seq }
    (((s.flow m).expect ≠ seq ∨ s.unperformed m p = true) → Leads (.releasePacketApply m seq) s s) ∧
    ((s.flow m).expect = seq → s.unperformed m p = false → (∀ r ∈ (s.flow m).refs, seq ≤ r.1 ∨ epochOlder p.fep r.2 = false) →
      Leads (.releasePacketApply m seq) s (s1.applyPacket m p)) ∧
    ((s.flow m).expect = seq → s.unperformed m p = false → (∃ r ∈ (s.flow m).refs, r.1 < seq ∧ epochOlder p.fep r.2 = true) →
      Leads (.releasePacketApply m seq) s ((s1.setFlow m ((s1.flow m).saw seq)).send m 1 (.behind (packetName p.gen p.seq)) false))) ∧
  (∀ (s : State) m vc, s.regs.mod.isSome = true → (s.flow m).stopped = false →
    (∀ g, ((s.flow m).out.find? fun g => g.vc = vc && g.left ≠ 0) = some g → Leads (.sealGroupClose m vc) s (s.push m g)) ∧
    ∀ p ps n, (∀ g ∈ (s.flow m).out, g.vc = vc → g.left = 0) → sealRun vc [] (s.flow m).wait = p :: ps → s.nextPlane m = some n →
      let k := flitsOf (p :: ps)
      let g : Seal := { id := p.seq, peer := m, port := n, vc := vc, pkts := p :: ps, flits := k, left := k, hdrs := sealHdrs s.modNo m 0 (p :: ps), closed := true }
      Leads (.sealGroupClose m vc) s (if (s.port n).room vc = 0 then s else
        (({ s with lastPlane := n } : State).setFlow m { s.flow m with wait := (s.flow m).wait.filter fun x => !(p :: ps).contains x, out := (s.flow m).out ++ [g] }).push m g)) ∧
  (∀ (s : State) m g, (s.port g.port).works = true → (s.flow m).mask.getLsbD g.port = true →
    let x := s.port g.port
    let k := min g.left (cnt x.lim (x.vcOf g.vc) - (cnt x.sent (x.vcOf g.vc) + 2 ^ 32 - cnt x.freed (x.vcOf g.vc)) % 2 ^ 32)
    s.push m g = (s.setPort g.port { x with sent := bump x.sent (x.vcOf g.vc) k, replay := if k = 0 then x.replay else lastFlits 64 ((g.id, k) :: x.replay) }).setFlow m
      { s.flow m with out := (s.flow m).out.map fun y => if y.id = g.id then { g with left := g.left - k } else y }) ∧
  (∀ (s : State) p, Leads (.linkReplay p) s (s.setPort p { s.port p with lrty := min (2 ^ 32 - 1) ((s.port p).lrty + 1) })) ∧
  (∀ (s : State) p freed, Leads (.creditReturn p freed) s (s.setPort p { s.port p with freed := (List.range 4).map fun v => cnt freed v % 2 ^ 32 })) ∧
  (∀ (s : State) p sent freed, (∀ v < 4, cnt sent v % 2 ^ 32 = cnt (s.port p).recv v) → (∀ v < 4, cnt (s.port p).recv v < 2 ^ 32) →
    ((s.port p).freed = (List.range 4).map (fun v => cnt freed v % 2 ^ 32) → Leads (.creditAudit p sent freed) s s) ∧
    ((s.port p).freed ≠ (List.range 4).map (fun v => cnt freed v % 2 ^ 32) →
      Leads (.creditAudit p sent freed) s ((s.setPort p { s.port p with freed := (List.range 4).map fun v => cnt freed v % 2 ^ 32 }).leak p))) ∧
  (∀ (s : State) p sent freed, let x := s.port p
    let lost (v : Nat) : Nat := (cnt sent v + 2 ^ 32 - cnt x.recv v) % 2 ^ 32
    let s1 := (s.setPort p { x with recv := (List.range 4).map (fun v => cnt sent v % 2 ^ 32), rfree := (List.range 4).map fun v => (cnt x.rfree v + lost v) % 2 ^ 32 }).leak p
    (∃ v < 4, lost v ≠ 0) → (s1.port p).freed = (List.range 4).map (fun v => cnt freed v % 2 ^ 32) → Leads (.creditAudit p sent freed) s s1) ∧
  (∀ (s : State) m plane, let s1 := s.setFlow m { s.flow m with mask := (s.flow m).mask &&& ~~~(1#48 <<< plane) }
    Leads (.reachabilityNotice m plane) s (((s1.flow m).out.filter fun g => g.port = plane).foldl (fun s g => s.push m g) s1).reachCheck)

/-- R126, R137 to R139, R141, R150, R151: lost lanes and buffer entries degrade a port, and below 16 flits or without a lane quiesce it; trained ports carry traffic; limits are taken
as they are valid; a module takes its number once; a refused attestation raises a service request and ends the join that waits for it; the barrier of a hoist waits until every
flow is drained and every member that it meets has held a session; a member late by HDL is evicted. -/
def Obligations.PortEvents : Prop :=
  (∀ (s : State) p lanes cap, (min cap (s.port p).cap + 1 < 16 ∨ lanes = 0) →
    ∃ x : Port, Leads (.portDegrade p lanes cap) s ((s.setPort p x).quiesce p) ∧ x.cap = min cap (s.port p).cap) ∧
  (∀ (s : State) p cap, 32 ≤ min cap (s.port p).cap + 1 → (s.port p).vcmap = 0 → (s.port p).lim.sum ≤ min cap (s.port p).cap + 1 →
    Leads (.portDegrade p 4 cap) s (s.setPort p { s.port p with lanes := 4, cap := min cap (s.port p).cap }) ∧
    ∀ lanes, 2 ≤ lanes → lanes < 4 → Leads (.portDegrade p lanes cap) s
      ((s.setPort p { s.port p with lanes := 2, cap := min cap (s.port p).cap, st := if (s.port p).works then 3 else (s.port p).st }).service 1 p)) ∧
  (∀ (s : State) p,
    let s1 := s.setPort p { s.port p with st := 4 }
    let s2 := (s1.flows.map fun x => x.1).foldl (fun s m => ((s.flow m).out.filter fun g => g.port = p).foldl (fun s g => s.push m g) s) s1
    let told := (s2.flows.filter fun x => s2.regs.mask.getLsbD x.1).map fun x => x.1
    Leads (.portQuiesce p) s ((told.foldl (fun (s : State) m => s.send m 3 (.notice p) false) s2).reachCheck.service 2 p) ∧
    ((∀ x ∈ s.flows, ∀ g ∈ x.2.out, g.port ≠ p) → s2 = s1)) ∧
  (∀ (s : State) m, Leads (.spdmSession m true) s (s.setFlow m { s.flow m with attested := true })) ∧
  (∀ (s : State) m, s.hoist = none → ((s.setFlow m { s.flow m with attested := false }).service 5 m).hoist = none →
    Leads (.spdmSession m false) s ((s.setFlow m { s.flow m with attested := false }).service 5 m)) ∧
  (∀ (s : State) m h, s.hoist = some h → h.op = 0 → h.mod = m →
    Leads (.spdmSession m false) s (((s.setFlow m { s.flow m with attested := false }).service 5 m).hoistEnd 4)) ∧
  (∀ (s : State) p v, let l := [v / 2 ^ 24 % 256, v / 2 ^ 16 % 256, v / 2 ^ 8 % 256, v % 256]
    Leads (.portLimitWrite p v) s (if (∀ x ∈ l, 8 ≤ x) ∧ l.sum ≤ (s.port p).cap + 1 then s.setPort p { s.port p with lim := l } else s)) ∧
  (∀ (s : State) n, Leads (.moduleNumberAssignment n) s (if s.regs.mod = none ∧ n < 512 then { s with regs := { s.regs with mod := some (BitVec.ofNat 9 n) } } else s)) ∧
  (∀ (s : State) p, (s.port p).st ≠ 1 → Leads (.portTrainingDone p) s s) ∧
  (∀ (s : State) p, (s.port p).st = 1 → (s.port p).vcmap = 0 → (s.port p).lanes = 4 → Leads (.portTrainingDone p) s (s.setPort p { s.port p with st := 2 }).reachCheck) ∧
  (∀ (s : State) mask sec gen ld, s.hoist = none → s.regs.lead = false → s.regs.mod.isSome = true →
    Leads (.hoistBarrier mask sec gen ld) s { s with hoist := some { op := 4, mod := 0, gid := none, start := s.now } }) ∧
  (∀ (s : State) mask sec gen ld h, s.hoist = some h →
    let mk := if h.op = 4 then mask else s.newMask h
    let s1 := s.refuseHeld mk
    let sent := (List.range 4).map fun i => Config.random (s1.fresh + i)
    let s2 := { s1 with fresh := s1.fresh + 4 }
    ((∃ x ∈ s1.flows, s1.drainedOf h.absent x.1 = false) ∨ (mk.getLsbD s1.modNo = true ∧ s1.sessions mk = false) → Leads (.hoistBarrier mask sec gen ld) s s1) ∧
    ((∀ x ∈ s1.flows, s1.drainedOf h.absent x.1 = true) → (mk.getLsbD s1.modNo = true → s1.sessions mk = true) →
      (h.op = 4 → Leads (.hoistBarrier mask sec gen ld) s ((s2.hoistSwitch mk sec gen ld).hoistEnd 0)) ∧
      (h.op ≠ 4 → Leads (.hoistBarrier mask sec gen ld) s ((s2.hoistSwitch mk sent (if s1.regs.memb then s1.regs.gen + 1 else 1) s1.modNo).hoistEnd 0)))) ∧
  (∀ (s : State) m h, s.hoist = some h → s.regs.mask.getLsbD m = true → m ≠ s.modNo → h.absent.contains m = false →
    let s1 := { s with hoist := some { h with absent := h.absent ++ [m] } }
    Leads (.hoistDeadline m) s (if max 1 s.regs.hdl * 1000000 ≤ s.now - h.start then (if h.op = 4 then s1 else s1.service 11 m) else s))

/-- R110, R111, R383 to R385, R389, R396: GO checks the staged domain and takes it as it stands; the walk waits for old requests and writes back the lines that move; the
switch makes what GO took active under the next epoch, and the requests held at issue go on in order of arrival; a
scanned pair leaves service and comes back, or a failed core is retired; GO checks a partition's change, and the change ends once every leaving die is empty. -/
def Obligations.TopologyEvents : Prop :=
  (∀ (s : State) d, Leads (.domainSwitchGo d) s (
    if (s.dom d).busy then s.setDom d { s.dom d with err := 4 }
    else if (s.dom d).en ∧ s.domCheck d (s.dom d) ≠ 0 then s.setDom d { s.dom d with err := s.domCheck d (s.dom d) }
    else s.setDom d { s.dom d with busy := true, nslices := (s.dom d).slices, nhm := (s.dom d).hm, nen := (s.dom d).en })) ∧
  (∀ (s : State) d, (s.dom d).busy = true → (s.dom d).walking = false → Leads (.domainWalkBegin d) s (if s.oldRequest d then s else s.setDom d { s.dom d with walking := true })) ∧
  (∀ (s : State) d, (s.dom d).busy = true → (s.dom d).walking = true →
    let x := s.dom d
    let s1 := (s.movedLines x).foldl (fun s t => match s.line? t with | some l => if l.wb = 0 then s.writeBack t true else s | none => s) s
    let s2 := s1.setDom d { x with aslices := x.nslices, ahm := x.nhm, act := x.nen, epoch := (x.epoch + 1) % 256, err := 0, busy := false, walking := false }
    (s1.movedLines x ≠ [] → Leads (.domainSwitchEnd d) s s1) ∧
    (s1.movedLines x = [] → Leads (.domainSwitchEnd d) s ((s2.domainHeldBy d).foldl (fun s q => s.issueTo q.1 q.2) s2))) ∧
  (∀ (s : State) d, (s.dom d).busy = false ∨ (s.dom d).walking = false → Leads (.domainSwitchEnd d) s s) ∧
  (∀ (s : State) d k q, ((k, q) ∈ s.domainHeldBy d ↔ (k, q) ∈ s.reqs ∧ q.stage = .domainHeld d) ∧ (s.domainHeldBy d).Pairwise fun a b => a.2.arrived ≤ b.2.arrived) ∧
  (∀ (s : State) d, 12 ≤ d ∨ s.regs.scen = false ∨ s.moving d = true → Leads (.scanPair d) s s) ∧
  (∀ (s : State) d, d < 12 → s.regs.scen = true → s.moving d = false → FMap.find? s.scanEnd d = none →
    ((s.pairAt d).all fun u => (s.core u).retired) = true →
    Leads (.scanPair d) s { s with scanAt := FMap.put s.scanAt d ((FMap.getD s.scanAt d 0 + 1) % 64) 0, scanEnd := FMap.erase s.scanEnd d }) ∧
  (∀ (s : State) d, d < 12 → s.regs.scen = true → s.moving d = false → FMap.find? s.scanEnd d = none →
    ((s.pairAt d).all fun u => (s.core u).retired) = false →
    let s1 := ((s.pairAt d).foldl (fun (s : State) u => s.onCore u fun c => { c with scanning := !c.retired }) s).saveOff (s.pairAt d) true
    Leads (.scanPair d) s (if (s.pairAt d).all fun u => (s1.liveOn u).isEmpty then { s1 with scanEnd := FMap.insert s1.scanEnd d (s1.now + 100000) } else s1)) ∧
  (∀ (s : State) d e ok0 ok1, FMap.find? s.scanEnd d = some e → s.now < e → Leads (.scanComplete d ok0 ok1) s s) ∧
  (∀ (s : State) d e, FMap.find? s.scanEnd d = some e → e ≤ s.now →
    ((s.pairAt d).all fun u => (s.core u).scanning && !(s.core u).retired) = true →
    ∃ t, Leads (.scanComplete d true true) s t ∧ FMap.find? t.scanEnd d = none ∧ FMap.getD t.scanAt d 0 = (FMap.getD s.scanAt d 0 + 1) % 64) ∧
  (∀ (s : State) p, p < 12 → Leads (.partitionChange true p) s (
    if s.goErr p ≠ 0 then s.setPart p { s.part p with err := s.goErr p }
    else s.setPart p { s.part p with goal := (s.part p).stg, st := if (s.part p).dies = 0 then 1 else if (s.part p).stg = 0 then 4 else 3 })) ∧
  (∀ (s : State) p, p < 12 → (s.part p).changing = true → (List.range 12).filter (s.part p).leaves = [] → Leads (.partitionChange false p) s (s.partitionEnd p)) ∧
  (∀ (s : State) p, p < 12 → (s.part p).changing = false → Leads (.partitionChange false p) s s)

/-- R3, R10, R96, R99, R102, R103, R121, R380, R392, R393: the boot stages; the steps of power shedding; a rate write fills its bucket's balance; a host write of 4 or 8 aligned
bytes; a relocation inside its stack or to another region, with the page's new placement; a pin's end; the scrubber's counters. -/
def Obligations.SystemEvents : Prop :=
  (∀ (s : State) ok kind n, s.regs.power = false → Leads (.powerGood ok kind n) s { s with regs := { s.regs with power := true, cyc := 0, bstage := 1, pmode := 0xFFFF } }) ∧
  (∀ (s : State) kind n, s.regs.power = true →
    (s.regs.bstage = 1 → s.regs.badImage = false → Leads (.powerGood true kind n) s { s with regs := { s.regs with bstage := 2 } }) ∧
    (s.regs.bstage = 1 → Leads (.powerGood false kind n) s (({ s with regs := { s.regs with badImage := true } } : State).service 10 1777)) ∧
    (s.regs.bstage = 2 → Leads (.powerGood true kind n) s { s with regs := { s.regs with bstage := 3 } }) ∧
    (s.regs.bstage = 3 → Leads (.powerGood true kind n) s { s with regs := { s.regs with bstage := 4 } }) ∧
    (s.regs.bstage = 4 → Leads (.powerGood true kind n) s { s.zeroHbm.startPorts with regs := { s.zeroHbm.startPorts.regs with bstage := 5 } }) ∧
    (s.regs.bstage = 1 → s.regs.badImage = true → Leads (.powerGood true kind n) s s) ∧
    (s.regs.bstage = 5 → Leads (.powerGood true kind n) s { s with regs := { s.regs with bstage := 6, ready := true } }) ∧
    ((s.regs.bstage = 2 ∨ s.regs.bstage = 3) → Leads (.powerGood false 0 n) s ((s.onCore n fun c => { c with retired := true }).service 9 n))) ∧
  (∀ s : State, Leads (.powerShed 0) s { s with regs := { s.regs with shed := false, retain := 0 } } ∧ (s.regs.shed = true → Leads (.powerShed 1) s s) ∧
    (s.regs.shed = false → Leads (.powerShed 1) s (({ s with regs := { s.regs with shed := true } } : State).service 8 1777))) ∧
  (∀ (s : State) fab b rate, b < 4096 →
    let k := if fab then 4096 + b else b
    Leads (.bucketRateWrite fab b rate) s (s.setBucket k { s.bucketNow k with rate := rate % 2 ^ 32, bal := ((max 1 (s.bucketNow k).burst * 1024 * 1000 : Nat) : Int) })) ∧
  (∀ (s : State) bar v, bar % 8 = 0 → Leads (.registerWrite bar 8 v) s (s.winPut bar (BitVec.ofNat 64 v) (BitVec.allOnes 64))) ∧
  (∀ (s : State) bar n v, n ≠ 4 → n ≠ 8 → Leads (.registerWrite bar n v) s s) ∧
  (∀ (s : State) bar n v, winAt bar = .none → Leads (.registerWrite bar n v) s s) ∧
  (∀ (s : State) st found, exec (.relocDone st found) s = exec (.relocDone st []) (s.relocReads st found)) ∧
  (∀ (s : State) st found, (s.base st).reloc = none → Leads (.relocDone st found) s s) ∧
  (∀ (s : State) st r, (s.base st).reloc = some r →
    let x := s.pageAt st r.i r.off
    let sz := pageSize (bf x.2 59 3)
    let attrs := bf x.2 57 2 * 2 ^ 57 + bf x.2 59 3 * 2 ^ 59
    let src := hbmAddr st (bf x.2 0 24 * 4096)
    let s1 := (List.range (sz / 32)).foldl (fun (s : State) k => s.copySector (src + 32 * k) (hbmAddr st (r.plc % 2 ^ 24 * 4096) + 32 * k)) s
    let done (s : State) (new : Nat) : State := ((s.writePages st x.1 (sz / 4096) (BitVec.ofNat 64 new)).countMove st (moverKey r.i r.off)).relocEnd st r 0
    (r.fwd = false → Leads (.relocDone st []) s (done s1 (2 ^ 62 + attrs + r.plc % 2 ^ 24))) ∧
    (r.fwd = true → r.failed = true → ∀ s2, s2 = ((s.relocReqs st).filter fun x => !x.2.gone).foldl (fun (s : State) x => s.dropReq x.1) s →
      Leads (.relocDone st []) s (if (s2.relocReqs st).isEmpty then s2.relocEnd st r 4 else s2)) ∧
    (r.fwd = true → r.failed = false → r.begun = true →
      Leads (.relocDone st []) s (if (s.relocReqs st).isEmpty then done s (2 ^ 63 + attrs + r.plc) else s)) ∧
    (r.fwd = true → r.failed = false → r.begun = false → r.plc / 2 ^ 34 % 512 ≠ s.modNo → s.regs.mask.getLsbD (r.plc / 2 ^ 34 % 512) = false →
      Leads (.relocDone st []) s (s.setBase st { s.base st with reloc := some { r with begun := true, failed := true } })) ∧
    (r.fwd = true → r.failed = false → r.begun = false → r.plc / 2 ^ 34 % 512 = s.modNo →
      Leads (.relocDone st []) s ((List.range (sz / 256)).foldl
        (fun s k => s.relocWrite st s.modNo (src + 256 * k) (r.plc / 2 ^ 43) (r.plc / 2 ^ 20 % 2 ^ 14) (r.plc / 2 ^ 8 % 2 ^ 12 * 4096 + 256 * k))
        (s.setBase st { s.base st with reloc := some { r with begun := true } })))) ∧
  (∀ (s : State) st key m t, FMap.find? (s.base st).movers key = some m → m.pin = some t →
    Leads (.pinExpiry st key) s (if t ≤ s.now then s.setBase st { s.base st with movers := FMap.insert (s.base st).movers key { m with pin := none, count := 0 } } else s)) ∧
  (∀ (s : State) st a, (s.base st).sen = true → a < 2 ^ 36 →
    Leads (.patrolScrub st a 0) s s ∧
    Leads (.patrolScrub st a 1) s (s.setBase st { s.base st with cec := min (2 ^ 32 - 1) ((s.base st).cec + 1) }) ∧
    ∀ n, 2 ≤ n → Leads (.patrolScrub st a n) s (if s.poisoned (hbmAddr st a) then s
      else (((s.setBase st { s.base st with uec := min (2 ^ 32 - 1) ((s.base st).uec + 1) }).poison (hbmAddr st a)).notice ntPoison (hbmAddr st a)).tellMapped 1 (hbmAddr st a)))

/-! ## Encoding and decoding -/

/-- Decoding an encoded well-formed instruction gives it back (R31 to R46): no bit of an encoding is dropped. -/
def Obligations.RoundTrip : Prop :=
  ∀ (env : Env) (i : Instr), i.isWord = true → i.wf env = true → decodeWord env (encodeW i) = .ok i

/-- A word that decodes is the encoding of the one instruction that it decodes to, and that instruction passes the decode checks (R31 to R46). -/
def Obligations.DecodeInverse : Prop :=
  ∀ (env : Env) (w : W96) (i : Instr), decodeWord env w = .ok i → i.isWord = true ∧ i.wf env = true ∧ encodeW i = w

namespace Sys2Proof.Claims

/-- Operands under a thread-form header and under a uniform one, both guarded by `pt`. -/
def thr (d a b : Opd) : Args := ⟨{}, ⟨d, false⟩, ⟨a, false⟩, ⟨b, false⟩⟩
def unif (d a b : Opd) : Args := ⟨{ u := true }, ⟨d, false⟩, ⟨a, false⟩, ⟨b, false⟩⟩

/-- Words that the spec prints, with what they stand for (Tables 1-5, 2-8, 10-16, 11-3, 18-4, 19-3, 20-5, 21-3, 22-3 and the encodings of chapters 3, 5, 7, 8, 12, 15, 16), and, for
families of which it prints none, words from their encoding tables: `FADD t1, t2, t3`, `DADD t2, t4, t6`, `HADD2 t1, t2, t3`, `CVT.bf16 t1, t2`, `LD.b32 t1, t2:t3`. -/
def printed : List (W96 × Instr) :=
  [(0x0107800000000A0000310003, .iadd false (thr (.t 10) (.t 3) (.w 3))),
   (0x0109A3000000058000550011, .iadd false ⟨{ guard := .on true 3, b := true, spacing := 3 }, ⟨.t 5, false⟩, ⟨.t 5, true⟩, ⟨.imm 17, false⟩⟩),
   (0x035780000000097BF8070000, .movi false (thr (.t 9) (.long 0xBF80) (.long 0))),
   (0x0257C0000100034000450009, .shl false (unif (.w 3) (.sr .f2) (.imm 9))),
   (0x041788000000041000400003, .padd false ⟨{ reuseB := true }, ⟨.t 4, false⟩, ⟨.w 4, false⟩, ⟨.t 3, false⟩⟩),
   (0x0D97C0001000001000210003, .wbr true (unif .none (.w 2) (.w 3))),
   (0x0D5100001000000000D0000C, .sts ⟨some .core, none, .b32⟩ ⟨{ guard := .on false 2 }, ⟨.none, false⟩, ⟨.t 13, false⟩, ⟨.t 12, false⟩⟩),
   (0x0D67800C400014000040000C, .atom ⟨false, .add, .bf16x2, .relaxed, .mod⟩ (thr (.t 20) (.t 4) (.t 12))),
   (0x0DC780014000000000000000, .fence ⟨.rel, .mod⟩ (thr .none .none .none)),
   (0x0C08E0000000005001800000, .bra .uni ⟨{ guard := .on true 1, u := true, b := true }, ⟨.none, false⟩, ⟨.imm 24, false⟩, ⟨.none, false⟩⟩),
   (0x0337C000A200111000310007, .setp ⟨.int, .lt, true, false⟩ (unif (.q 1) (.w 3) (.w 7))),
   (0x1007C0CA0300011000850020, .mma ⟨true, true, .e4m3⟩ (unif (.tile 1) (.w 8) (.imm 32))),
   (0x1307C0000100081000050010, .launch false (unif (.w 8) (.w 0) (.imm 16))),
   (0x1137C0005100051000250001, .arw ⟨.clu, .clu⟩ (unif (.w 5) (.w 2) (.imm 1))),
   (0x1417C0001000000000000000, .rett true (unif .none .none .none)),
   (0xF037C0006100021000400000, .gateClose .stack (unif (.w 2) (.w 4) .none)),
   (0x0D1780C80000000000200007, .st ⟨.b16, none⟩ (thr .none (.t 2) (.t 7))),
   (0x1147C00081000A6000050000, .watch ⟨false, .mod⟩ (unif (.w 10) (.cb 0) (.imm 0))),
   (0x1237C00051000F1000D00000, .rstat .redir (unif (.w 15) (.w 13) .none)),
   (0x1067C0C20300011000C3000B, .mdrn ⟨.gate, .f32, .rne, false⟩ (unif (.tile 1) (.w 12) (.ag 3))),
   (0xF077C0000100051000400000, .pstopSave (unif (.w 5) (.w 4) .none)),
   (0x0A778000000018000031000F, .ftwid (thr (.t 24) (.t 3) (.w 15))),
   (0x0B0780005000140001050002, .xch ⟨.xor, true⟩ (thr (.t 20) (.t 16) (.imm 2))),
   (0x050780000000010000200003, .fadd ⟨.rne, false⟩ (thr (.t 1) (.t 2) (.t 3))),
   (0x060780000000020000400006, .dadd ⟨.rne, false⟩ (thr (.t 2) (.t 4) (.t 6))),
   (0x070780000000010000200003, .hadd2 ⟨false, .rne, false⟩ (thr (.t 1) (.t 2) (.t 3))),
   (0x080780180000010000200000, .cvt ⟨.bf16, .rne, false⟩ (thr (.t 1) (.t 2) (.t 0))),
   (0x0D0780E00000010000200000, .ld ⟨.b32, .plain⟩ (thr (.t 1) (.t 2) .none))]

end Sys2Proof.Claims

/-- Words of the families of the opcode table decode to the instructions that the spec prints beside them (R31 to R47). -/
def Obligations.SpecWordsDecode : Prop := ∀ x ∈ printed, decodeWord (tableEnv x.1) x.1 = .ok x.2

/-! ## The step -/

/-- R20, R28 to R30, R50: when the agenda is empty and a group holds the lane whose turn it is, with nothing due and nothing holding it, its index inside its code, its line in its
region and in the instruction cache, the word at its index decodes to `i`, and what `i` takes from the constant bank is there, a step is `exec i` in the state whose cycle counter has
moved on, whose bank holds what was read and whose line is the most recently used; an instruction that takes nothing from the bank reads nothing. With an agenda, the step takes its
head instead; with no group on the lane, the lane chooses a run (the model's interleaving, log entry 1). -/
def Obligations.StepRunsDecoded : Prop :=
  (∀ (s : State) gid l i u, s.agenda = [] → s.tick.issuer = some gid → (s.tick.grp gid).due = [] → (s.tick.grp gid).wait = .none → s.tick.heldByFault gid = false →
    (s.tick.grp gid).pc.toNat < 16 * (s.tick.grp gid).len.toNat → s.tick.lineFault gid = none → s.tick.fetchLine gid = some l →
    decodeWord (s.tick.envOf gid) (wordAt l.bits (s.tick.grp gid).pc) = .ok i → s.tick.bankTurn gid i = .ok u → step s = exec i (u.touchLine gid l)) ∧
  (∀ (s : State) gid i, bankParts i = [] → s.bankTurn gid i = .ok s) ∧
  (∀ (s : State) i rest, s.agenda = .event i :: rest → i.isWord = false → step s = exec i { s.tick with agenda := rest }) ∧
  (∀ (s : State) i rest, s.agenda = .event i :: rest → i.isWord = true → step s = .refused .notAnEvent) ∧
  (∀ (s : State) l rest, s.agenda = .turn l :: rest → step s = .next { s.tick with agenda := rest, cur := l }) ∧
  (∀ s : State, s.agenda = [] → s.tick.issuer = none → step s = .next (s.tick.laneTurn s.cur)) ∧
  (∀ s : State, s.tick = { s with regs := { s.regs with cyc := s.regs.cyc + BitVec.ofNat 64 s.pace } })

/-- R20, R29, R46, R50, R54, R57, R352, R361: what a lane's group meets before an instruction is executed, in this order: a trap that is due; a wait or a refused request that holds
it; the end of its code; a code base that is no label stack, or a line past its region; a line that is not in the cache and is asked for; a word that fails a decode check, which traps
with the check's cause, detail and field; a constant-bank operand that is refused or not yet there. -/
def Obligations.FetchStops : Prop :=
  (∀ (s : State) gid, s.agenda = [] → s.tick.issuer = some gid →
    let u := s.tick
    let g := u.grp gid
    (∀ t rest, g.due = t :: rest → step s = .next ((u.onGrp gid fun g => { g with due := rest }).takeTrap gid t)) ∧
    (g.due = [] →
      (g.wait ≠ .none ∨ u.heldByFault gid = true → step s = .next (u.endRun gid)) ∧
      (g.wait = .none → u.heldByFault gid = false →
        (16 * g.len.toNat ≤ g.pc.toNat → step s = .next (u.takeTrap gid { cause := .fetchRange })) ∧
        (g.pc.toNat < 16 * g.len.toNat →
          (∀ t, u.lineFault gid = some t → step s = .next (u.takeTrap gid t)) ∧
          (u.lineFault gid = none → u.fetchLine gid = none → step s = .next ((u.askLine gid).endRun gid)) ∧
          ∀ l, u.lineFault gid = none → u.fetchLine gid = some l →
            (∀ e, decodeWord (u.envOf gid) (wordAt l.bits g.pc) = .error e →
              step s = .next (u.takeTrap gid { cause := (match e.trap with | .illegal => .illegal | .privileged => .privileged | .unitAbsent => .unitAbsent), detail := e.detail, field := e.field })) ∧
            ∀ i x, decodeWord (u.envOf gid) (wordAt l.bits g.pc) = .ok i → u.bankTurn gid i = .error x → step s = .next (u.stopped gid x))))) ∧
  (∀ (s : State) gid, (s.lineFault gid = none ↔ pForm (s.grp gid).code = 1 ∧ pOff (s.grp gid).code + 192 * ((s.grp gid).pc.toNat / 16 + 1) ≤ 2 ^ 24) ∧
    ∀ t, s.lineFault gid = some t → t.cause = .pointerFault)

/-! ## Reset and the invariant -/

/-- R3, R126, R391 and the reset columns of Tables 13-2, 16-8 and 17-3: `%cyc` is zero, no module number is assigned, the registers hold their reset values, memory is in its
canonical form with nothing listed, and no group, table entry or request exists. That memory reads 0 where nothing has written it is the model's choice (log entry 2). -/
def Obligations.ResetState : Prop :=
  let s := State.reset
  Memory.wf s.mem = true ∧ s.mem = [] ∧ s.regs.cyc = 0 ∧ s.regs.mod = none ∧ s.regs.gen = 0 ∧ s.regs.ready = false ∧ s.regs.scen = true ∧ s.regs.rlim = 3 ∧
  s.regs.aget = 2000 ∧ s.regs.minres = 5 ∧ s.regs.thot = 95 ∧ s.regs.ten = true ∧ s.regs.pmode = 0xFFFF ∧ s.regs.drmax = 20 ∧ s.regs.flmax = 50 ∧ s.regs.pdl = 2000 ∧
  s.regs.hdl = 100 ∧ s.groups = [] ∧ s.blocks = [] ∧ s.tabs = [] ∧ s.reqs = [] ∧ s.agenda = []

/-- Memory keeps its canonical form in every step (addresses strictly rising, no entry equal to what an unlisted address reads as), so that equal memories are equal data. -/
def Obligations.StepKeepsMemory : Prop :=
  ∀ s t : State, Memory.wf s.mem = true → step s = .next t → Memory.wf t.mem = true

/-! ## Frames -/

namespace Sys2Proof.Claims

/-- The integer, logic and move instructions that give each acting thread one result and no flag. -/
def plainAlu : Instr → Bool
  | .iadd .. | .isub .. | .imul .. | .imulh .. | .imad .. | .imin .. | .imax .. | .iabs .. | .ineg .. | .and .. | .or .. | .xor .. | .andn .. | .not .. | .shl .. | .shr .. | .sar ..
  | .rotl .. | .funs .. | .bfx .. | .bfi .. | .popc .. | .clz .. | .ctz .. | .brev .. | .permb .. | .icmp .. | .mov .. | .movi .. | .lea .. | .pget .. | .pform .. | .pack2 .. => true
  | _ => false

/-- The floating-point instructions that give each acting thread one result and flags. -/
def floatAlu : Instr → Bool
  | .setp .. | .fadd .. | .fsub .. | .fmul .. | .ffma .. | .ffms .. | .fnma .. | .fmin .. | .fmax .. | .fcmp .. | .fclass .. | .frnd .. | .fscale .. | .fexpo .. | .dadd .. | .dmul ..
  | .dfma .. | .dcmp .. | .hadd2 .. | .hmul2 .. | .hfma2 .. | .hmin2 .. | .hmax2 .. | .cvti .. | .scle .. => true
  | _ => false

/-- Beside the destination `d` of width `w` of the threads `ts`, and `%fflags`, group record `g` holds what `g0` held; the pc and the counts of the run may differ. -/
def KeepsGroup (g0 g : Group) (d : Opd) (w : Nat) (ts : List Nat) : Prop :=
  (∀ key, (∀ n th i, d = .t n → th ∈ ts → i < regsOf w → key ≠ 128 * th + n.val + i) → FMap.getD g.t key {} = FMap.getD g0.t key {}) ∧
  (∀ key, (∀ n, d = .w n → key ≠ n.val ∧ (w = 128 → key ≠ n.val + 1)) → FMap.getD g.w key {} = FMap.getD g0.w key {}) ∧
  (∀ key, (∀ n th, d = .p n → th ∈ ts → key ≠ 16 * th + n.val) → FMap.getD g.p key {} = FMap.getD g0.p key {}) ∧
  (∀ key, (∀ n, d = .q n → key ≠ n.val) → FMap.getD g.q key {} = FMap.getD g0.q key {}) ∧
  g.act = g0.act ∧ g.stack = g0.stack ∧ g.code = g0.code ∧ g.len = g0.len ∧ g.ag = g0.ag ∧ g.tiles = g0.tiles ∧ g.ent = g0.ent ∧ g.prog = g0.prog ∧ g.wid = g0.wid ∧ g.f = g0.f ∧
  g.rgn = g0.rgn ∧ g.inH = g0.inH ∧ g.shadow = g0.shadow ∧ g.cpy = g0.cpy ∧ g.mma = g0.mma ∧ g.gth = g0.gth ∧ g.net = g0.net ∧ g.atm = g0.atm ∧ g.due = g0.due

end Sys2Proof.Claims

/-- R219, R218: a register-to-register instruction that issues leaves every byte of memory, every register of the module, every other group, and of its own group everything but the
destination of its acting threads; the integer ones leave `%fflags`, the floating-point ones only add flags, unless `%fflags` is the destination. -/
def Obligations.RegisterFrames : Prop :=
  ∀ (i : Instr) o s gid t, argsOf i = some o → (plainAlu i = true ∨ floatAlu i = true) → Issues s gid i o → exec i s = .next t →
    (∀ a, t.byte a = s.byte a) ∧ t.pois = s.pois ∧ t.regs = s.regs ∧ t.ctxs = s.ctxs ∧ t.tabs = s.tabs ∧ (∀ h, h ≠ gid → FMap.find? t.groups h = FMap.find? s.groups h) ∧
    ∀ g, FMap.find? t.groups gid = some g →
      KeepsGroup (s.grp gid) g o.d.x (spec i).d.width (actingOf s gid o) ∧
      (o.d.x ≠ .sr .fflags → g.fflags = (if plainAlu i = true then (s.grp gid).fflags else g.fflags ||| (s.grp gid).fflags))

/-- R157, R177, R178: a store that issues changes no byte of memory but those that it writes straight into the SRAM of its core, at the address to which its pointer leads (stores to
labels and to `.clu` and `.chip` enter the store buffer); no register, no other group and no register of the module changes. The premise says that no part of a direct store falls
into a poisoned unit that it does not cover, which R104 would have the firmware told of. -/
def Obligations.StoreFrames : Prop :=
  ∀ m o (s : State) gid (at_ : Nat → Place) t, Issues s gid (.st m o) o →
    (∀ t ∈ actingOf s gid o, checkAccess (issOf s gid) t (BitVec.ofNat 64 (srcsOf s gid (.st m o) o t).2.1.v) (tyBytes m.ty) .write false = .ok (at_ t)) →
    let xs := storesOf s gid (.st m o) o (tyBytes m.ty) at_
    (∀ x ∈ lastWins xs, ∀ sp b, x.at_ = .sram sp b → sp < 2 → s.refusedUnits b (writable b x.data) = []) →
    actingOf s gid o ≠ [] → BucketRoom s gid → ∀ after, stored s gid m.rel xs = some after → MayStore s gid (tyBytes m.ty) m.rel xs after →
    exec (.st m o) s = .next t →
    (∀ a, (∀ th ∈ actingOf s gid o, ∀ sp b, at_ th = .sram sp b → sp < 2 → a < b ∨ b + tyBytes m.ty ≤ a) → t.byte a = s.byte a) ∧
    t.regs = s.regs ∧ t.ctxs = s.ctxs ∧ (∀ h, h ≠ gid → FMap.find? t.groups h = FMap.find? s.groups h) ∧
    ∀ g, FMap.find? t.groups gid = some g → KeepsGroup (s.grp gid) g .none 32 [] ∧ g.fflags = (s.grp gid).fflags

/-- R316: when several threads of one `ST`, `STV` or `STS` write the same byte, only the write of the highest acting thread enters: the stores of one instruction stand in thread
order, and of each store exactly the bytes that no later one writes are left. -/
def Obligations.LastThreadWins : Prop :=
  (∀ s gid o, (actingOf s gid o).Pairwise (· < ·)) ∧
  ∀ (xs : List Store) (k i : Nat) (x : Store) (b : Option Byte), xs[k]? = some x → x.data[i]? = some b →
    ∃ y : Store, (lastWins xs)[k]? = some y ∧ y.t = x.t ∧ y.ptr = x.ptr ∧ y.at_ = x.at_ ∧ y.data.length = x.data.length ∧
      ((∃ (j : Nat) (z : Store), k < j ∧ xs[j]? = some z ∧ x.hits z i = true) → y.data[i]? = some none) ∧
      ((∀ (j : Nat) (z : Store), k < j → xs[j]? = some z → x.hits z i = false) → y.data[i]? = some b)

/-! ## Traps -/

/-- R355, with the frame of R353: at a trap outside a handler, in a context with a handler, the frame takes the trap's words; the shadow takes the code base, the length, the active mask
and the depth of the mask stack; the in-handler flag is set; the handler starts at its entry index with the mask unchanged, with the group's registers, tags, states, predicates,
counters and flags, and the mask stack as it stands; no other byte and no other group changes. In a handler, or with a handler of length 0, the trap is nested. -/
def Obligations.TrapEntry : Prop :=
  ∀ (s : State) gid g (t : Trap), FMap.find? s.groups gid = some g →
    let x := s.ctx (s.blk g.blk).ctx
    let s' := s.takeTrap gid t
    let f := s.frameAddr gid
    let rpc := if t.cause = .software then g.pc + 1 else g.pc
    (g.inH = false → x.hlen ≠ 0 →
      (∃ g', FMap.find? s'.groups gid = some g' ∧
        g'.shadow.code = g.code ∧ g'.shadow.len = g.len ∧ g'.shadow.act = g.act ∧ g'.shadow.depth = g.stack.length ∧
        g'.inH = true ∧ g'.code = x.hcode ∧ g'.len = x.hlen ∧ g'.pc = x.hent ∧ g'.act = g.act ∧ g'.stack = g.stack ∧
        g'.t = g.t ∧ g'.w = g.w ∧ g'.p = g.p ∧ g'.q = g.q ∧ g'.ag = g.ag ∧ g'.tiles = g.tiles ∧ g'.fflags = g.fflags ∧ g'.ent = g.ent ∧ g'.prog = g.prog ∧ g'.rgn = g.rgn ∧
        g'.cpy = g.cpy ∧ g'.mma = g.mma ∧ g'.gth = g.gth ∧ g'.net = g.net ∧ g'.atm = g.atm ∧ g'.wait = .none) ∧
      s'.le f 4 = g.pc.toNat ∧ s'.le (f + 4) 4 = rpc.toNat ∧
      slice (s'.le (f + 8) 8) 0 6 = t.cause.code ∧ slice (s'.le (f + 8) 8) 8 8 = t.detail % 256 ∧ slice (s'.le (f + 8) 8) 16 2 = t.field % 4 ∧
      slice (s'.le (f + 8) 8) 18 5 = t.thread % 32 ∧ slice (s'.le (f + 8) 8) 23 1 = g.rgn.isSome.toNat ∧ slice (s'.le (f + 8) 8) 32 32 = g.ent.toNat ∧
      s'.le (f + 16) 4 = g.act.toNat ∧ s'.le (f + 20) 4 = t.aux0.toNat ∧ s'.le (f + 24) 8 = t.aux1.toNat ∧ s'.le (f + 32) 32 = t.frec.toNat ∧
      (∀ a, a < f ∨ f + 64 ≤ a → s'.byte a = s.byte a) ∧ s'.regs = s.regs ∧ s'.ctxs = s.ctxs ∧ ∀ h, h ≠ gid → FMap.find? s'.groups h = FMap.find? s.groups h) ∧
    (g.inH = true ∨ x.hlen = 0 →
      s' = (((s.setGrp gid { g with pc := rpc, wait := .nested, since := s.now, cont := none, stuck := none, hkind := 0 }).endRun gid).post (s.blk g.blk).ctx (nestedRec s gid t rpc) 5 false none).post
        dstPlog (nestedRec s gid t rpc) 5 false none)

/-! ## Hints -/

/-- R35: for every value of bits [76:72] an instruction does what it does with those bits zero: results, flags, traps and memory effects; and it decodes where the other does. -/
def Obligations.HintsChangeNothing : Prop :=
  ∀ op mw f (h : Hdr) d a b ra rb sp, mk op mw = some f →
    (∀ s, exec (f ⟨{ h with reuseA := ra, reuseB := rb, spacing := sp }, d, a, b⟩) s = exec (f ⟨{ h with reuseA := false, reuseB := false, spacing := 0 }, d, a, b⟩) s) ∧
    ∀ env, (f ⟨{ h with reuseA := ra, reuseB := rb, spacing := sp }, d, a, b⟩).wf env = (f ⟨{ h with reuseA := false, reuseB := false, spacing := 0 }, d, a, b⟩).wf env
end

