-- ==== Sys2Proof/Laws/FMap.lean ====
section
/-! SUPPORT. The laws of finite tables: a row reads as it was written, a write leaves the other rows alone, and the canonical form is kept. -/

namespace Sys2Proof.FMap

variable {α : Type}

@[simp] theorem find?_nil (k : Nat) : find? ([] : FMap α) k = none := rfl

@[simp] theorem find?_insert_self (m : FMap α) (k : Nat) (a : α) : find? (insert m k a) k = some a := by
  induction m with
  | nil => simp [insert, find?]
  | cons r m ih =>
    obtain ⟨j, b⟩ := r
    simp only [insert]
    split
    · simp [find?]
    · split
      · simp [find?]
      · next h => rw [find?, if_neg (fun e => h e.symm), ih]

theorem find?_insert_ne (m : FMap α) {k k' : Nat} (a : α) (h : k' ≠ k) : find? (insert m k a) k' = find? m k' := by
  induction m with
  | nil => simp [insert, find?, Ne.symm h]
  | cons r m ih =>
    obtain ⟨j, b⟩ := r
    simp only [insert]
    split
    · rw [find?, if_neg (Ne.symm h)]
    · split
      · next _ e => subst e; simp [find?, Ne.symm h]
      · simp [find?, ih]

theorem find?_insert (m : FMap α) (k k' : Nat) (a : α) : find? (insert m k a) k' = if k' = k then some a else find? m k' := by
  split
  · next h => subst h; simp
  · next h => exact find?_insert_ne m a h

@[simp] theorem find?_erase_self (m : FMap α) (k : Nat) : find? (erase m k) k = none := by
  induction m with
  | nil => rfl
  | cons r m ih =>
    by_cases h : r.1 = k
    · simpa [erase, h] using ih
    · have : erase (r :: m) k = r :: erase m k := by simp [erase, h]
      rw [this, find?, if_neg h, ih]

theorem find?_erase_ne (m : FMap α) {k k' : Nat} (h : k' ≠ k) : find? (erase m k) k' = find? m k' := by
  induction m with
  | nil => rfl
  | cons r m ih =>
    by_cases e : r.1 = k
    · have : erase (r :: m) k = erase m k := by simp [erase, e]
      rw [this, ih, find?, if_neg (fun x => h (x.symm.trans e))]
    · have : erase (r :: m) k = r :: erase m k := by simp [erase, e]
      rw [this, find?, find?, ih]

@[simp] theorem getD_insert_self (m : FMap α) (k : Nat) (a d : α) : getD (insert m k a) k d = a := by simp [getD]
theorem getD_insert_ne (m : FMap α) {k k' : Nat} (a d : α) (h : k' ≠ k) : getD (insert m k a) k' d = getD m k' d := by
  simp [getD, find?_insert_ne m a h]

@[simp] theorem getD_put_self [DecidableEq α] (m : FMap α) (k : Nat) (a d : α) : getD (put m k a d) k d = a := by
  unfold put
  split
  · next h => simp [getD, h]
  · simp
theorem getD_put_ne [DecidableEq α] (m : FMap α) {k k' : Nat} (a d e : α) (h : k' ≠ k) : getD (put m k a d) k' e = getD m k' e := by
  unfold put
  split
  · simp [getD, find?_erase_ne m h]
  · exact getD_insert_ne m a e h
theorem getD_put [DecidableEq α] (m : FMap α) (k k' : Nat) (a d : α) : getD (put m k a d) k' d = if k' = k then a else getD m k' d := by
  split
  · next h => subst h; simp
  · next h => exact getD_put_ne m a d d h

theorem find?_modify (m : FMap α) (k k' : Nat) (f : α → α) :
    find? (modify m k f) k' = if k' = k then (find? m k').map f else find? m k' := by
  unfold modify
  cases h : find? m k with
  | none => split <;> simp_all
  | some a =>
    simp only [find?_insert]
    split <;> simp_all

theorem find?_mapVals (m : FMap α) (f : Nat → α → α) (k : Nat) : find? (mapVals m f) k = (find? m k).map (f k) := by
  induction m with
  | nil => rfl
  | cons r m ih =>
    obtain ⟨j, b⟩ := r
    simp only [mapVals, List.map_cons, find?] at *
    split
    · next h => subst h; rfl
    · exact ih

/-! ## The canonical form -/

variable [DecidableEq α]

theorem wfFrom_cons {d : α} {m : FMap α} {lo : Option Nat} {k : Nat} {a : α} :
    wfFrom d lo ((k, a) :: m) = true ↔ (∀ j, lo = some j → j < k) ∧ a ≠ d ∧ wfFrom d (some k) m = true := by
  cases lo <;> simp [wfFrom, and_assoc]

theorem wfFrom_weaken {d : α} {m : FMap α} {lo : Option Nat} {hi : Nat} (h : wfFrom d (some hi) m = true) (e : ∀ j, lo = some j → j ≤ hi) :
    wfFrom d lo m = true := by
  cases m with
  | nil => cases lo <;> rfl
  | cons r m =>
    obtain ⟨k, a⟩ := r
    rw [wfFrom_cons] at *
    exact ⟨fun j hj => lt_of_le_of_lt (e j hj) (h.1 hi rfl), h.2⟩

theorem wfFrom_filter {d : α} (p : Nat × α → Bool) (m : FMap α) (lo : Option Nat) (h : wfFrom d lo m = true) :
    wfFrom d lo (m.filter p) = true := by
  induction m generalizing lo with
  | nil => exact h
  | cons r m ih =>
    obtain ⟨k, a⟩ := r
    rw [wfFrom_cons] at h
    by_cases e : p (k, a)
    · rw [List.filter_cons_of_pos e, wfFrom_cons]
      exact ⟨h.1, h.2.1, ih _ h.2.2⟩
    · rw [List.filter_cons_of_neg e]
      exact wfFrom_weaken (ih _ h.2.2) fun j hj => Nat.le_of_lt (h.1 j hj)

theorem wfFrom_insert {d a : α} (m : FMap α) (k : Nat) (lo : Option Nat) (ha : a ≠ d) (hlo : ∀ j, lo = some j → j < k)
    (h : wfFrom d lo m = true) : wfFrom d lo (insert m k a) = true := by
  induction m generalizing lo with
  | nil => rw [insert, wfFrom_cons]; exact ⟨hlo, ha, rfl⟩
  | cons r m ih =>
    obtain ⟨j, b⟩ := r
    rw [wfFrom_cons] at h
    simp only [insert]
    split
    · next e =>
      rw [wfFrom_cons, wfFrom_cons]
      exact ⟨hlo, ha, fun i hi => by cases hi; exact e, h.2⟩
    · split
      · next _ e => subst e; rw [wfFrom_cons]; exact ⟨hlo, ha, h.2.2⟩
      · next e f =>
        rw [wfFrom_cons]
        exact ⟨h.1, h.2.1, ih (some j) (fun i hi => by cases hi; omega) h.2.2⟩

theorem wf_insert {d a : α} (m : FMap α) (k : Nat) (ha : a ≠ d) (h : wf d m = true) : wf d (insert m k a) = true :=
  wfFrom_insert m k none ha (by simp) h
theorem wf_erase {d : α} (m : FMap α) (k : Nat) (h : wf d m = true) : wf d (erase m k) = true := wfFrom_filter _ m none h
theorem wf_put {d : α} (m : FMap α) (k : Nat) (a : α) (h : wf d m = true) : wf d (put m k a d) = true := by
  unfold put
  split
  · exact wf_erase m k h
  · next e => exact wf_insert m k e h

end Sys2Proof.FMap
end

