-- ==== Sys2Proof/Laws/State.lean ====
section
/-! SUPPORT. What each update of the state leaves as it was, field by field, and how groups, blocks, contexts, cores and registers read after a write. -/

namespace Sys2Proof.Machine

open Sys2Proof

/-! ### `State.setGrp` -/

@[simp] theorem State.setGrp_regs (s : State) (gid : Nat) (g : Group) : (s.setGrp gid g).regs = s.regs := rfl
@[simp] theorem State.setGrp_mem (s : State) (gid : Nat) (g : Group) : (s.setGrp gid g).mem = s.mem := rfl
@[simp] theorem State.setGrp_pois (s : State) (gid : Nat) (g : Group) : (s.setGrp gid g).pois = s.pois := rfl
@[simp] theorem State.setGrp_blocks (s : State) (gid : Nat) (g : Group) : (s.setGrp gid g).blocks = s.blocks := rfl
@[simp] theorem State.setGrp_saved (s : State) (gid : Nat) (g : Group) : (s.setGrp gid g).saved = s.saved := rfl
@[simp] theorem State.setGrp_cores (s : State) (gid : Nat) (g : Group) : (s.setGrp gid g).cores = s.cores := rfl
@[simp] theorem State.setGrp_lanes (s : State) (gid : Nat) (g : Group) : (s.setGrp gid g).lanes = s.lanes := rfl
@[simp] theorem State.setGrp_reqs (s : State) (gid : Nat) (g : Group) : (s.setGrp gid g).reqs = s.reqs := rfl
@[simp] theorem State.setGrp_ops (s : State) (gid : Nat) (g : Group) : (s.setGrp gid g).ops = s.ops := rfl
@[simp] theorem State.setGrp_wrs (s : State) (gid : Nat) (g : Group) : (s.setGrp gid g).wrs = s.wrs := rfl
@[simp] theorem State.setGrp_copies (s : State) (gid : Nat) (g : Group) : (s.setGrp gid g).copies = s.copies := rfl
@[simp] theorem State.setGrp_eops (s : State) (gid : Nat) (g : Group) : (s.setGrp gid g).eops = s.eops := rfl
@[simp] theorem State.setGrp_tabs (s : State) (gid : Nat) (g : Group) : (s.setGrp gid g).tabs = s.tabs := rfl
@[simp] theorem State.setGrp_badTabs (s : State) (gid : Nat) (g : Group) : (s.setGrp gid g).badTabs = s.badTabs := rfl
@[simp] theorem State.setGrp_counts (s : State) (gid : Nat) (g : Group) : (s.setGrp gid g).counts = s.counts := rfl
@[simp] theorem State.setGrp_ecache (s : State) (gid : Nat) (g : Group) : (s.setGrp gid g).ecache = s.ecache := rfl
@[simp] theorem State.setGrp_l2 (s : State) (gid : Nat) (g : Group) : (s.setGrp gid g).l2 = s.l2 := rfl
@[simp] theorem State.setGrp_wbacks (s : State) (gid : Nat) (g : Group) : (s.setGrp gid g).wbacks = s.wbacks := rfl
@[simp] theorem State.setGrp_doms (s : State) (gid : Nat) (g : Group) : (s.setGrp gid g).doms = s.doms := rfl
@[simp] theorem State.setGrp_reps (s : State) (gid : Nat) (g : Group) : (s.setGrp gid g).reps = s.reps := rfl
@[simp] theorem State.setGrp_mbkts (s : State) (gid : Nat) (g : Group) : (s.setGrp gid g).mbkts = s.mbkts := rfl
@[simp] theorem State.setGrp_fbkts (s : State) (gid : Nat) (g : Group) : (s.setGrp gid g).fbkts = s.fbkts := rfl
@[simp] theorem State.setGrp_hbm (s : State) (gid : Nat) (g : Group) : (s.setGrp gid g).hbm = s.hbm := rfl
@[simp] theorem State.setGrp_queues (s : State) (gid : Nat) (g : Group) : (s.setGrp gid g).queues = s.queues := rfl
@[simp] theorem State.setGrp_recs (s : State) (gid : Nat) (g : Group) : (s.setGrp gid g).recs = s.recs := rfl
@[simp] theorem State.setGrp_boxes (s : State) (gid : Nat) (g : Group) : (s.setGrp gid g).boxes = s.boxes := rfl
@[simp] theorem State.setGrp_fins (s : State) (gid : Nat) (g : Group) : (s.setGrp gid g).fins = s.fins := rfl
@[simp] theorem State.setGrp_ctxs (s : State) (gid : Nat) (g : Group) : (s.setGrp gid g).ctxs = s.ctxs := rfl
@[simp] theorem State.setGrp_parts (s : State) (gid : Nat) (g : Group) : (s.setGrp gid g).parts = s.parts := rfl
@[simp] theorem State.setGrp_ports (s : State) (gid : Nat) (g : Group) : (s.setGrp gid g).ports = s.ports := rfl
@[simp] theorem State.setGrp_flows (s : State) (gid : Nat) (g : Group) : (s.setGrp gid g).flows = s.flows := rfl
@[simp] theorem State.setGrp_lastPlane (s : State) (gid : Nat) (g : Group) : (s.setGrp gid g).lastPlane = s.lastPlane := rfl
@[simp] theorem State.setGrp_hoist (s : State) (gid : Nat) (g : Group) : (s.setGrp gid g).hoist = s.hoist := rfl
@[simp] theorem State.setGrp_bufs (s : State) (gid : Nat) (g : Group) : (s.setGrp gid g).bufs = s.bufs := rfl
@[simp] theorem State.setGrp_sess (s : State) (gid : Nat) (g : Group) : (s.setGrp gid g).sess = s.sess := rfl
@[simp] theorem State.setGrp_toks (s : State) (gid : Nat) (g : Group) : (s.setGrp gid g).toks = s.toks := rfl
@[simp] theorem State.setGrp_colls (s : State) (gid : Nat) (g : Group) : (s.setGrp gid g).colls = s.colls := rfl
@[simp] theorem State.setGrp_cmsgs (s : State) (gid : Nat) (g : Group) : (s.setGrp gid g).cmsgs = s.cmsgs := rfl
@[simp] theorem State.setGrp_nops (s : State) (gid : Nat) (g : Group) : (s.setGrp gid g).nops = s.nops := rfl
@[simp] theorem State.setGrp_watches (s : State) (gid : Nat) (g : Group) : (s.setGrp gid g).watches = s.watches := rfl
@[simp] theorem State.setGrp_scanAt (s : State) (gid : Nat) (g : Group) : (s.setGrp gid g).scanAt = s.scanAt := rfl
@[simp] theorem State.setGrp_scanEnd (s : State) (gid : Nat) (g : Group) : (s.setGrp gid g).scanEnd = s.scanEnd := rfl
@[simp] theorem State.setGrp_posts (s : State) (gid : Nat) (g : Group) : (s.setGrp gid g).posts = s.posts := rfl
@[simp] theorem State.setGrp_awaits (s : State) (gid : Nat) (g : Group) : (s.setGrp gid g).awaits = s.awaits := rfl
@[simp] theorem State.setGrp_msix (s : State) (gid : Nat) (g : Group) : (s.setGrp gid g).msix = s.msix := rfl
@[simp] theorem State.setGrp_spcache (s : State) (gid : Nat) (g : Group) : (s.setGrp gid g).spcache = s.spcache := rfl
@[simp] theorem State.setGrp_agenda (s : State) (gid : Nat) (g : Group) : (s.setGrp gid g).agenda = s.agenda := rfl
@[simp] theorem State.setGrp_cur (s : State) (gid : Nat) (g : Group) : (s.setGrp gid g).cur = s.cur := rfl
@[simp] theorem State.setGrp_pace (s : State) (gid : Nat) (g : Group) : (s.setGrp gid g).pace = s.pace := rfl
@[simp] theorem State.setGrp_fresh (s : State) (gid : Nat) (g : Group) : (s.setGrp gid g).fresh = s.fresh := rfl
@[simp] theorem State.setGrp_nextId (s : State) (gid : Nat) (g : Group) : (s.setGrp gid g).nextId = s.nextId := rfl

/-! ### `State.setBlk` -/

@[simp] theorem State.setBlk_regs (s : State) (k : Nat) (b : Block) : (s.setBlk k b).regs = s.regs := rfl
@[simp] theorem State.setBlk_mem (s : State) (k : Nat) (b : Block) : (s.setBlk k b).mem = s.mem := rfl
@[simp] theorem State.setBlk_pois (s : State) (k : Nat) (b : Block) : (s.setBlk k b).pois = s.pois := rfl
@[simp] theorem State.setBlk_groups (s : State) (k : Nat) (b : Block) : (s.setBlk k b).groups = s.groups := rfl
@[simp] theorem State.setBlk_saved (s : State) (k : Nat) (b : Block) : (s.setBlk k b).saved = s.saved := rfl
@[simp] theorem State.setBlk_cores (s : State) (k : Nat) (b : Block) : (s.setBlk k b).cores = s.cores := rfl
@[simp] theorem State.setBlk_lanes (s : State) (k : Nat) (b : Block) : (s.setBlk k b).lanes = s.lanes := rfl
@[simp] theorem State.setBlk_reqs (s : State) (k : Nat) (b : Block) : (s.setBlk k b).reqs = s.reqs := rfl
@[simp] theorem State.setBlk_ops (s : State) (k : Nat) (b : Block) : (s.setBlk k b).ops = s.ops := rfl
@[simp] theorem State.setBlk_wrs (s : State) (k : Nat) (b : Block) : (s.setBlk k b).wrs = s.wrs := rfl
@[simp] theorem State.setBlk_copies (s : State) (k : Nat) (b : Block) : (s.setBlk k b).copies = s.copies := rfl
@[simp] theorem State.setBlk_eops (s : State) (k : Nat) (b : Block) : (s.setBlk k b).eops = s.eops := rfl
@[simp] theorem State.setBlk_tabs (s : State) (k : Nat) (b : Block) : (s.setBlk k b).tabs = s.tabs := rfl
@[simp] theorem State.setBlk_badTabs (s : State) (k : Nat) (b : Block) : (s.setBlk k b).badTabs = s.badTabs := rfl
@[simp] theorem State.setBlk_counts (s : State) (k : Nat) (b : Block) : (s.setBlk k b).counts = s.counts := rfl
@[simp] theorem State.setBlk_ecache (s : State) (k : Nat) (b : Block) : (s.setBlk k b).ecache = s.ecache := rfl
@[simp] theorem State.setBlk_l2 (s : State) (k : Nat) (b : Block) : (s.setBlk k b).l2 = s.l2 := rfl
@[simp] theorem State.setBlk_wbacks (s : State) (k : Nat) (b : Block) : (s.setBlk k b).wbacks = s.wbacks := rfl
@[simp] theorem State.setBlk_doms (s : State) (k : Nat) (b : Block) : (s.setBlk k b).doms = s.doms := rfl
@[simp] theorem State.setBlk_reps (s : State) (k : Nat) (b : Block) : (s.setBlk k b).reps = s.reps := rfl
@[simp] theorem State.setBlk_mbkts (s : State) (k : Nat) (b : Block) : (s.setBlk k b).mbkts = s.mbkts := rfl
@[simp] theorem State.setBlk_fbkts (s : State) (k : Nat) (b : Block) : (s.setBlk k b).fbkts = s.fbkts := rfl
@[simp] theorem State.setBlk_hbm (s : State) (k : Nat) (b : Block) : (s.setBlk k b).hbm = s.hbm := rfl
@[simp] theorem State.setBlk_queues (s : State) (k : Nat) (b : Block) : (s.setBlk k b).queues = s.queues := rfl
@[simp] theorem State.setBlk_recs (s : State) (k : Nat) (b : Block) : (s.setBlk k b).recs = s.recs := rfl
@[simp] theorem State.setBlk_boxes (s : State) (k : Nat) (b : Block) : (s.setBlk k b).boxes = s.boxes := rfl
@[simp] theorem State.setBlk_fins (s : State) (k : Nat) (b : Block) : (s.setBlk k b).fins = s.fins := rfl
@[simp] theorem State.setBlk_ctxs (s : State) (k : Nat) (b : Block) : (s.setBlk k b).ctxs = s.ctxs := rfl
@[simp] theorem State.setBlk_parts (s : State) (k : Nat) (b : Block) : (s.setBlk k b).parts = s.parts := rfl
@[simp] theorem State.setBlk_ports (s : State) (k : Nat) (b : Block) : (s.setBlk k b).ports = s.ports := rfl
@[simp] theorem State.setBlk_flows (s : State) (k : Nat) (b : Block) : (s.setBlk k b).flows = s.flows := rfl
@[simp] theorem State.setBlk_lastPlane (s : State) (k : Nat) (b : Block) : (s.setBlk k b).lastPlane = s.lastPlane := rfl
@[simp] theorem State.setBlk_hoist (s : State) (k : Nat) (b : Block) : (s.setBlk k b).hoist = s.hoist := rfl
@[simp] theorem State.setBlk_bufs (s : State) (k : Nat) (b : Block) : (s.setBlk k b).bufs = s.bufs := rfl
@[simp] theorem State.setBlk_sess (s : State) (k : Nat) (b : Block) : (s.setBlk k b).sess = s.sess := rfl
@[simp] theorem State.setBlk_toks (s : State) (k : Nat) (b : Block) : (s.setBlk k b).toks = s.toks := rfl
@[simp] theorem State.setBlk_colls (s : State) (k : Nat) (b : Block) : (s.setBlk k b).colls = s.colls := rfl
@[simp] theorem State.setBlk_cmsgs (s : State) (k : Nat) (b : Block) : (s.setBlk k b).cmsgs = s.cmsgs := rfl
@[simp] theorem State.setBlk_nops (s : State) (k : Nat) (b : Block) : (s.setBlk k b).nops = s.nops := rfl
@[simp] theorem State.setBlk_watches (s : State) (k : Nat) (b : Block) : (s.setBlk k b).watches = s.watches := rfl
@[simp] theorem State.setBlk_scanAt (s : State) (k : Nat) (b : Block) : (s.setBlk k b).scanAt = s.scanAt := rfl
@[simp] theorem State.setBlk_scanEnd (s : State) (k : Nat) (b : Block) : (s.setBlk k b).scanEnd = s.scanEnd := rfl
@[simp] theorem State.setBlk_posts (s : State) (k : Nat) (b : Block) : (s.setBlk k b).posts = s.posts := rfl
@[simp] theorem State.setBlk_awaits (s : State) (k : Nat) (b : Block) : (s.setBlk k b).awaits = s.awaits := rfl
@[simp] theorem State.setBlk_msix (s : State) (k : Nat) (b : Block) : (s.setBlk k b).msix = s.msix := rfl
@[simp] theorem State.setBlk_spcache (s : State) (k : Nat) (b : Block) : (s.setBlk k b).spcache = s.spcache := rfl
@[simp] theorem State.setBlk_agenda (s : State) (k : Nat) (b : Block) : (s.setBlk k b).agenda = s.agenda := rfl
@[simp] theorem State.setBlk_cur (s : State) (k : Nat) (b : Block) : (s.setBlk k b).cur = s.cur := rfl
@[simp] theorem State.setBlk_pace (s : State) (k : Nat) (b : Block) : (s.setBlk k b).pace = s.pace := rfl
@[simp] theorem State.setBlk_fresh (s : State) (k : Nat) (b : Block) : (s.setBlk k b).fresh = s.fresh := rfl
@[simp] theorem State.setBlk_nextId (s : State) (k : Nat) (b : Block) : (s.setBlk k b).nextId = s.nextId := rfl

/-! ### `State.setCtx` -/

@[simp] theorem State.setCtx_regs (s : State) (c : Nat) (x : Ctx) : (s.setCtx c x).regs = s.regs := rfl
@[simp] theorem State.setCtx_mem (s : State) (c : Nat) (x : Ctx) : (s.setCtx c x).mem = s.mem := rfl
@[simp] theorem State.setCtx_pois (s : State) (c : Nat) (x : Ctx) : (s.setCtx c x).pois = s.pois := rfl
@[simp] theorem State.setCtx_groups (s : State) (c : Nat) (x : Ctx) : (s.setCtx c x).groups = s.groups := rfl
@[simp] theorem State.setCtx_blocks (s : State) (c : Nat) (x : Ctx) : (s.setCtx c x).blocks = s.blocks := rfl
@[simp] theorem State.setCtx_saved (s : State) (c : Nat) (x : Ctx) : (s.setCtx c x).saved = s.saved := rfl
@[simp] theorem State.setCtx_cores (s : State) (c : Nat) (x : Ctx) : (s.setCtx c x).cores = s.cores := rfl
@[simp] theorem State.setCtx_lanes (s : State) (c : Nat) (x : Ctx) : (s.setCtx c x).lanes = s.lanes := rfl
@[simp] theorem State.setCtx_reqs (s : State) (c : Nat) (x : Ctx) : (s.setCtx c x).reqs = s.reqs := rfl
@[simp] theorem State.setCtx_ops (s : State) (c : Nat) (x : Ctx) : (s.setCtx c x).ops = s.ops := rfl
@[simp] theorem State.setCtx_wrs (s : State) (c : Nat) (x : Ctx) : (s.setCtx c x).wrs = s.wrs := rfl
@[simp] theorem State.setCtx_copies (s : State) (c : Nat) (x : Ctx) : (s.setCtx c x).copies = s.copies := rfl
@[simp] theorem State.setCtx_eops (s : State) (c : Nat) (x : Ctx) : (s.setCtx c x).eops = s.eops := rfl
@[simp] theorem State.setCtx_tabs (s : State) (c : Nat) (x : Ctx) : (s.setCtx c x).tabs = s.tabs := rfl
@[simp] theorem State.setCtx_badTabs (s : State) (c : Nat) (x : Ctx) : (s.setCtx c x).badTabs = s.badTabs := rfl
@[simp] theorem State.setCtx_counts (s : State) (c : Nat) (x : Ctx) : (s.setCtx c x).counts = s.counts := rfl
@[simp] theorem State.setCtx_ecache (s : State) (c : Nat) (x : Ctx) : (s.setCtx c x).ecache = s.ecache := rfl
@[simp] theorem State.setCtx_l2 (s : State) (c : Nat) (x : Ctx) : (s.setCtx c x).l2 = s.l2 := rfl
@[simp] theorem State.setCtx_wbacks (s : State) (c : Nat) (x : Ctx) : (s.setCtx c x).wbacks = s.wbacks := rfl
@[simp] theorem State.setCtx_doms (s : State) (c : Nat) (x : Ctx) : (s.setCtx c x).doms = s.doms := rfl
@[simp] theorem State.setCtx_reps (s : State) (c : Nat) (x : Ctx) : (s.setCtx c x).reps = s.reps := rfl
@[simp] theorem State.setCtx_mbkts (s : State) (c : Nat) (x : Ctx) : (s.setCtx c x).mbkts = s.mbkts := rfl
@[simp] theorem State.setCtx_fbkts (s : State) (c : Nat) (x : Ctx) : (s.setCtx c x).fbkts = s.fbkts := rfl
@[simp] theorem State.setCtx_hbm (s : State) (c : Nat) (x : Ctx) : (s.setCtx c x).hbm = s.hbm := rfl
@[simp] theorem State.setCtx_queues (s : State) (c : Nat) (x : Ctx) : (s.setCtx c x).queues = s.queues := rfl
@[simp] theorem State.setCtx_recs (s : State) (c : Nat) (x : Ctx) : (s.setCtx c x).recs = s.recs := rfl
@[simp] theorem State.setCtx_boxes (s : State) (c : Nat) (x : Ctx) : (s.setCtx c x).boxes = s.boxes := rfl
@[simp] theorem State.setCtx_fins (s : State) (c : Nat) (x : Ctx) : (s.setCtx c x).fins = s.fins := rfl
@[simp] theorem State.setCtx_parts (s : State) (c : Nat) (x : Ctx) : (s.setCtx c x).parts = s.parts := rfl
@[simp] theorem State.setCtx_ports (s : State) (c : Nat) (x : Ctx) : (s.setCtx c x).ports = s.ports := rfl
@[simp] theorem State.setCtx_flows (s : State) (c : Nat) (x : Ctx) : (s.setCtx c x).flows = s.flows := rfl
@[simp] theorem State.setCtx_lastPlane (s : State) (c : Nat) (x : Ctx) : (s.setCtx c x).lastPlane = s.lastPlane := rfl
@[simp] theorem State.setCtx_hoist (s : State) (c : Nat) (x : Ctx) : (s.setCtx c x).hoist = s.hoist := rfl
@[simp] theorem State.setCtx_bufs (s : State) (c : Nat) (x : Ctx) : (s.setCtx c x).bufs = s.bufs := rfl
@[simp] theorem State.setCtx_sess (s : State) (c : Nat) (x : Ctx) : (s.setCtx c x).sess = s.sess := rfl
@[simp] theorem State.setCtx_toks (s : State) (c : Nat) (x : Ctx) : (s.setCtx c x).toks = s.toks := rfl
@[simp] theorem State.setCtx_colls (s : State) (c : Nat) (x : Ctx) : (s.setCtx c x).colls = s.colls := rfl
@[simp] theorem State.setCtx_cmsgs (s : State) (c : Nat) (x : Ctx) : (s.setCtx c x).cmsgs = s.cmsgs := rfl
@[simp] theorem State.setCtx_nops (s : State) (c : Nat) (x : Ctx) : (s.setCtx c x).nops = s.nops := rfl
@[simp] theorem State.setCtx_watches (s : State) (c : Nat) (x : Ctx) : (s.setCtx c x).watches = s.watches := rfl
@[simp] theorem State.setCtx_scanAt (s : State) (c : Nat) (x : Ctx) : (s.setCtx c x).scanAt = s.scanAt := rfl
@[simp] theorem State.setCtx_scanEnd (s : State) (c : Nat) (x : Ctx) : (s.setCtx c x).scanEnd = s.scanEnd := rfl
@[simp] theorem State.setCtx_posts (s : State) (c : Nat) (x : Ctx) : (s.setCtx c x).posts = s.posts := rfl
@[simp] theorem State.setCtx_awaits (s : State) (c : Nat) (x : Ctx) : (s.setCtx c x).awaits = s.awaits := rfl
@[simp] theorem State.setCtx_msix (s : State) (c : Nat) (x : Ctx) : (s.setCtx c x).msix = s.msix := rfl
@[simp] theorem State.setCtx_spcache (s : State) (c : Nat) (x : Ctx) : (s.setCtx c x).spcache = s.spcache := rfl
@[simp] theorem State.setCtx_agenda (s : State) (c : Nat) (x : Ctx) : (s.setCtx c x).agenda = s.agenda := rfl
@[simp] theorem State.setCtx_cur (s : State) (c : Nat) (x : Ctx) : (s.setCtx c x).cur = s.cur := rfl
@[simp] theorem State.setCtx_pace (s : State) (c : Nat) (x : Ctx) : (s.setCtx c x).pace = s.pace := rfl
@[simp] theorem State.setCtx_fresh (s : State) (c : Nat) (x : Ctx) : (s.setCtx c x).fresh = s.fresh := rfl
@[simp] theorem State.setCtx_nextId (s : State) (c : Nat) (x : Ctx) : (s.setCtx c x).nextId = s.nextId := rfl

/-! ### `State.setCore` -/

@[simp] theorem State.setCore_regs (s : State) (u : Nat) (c : Core) : (s.setCore u c).regs = s.regs := rfl
@[simp] theorem State.setCore_mem (s : State) (u : Nat) (c : Core) : (s.setCore u c).mem = s.mem := rfl
@[simp] theorem State.setCore_pois (s : State) (u : Nat) (c : Core) : (s.setCore u c).pois = s.pois := rfl
@[simp] theorem State.setCore_groups (s : State) (u : Nat) (c : Core) : (s.setCore u c).groups = s.groups := rfl
@[simp] theorem State.setCore_blocks (s : State) (u : Nat) (c : Core) : (s.setCore u c).blocks = s.blocks := rfl
@[simp] theorem State.setCore_saved (s : State) (u : Nat) (c : Core) : (s.setCore u c).saved = s.saved := rfl
@[simp] theorem State.setCore_lanes (s : State) (u : Nat) (c : Core) : (s.setCore u c).lanes = s.lanes := rfl
@[simp] theorem State.setCore_reqs (s : State) (u : Nat) (c : Core) : (s.setCore u c).reqs = s.reqs := rfl
@[simp] theorem State.setCore_ops (s : State) (u : Nat) (c : Core) : (s.setCore u c).ops = s.ops := rfl
@[simp] theorem State.setCore_wrs (s : State) (u : Nat) (c : Core) : (s.setCore u c).wrs = s.wrs := rfl
@[simp] theorem State.setCore_copies (s : State) (u : Nat) (c : Core) : (s.setCore u c).copies = s.copies := rfl
@[simp] theorem State.setCore_eops (s : State) (u : Nat) (c : Core) : (s.setCore u c).eops = s.eops := rfl
@[simp] theorem State.setCore_tabs (s : State) (u : Nat) (c : Core) : (s.setCore u c).tabs = s.tabs := rfl
@[simp] theorem State.setCore_badTabs (s : State) (u : Nat) (c : Core) : (s.setCore u c).badTabs = s.badTabs := rfl
@[simp] theorem State.setCore_counts (s : State) (u : Nat) (c : Core) : (s.setCore u c).counts = s.counts := rfl
@[simp] theorem State.setCore_ecache (s : State) (u : Nat) (c : Core) : (s.setCore u c).ecache = s.ecache := rfl
@[simp] theorem State.setCore_l2 (s : State) (u : Nat) (c : Core) : (s.setCore u c).l2 = s.l2 := rfl
@[simp] theorem State.setCore_wbacks (s : State) (u : Nat) (c : Core) : (s.setCore u c).wbacks = s.wbacks := rfl
@[simp] theorem State.setCore_doms (s : State) (u : Nat) (c : Core) : (s.setCore u c).doms = s.doms := rfl
@[simp] theorem State.setCore_reps (s : State) (u : Nat) (c : Core) : (s.setCore u c).reps = s.reps := rfl
@[simp] theorem State.setCore_mbkts (s : State) (u : Nat) (c : Core) : (s.setCore u c).mbkts = s.mbkts := rfl
@[simp] theorem State.setCore_fbkts (s : State) (u : Nat) (c : Core) : (s.setCore u c).fbkts = s.fbkts := rfl
@[simp] theorem State.setCore_hbm (s : State) (u : Nat) (c : Core) : (s.setCore u c).hbm = s.hbm := rfl
@[simp] theorem State.setCore_queues (s : State) (u : Nat) (c : Core) : (s.setCore u c).queues = s.queues := rfl
@[simp] theorem State.setCore_recs (s : State) (u : Nat) (c : Core) : (s.setCore u c).recs = s.recs := rfl
@[simp] theorem State.setCore_boxes (s : State) (u : Nat) (c : Core) : (s.setCore u c).boxes = s.boxes := rfl
@[simp] theorem State.setCore_fins (s : State) (u : Nat) (c : Core) : (s.setCore u c).fins = s.fins := rfl
@[simp] theorem State.setCore_ctxs (s : State) (u : Nat) (c : Core) : (s.setCore u c).ctxs = s.ctxs := rfl
@[simp] theorem State.setCore_parts (s : State) (u : Nat) (c : Core) : (s.setCore u c).parts = s.parts := rfl
@[simp] theorem State.setCore_ports (s : State) (u : Nat) (c : Core) : (s.setCore u c).ports = s.ports := rfl
@[simp] theorem State.setCore_flows (s : State) (u : Nat) (c : Core) : (s.setCore u c).flows = s.flows := rfl
@[simp] theorem State.setCore_lastPlane (s : State) (u : Nat) (c : Core) : (s.setCore u c).lastPlane = s.lastPlane := rfl
@[simp] theorem State.setCore_hoist (s : State) (u : Nat) (c : Core) : (s.setCore u c).hoist = s.hoist := rfl
@[simp] theorem State.setCore_bufs (s : State) (u : Nat) (c : Core) : (s.setCore u c).bufs = s.bufs := rfl
@[simp] theorem State.setCore_sess (s : State) (u : Nat) (c : Core) : (s.setCore u c).sess = s.sess := rfl
@[simp] theorem State.setCore_toks (s : State) (u : Nat) (c : Core) : (s.setCore u c).toks = s.toks := rfl
@[simp] theorem State.setCore_colls (s : State) (u : Nat) (c : Core) : (s.setCore u c).colls = s.colls := rfl
@[simp] theorem State.setCore_cmsgs (s : State) (u : Nat) (c : Core) : (s.setCore u c).cmsgs = s.cmsgs := rfl
@[simp] theorem State.setCore_nops (s : State) (u : Nat) (c : Core) : (s.setCore u c).nops = s.nops := rfl
@[simp] theorem State.setCore_watches (s : State) (u : Nat) (c : Core) : (s.setCore u c).watches = s.watches := rfl
@[simp] theorem State.setCore_scanAt (s : State) (u : Nat) (c : Core) : (s.setCore u c).scanAt = s.scanAt := rfl
@[simp] theorem State.setCore_scanEnd (s : State) (u : Nat) (c : Core) : (s.setCore u c).scanEnd = s.scanEnd := rfl
@[simp] theorem State.setCore_posts (s : State) (u : Nat) (c : Core) : (s.setCore u c).posts = s.posts := rfl
@[simp] theorem State.setCore_awaits (s : State) (u : Nat) (c : Core) : (s.setCore u c).awaits = s.awaits := rfl
@[simp] theorem State.setCore_msix (s : State) (u : Nat) (c : Core) : (s.setCore u c).msix = s.msix := rfl
@[simp] theorem State.setCore_spcache (s : State) (u : Nat) (c : Core) : (s.setCore u c).spcache = s.spcache := rfl
@[simp] theorem State.setCore_agenda (s : State) (u : Nat) (c : Core) : (s.setCore u c).agenda = s.agenda := rfl
@[simp] theorem State.setCore_cur (s : State) (u : Nat) (c : Core) : (s.setCore u c).cur = s.cur := rfl
@[simp] theorem State.setCore_pace (s : State) (u : Nat) (c : Core) : (s.setCore u c).pace = s.pace := rfl
@[simp] theorem State.setCore_fresh (s : State) (u : Nat) (c : Core) : (s.setCore u c).fresh = s.fresh := rfl
@[simp] theorem State.setCore_nextId (s : State) (u : Nat) (c : Core) : (s.setCore u c).nextId = s.nextId := rfl

/-! ### `State.onGrp` -/

@[simp] theorem State.onGrp_regs (s : State) (gid : Nat) (f : Group → Group) : (s.onGrp gid f).regs = s.regs := rfl
@[simp] theorem State.onGrp_mem (s : State) (gid : Nat) (f : Group → Group) : (s.onGrp gid f).mem = s.mem := rfl
@[simp] theorem State.onGrp_pois (s : State) (gid : Nat) (f : Group → Group) : (s.onGrp gid f).pois = s.pois := rfl
@[simp] theorem State.onGrp_blocks (s : State) (gid : Nat) (f : Group → Group) : (s.onGrp gid f).blocks = s.blocks := rfl
@[simp] theorem State.onGrp_saved (s : State) (gid : Nat) (f : Group → Group) : (s.onGrp gid f).saved = s.saved := rfl
@[simp] theorem State.onGrp_cores (s : State) (gid : Nat) (f : Group → Group) : (s.onGrp gid f).cores = s.cores := rfl
@[simp] theorem State.onGrp_lanes (s : State) (gid : Nat) (f : Group → Group) : (s.onGrp gid f).lanes = s.lanes := rfl
@[simp] theorem State.onGrp_reqs (s : State) (gid : Nat) (f : Group → Group) : (s.onGrp gid f).reqs = s.reqs := rfl
@[simp] theorem State.onGrp_ops (s : State) (gid : Nat) (f : Group → Group) : (s.onGrp gid f).ops = s.ops := rfl
@[simp] theorem State.onGrp_wrs (s : State) (gid : Nat) (f : Group → Group) : (s.onGrp gid f).wrs = s.wrs := rfl
@[simp] theorem State.onGrp_copies (s : State) (gid : Nat) (f : Group → Group) : (s.onGrp gid f).copies = s.copies := rfl
@[simp] theorem State.onGrp_eops (s : State) (gid : Nat) (f : Group → Group) : (s.onGrp gid f).eops = s.eops := rfl
@[simp] theorem State.onGrp_tabs (s : State) (gid : Nat) (f : Group → Group) : (s.onGrp gid f).tabs = s.tabs := rfl
@[simp] theorem State.onGrp_badTabs (s : State) (gid : Nat) (f : Group → Group) : (s.onGrp gid f).badTabs = s.badTabs := rfl
@[simp] theorem State.onGrp_counts (s : State) (gid : Nat) (f : Group → Group) : (s.onGrp gid f).counts = s.counts := rfl
@[simp] theorem State.onGrp_ecache (s : State) (gid : Nat) (f : Group → Group) : (s.onGrp gid f).ecache = s.ecache := rfl
@[simp] theorem State.onGrp_l2 (s : State) (gid : Nat) (f : Group → Group) : (s.onGrp gid f).l2 = s.l2 := rfl
@[simp] theorem State.onGrp_wbacks (s : State) (gid : Nat) (f : Group → Group) : (s.onGrp gid f).wbacks = s.wbacks := rfl
@[simp] theorem State.onGrp_doms (s : State) (gid : Nat) (f : Group → Group) : (s.onGrp gid f).doms = s.doms := rfl
@[simp] theorem State.onGrp_reps (s : State) (gid : Nat) (f : Group → Group) : (s.onGrp gid f).reps = s.reps := rfl
@[simp] theorem State.onGrp_mbkts (s : State) (gid : Nat) (f : Group → Group) : (s.onGrp gid f).mbkts = s.mbkts := rfl
@[simp] theorem State.onGrp_fbkts (s : State) (gid : Nat) (f : Group → Group) : (s.onGrp gid f).fbkts = s.fbkts := rfl
@[simp] theorem State.onGrp_hbm (s : State) (gid : Nat) (f : Group → Group) : (s.onGrp gid f).hbm = s.hbm := rfl
@[simp] theorem State.onGrp_queues (s : State) (gid : Nat) (f : Group → Group) : (s.onGrp gid f).queues = s.queues := rfl
@[simp] theorem State.onGrp_recs (s : State) (gid : Nat) (f : Group → Group) : (s.onGrp gid f).recs = s.recs := rfl
@[simp] theorem State.onGrp_boxes (s : State) (gid : Nat) (f : Group → Group) : (s.onGrp gid f).boxes = s.boxes := rfl
@[simp] theorem State.onGrp_fins (s : State) (gid : Nat) (f : Group → Group) : (s.onGrp gid f).fins = s.fins := rfl
@[simp] theorem State.onGrp_ctxs (s : State) (gid : Nat) (f : Group → Group) : (s.onGrp gid f).ctxs = s.ctxs := rfl
@[simp] theorem State.onGrp_parts (s : State) (gid : Nat) (f : Group → Group) : (s.onGrp gid f).parts = s.parts := rfl
@[simp] theorem State.onGrp_ports (s : State) (gid : Nat) (f : Group → Group) : (s.onGrp gid f).ports = s.ports := rfl
@[simp] theorem State.onGrp_flows (s : State) (gid : Nat) (f : Group → Group) : (s.onGrp gid f).flows = s.flows := rfl
@[simp] theorem State.onGrp_lastPlane (s : State) (gid : Nat) (f : Group → Group) : (s.onGrp gid f).lastPlane = s.lastPlane := rfl
@[simp] theorem State.onGrp_hoist (s : State) (gid : Nat) (f : Group → Group) : (s.onGrp gid f).hoist = s.hoist := rfl
@[simp] theorem State.onGrp_bufs (s : State) (gid : Nat) (f : Group → Group) : (s.onGrp gid f).bufs = s.bufs := rfl
@[simp] theorem State.onGrp_sess (s : State) (gid : Nat) (f : Group → Group) : (s.onGrp gid f).sess = s.sess := rfl
@[simp] theorem State.onGrp_toks (s : State) (gid : Nat) (f : Group → Group) : (s.onGrp gid f).toks = s.toks := rfl
@[simp] theorem State.onGrp_colls (s : State) (gid : Nat) (f : Group → Group) : (s.onGrp gid f).colls = s.colls := rfl
@[simp] theorem State.onGrp_cmsgs (s : State) (gid : Nat) (f : Group → Group) : (s.onGrp gid f).cmsgs = s.cmsgs := rfl
@[simp] theorem State.onGrp_nops (s : State) (gid : Nat) (f : Group → Group) : (s.onGrp gid f).nops = s.nops := rfl
@[simp] theorem State.onGrp_watches (s : State) (gid : Nat) (f : Group → Group) : (s.onGrp gid f).watches = s.watches := rfl
@[simp] theorem State.onGrp_scanAt (s : State) (gid : Nat) (f : Group → Group) : (s.onGrp gid f).scanAt = s.scanAt := rfl
@[simp] theorem State.onGrp_scanEnd (s : State) (gid : Nat) (f : Group → Group) : (s.onGrp gid f).scanEnd = s.scanEnd := rfl
@[simp] theorem State.onGrp_posts (s : State) (gid : Nat) (f : Group → Group) : (s.onGrp gid f).posts = s.posts := rfl
@[simp] theorem State.onGrp_awaits (s : State) (gid : Nat) (f : Group → Group) : (s.onGrp gid f).awaits = s.awaits := rfl
@[simp] theorem State.onGrp_msix (s : State) (gid : Nat) (f : Group → Group) : (s.onGrp gid f).msix = s.msix := rfl
@[simp] theorem State.onGrp_spcache (s : State) (gid : Nat) (f : Group → Group) : (s.onGrp gid f).spcache = s.spcache := rfl
@[simp] theorem State.onGrp_agenda (s : State) (gid : Nat) (f : Group → Group) : (s.onGrp gid f).agenda = s.agenda := rfl
@[simp] theorem State.onGrp_cur (s : State) (gid : Nat) (f : Group → Group) : (s.onGrp gid f).cur = s.cur := rfl
@[simp] theorem State.onGrp_pace (s : State) (gid : Nat) (f : Group → Group) : (s.onGrp gid f).pace = s.pace := rfl
@[simp] theorem State.onGrp_fresh (s : State) (gid : Nat) (f : Group → Group) : (s.onGrp gid f).fresh = s.fresh := rfl
@[simp] theorem State.onGrp_nextId (s : State) (gid : Nat) (f : Group → Group) : (s.onGrp gid f).nextId = s.nextId := rfl

/-! ### `State.onBlk` -/

@[simp] theorem State.onBlk_regs (s : State) (k : Nat) (f : Block → Block) : (s.onBlk k f).regs = s.regs := rfl
@[simp] theorem State.onBlk_mem (s : State) (k : Nat) (f : Block → Block) : (s.onBlk k f).mem = s.mem := rfl
@[simp] theorem State.onBlk_pois (s : State) (k : Nat) (f : Block → Block) : (s.onBlk k f).pois = s.pois := rfl
@[simp] theorem State.onBlk_groups (s : State) (k : Nat) (f : Block → Block) : (s.onBlk k f).groups = s.groups := rfl
@[simp] theorem State.onBlk_saved (s : State) (k : Nat) (f : Block → Block) : (s.onBlk k f).saved = s.saved := rfl
@[simp] theorem State.onBlk_cores (s : State) (k : Nat) (f : Block → Block) : (s.onBlk k f).cores = s.cores := rfl
@[simp] theorem State.onBlk_lanes (s : State) (k : Nat) (f : Block → Block) : (s.onBlk k f).lanes = s.lanes := rfl
@[simp] theorem State.onBlk_reqs (s : State) (k : Nat) (f : Block → Block) : (s.onBlk k f).reqs = s.reqs := rfl
@[simp] theorem State.onBlk_ops (s : State) (k : Nat) (f : Block → Block) : (s.onBlk k f).ops = s.ops := rfl
@[simp] theorem State.onBlk_wrs (s : State) (k : Nat) (f : Block → Block) : (s.onBlk k f).wrs = s.wrs := rfl
@[simp] theorem State.onBlk_copies (s : State) (k : Nat) (f : Block → Block) : (s.onBlk k f).copies = s.copies := rfl
@[simp] theorem State.onBlk_eops (s : State) (k : Nat) (f : Block → Block) : (s.onBlk k f).eops = s.eops := rfl
@[simp] theorem State.onBlk_tabs (s : State) (k : Nat) (f : Block → Block) : (s.onBlk k f).tabs = s.tabs := rfl
@[simp] theorem State.onBlk_badTabs (s : State) (k : Nat) (f : Block → Block) : (s.onBlk k f).badTabs = s.badTabs := rfl
@[simp] theorem State.onBlk_counts (s : State) (k : Nat) (f : Block → Block) : (s.onBlk k f).counts = s.counts := rfl
@[simp] theorem State.onBlk_ecache (s : State) (k : Nat) (f : Block → Block) : (s.onBlk k f).ecache = s.ecache := rfl
@[simp] theorem State.onBlk_l2 (s : State) (k : Nat) (f : Block → Block) : (s.onBlk k f).l2 = s.l2 := rfl
@[simp] theorem State.onBlk_wbacks (s : State) (k : Nat) (f : Block → Block) : (s.onBlk k f).wbacks = s.wbacks := rfl
@[simp] theorem State.onBlk_doms (s : State) (k : Nat) (f : Block → Block) : (s.onBlk k f).doms = s.doms := rfl
@[simp] theorem State.onBlk_reps (s : State) (k : Nat) (f : Block → Block) : (s.onBlk k f).reps = s.reps := rfl
@[simp] theorem State.onBlk_mbkts (s : State) (k : Nat) (f : Block → Block) : (s.onBlk k f).mbkts = s.mbkts := rfl
@[simp] theorem State.onBlk_fbkts (s : State) (k : Nat) (f : Block → Block) : (s.onBlk k f).fbkts = s.fbkts := rfl
@[simp] theorem State.onBlk_hbm (s : State) (k : Nat) (f : Block → Block) : (s.onBlk k f).hbm = s.hbm := rfl
@[simp] theorem State.onBlk_queues (s : State) (k : Nat) (f : Block → Block) : (s.onBlk k f).queues = s.queues := rfl
@[simp] theorem State.onBlk_recs (s : State) (k : Nat) (f : Block → Block) : (s.onBlk k f).recs = s.recs := rfl
@[simp] theorem State.onBlk_boxes (s : State) (k : Nat) (f : Block → Block) : (s.onBlk k f).boxes = s.boxes := rfl
@[simp] theorem State.onBlk_fins (s : State) (k : Nat) (f : Block → Block) : (s.onBlk k f).fins = s.fins := rfl
@[simp] theorem State.onBlk_ctxs (s : State) (k : Nat) (f : Block → Block) : (s.onBlk k f).ctxs = s.ctxs := rfl
@[simp] theorem State.onBlk_parts (s : State) (k : Nat) (f : Block → Block) : (s.onBlk k f).parts = s.parts := rfl
@[simp] theorem State.onBlk_ports (s : State) (k : Nat) (f : Block → Block) : (s.onBlk k f).ports = s.ports := rfl
@[simp] theorem State.onBlk_flows (s : State) (k : Nat) (f : Block → Block) : (s.onBlk k f).flows = s.flows := rfl
@[simp] theorem State.onBlk_lastPlane (s : State) (k : Nat) (f : Block → Block) : (s.onBlk k f).lastPlane = s.lastPlane := rfl
@[simp] theorem State.onBlk_hoist (s : State) (k : Nat) (f : Block → Block) : (s.onBlk k f).hoist = s.hoist := rfl
@[simp] theorem State.onBlk_bufs (s : State) (k : Nat) (f : Block → Block) : (s.onBlk k f).bufs = s.bufs := rfl
@[simp] theorem State.onBlk_sess (s : State) (k : Nat) (f : Block → Block) : (s.onBlk k f).sess = s.sess := rfl
@[simp] theorem State.onBlk_toks (s : State) (k : Nat) (f : Block → Block) : (s.onBlk k f).toks = s.toks := rfl
@[simp] theorem State.onBlk_colls (s : State) (k : Nat) (f : Block → Block) : (s.onBlk k f).colls = s.colls := rfl
@[simp] theorem State.onBlk_cmsgs (s : State) (k : Nat) (f : Block → Block) : (s.onBlk k f).cmsgs = s.cmsgs := rfl
@[simp] theorem State.onBlk_nops (s : State) (k : Nat) (f : Block → Block) : (s.onBlk k f).nops = s.nops := rfl
@[simp] theorem State.onBlk_watches (s : State) (k : Nat) (f : Block → Block) : (s.onBlk k f).watches = s.watches := rfl
@[simp] theorem State.onBlk_scanAt (s : State) (k : Nat) (f : Block → Block) : (s.onBlk k f).scanAt = s.scanAt := rfl
@[simp] theorem State.onBlk_scanEnd (s : State) (k : Nat) (f : Block → Block) : (s.onBlk k f).scanEnd = s.scanEnd := rfl
@[simp] theorem State.onBlk_posts (s : State) (k : Nat) (f : Block → Block) : (s.onBlk k f).posts = s.posts := rfl
@[simp] theorem State.onBlk_awaits (s : State) (k : Nat) (f : Block → Block) : (s.onBlk k f).awaits = s.awaits := rfl
@[simp] theorem State.onBlk_msix (s : State) (k : Nat) (f : Block → Block) : (s.onBlk k f).msix = s.msix := rfl
@[simp] theorem State.onBlk_spcache (s : State) (k : Nat) (f : Block → Block) : (s.onBlk k f).spcache = s.spcache := rfl
@[simp] theorem State.onBlk_agenda (s : State) (k : Nat) (f : Block → Block) : (s.onBlk k f).agenda = s.agenda := rfl
@[simp] theorem State.onBlk_cur (s : State) (k : Nat) (f : Block → Block) : (s.onBlk k f).cur = s.cur := rfl
@[simp] theorem State.onBlk_pace (s : State) (k : Nat) (f : Block → Block) : (s.onBlk k f).pace = s.pace := rfl
@[simp] theorem State.onBlk_fresh (s : State) (k : Nat) (f : Block → Block) : (s.onBlk k f).fresh = s.fresh := rfl
@[simp] theorem State.onBlk_nextId (s : State) (k : Nat) (f : Block → Block) : (s.onBlk k f).nextId = s.nextId := rfl

/-! ### `State.onCore` -/

@[simp] theorem State.onCore_regs (s : State) (u : Nat) (f : Core → Core) : (s.onCore u f).regs = s.regs := rfl
@[simp] theorem State.onCore_mem (s : State) (u : Nat) (f : Core → Core) : (s.onCore u f).mem = s.mem := rfl
@[simp] theorem State.onCore_pois (s : State) (u : Nat) (f : Core → Core) : (s.onCore u f).pois = s.pois := rfl
@[simp] theorem State.onCore_groups (s : State) (u : Nat) (f : Core → Core) : (s.onCore u f).groups = s.groups := rfl
@[simp] theorem State.onCore_blocks (s : State) (u : Nat) (f : Core → Core) : (s.onCore u f).blocks = s.blocks := rfl
@[simp] theorem State.onCore_saved (s : State) (u : Nat) (f : Core → Core) : (s.onCore u f).saved = s.saved := rfl
@[simp] theorem State.onCore_lanes (s : State) (u : Nat) (f : Core → Core) : (s.onCore u f).lanes = s.lanes := rfl
@[simp] theorem State.onCore_reqs (s : State) (u : Nat) (f : Core → Core) : (s.onCore u f).reqs = s.reqs := rfl
@[simp] theorem State.onCore_ops (s : State) (u : Nat) (f : Core → Core) : (s.onCore u f).ops = s.ops := rfl
@[simp] theorem State.onCore_wrs (s : State) (u : Nat) (f : Core → Core) : (s.onCore u f).wrs = s.wrs := rfl
@[simp] theorem State.onCore_copies (s : State) (u : Nat) (f : Core → Core) : (s.onCore u f).copies = s.copies := rfl
@[simp] theorem State.onCore_eops (s : State) (u : Nat) (f : Core → Core) : (s.onCore u f).eops = s.eops := rfl
@[simp] theorem State.onCore_tabs (s : State) (u : Nat) (f : Core → Core) : (s.onCore u f).tabs = s.tabs := rfl
@[simp] theorem State.onCore_badTabs (s : State) (u : Nat) (f : Core → Core) : (s.onCore u f).badTabs = s.badTabs := rfl
@[simp] theorem State.onCore_counts (s : State) (u : Nat) (f : Core → Core) : (s.onCore u f).counts = s.counts := rfl
@[simp] theorem State.onCore_ecache (s : State) (u : Nat) (f : Core → Core) : (s.onCore u f).ecache = s.ecache := rfl
@[simp] theorem State.onCore_l2 (s : State) (u : Nat) (f : Core → Core) : (s.onCore u f).l2 = s.l2 := rfl
@[simp] theorem State.onCore_wbacks (s : State) (u : Nat) (f : Core → Core) : (s.onCore u f).wbacks = s.wbacks := rfl
@[simp] theorem State.onCore_doms (s : State) (u : Nat) (f : Core → Core) : (s.onCore u f).doms = s.doms := rfl
@[simp] theorem State.onCore_reps (s : State) (u : Nat) (f : Core → Core) : (s.onCore u f).reps = s.reps := rfl
@[simp] theorem State.onCore_mbkts (s : State) (u : Nat) (f : Core → Core) : (s.onCore u f).mbkts = s.mbkts := rfl
@[simp] theorem State.onCore_fbkts (s : State) (u : Nat) (f : Core → Core) : (s.onCore u f).fbkts = s.fbkts := rfl
@[simp] theorem State.onCore_hbm (s : State) (u : Nat) (f : Core → Core) : (s.onCore u f).hbm = s.hbm := rfl
@[simp] theorem State.onCore_queues (s : State) (u : Nat) (f : Core → Core) : (s.onCore u f).queues = s.queues := rfl
@[simp] theorem State.onCore_recs (s : State) (u : Nat) (f : Core → Core) : (s.onCore u f).recs = s.recs := rfl
@[simp] theorem State.onCore_boxes (s : State) (u : Nat) (f : Core → Core) : (s.onCore u f).boxes = s.boxes := rfl
@[simp] theorem State.onCore_fins (s : State) (u : Nat) (f : Core → Core) : (s.onCore u f).fins = s.fins := rfl
@[simp] theorem State.onCore_ctxs (s : State) (u : Nat) (f : Core → Core) : (s.onCore u f).ctxs = s.ctxs := rfl
@[simp] theorem State.onCore_parts (s : State) (u : Nat) (f : Core → Core) : (s.onCore u f).parts = s.parts := rfl
@[simp] theorem State.onCore_ports (s : State) (u : Nat) (f : Core → Core) : (s.onCore u f).ports = s.ports := rfl
@[simp] theorem State.onCore_flows (s : State) (u : Nat) (f : Core → Core) : (s.onCore u f).flows = s.flows := rfl
@[simp] theorem State.onCore_lastPlane (s : State) (u : Nat) (f : Core → Core) : (s.onCore u f).lastPlane = s.lastPlane := rfl
@[simp] theorem State.onCore_hoist (s : State) (u : Nat) (f : Core → Core) : (s.onCore u f).hoist = s.hoist := rfl
@[simp] theorem State.onCore_bufs (s : State) (u : Nat) (f : Core → Core) : (s.onCore u f).bufs = s.bufs := rfl
@[simp] theorem State.onCore_sess (s : State) (u : Nat) (f : Core → Core) : (s.onCore u f).sess = s.sess := rfl
@[simp] theorem State.onCore_toks (s : State) (u : Nat) (f : Core → Core) : (s.onCore u f).toks = s.toks := rfl
@[simp] theorem State.onCore_colls (s : State) (u : Nat) (f : Core → Core) : (s.onCore u f).colls = s.colls := rfl
@[simp] theorem State.onCore_cmsgs (s : State) (u : Nat) (f : Core → Core) : (s.onCore u f).cmsgs = s.cmsgs := rfl
@[simp] theorem State.onCore_nops (s : State) (u : Nat) (f : Core → Core) : (s.onCore u f).nops = s.nops := rfl
@[simp] theorem State.onCore_watches (s : State) (u : Nat) (f : Core → Core) : (s.onCore u f).watches = s.watches := rfl
@[simp] theorem State.onCore_scanAt (s : State) (u : Nat) (f : Core → Core) : (s.onCore u f).scanAt = s.scanAt := rfl
@[simp] theorem State.onCore_scanEnd (s : State) (u : Nat) (f : Core → Core) : (s.onCore u f).scanEnd = s.scanEnd := rfl
@[simp] theorem State.onCore_posts (s : State) (u : Nat) (f : Core → Core) : (s.onCore u f).posts = s.posts := rfl
@[simp] theorem State.onCore_awaits (s : State) (u : Nat) (f : Core → Core) : (s.onCore u f).awaits = s.awaits := rfl
@[simp] theorem State.onCore_msix (s : State) (u : Nat) (f : Core → Core) : (s.onCore u f).msix = s.msix := rfl
@[simp] theorem State.onCore_spcache (s : State) (u : Nat) (f : Core → Core) : (s.onCore u f).spcache = s.spcache := rfl
@[simp] theorem State.onCore_agenda (s : State) (u : Nat) (f : Core → Core) : (s.onCore u f).agenda = s.agenda := rfl
@[simp] theorem State.onCore_cur (s : State) (u : Nat) (f : Core → Core) : (s.onCore u f).cur = s.cur := rfl
@[simp] theorem State.onCore_pace (s : State) (u : Nat) (f : Core → Core) : (s.onCore u f).pace = s.pace := rfl
@[simp] theorem State.onCore_fresh (s : State) (u : Nat) (f : Core → Core) : (s.onCore u f).fresh = s.fresh := rfl
@[simp] theorem State.onCore_nextId (s : State) (u : Nat) (f : Core → Core) : (s.onCore u f).nextId = s.nextId := rfl

/-! ### `State.poison` -/

@[simp] theorem State.poison_regs (s : State) (a : Nat) : (s.poison a).regs = s.regs := rfl
@[simp] theorem State.poison_groups (s : State) (a : Nat) : (s.poison a).groups = s.groups := rfl
@[simp] theorem State.poison_blocks (s : State) (a : Nat) : (s.poison a).blocks = s.blocks := rfl
@[simp] theorem State.poison_saved (s : State) (a : Nat) : (s.poison a).saved = s.saved := rfl
@[simp] theorem State.poison_cores (s : State) (a : Nat) : (s.poison a).cores = s.cores := rfl
@[simp] theorem State.poison_lanes (s : State) (a : Nat) : (s.poison a).lanes = s.lanes := rfl
@[simp] theorem State.poison_reqs (s : State) (a : Nat) : (s.poison a).reqs = s.reqs := rfl
@[simp] theorem State.poison_ops (s : State) (a : Nat) : (s.poison a).ops = s.ops := rfl
@[simp] theorem State.poison_wrs (s : State) (a : Nat) : (s.poison a).wrs = s.wrs := rfl
@[simp] theorem State.poison_copies (s : State) (a : Nat) : (s.poison a).copies = s.copies := rfl
@[simp] theorem State.poison_eops (s : State) (a : Nat) : (s.poison a).eops = s.eops := rfl
@[simp] theorem State.poison_tabs (s : State) (a : Nat) : (s.poison a).tabs = s.tabs := rfl
@[simp] theorem State.poison_badTabs (s : State) (a : Nat) : (s.poison a).badTabs = s.badTabs := rfl
@[simp] theorem State.poison_counts (s : State) (a : Nat) : (s.poison a).counts = s.counts := rfl
@[simp] theorem State.poison_ecache (s : State) (a : Nat) : (s.poison a).ecache = s.ecache := rfl
@[simp] theorem State.poison_l2 (s : State) (a : Nat) : (s.poison a).l2 = s.l2 := rfl
@[simp] theorem State.poison_wbacks (s : State) (a : Nat) : (s.poison a).wbacks = s.wbacks := rfl
@[simp] theorem State.poison_doms (s : State) (a : Nat) : (s.poison a).doms = s.doms := rfl
@[simp] theorem State.poison_reps (s : State) (a : Nat) : (s.poison a).reps = s.reps := rfl
@[simp] theorem State.poison_mbkts (s : State) (a : Nat) : (s.poison a).mbkts = s.mbkts := rfl
@[simp] theorem State.poison_fbkts (s : State) (a : Nat) : (s.poison a).fbkts = s.fbkts := rfl
@[simp] theorem State.poison_hbm (s : State) (a : Nat) : (s.poison a).hbm = s.hbm := rfl
@[simp] theorem State.poison_queues (s : State) (a : Nat) : (s.poison a).queues = s.queues := rfl
@[simp] theorem State.poison_recs (s : State) (a : Nat) : (s.poison a).recs = s.recs := rfl
@[simp] theorem State.poison_boxes (s : State) (a : Nat) : (s.poison a).boxes = s.boxes := rfl
@[simp] theorem State.poison_fins (s : State) (a : Nat) : (s.poison a).fins = s.fins := rfl
@[simp] theorem State.poison_ctxs (s : State) (a : Nat) : (s.poison a).ctxs = s.ctxs := rfl
@[simp] theorem State.poison_parts (s : State) (a : Nat) : (s.poison a).parts = s.parts := rfl
@[simp] theorem State.poison_ports (s : State) (a : Nat) : (s.poison a).ports = s.ports := rfl
@[simp] theorem State.poison_flows (s : State) (a : Nat) : (s.poison a).flows = s.flows := rfl
@[simp] theorem State.poison_lastPlane (s : State) (a : Nat) : (s.poison a).lastPlane = s.lastPlane := rfl
@[simp] theorem State.poison_hoist (s : State) (a : Nat) : (s.poison a).hoist = s.hoist := rfl
@[simp] theorem State.poison_bufs (s : State) (a : Nat) : (s.poison a).bufs = s.bufs := rfl
@[simp] theorem State.poison_sess (s : State) (a : Nat) : (s.poison a).sess = s.sess := rfl
@[simp] theorem State.poison_toks (s : State) (a : Nat) : (s.poison a).toks = s.toks := rfl
@[simp] theorem State.poison_colls (s : State) (a : Nat) : (s.poison a).colls = s.colls := rfl
@[simp] theorem State.poison_cmsgs (s : State) (a : Nat) : (s.poison a).cmsgs = s.cmsgs := rfl
@[simp] theorem State.poison_nops (s : State) (a : Nat) : (s.poison a).nops = s.nops := rfl
@[simp] theorem State.poison_watches (s : State) (a : Nat) : (s.poison a).watches = s.watches := rfl
@[simp] theorem State.poison_scanAt (s : State) (a : Nat) : (s.poison a).scanAt = s.scanAt := rfl
@[simp] theorem State.poison_scanEnd (s : State) (a : Nat) : (s.poison a).scanEnd = s.scanEnd := rfl
@[simp] theorem State.poison_posts (s : State) (a : Nat) : (s.poison a).posts = s.posts := rfl
@[simp] theorem State.poison_awaits (s : State) (a : Nat) : (s.poison a).awaits = s.awaits := rfl
@[simp] theorem State.poison_msix (s : State) (a : Nat) : (s.poison a).msix = s.msix := rfl
@[simp] theorem State.poison_spcache (s : State) (a : Nat) : (s.poison a).spcache = s.spcache := rfl
@[simp] theorem State.poison_agenda (s : State) (a : Nat) : (s.poison a).agenda = s.agenda := rfl
@[simp] theorem State.poison_cur (s : State) (a : Nat) : (s.poison a).cur = s.cur := rfl
@[simp] theorem State.poison_pace (s : State) (a : Nat) : (s.poison a).pace = s.pace := rfl
@[simp] theorem State.poison_fresh (s : State) (a : Nat) : (s.poison a).fresh = s.fresh := rfl
@[simp] theorem State.poison_nextId (s : State) (a : Nat) : (s.poison a).nextId = s.nextId := rfl

/-! ### `State.applyBytes` -/

@[simp] theorem State.applyBytes_regs (s : State) (a : Nat) (bs : List (Option Byte)) : (s.applyBytes a bs).regs = s.regs := rfl
@[simp] theorem State.applyBytes_groups (s : State) (a : Nat) (bs : List (Option Byte)) : (s.applyBytes a bs).groups = s.groups := rfl
@[simp] theorem State.applyBytes_blocks (s : State) (a : Nat) (bs : List (Option Byte)) : (s.applyBytes a bs).blocks = s.blocks := rfl
@[simp] theorem State.applyBytes_saved (s : State) (a : Nat) (bs : List (Option Byte)) : (s.applyBytes a bs).saved = s.saved := rfl
@[simp] theorem State.applyBytes_cores (s : State) (a : Nat) (bs : List (Option Byte)) : (s.applyBytes a bs).cores = s.cores := rfl
@[simp] theorem State.applyBytes_lanes (s : State) (a : Nat) (bs : List (Option Byte)) : (s.applyBytes a bs).lanes = s.lanes := rfl
@[simp] theorem State.applyBytes_reqs (s : State) (a : Nat) (bs : List (Option Byte)) : (s.applyBytes a bs).reqs = s.reqs := rfl
@[simp] theorem State.applyBytes_ops (s : State) (a : Nat) (bs : List (Option Byte)) : (s.applyBytes a bs).ops = s.ops := rfl
@[simp] theorem State.applyBytes_wrs (s : State) (a : Nat) (bs : List (Option Byte)) : (s.applyBytes a bs).wrs = s.wrs := rfl
@[simp] theorem State.applyBytes_copies (s : State) (a : Nat) (bs : List (Option Byte)) : (s.applyBytes a bs).copies = s.copies := rfl
@[simp] theorem State.applyBytes_eops (s : State) (a : Nat) (bs : List (Option Byte)) : (s.applyBytes a bs).eops = s.eops := rfl
@[simp] theorem State.applyBytes_tabs (s : State) (a : Nat) (bs : List (Option Byte)) : (s.applyBytes a bs).tabs = s.tabs := rfl
@[simp] theorem State.applyBytes_badTabs (s : State) (a : Nat) (bs : List (Option Byte)) : (s.applyBytes a bs).badTabs = s.badTabs := rfl
@[simp] theorem State.applyBytes_counts (s : State) (a : Nat) (bs : List (Option Byte)) : (s.applyBytes a bs).counts = s.counts := rfl
@[simp] theorem State.applyBytes_ecache (s : State) (a : Nat) (bs : List (Option Byte)) : (s.applyBytes a bs).ecache = s.ecache := rfl
@[simp] theorem State.applyBytes_l2 (s : State) (a : Nat) (bs : List (Option Byte)) : (s.applyBytes a bs).l2 = s.l2 := rfl
@[simp] theorem State.applyBytes_wbacks (s : State) (a : Nat) (bs : List (Option Byte)) : (s.applyBytes a bs).wbacks = s.wbacks := rfl
@[simp] theorem State.applyBytes_doms (s : State) (a : Nat) (bs : List (Option Byte)) : (s.applyBytes a bs).doms = s.doms := rfl
@[simp] theorem State.applyBytes_reps (s : State) (a : Nat) (bs : List (Option Byte)) : (s.applyBytes a bs).reps = s.reps := rfl
@[simp] theorem State.applyBytes_mbkts (s : State) (a : Nat) (bs : List (Option Byte)) : (s.applyBytes a bs).mbkts = s.mbkts := rfl
@[simp] theorem State.applyBytes_fbkts (s : State) (a : Nat) (bs : List (Option Byte)) : (s.applyBytes a bs).fbkts = s.fbkts := rfl
@[simp] theorem State.applyBytes_hbm (s : State) (a : Nat) (bs : List (Option Byte)) : (s.applyBytes a bs).hbm = s.hbm := rfl
@[simp] theorem State.applyBytes_queues (s : State) (a : Nat) (bs : List (Option Byte)) : (s.applyBytes a bs).queues = s.queues := rfl
@[simp] theorem State.applyBytes_recs (s : State) (a : Nat) (bs : List (Option Byte)) : (s.applyBytes a bs).recs = s.recs := rfl
@[simp] theorem State.applyBytes_boxes (s : State) (a : Nat) (bs : List (Option Byte)) : (s.applyBytes a bs).boxes = s.boxes := rfl
@[simp] theorem State.applyBytes_fins (s : State) (a : Nat) (bs : List (Option Byte)) : (s.applyBytes a bs).fins = s.fins := rfl
@[simp] theorem State.applyBytes_ctxs (s : State) (a : Nat) (bs : List (Option Byte)) : (s.applyBytes a bs).ctxs = s.ctxs := rfl
@[simp] theorem State.applyBytes_parts (s : State) (a : Nat) (bs : List (Option Byte)) : (s.applyBytes a bs).parts = s.parts := rfl
@[simp] theorem State.applyBytes_ports (s : State) (a : Nat) (bs : List (Option Byte)) : (s.applyBytes a bs).ports = s.ports := rfl
@[simp] theorem State.applyBytes_flows (s : State) (a : Nat) (bs : List (Option Byte)) : (s.applyBytes a bs).flows = s.flows := rfl
@[simp] theorem State.applyBytes_lastPlane (s : State) (a : Nat) (bs : List (Option Byte)) : (s.applyBytes a bs).lastPlane = s.lastPlane := rfl
@[simp] theorem State.applyBytes_hoist (s : State) (a : Nat) (bs : List (Option Byte)) : (s.applyBytes a bs).hoist = s.hoist := rfl
@[simp] theorem State.applyBytes_bufs (s : State) (a : Nat) (bs : List (Option Byte)) : (s.applyBytes a bs).bufs = s.bufs := rfl
@[simp] theorem State.applyBytes_sess (s : State) (a : Nat) (bs : List (Option Byte)) : (s.applyBytes a bs).sess = s.sess := rfl
@[simp] theorem State.applyBytes_toks (s : State) (a : Nat) (bs : List (Option Byte)) : (s.applyBytes a bs).toks = s.toks := rfl
@[simp] theorem State.applyBytes_colls (s : State) (a : Nat) (bs : List (Option Byte)) : (s.applyBytes a bs).colls = s.colls := rfl
@[simp] theorem State.applyBytes_cmsgs (s : State) (a : Nat) (bs : List (Option Byte)) : (s.applyBytes a bs).cmsgs = s.cmsgs := rfl
@[simp] theorem State.applyBytes_nops (s : State) (a : Nat) (bs : List (Option Byte)) : (s.applyBytes a bs).nops = s.nops := rfl
@[simp] theorem State.applyBytes_scanAt (s : State) (a : Nat) (bs : List (Option Byte)) : (s.applyBytes a bs).scanAt = s.scanAt := rfl
@[simp] theorem State.applyBytes_scanEnd (s : State) (a : Nat) (bs : List (Option Byte)) : (s.applyBytes a bs).scanEnd = s.scanEnd := rfl
@[simp] theorem State.applyBytes_posts (s : State) (a : Nat) (bs : List (Option Byte)) : (s.applyBytes a bs).posts = s.posts := rfl
@[simp] theorem State.applyBytes_awaits (s : State) (a : Nat) (bs : List (Option Byte)) : (s.applyBytes a bs).awaits = s.awaits := rfl
@[simp] theorem State.applyBytes_msix (s : State) (a : Nat) (bs : List (Option Byte)) : (s.applyBytes a bs).msix = s.msix := rfl
@[simp] theorem State.applyBytes_spcache (s : State) (a : Nat) (bs : List (Option Byte)) : (s.applyBytes a bs).spcache = s.spcache := rfl
@[simp] theorem State.applyBytes_agenda (s : State) (a : Nat) (bs : List (Option Byte)) : (s.applyBytes a bs).agenda = s.agenda := rfl
@[simp] theorem State.applyBytes_cur (s : State) (a : Nat) (bs : List (Option Byte)) : (s.applyBytes a bs).cur = s.cur := rfl
@[simp] theorem State.applyBytes_pace (s : State) (a : Nat) (bs : List (Option Byte)) : (s.applyBytes a bs).pace = s.pace := rfl
@[simp] theorem State.applyBytes_fresh (s : State) (a : Nat) (bs : List (Option Byte)) : (s.applyBytes a bs).fresh = s.fresh := rfl
@[simp] theorem State.applyBytes_nextId (s : State) (a : Nat) (bs : List (Option Byte)) : (s.applyBytes a bs).nextId = s.nextId := rfl

/-! ### `State.zeroBytes` -/

@[simp] theorem State.zeroBytes_regs (s : State) (a n : Nat) : (s.zeroBytes a n).regs = s.regs := rfl
@[simp] theorem State.zeroBytes_groups (s : State) (a n : Nat) : (s.zeroBytes a n).groups = s.groups := rfl
@[simp] theorem State.zeroBytes_blocks (s : State) (a n : Nat) : (s.zeroBytes a n).blocks = s.blocks := rfl
@[simp] theorem State.zeroBytes_saved (s : State) (a n : Nat) : (s.zeroBytes a n).saved = s.saved := rfl
@[simp] theorem State.zeroBytes_cores (s : State) (a n : Nat) : (s.zeroBytes a n).cores = s.cores := rfl
@[simp] theorem State.zeroBytes_lanes (s : State) (a n : Nat) : (s.zeroBytes a n).lanes = s.lanes := rfl
@[simp] theorem State.zeroBytes_reqs (s : State) (a n : Nat) : (s.zeroBytes a n).reqs = s.reqs := rfl
@[simp] theorem State.zeroBytes_ops (s : State) (a n : Nat) : (s.zeroBytes a n).ops = s.ops := rfl
@[simp] theorem State.zeroBytes_wrs (s : State) (a n : Nat) : (s.zeroBytes a n).wrs = s.wrs := rfl
@[simp] theorem State.zeroBytes_copies (s : State) (a n : Nat) : (s.zeroBytes a n).copies = s.copies := rfl
@[simp] theorem State.zeroBytes_eops (s : State) (a n : Nat) : (s.zeroBytes a n).eops = s.eops := rfl
@[simp] theorem State.zeroBytes_tabs (s : State) (a n : Nat) : (s.zeroBytes a n).tabs = s.tabs := rfl
@[simp] theorem State.zeroBytes_badTabs (s : State) (a n : Nat) : (s.zeroBytes a n).badTabs = s.badTabs := rfl
@[simp] theorem State.zeroBytes_counts (s : State) (a n : Nat) : (s.zeroBytes a n).counts = s.counts := rfl
@[simp] theorem State.zeroBytes_ecache (s : State) (a n : Nat) : (s.zeroBytes a n).ecache = s.ecache := rfl
@[simp] theorem State.zeroBytes_l2 (s : State) (a n : Nat) : (s.zeroBytes a n).l2 = s.l2 := rfl
@[simp] theorem State.zeroBytes_wbacks (s : State) (a n : Nat) : (s.zeroBytes a n).wbacks = s.wbacks := rfl
@[simp] theorem State.zeroBytes_doms (s : State) (a n : Nat) : (s.zeroBytes a n).doms = s.doms := rfl
@[simp] theorem State.zeroBytes_reps (s : State) (a n : Nat) : (s.zeroBytes a n).reps = s.reps := rfl
@[simp] theorem State.zeroBytes_mbkts (s : State) (a n : Nat) : (s.zeroBytes a n).mbkts = s.mbkts := rfl
@[simp] theorem State.zeroBytes_fbkts (s : State) (a n : Nat) : (s.zeroBytes a n).fbkts = s.fbkts := rfl
@[simp] theorem State.zeroBytes_hbm (s : State) (a n : Nat) : (s.zeroBytes a n).hbm = s.hbm := rfl
@[simp] theorem State.zeroBytes_queues (s : State) (a n : Nat) : (s.zeroBytes a n).queues = s.queues := rfl
@[simp] theorem State.zeroBytes_recs (s : State) (a n : Nat) : (s.zeroBytes a n).recs = s.recs := rfl
@[simp] theorem State.zeroBytes_boxes (s : State) (a n : Nat) : (s.zeroBytes a n).boxes = s.boxes := rfl
@[simp] theorem State.zeroBytes_fins (s : State) (a n : Nat) : (s.zeroBytes a n).fins = s.fins := rfl
@[simp] theorem State.zeroBytes_ctxs (s : State) (a n : Nat) : (s.zeroBytes a n).ctxs = s.ctxs := rfl
@[simp] theorem State.zeroBytes_parts (s : State) (a n : Nat) : (s.zeroBytes a n).parts = s.parts := rfl
@[simp] theorem State.zeroBytes_ports (s : State) (a n : Nat) : (s.zeroBytes a n).ports = s.ports := rfl
@[simp] theorem State.zeroBytes_flows (s : State) (a n : Nat) : (s.zeroBytes a n).flows = s.flows := rfl
@[simp] theorem State.zeroBytes_lastPlane (s : State) (a n : Nat) : (s.zeroBytes a n).lastPlane = s.lastPlane := rfl
@[simp] theorem State.zeroBytes_hoist (s : State) (a n : Nat) : (s.zeroBytes a n).hoist = s.hoist := rfl
@[simp] theorem State.zeroBytes_bufs (s : State) (a n : Nat) : (s.zeroBytes a n).bufs = s.bufs := rfl
@[simp] theorem State.zeroBytes_sess (s : State) (a n : Nat) : (s.zeroBytes a n).sess = s.sess := rfl
@[simp] theorem State.zeroBytes_toks (s : State) (a n : Nat) : (s.zeroBytes a n).toks = s.toks := rfl
@[simp] theorem State.zeroBytes_colls (s : State) (a n : Nat) : (s.zeroBytes a n).colls = s.colls := rfl
@[simp] theorem State.zeroBytes_cmsgs (s : State) (a n : Nat) : (s.zeroBytes a n).cmsgs = s.cmsgs := rfl
@[simp] theorem State.zeroBytes_nops (s : State) (a n : Nat) : (s.zeroBytes a n).nops = s.nops := rfl
@[simp] theorem State.zeroBytes_watches (s : State) (a n : Nat) : (s.zeroBytes a n).watches = s.watches := rfl
@[simp] theorem State.zeroBytes_scanAt (s : State) (a n : Nat) : (s.zeroBytes a n).scanAt = s.scanAt := rfl
@[simp] theorem State.zeroBytes_scanEnd (s : State) (a n : Nat) : (s.zeroBytes a n).scanEnd = s.scanEnd := rfl
@[simp] theorem State.zeroBytes_posts (s : State) (a n : Nat) : (s.zeroBytes a n).posts = s.posts := rfl
@[simp] theorem State.zeroBytes_awaits (s : State) (a n : Nat) : (s.zeroBytes a n).awaits = s.awaits := rfl
@[simp] theorem State.zeroBytes_msix (s : State) (a n : Nat) : (s.zeroBytes a n).msix = s.msix := rfl
@[simp] theorem State.zeroBytes_spcache (s : State) (a n : Nat) : (s.zeroBytes a n).spcache = s.spcache := rfl
@[simp] theorem State.zeroBytes_agenda (s : State) (a n : Nat) : (s.zeroBytes a n).agenda = s.agenda := rfl
@[simp] theorem State.zeroBytes_cur (s : State) (a n : Nat) : (s.zeroBytes a n).cur = s.cur := rfl
@[simp] theorem State.zeroBytes_pace (s : State) (a n : Nat) : (s.zeroBytes a n).pace = s.pace := rfl
@[simp] theorem State.zeroBytes_fresh (s : State) (a n : Nat) : (s.zeroBytes a n).fresh = s.fresh := rfl
@[simp] theorem State.zeroBytes_nextId (s : State) (a n : Nat) : (s.zeroBytes a n).nextId = s.nextId := rfl

/-! ### `State.tick` -/

@[simp] theorem State.tick_mem (s : State) : (s.tick).mem = s.mem := rfl
@[simp] theorem State.tick_pois (s : State) : (s.tick).pois = s.pois := rfl
@[simp] theorem State.tick_groups (s : State) : (s.tick).groups = s.groups := rfl
@[simp] theorem State.tick_blocks (s : State) : (s.tick).blocks = s.blocks := rfl
@[simp] theorem State.tick_saved (s : State) : (s.tick).saved = s.saved := rfl
@[simp] theorem State.tick_cores (s : State) : (s.tick).cores = s.cores := rfl
@[simp] theorem State.tick_lanes (s : State) : (s.tick).lanes = s.lanes := rfl
@[simp] theorem State.tick_reqs (s : State) : (s.tick).reqs = s.reqs := rfl
@[simp] theorem State.tick_ops (s : State) : (s.tick).ops = s.ops := rfl
@[simp] theorem State.tick_wrs (s : State) : (s.tick).wrs = s.wrs := rfl
@[simp] theorem State.tick_copies (s : State) : (s.tick).copies = s.copies := rfl
@[simp] theorem State.tick_eops (s : State) : (s.tick).eops = s.eops := rfl
@[simp] theorem State.tick_tabs (s : State) : (s.tick).tabs = s.tabs := rfl
@[simp] theorem State.tick_badTabs (s : State) : (s.tick).badTabs = s.badTabs := rfl
@[simp] theorem State.tick_counts (s : State) : (s.tick).counts = s.counts := rfl
@[simp] theorem State.tick_ecache (s : State) : (s.tick).ecache = s.ecache := rfl
@[simp] theorem State.tick_l2 (s : State) : (s.tick).l2 = s.l2 := rfl
@[simp] theorem State.tick_wbacks (s : State) : (s.tick).wbacks = s.wbacks := rfl
@[simp] theorem State.tick_doms (s : State) : (s.tick).doms = s.doms := rfl
@[simp] theorem State.tick_reps (s : State) : (s.tick).reps = s.reps := rfl
@[simp] theorem State.tick_mbkts (s : State) : (s.tick).mbkts = s.mbkts := rfl
@[simp] theorem State.tick_fbkts (s : State) : (s.tick).fbkts = s.fbkts := rfl
@[simp] theorem State.tick_hbm (s : State) : (s.tick).hbm = s.hbm := rfl
@[simp] theorem State.tick_queues (s : State) : (s.tick).queues = s.queues := rfl
@[simp] theorem State.tick_recs (s : State) : (s.tick).recs = s.recs := rfl
@[simp] theorem State.tick_boxes (s : State) : (s.tick).boxes = s.boxes := rfl
@[simp] theorem State.tick_fins (s : State) : (s.tick).fins = s.fins := rfl
@[simp] theorem State.tick_ctxs (s : State) : (s.tick).ctxs = s.ctxs := rfl
@[simp] theorem State.tick_parts (s : State) : (s.tick).parts = s.parts := rfl
@[simp] theorem State.tick_ports (s : State) : (s.tick).ports = s.ports := rfl
@[simp] theorem State.tick_flows (s : State) : (s.tick).flows = s.flows := rfl
@[simp] theorem State.tick_lastPlane (s : State) : (s.tick).lastPlane = s.lastPlane := rfl
@[simp] theorem State.tick_hoist (s : State) : (s.tick).hoist = s.hoist := rfl
@[simp] theorem State.tick_bufs (s : State) : (s.tick).bufs = s.bufs := rfl
@[simp] theorem State.tick_sess (s : State) : (s.tick).sess = s.sess := rfl
@[simp] theorem State.tick_toks (s : State) : (s.tick).toks = s.toks := rfl
@[simp] theorem State.tick_colls (s : State) : (s.tick).colls = s.colls := rfl
@[simp] theorem State.tick_cmsgs (s : State) : (s.tick).cmsgs = s.cmsgs := rfl
@[simp] theorem State.tick_nops (s : State) : (s.tick).nops = s.nops := rfl
@[simp] theorem State.tick_watches (s : State) : (s.tick).watches = s.watches := rfl
@[simp] theorem State.tick_scanAt (s : State) : (s.tick).scanAt = s.scanAt := rfl
@[simp] theorem State.tick_scanEnd (s : State) : (s.tick).scanEnd = s.scanEnd := rfl
@[simp] theorem State.tick_posts (s : State) : (s.tick).posts = s.posts := rfl
@[simp] theorem State.tick_awaits (s : State) : (s.tick).awaits = s.awaits := rfl
@[simp] theorem State.tick_msix (s : State) : (s.tick).msix = s.msix := rfl
@[simp] theorem State.tick_spcache (s : State) : (s.tick).spcache = s.spcache := rfl
@[simp] theorem State.tick_agenda (s : State) : (s.tick).agenda = s.agenda := rfl
@[simp] theorem State.tick_cur (s : State) : (s.tick).cur = s.cur := rfl
@[simp] theorem State.tick_pace (s : State) : (s.tick).pace = s.pace := rfl
@[simp] theorem State.tick_fresh (s : State) : (s.tick).fresh = s.fresh := rfl
@[simp] theorem State.tick_nextId (s : State) : (s.tick).nextId = s.nextId := rfl

/-! ### `Group.setT` -/

@[simp] theorem Group.setT_blk (g : Group) (t k : Nat) (r : TReg) : (g.setT t k r).blk = g.blk := rfl
@[simp] theorem Group.setT_num (g : Group) (t k : Nat) (r : TReg) : (g.setT t k r).num = g.num := rfl
@[simp] theorem Group.setT_ext0 (g : Group) (t k : Nat) (r : TReg) : (g.setT t k r).ext0 = g.ext0 := rfl
@[simp] theorem Group.setT_allot (g : Group) (t k : Nat) (r : TReg) : (g.setT t k r).allot = g.allot := rfl
@[simp] theorem Group.setT_pc (g : Group) (t k : Nat) (r : TReg) : (g.setT t k r).pc = g.pc := rfl
@[simp] theorem Group.setT_act (g : Group) (t k : Nat) (r : TReg) : (g.setT t k r).act = g.act := rfl
@[simp] theorem Group.setT_stack (g : Group) (t k : Nat) (r : TReg) : (g.setT t k r).stack = g.stack := rfl
@[simp] theorem Group.setT_code (g : Group) (t k : Nat) (r : TReg) : (g.setT t k r).code = g.code := rfl
@[simp] theorem Group.setT_len (g : Group) (t k : Nat) (r : TReg) : (g.setT t k r).len = g.len := rfl
@[simp] theorem Group.setT_w (g : Group) (t k : Nat) (r : TReg) : (g.setT t k r).w = g.w := rfl
@[simp] theorem Group.setT_p (g : Group) (t k : Nat) (r : TReg) : (g.setT t k r).p = g.p := rfl
@[simp] theorem Group.setT_q (g : Group) (t k : Nat) (r : TReg) : (g.setT t k r).q = g.q := rfl
@[simp] theorem Group.setT_ag (g : Group) (t k : Nat) (r : TReg) : (g.setT t k r).ag = g.ag := rfl
@[simp] theorem Group.setT_tiles (g : Group) (t k : Nat) (r : TReg) : (g.setT t k r).tiles = g.tiles := rfl
@[simp] theorem Group.setT_fflags (g : Group) (t k : Nat) (r : TReg) : (g.setT t k r).fflags = g.fflags := rfl
@[simp] theorem Group.setT_ent (g : Group) (t k : Nat) (r : TReg) : (g.setT t k r).ent = g.ent := rfl
@[simp] theorem Group.setT_prog (g : Group) (t k : Nat) (r : TReg) : (g.setT t k r).prog = g.prog := rfl
@[simp] theorem Group.setT_wid (g : Group) (t k : Nat) (r : TReg) : (g.setT t k r).wid = g.wid := rfl
@[simp] theorem Group.setT_f (g : Group) (t k : Nat) (r : TReg) : (g.setT t k r).f = g.f := rfl
@[simp] theorem Group.setT_rgn (g : Group) (t k : Nat) (r : TReg) : (g.setT t k r).rgn = g.rgn := rfl
@[simp] theorem Group.setT_inH (g : Group) (t k : Nat) (r : TReg) : (g.setT t k r).inH = g.inH := rfl
@[simp] theorem Group.setT_shadow (g : Group) (t k : Nat) (r : TReg) : (g.setT t k r).shadow = g.shadow := rfl
@[simp] theorem Group.setT_cpy (g : Group) (t k : Nat) (r : TReg) : (g.setT t k r).cpy = g.cpy := rfl
@[simp] theorem Group.setT_mma (g : Group) (t k : Nat) (r : TReg) : (g.setT t k r).mma = g.mma := rfl
@[simp] theorem Group.setT_gth (g : Group) (t k : Nat) (r : TReg) : (g.setT t k r).gth = g.gth := rfl
@[simp] theorem Group.setT_net (g : Group) (t k : Nat) (r : TReg) : (g.setT t k r).net = g.net := rfl
@[simp] theorem Group.setT_atm (g : Group) (t k : Nat) (r : TReg) : (g.setT t k r).atm = g.atm := rfl
@[simp] theorem Group.setT_cpyN (g : Group) (t k : Nat) (r : TReg) : (g.setT t k r).cpyN = g.cpyN := rfl
@[simp] theorem Group.setT_mmaN (g : Group) (t k : Nat) (r : TReg) : (g.setT t k r).mmaN = g.mmaN := rfl
@[simp] theorem Group.setT_gthN (g : Group) (t k : Nat) (r : TReg) : (g.setT t k r).gthN = g.gthN := rfl
@[simp] theorem Group.setT_netN (g : Group) (t k : Nat) (r : TReg) : (g.setT t k r).netN = g.netN := rfl
@[simp] theorem Group.setT_atmN (g : Group) (t k : Nat) (r : TReg) : (g.setT t k r).atmN = g.atmN := rfl
@[simp] theorem Group.setT_batch (g : Group) (t k : Nat) (r : TReg) : (g.setT t k r).batch = g.batch := rfl
@[simp] theorem Group.setT_openB (g : Group) (t k : Nat) (r : TReg) : (g.setT t k r).openB = g.openB := rfl
@[simp] theorem Group.setT_closed (g : Group) (t k : Nat) (r : TReg) : (g.setT t k r).closed = g.closed := rfl
@[simp] theorem Group.setT_wait (g : Group) (t k : Nat) (r : TReg) : (g.setT t k r).wait = g.wait := rfl
@[simp] theorem Group.setT_since (g : Group) (t k : Nat) (r : TReg) : (g.setT t k r).since = g.since := rfl
@[simp] theorem Group.setT_cont (g : Group) (t k : Nat) (r : TReg) : (g.setT t k r).cont = g.cont := rfl
@[simp] theorem Group.setT_stuck (g : Group) (t k : Nat) (r : TReg) : (g.setT t k r).stuck = g.stuck := rfl
@[simp] theorem Group.setT_hkind (g : Group) (t k : Nat) (r : TReg) : (g.setT t k r).hkind = g.hkind := rfl
@[simp] theorem Group.setT_due (g : Group) (t k : Nat) (r : TReg) : (g.setT t k r).due = g.due := rfl
@[simp] theorem Group.setT_run (g : Group) (t k : Nat) (r : TReg) : (g.setT t k r).run = g.run := rfl
@[simp] theorem Group.setT_lastEnd (g : Group) (t k : Nat) (r : TReg) : (g.setT t k r).lastEnd = g.lastEnd := rfl
@[simp] theorem Group.setT_readyAt (g : Group) (t k : Nat) (r : TReg) : (g.setT t k r).readyAt = g.readyAt := rfl
@[simp] theorem Group.setT_aged (g : Group) (t k : Nat) (r : TReg) : (g.setT t k r).aged = g.aged := rfl
@[simp] theorem Group.setT_raise (g : Group) (t k : Nat) (r : TReg) : (g.setT t k r).raise = g.raise := rfl
@[simp] theorem Group.setT_yielded (g : Group) (t k : Nat) (r : TReg) : (g.setT t k r).yielded = g.yielded := rfl
@[simp] theorem Group.setT_cob (g : Group) (t k : Nat) (r : TReg) : (g.setT t k r).cob = g.cob := rfl

/-! ### `Group.setW` -/

@[simp] theorem Group.setW_blk (g : Group) (k : Nat) (r : UReg) : (g.setW k r).blk = g.blk := rfl
@[simp] theorem Group.setW_num (g : Group) (k : Nat) (r : UReg) : (g.setW k r).num = g.num := rfl
@[simp] theorem Group.setW_ext0 (g : Group) (k : Nat) (r : UReg) : (g.setW k r).ext0 = g.ext0 := rfl
@[simp] theorem Group.setW_allot (g : Group) (k : Nat) (r : UReg) : (g.setW k r).allot = g.allot := rfl
@[simp] theorem Group.setW_pc (g : Group) (k : Nat) (r : UReg) : (g.setW k r).pc = g.pc := rfl
@[simp] theorem Group.setW_act (g : Group) (k : Nat) (r : UReg) : (g.setW k r).act = g.act := rfl
@[simp] theorem Group.setW_stack (g : Group) (k : Nat) (r : UReg) : (g.setW k r).stack = g.stack := rfl
@[simp] theorem Group.setW_code (g : Group) (k : Nat) (r : UReg) : (g.setW k r).code = g.code := rfl
@[simp] theorem Group.setW_len (g : Group) (k : Nat) (r : UReg) : (g.setW k r).len = g.len := rfl
@[simp] theorem Group.setW_t (g : Group) (k : Nat) (r : UReg) : (g.setW k r).t = g.t := rfl
@[simp] theorem Group.setW_p (g : Group) (k : Nat) (r : UReg) : (g.setW k r).p = g.p := rfl
@[simp] theorem Group.setW_q (g : Group) (k : Nat) (r : UReg) : (g.setW k r).q = g.q := rfl
@[simp] theorem Group.setW_ag (g : Group) (k : Nat) (r : UReg) : (g.setW k r).ag = g.ag := rfl
@[simp] theorem Group.setW_tiles (g : Group) (k : Nat) (r : UReg) : (g.setW k r).tiles = g.tiles := rfl
@[simp] theorem Group.setW_fflags (g : Group) (k : Nat) (r : UReg) : (g.setW k r).fflags = g.fflags := rfl
@[simp] theorem Group.setW_ent (g : Group) (k : Nat) (r : UReg) : (g.setW k r).ent = g.ent := rfl
@[simp] theorem Group.setW_prog (g : Group) (k : Nat) (r : UReg) : (g.setW k r).prog = g.prog := rfl
@[simp] theorem Group.setW_wid (g : Group) (k : Nat) (r : UReg) : (g.setW k r).wid = g.wid := rfl
@[simp] theorem Group.setW_f (g : Group) (k : Nat) (r : UReg) : (g.setW k r).f = g.f := rfl
@[simp] theorem Group.setW_rgn (g : Group) (k : Nat) (r : UReg) : (g.setW k r).rgn = g.rgn := rfl
@[simp] theorem Group.setW_inH (g : Group) (k : Nat) (r : UReg) : (g.setW k r).inH = g.inH := rfl
@[simp] theorem Group.setW_shadow (g : Group) (k : Nat) (r : UReg) : (g.setW k r).shadow = g.shadow := rfl
@[simp] theorem Group.setW_cpy (g : Group) (k : Nat) (r : UReg) : (g.setW k r).cpy = g.cpy := rfl
@[simp] theorem Group.setW_mma (g : Group) (k : Nat) (r : UReg) : (g.setW k r).mma = g.mma := rfl
@[simp] theorem Group.setW_gth (g : Group) (k : Nat) (r : UReg) : (g.setW k r).gth = g.gth := rfl
@[simp] theorem Group.setW_net (g : Group) (k : Nat) (r : UReg) : (g.setW k r).net = g.net := rfl
@[simp] theorem Group.setW_atm (g : Group) (k : Nat) (r : UReg) : (g.setW k r).atm = g.atm := rfl
@[simp] theorem Group.setW_cpyN (g : Group) (k : Nat) (r : UReg) : (g.setW k r).cpyN = g.cpyN := rfl
@[simp] theorem Group.setW_mmaN (g : Group) (k : Nat) (r : UReg) : (g.setW k r).mmaN = g.mmaN := rfl
@[simp] theorem Group.setW_gthN (g : Group) (k : Nat) (r : UReg) : (g.setW k r).gthN = g.gthN := rfl
@[simp] theorem Group.setW_netN (g : Group) (k : Nat) (r : UReg) : (g.setW k r).netN = g.netN := rfl
@[simp] theorem Group.setW_atmN (g : Group) (k : Nat) (r : UReg) : (g.setW k r).atmN = g.atmN := rfl
@[simp] theorem Group.setW_batch (g : Group) (k : Nat) (r : UReg) : (g.setW k r).batch = g.batch := rfl
@[simp] theorem Group.setW_openB (g : Group) (k : Nat) (r : UReg) : (g.setW k r).openB = g.openB := rfl
@[simp] theorem Group.setW_closed (g : Group) (k : Nat) (r : UReg) : (g.setW k r).closed = g.closed := rfl
@[simp] theorem Group.setW_wait (g : Group) (k : Nat) (r : UReg) : (g.setW k r).wait = g.wait := rfl
@[simp] theorem Group.setW_since (g : Group) (k : Nat) (r : UReg) : (g.setW k r).since = g.since := rfl
@[simp] theorem Group.setW_cont (g : Group) (k : Nat) (r : UReg) : (g.setW k r).cont = g.cont := rfl
@[simp] theorem Group.setW_stuck (g : Group) (k : Nat) (r : UReg) : (g.setW k r).stuck = g.stuck := rfl
@[simp] theorem Group.setW_hkind (g : Group) (k : Nat) (r : UReg) : (g.setW k r).hkind = g.hkind := rfl
@[simp] theorem Group.setW_due (g : Group) (k : Nat) (r : UReg) : (g.setW k r).due = g.due := rfl
@[simp] theorem Group.setW_run (g : Group) (k : Nat) (r : UReg) : (g.setW k r).run = g.run := rfl
@[simp] theorem Group.setW_lastEnd (g : Group) (k : Nat) (r : UReg) : (g.setW k r).lastEnd = g.lastEnd := rfl
@[simp] theorem Group.setW_readyAt (g : Group) (k : Nat) (r : UReg) : (g.setW k r).readyAt = g.readyAt := rfl
@[simp] theorem Group.setW_aged (g : Group) (k : Nat) (r : UReg) : (g.setW k r).aged = g.aged := rfl
@[simp] theorem Group.setW_raise (g : Group) (k : Nat) (r : UReg) : (g.setW k r).raise = g.raise := rfl
@[simp] theorem Group.setW_yielded (g : Group) (k : Nat) (r : UReg) : (g.setW k r).yielded = g.yielded := rfl
@[simp] theorem Group.setW_cob (g : Group) (k : Nat) (r : UReg) : (g.setW k r).cob = g.cob := rfl

/-! ### `Group.setP` -/

@[simp] theorem Group.setP_blk (g : Group) (t k : Nat) (r : PReg) : (g.setP t k r).blk = g.blk := rfl
@[simp] theorem Group.setP_num (g : Group) (t k : Nat) (r : PReg) : (g.setP t k r).num = g.num := rfl
@[simp] theorem Group.setP_ext0 (g : Group) (t k : Nat) (r : PReg) : (g.setP t k r).ext0 = g.ext0 := rfl
@[simp] theorem Group.setP_allot (g : Group) (t k : Nat) (r : PReg) : (g.setP t k r).allot = g.allot := rfl
@[simp] theorem Group.setP_pc (g : Group) (t k : Nat) (r : PReg) : (g.setP t k r).pc = g.pc := rfl
@[simp] theorem Group.setP_act (g : Group) (t k : Nat) (r : PReg) : (g.setP t k r).act = g.act := rfl
@[simp] theorem Group.setP_stack (g : Group) (t k : Nat) (r : PReg) : (g.setP t k r).stack = g.stack := rfl
@[simp] theorem Group.setP_code (g : Group) (t k : Nat) (r : PReg) : (g.setP t k r).code = g.code := rfl
@[simp] theorem Group.setP_len (g : Group) (t k : Nat) (r : PReg) : (g.setP t k r).len = g.len := rfl
@[simp] theorem Group.setP_t (g : Group) (t k : Nat) (r : PReg) : (g.setP t k r).t = g.t := rfl
@[simp] theorem Group.setP_w (g : Group) (t k : Nat) (r : PReg) : (g.setP t k r).w = g.w := rfl
@[simp] theorem Group.setP_q (g : Group) (t k : Nat) (r : PReg) : (g.setP t k r).q = g.q := rfl
@[simp] theorem Group.setP_ag (g : Group) (t k : Nat) (r : PReg) : (g.setP t k r).ag = g.ag := rfl
@[simp] theorem Group.setP_tiles (g : Group) (t k : Nat) (r : PReg) : (g.setP t k r).tiles = g.tiles := rfl
@[simp] theorem Group.setP_fflags (g : Group) (t k : Nat) (r : PReg) : (g.setP t k r).fflags = g.fflags := rfl
@[simp] theorem Group.setP_ent (g : Group) (t k : Nat) (r : PReg) : (g.setP t k r).ent = g.ent := rfl
@[simp] theorem Group.setP_prog (g : Group) (t k : Nat) (r : PReg) : (g.setP t k r).prog = g.prog := rfl
@[simp] theorem Group.setP_wid (g : Group) (t k : Nat) (r : PReg) : (g.setP t k r).wid = g.wid := rfl
@[simp] theorem Group.setP_f (g : Group) (t k : Nat) (r : PReg) : (g.setP t k r).f = g.f := rfl
@[simp] theorem Group.setP_rgn (g : Group) (t k : Nat) (r : PReg) : (g.setP t k r).rgn = g.rgn := rfl
@[simp] theorem Group.setP_inH (g : Group) (t k : Nat) (r : PReg) : (g.setP t k r).inH = g.inH := rfl
@[simp] theorem Group.setP_shadow (g : Group) (t k : Nat) (r : PReg) : (g.setP t k r).shadow = g.shadow := rfl
@[simp] theorem Group.setP_cpy (g : Group) (t k : Nat) (r : PReg) : (g.setP t k r).cpy = g.cpy := rfl
@[simp] theorem Group.setP_mma (g : Group) (t k : Nat) (r : PReg) : (g.setP t k r).mma = g.mma := rfl
@[simp] theorem Group.setP_gth (g : Group) (t k : Nat) (r : PReg) : (g.setP t k r).gth = g.gth := rfl
@[simp] theorem Group.setP_net (g : Group) (t k : Nat) (r : PReg) : (g.setP t k r).net = g.net := rfl
@[simp] theorem Group.setP_atm (g : Group) (t k : Nat) (r : PReg) : (g.setP t k r).atm = g.atm := rfl
@[simp] theorem Group.setP_cpyN (g : Group) (t k : Nat) (r : PReg) : (g.setP t k r).cpyN = g.cpyN := rfl
@[simp] theorem Group.setP_mmaN (g : Group) (t k : Nat) (r : PReg) : (g.setP t k r).mmaN = g.mmaN := rfl
@[simp] theorem Group.setP_gthN (g : Group) (t k : Nat) (r : PReg) : (g.setP t k r).gthN = g.gthN := rfl
@[simp] theorem Group.setP_netN (g : Group) (t k : Nat) (r : PReg) : (g.setP t k r).netN = g.netN := rfl
@[simp] theorem Group.setP_atmN (g : Group) (t k : Nat) (r : PReg) : (g.setP t k r).atmN = g.atmN := rfl
@[simp] theorem Group.setP_batch (g : Group) (t k : Nat) (r : PReg) : (g.setP t k r).batch = g.batch := rfl
@[simp] theorem Group.setP_openB (g : Group) (t k : Nat) (r : PReg) : (g.setP t k r).openB = g.openB := rfl
@[simp] theorem Group.setP_closed (g : Group) (t k : Nat) (r : PReg) : (g.setP t k r).closed = g.closed := rfl
@[simp] theorem Group.setP_wait (g : Group) (t k : Nat) (r : PReg) : (g.setP t k r).wait = g.wait := rfl
@[simp] theorem Group.setP_since (g : Group) (t k : Nat) (r : PReg) : (g.setP t k r).since = g.since := rfl
@[simp] theorem Group.setP_cont (g : Group) (t k : Nat) (r : PReg) : (g.setP t k r).cont = g.cont := rfl
@[simp] theorem Group.setP_stuck (g : Group) (t k : Nat) (r : PReg) : (g.setP t k r).stuck = g.stuck := rfl
@[simp] theorem Group.setP_hkind (g : Group) (t k : Nat) (r : PReg) : (g.setP t k r).hkind = g.hkind := rfl
@[simp] theorem Group.setP_due (g : Group) (t k : Nat) (r : PReg) : (g.setP t k r).due = g.due := rfl
@[simp] theorem Group.setP_run (g : Group) (t k : Nat) (r : PReg) : (g.setP t k r).run = g.run := rfl
@[simp] theorem Group.setP_lastEnd (g : Group) (t k : Nat) (r : PReg) : (g.setP t k r).lastEnd = g.lastEnd := rfl
@[simp] theorem Group.setP_readyAt (g : Group) (t k : Nat) (r : PReg) : (g.setP t k r).readyAt = g.readyAt := rfl
@[simp] theorem Group.setP_aged (g : Group) (t k : Nat) (r : PReg) : (g.setP t k r).aged = g.aged := rfl
@[simp] theorem Group.setP_raise (g : Group) (t k : Nat) (r : PReg) : (g.setP t k r).raise = g.raise := rfl
@[simp] theorem Group.setP_yielded (g : Group) (t k : Nat) (r : PReg) : (g.setP t k r).yielded = g.yielded := rfl
@[simp] theorem Group.setP_cob (g : Group) (t k : Nat) (r : PReg) : (g.setP t k r).cob = g.cob := rfl

/-! ### `Group.setQ` -/

@[simp] theorem Group.setQ_blk (g : Group) (k : Nat) (r : PReg) : (g.setQ k r).blk = g.blk := rfl
@[simp] theorem Group.setQ_num (g : Group) (k : Nat) (r : PReg) : (g.setQ k r).num = g.num := rfl
@[simp] theorem Group.setQ_ext0 (g : Group) (k : Nat) (r : PReg) : (g.setQ k r).ext0 = g.ext0 := rfl
@[simp] theorem Group.setQ_allot (g : Group) (k : Nat) (r : PReg) : (g.setQ k r).allot = g.allot := rfl
@[simp] theorem Group.setQ_pc (g : Group) (k : Nat) (r : PReg) : (g.setQ k r).pc = g.pc := rfl
@[simp] theorem Group.setQ_act (g : Group) (k : Nat) (r : PReg) : (g.setQ k r).act = g.act := rfl
@[simp] theorem Group.setQ_stack (g : Group) (k : Nat) (r : PReg) : (g.setQ k r).stack = g.stack := rfl
@[simp] theorem Group.setQ_code (g : Group) (k : Nat) (r : PReg) : (g.setQ k r).code = g.code := rfl
@[simp] theorem Group.setQ_len (g : Group) (k : Nat) (r : PReg) : (g.setQ k r).len = g.len := rfl
@[simp] theorem Group.setQ_t (g : Group) (k : Nat) (r : PReg) : (g.setQ k r).t = g.t := rfl
@[simp] theorem Group.setQ_w (g : Group) (k : Nat) (r : PReg) : (g.setQ k r).w = g.w := rfl
@[simp] theorem Group.setQ_p (g : Group) (k : Nat) (r : PReg) : (g.setQ k r).p = g.p := rfl
@[simp] theorem Group.setQ_ag (g : Group) (k : Nat) (r : PReg) : (g.setQ k r).ag = g.ag := rfl
@[simp] theorem Group.setQ_tiles (g : Group) (k : Nat) (r : PReg) : (g.setQ k r).tiles = g.tiles := rfl
@[simp] theorem Group.setQ_fflags (g : Group) (k : Nat) (r : PReg) : (g.setQ k r).fflags = g.fflags := rfl
@[simp] theorem Group.setQ_ent (g : Group) (k : Nat) (r : PReg) : (g.setQ k r).ent = g.ent := rfl
@[simp] theorem Group.setQ_prog (g : Group) (k : Nat) (r : PReg) : (g.setQ k r).prog = g.prog := rfl
@[simp] theorem Group.setQ_wid (g : Group) (k : Nat) (r : PReg) : (g.setQ k r).wid = g.wid := rfl
@[simp] theorem Group.setQ_f (g : Group) (k : Nat) (r : PReg) : (g.setQ k r).f = g.f := rfl
@[simp] theorem Group.setQ_rgn (g : Group) (k : Nat) (r : PReg) : (g.setQ k r).rgn = g.rgn := rfl
@[simp] theorem Group.setQ_inH (g : Group) (k : Nat) (r : PReg) : (g.setQ k r).inH = g.inH := rfl
@[simp] theorem Group.setQ_shadow (g : Group) (k : Nat) (r : PReg) : (g.setQ k r).shadow = g.shadow := rfl
@[simp] theorem Group.setQ_cpy (g : Group) (k : Nat) (r : PReg) : (g.setQ k r).cpy = g.cpy := rfl
@[simp] theorem Group.setQ_mma (g : Group) (k : Nat) (r : PReg) : (g.setQ k r).mma = g.mma := rfl
@[simp] theorem Group.setQ_gth (g : Group) (k : Nat) (r : PReg) : (g.setQ k r).gth = g.gth := rfl
@[simp] theorem Group.setQ_net (g : Group) (k : Nat) (r : PReg) : (g.setQ k r).net = g.net := rfl
@[simp] theorem Group.setQ_atm (g : Group) (k : Nat) (r : PReg) : (g.setQ k r).atm = g.atm := rfl
@[simp] theorem Group.setQ_cpyN (g : Group) (k : Nat) (r : PReg) : (g.setQ k r).cpyN = g.cpyN := rfl
@[simp] theorem Group.setQ_mmaN (g : Group) (k : Nat) (r : PReg) : (g.setQ k r).mmaN = g.mmaN := rfl
@[simp] theorem Group.setQ_gthN (g : Group) (k : Nat) (r : PReg) : (g.setQ k r).gthN = g.gthN := rfl
@[simp] theorem Group.setQ_netN (g : Group) (k : Nat) (r : PReg) : (g.setQ k r).netN = g.netN := rfl
@[simp] theorem Group.setQ_atmN (g : Group) (k : Nat) (r : PReg) : (g.setQ k r).atmN = g.atmN := rfl
@[simp] theorem Group.setQ_batch (g : Group) (k : Nat) (r : PReg) : (g.setQ k r).batch = g.batch := rfl
@[simp] theorem Group.setQ_openB (g : Group) (k : Nat) (r : PReg) : (g.setQ k r).openB = g.openB := rfl
@[simp] theorem Group.setQ_closed (g : Group) (k : Nat) (r : PReg) : (g.setQ k r).closed = g.closed := rfl
@[simp] theorem Group.setQ_wait (g : Group) (k : Nat) (r : PReg) : (g.setQ k r).wait = g.wait := rfl
@[simp] theorem Group.setQ_since (g : Group) (k : Nat) (r : PReg) : (g.setQ k r).since = g.since := rfl
@[simp] theorem Group.setQ_cont (g : Group) (k : Nat) (r : PReg) : (g.setQ k r).cont = g.cont := rfl
@[simp] theorem Group.setQ_stuck (g : Group) (k : Nat) (r : PReg) : (g.setQ k r).stuck = g.stuck := rfl
@[simp] theorem Group.setQ_hkind (g : Group) (k : Nat) (r : PReg) : (g.setQ k r).hkind = g.hkind := rfl
@[simp] theorem Group.setQ_due (g : Group) (k : Nat) (r : PReg) : (g.setQ k r).due = g.due := rfl
@[simp] theorem Group.setQ_run (g : Group) (k : Nat) (r : PReg) : (g.setQ k r).run = g.run := rfl
@[simp] theorem Group.setQ_lastEnd (g : Group) (k : Nat) (r : PReg) : (g.setQ k r).lastEnd = g.lastEnd := rfl
@[simp] theorem Group.setQ_readyAt (g : Group) (k : Nat) (r : PReg) : (g.setQ k r).readyAt = g.readyAt := rfl
@[simp] theorem Group.setQ_aged (g : Group) (k : Nat) (r : PReg) : (g.setQ k r).aged = g.aged := rfl
@[simp] theorem Group.setQ_raise (g : Group) (k : Nat) (r : PReg) : (g.setQ k r).raise = g.raise := rfl
@[simp] theorem Group.setQ_yielded (g : Group) (k : Nat) (r : PReg) : (g.setQ k r).yielded = g.yielded := rfl
@[simp] theorem Group.setQ_cob (g : Group) (k : Nat) (r : PReg) : (g.setQ k r).cob = g.cob := rfl

/-! ### `Group.flag` -/

@[simp] theorem Group.flag_blk (g : Group) (fl : Nat) : (g.flag fl).blk = g.blk := rfl
@[simp] theorem Group.flag_num (g : Group) (fl : Nat) : (g.flag fl).num = g.num := rfl
@[simp] theorem Group.flag_ext0 (g : Group) (fl : Nat) : (g.flag fl).ext0 = g.ext0 := rfl
@[simp] theorem Group.flag_allot (g : Group) (fl : Nat) : (g.flag fl).allot = g.allot := rfl
@[simp] theorem Group.flag_pc (g : Group) (fl : Nat) : (g.flag fl).pc = g.pc := rfl
@[simp] theorem Group.flag_act (g : Group) (fl : Nat) : (g.flag fl).act = g.act := rfl
@[simp] theorem Group.flag_stack (g : Group) (fl : Nat) : (g.flag fl).stack = g.stack := rfl
@[simp] theorem Group.flag_code (g : Group) (fl : Nat) : (g.flag fl).code = g.code := rfl
@[simp] theorem Group.flag_len (g : Group) (fl : Nat) : (g.flag fl).len = g.len := rfl
@[simp] theorem Group.flag_t (g : Group) (fl : Nat) : (g.flag fl).t = g.t := rfl
@[simp] theorem Group.flag_w (g : Group) (fl : Nat) : (g.flag fl).w = g.w := rfl
@[simp] theorem Group.flag_p (g : Group) (fl : Nat) : (g.flag fl).p = g.p := rfl
@[simp] theorem Group.flag_q (g : Group) (fl : Nat) : (g.flag fl).q = g.q := rfl
@[simp] theorem Group.flag_ag (g : Group) (fl : Nat) : (g.flag fl).ag = g.ag := rfl
@[simp] theorem Group.flag_tiles (g : Group) (fl : Nat) : (g.flag fl).tiles = g.tiles := rfl
@[simp] theorem Group.flag_ent (g : Group) (fl : Nat) : (g.flag fl).ent = g.ent := rfl
@[simp] theorem Group.flag_prog (g : Group) (fl : Nat) : (g.flag fl).prog = g.prog := rfl
@[simp] theorem Group.flag_wid (g : Group) (fl : Nat) : (g.flag fl).wid = g.wid := rfl
@[simp] theorem Group.flag_f (g : Group) (fl : Nat) : (g.flag fl).f = g.f := rfl
@[simp] theorem Group.flag_rgn (g : Group) (fl : Nat) : (g.flag fl).rgn = g.rgn := rfl
@[simp] theorem Group.flag_inH (g : Group) (fl : Nat) : (g.flag fl).inH = g.inH := rfl
@[simp] theorem Group.flag_shadow (g : Group) (fl : Nat) : (g.flag fl).shadow = g.shadow := rfl
@[simp] theorem Group.flag_cpy (g : Group) (fl : Nat) : (g.flag fl).cpy = g.cpy := rfl
@[simp] theorem Group.flag_mma (g : Group) (fl : Nat) : (g.flag fl).mma = g.mma := rfl
@[simp] theorem Group.flag_gth (g : Group) (fl : Nat) : (g.flag fl).gth = g.gth := rfl
@[simp] theorem Group.flag_net (g : Group) (fl : Nat) : (g.flag fl).net = g.net := rfl
@[simp] theorem Group.flag_atm (g : Group) (fl : Nat) : (g.flag fl).atm = g.atm := rfl
@[simp] theorem Group.flag_cpyN (g : Group) (fl : Nat) : (g.flag fl).cpyN = g.cpyN := rfl
@[simp] theorem Group.flag_mmaN (g : Group) (fl : Nat) : (g.flag fl).mmaN = g.mmaN := rfl
@[simp] theorem Group.flag_gthN (g : Group) (fl : Nat) : (g.flag fl).gthN = g.gthN := rfl
@[simp] theorem Group.flag_netN (g : Group) (fl : Nat) : (g.flag fl).netN = g.netN := rfl
@[simp] theorem Group.flag_atmN (g : Group) (fl : Nat) : (g.flag fl).atmN = g.atmN := rfl
@[simp] theorem Group.flag_batch (g : Group) (fl : Nat) : (g.flag fl).batch = g.batch := rfl
@[simp] theorem Group.flag_openB (g : Group) (fl : Nat) : (g.flag fl).openB = g.openB := rfl
@[simp] theorem Group.flag_closed (g : Group) (fl : Nat) : (g.flag fl).closed = g.closed := rfl
@[simp] theorem Group.flag_wait (g : Group) (fl : Nat) : (g.flag fl).wait = g.wait := rfl
@[simp] theorem Group.flag_since (g : Group) (fl : Nat) : (g.flag fl).since = g.since := rfl
@[simp] theorem Group.flag_cont (g : Group) (fl : Nat) : (g.flag fl).cont = g.cont := rfl
@[simp] theorem Group.flag_stuck (g : Group) (fl : Nat) : (g.flag fl).stuck = g.stuck := rfl
@[simp] theorem Group.flag_hkind (g : Group) (fl : Nat) : (g.flag fl).hkind = g.hkind := rfl
@[simp] theorem Group.flag_due (g : Group) (fl : Nat) : (g.flag fl).due = g.due := rfl
@[simp] theorem Group.flag_run (g : Group) (fl : Nat) : (g.flag fl).run = g.run := rfl
@[simp] theorem Group.flag_lastEnd (g : Group) (fl : Nat) : (g.flag fl).lastEnd = g.lastEnd := rfl
@[simp] theorem Group.flag_readyAt (g : Group) (fl : Nat) : (g.flag fl).readyAt = g.readyAt := rfl
@[simp] theorem Group.flag_aged (g : Group) (fl : Nat) : (g.flag fl).aged = g.aged := rfl
@[simp] theorem Group.flag_raise (g : Group) (fl : Nat) : (g.flag fl).raise = g.raise := rfl
@[simp] theorem Group.flag_yielded (g : Group) (fl : Nat) : (g.flag fl).yielded = g.yielded := rfl
@[simp] theorem Group.flag_cob (g : Group) (fl : Nat) : (g.flag fl).cob = g.cob := rfl

/-! ## Reading back -/

@[simp] theorem State.grp_setGrp_self (s : State) (gid : Nat) (g : Group) : (s.setGrp gid g).grp gid = g := by simp [State.grp, State.setGrp]
theorem State.grp_setGrp_ne (s : State) {gid gid' : Nat} (g : Group) (h : gid' ≠ gid) : (s.setGrp gid g).grp gid' = s.grp gid' := by
  simp [State.grp, State.setGrp, FMap.getD_insert_ne _ _ _ h]
@[simp] theorem State.blk_setBlk_self (s : State) (k : Nat) (b : Block) : (s.setBlk k b).blk k = b := by simp [State.blk, State.setBlk]
theorem State.blk_setBlk_ne (s : State) {k k' : Nat} (b : Block) (h : k' ≠ k) : (s.setBlk k b).blk k' = s.blk k' := by
  simp [State.blk, State.setBlk, FMap.getD_insert_ne _ _ _ h]
@[simp] theorem State.ctx_setCtx_self (s : State) (c : Nat) (x : Ctx) : (s.setCtx c x).ctx c = x := by simp [State.ctx, State.setCtx]
theorem State.ctx_setCtx_ne (s : State) {c c' : Nat} (x : Ctx) (h : c' ≠ c) : (s.setCtx c x).ctx c' = s.ctx c' := by
  simp [State.ctx, State.setCtx, FMap.getD_put_ne _ _ _ _ h]
@[simp] theorem State.core_setCore_self (s : State) (u : Nat) (c : Core) : (s.setCore u c).core u = c := by simp [State.core, State.setCore]
theorem State.core_setCore_ne (s : State) {u u' : Nat} (c : Core) (h : u' ≠ u) : (s.setCore u c).core u' = s.core u' := by
  simp [State.core, State.setCore, FMap.getD_put_ne _ _ _ _ h]
@[simp] theorem State.blk_setGrp (s : State) (gid : Nat) (g : Group) (k : Nat) : (s.setGrp gid g).blk k = s.blk k := rfl
@[simp] theorem State.grp_setBlk (s : State) (k : Nat) (b : Block) (gid : Nat) : (s.setBlk k b).grp gid = s.grp gid := rfl
@[simp] theorem State.setGrp_find (s : State) (gid : Nat) (g : Group) : FMap.find? (s.setGrp gid g).groups gid = some g := by simp [State.setGrp]

theorem Group.treg_setT (g : Group) {t k t' k' : Nat} (r : TReg) (h : k < 128) (h' : k' < 128) :
    (g.setT t k r).treg t' k' = if t' = t ∧ k' = k then r else g.treg t' k' := by
  simp only [Group.treg, Group.setT, FMap.getD_put]
  by_cases e : t' = t ∧ k' = k
  · simp [e]
  · rw [if_neg e, if_neg (by omega)]
theorem Group.ureg_setW (g : Group) (k k' : Nat) (r : UReg) : (g.setW k r).ureg k' = if k' = k then r else g.ureg k' := by
  simp only [Group.ureg, Group.setW, FMap.getD_put]
theorem Group.pred_setP (g : Group) {t k t' k' : Nat} (r : PReg) (h : k < 15) (h' : k' < 15) :
    (g.setP t k r).pred t' k' = if t' = t ∧ k' = k then r else g.pred t' k' := by
  simp only [Group.pred, Group.setP, FMap.getD_put, if_neg (Nat.ne_of_lt h')]
  by_cases e : t' = t ∧ k' = k
  · simp [e]
  · rw [if_neg e, if_neg (by omega)]
theorem Group.upred_setQ (g : Group) {k k' : Nat} (r : PReg) (h' : k' < 15) :
    (g.setQ k r).upred k' = if k' = k then r else g.upred k' := by
  simp only [Group.upred, Group.setQ, FMap.getD_put, if_neg (Nat.ne_of_lt h')]
@[simp] theorem Group.flag_zero (g : Group) : g.flag 0 = g := by simp [Group.flag]

end Sys2Proof.Machine
end

