-- ==== Sys2Proof/Laws/Issue.lean ====
section
/-! SUPPORT. What the shared operations of issuing an instruction do: one lemma for the checks, one for issue, one for each form of result. -/

namespace Sys2Proof.Machine

open Sys2Proof Sys2Proof.Decode Sys2Proof.Safety

theorem checkEmpty_none {c : Iss} {rs : List Read} (h : ∀ r ∈ rs, ∀ x ∈ r.vals, x.2.st ≠ .empty) : checkEmpty c rs = none := by
  unfold checkEmpty
  have : (rs.find? fun r => r.vals.any fun x => x.2.st = .empty) = none := by
    simp only [List.find?_eq_none, List.any_eq_true, not_exists, not_and, decide_eq_true_eq]
    exact fun r hr x hx => h r hr x hx
  rw [this]

theorem checkTags_none {rs : List Read} (h : ∀ r ∈ rs, ∀ x ∈ r.vals, tagFits r.role.fmt x.2 = true) : checkTags rs = none := by
  unfold checkTags
  have : (rs.find? fun r => r.vals.any fun x => !tagFits r.role.fmt x.2) = none := by
    simp only [List.find?_eq_none, List.any_eq_true, not_exists, not_and]
    exact fun r hr x hx => by simp [h r hr x hx]
  rw [this]

/-- The checks of R203 find nothing where every reader takes its sources. -/
theorem runChecks_none {c : Iss} {h : Hdr} {rs : List Read} {dst : Bool} (p : Passes c h rs dst) : runChecks c h rs dst = none := by
  obtain ⟨hg, hr, hd⟩ := p
  unfold runChecks
  rw [checkEmpty_none fun r h1 x h2 => (hr r h1 x h2).1, checkTags_none fun r h1 x h2 => (hr r h1 x h2).2.1]
  have ht : checkTent c h rs = none := by
    unfold checkTent
    rw [if_neg]
    simp only [Bool.or_eq_true, List.any_eq_true, Bool.and_eq_true, not_or, not_exists, not_and, guardStates, List.mem_map]
    refine ⟨?_, ?_⟩
    · rintro x ⟨t, ht, rfl⟩
      simp [(hg t ht).1]
    · intro r h1 h3 x h2
      simp [(hr r h1 x h2).2.2.1 h3]
  have hp : checkPois c h rs = none := by
    unfold checkPois
    have e1 : (guardStates c h).filter (fun x => decide (x.2 = RState.pois)) = [] := by
      simp only [List.filter_eq_nil_iff, guardStates, List.mem_map, decide_eq_true_eq]
      rintro x ⟨t, ht, rfl⟩
      exact (hg t ht).2
    have e2 : (rs.flatMap fun r => if r.role.consumes then (r.vals.filter fun x => decide (x.2.st = RState.pois)).map fun x => x.1 else []) = [] := by
      simp only [List.flatMap_eq_nil_iff]
      intro r h1
      split
      · next h3 =>
        simp only [List.map_eq_nil_iff, List.filter_eq_nil_iff, decide_eq_true_eq]
        exact fun x h2 => (hr r h1 x h2).2.2.2 h3
      · rfl
    simp only [e1, e2, List.map_nil, List.append_nil]
  simp only [hd, ht, hp, Bool.false_eq_true, if_false]

/-- The checks of an instruction that issues: its acting threads. -/
theorem start_ok {s : State} {gid : Nat} {i : Instr} {o : Args} (p : Issues s gid i o) : start (issOf s gid) i o = .ok (actingOf s gid o) := by
  unfold start
  simp only [runChecks_none p.2]
  rfl

/-- Issue where the effect is a state: the instruction retires from it. -/
theorem issue_next {o : Args} {s s' : State} {gid : Nat} {jumps ends : Bool} {f : Iss → Except Stop State} (h : s.issuer = some gid)
    (e : f (issOf s gid) = .ok s') : issue o s jumps ends f = .next (s'.retire gid o.hdr jumps ends) := by
  unfold issue
  simp only [h]
  simp only [issOf] at e
  rw [e]

/-- Issue where something stops the instruction. -/
theorem issue_stop {o : Args} {s : State} {gid : Nat} {jumps ends : Bool} {f : Iss → Except Stop State} {x : Stop} (h : s.issuer = some gid)
    (e : f (issOf s gid) = .error x) : issue o s jumps ends f = .next (s.stopped gid x) := by
  unfold issue
  simp only [h]
  simp only [issOf] at e
  rw [e]

theorem issueOr_next {o : Args} {s s' : State} {gid : Nat} {jumps ends : Bool} {f : Iss → Except Stop (Except State State)} (h : s.issuer = some gid)
    (e : f (issOf s gid) = .ok (.ok s')) : issueOr o s jumps ends f = .next (s'.retire gid o.hdr jumps ends) := by
  unfold issueOr
  simp only [h]
  simp only [issOf] at e
  rw [e]

theorem issueOr_other {o : Args} {s s' : State} {gid : Nat} {jumps ends : Bool} {f : Iss → Except Stop (Except State State)} (h : s.issuer = some gid)
    (e : f (issOf s gid) = .ok (.error s')) : issueOr o s jumps ends f = .next s' := by
  unfold issueOr
  simp only [h]
  simp only [issOf] at e
  rw [e]

/-- A register-to-register instruction that issues delivers one result to each acting thread. -/
theorem alu_next {i : Instr} {o : Args} {s : State} {gid : Nat} (f : Nat → Val → Val → Val → Res) (p : Issues s gid i o) :
    alu i o s f = .next (delivered s gid o (spec i).d.width ((actingOf s gid o).map fun t =>
      let x := srcsOf s gid i o t
      let r := f t x.1 x.2.1 x.2.2
      (t, ({ v := r.v, tag := r.tag, tag2 := r.tag, st := worst x } : Val), r.fl))) := by
  unfold alu aluTags
  rw [issue_next p.1 (s' := s.setGrp gid (putResults (s.blk (s.grp gid).blk).tents (s.grp gid) (spec i).d.width o.d.x
    ((actingOf s gid o).map fun t =>
      let x := srcsOf s gid i o t
      let r := f t x.1 x.2.1 x.2.2
      (t, ({ v := r.v, tag := r.tag, tag2 := r.tag, st := worst x } : Val), r.fl))))]
  · rfl
  · rw [start_ok p]; rfl

end Sys2Proof.Machine
end

