-- ==== Sys2Proof/Laws/Memory.lean ====
section
/-! SUPPORT. The laws of memory: a byte reads as it was written, a write leaves every other byte alone, and every operation keeps the canonical form. -/

namespace Sys2Proof

@[simp] theorem Memory.read_write_self (m : Memory) (a : Nat) (b : Byte) : (Memory.write m a b).read a = b := by simp [Memory.read, Memory.write]
theorem Memory.read_write_ne (m : Memory) {a a' : Nat} (b : Byte) (h : a' ≠ a) : (Memory.write m a b).read a' = m.read a' := by
  simp [Memory.read, Memory.write, FMap.getD_put_ne _ _ _ _ h]

theorem Memory.read_writeN_out (bs : List Byte) (m : Memory) (a a' : Nat) (h : a' < a ∨ a + bs.length ≤ a') :
    (Memory.writeN m a bs).read a' = m.read a' := by
  induction bs generalizing m a with
  | nil => rfl
  | cons b bs ih =>
    simp only [List.length_cons] at h
    rw [Memory.writeN, ih _ _ (by omega), Memory.read_write_ne _ _ (by omega)]

theorem Memory.read_writeN_in (bs : List Byte) (m : Memory) (a i : Nat) (h : i < bs.length) :
    (Memory.writeN m a bs).read (a + i) = bs[i] := by
  induction bs generalizing m a i with
  | nil => simp at h
  | cons b bs ih =>
    rw [Memory.writeN]
    cases i with
    | zero => rw [Memory.read_writeN_out _ _ _ _ (by omega)]; simp
    | succ i =>
      have := ih (m.write a b) (a + 1) i (by simpa using h)
      rw [show a + (i + 1) = a + 1 + i by omega, this]; rfl

theorem Memory.read_writeMask_out (bs : List (Option Byte)) (m : Memory) (a a' : Nat) (h : a' < a ∨ a + bs.length ≤ a') :
    (Memory.writeMask m a bs).read a' = m.read a' := by
  induction bs generalizing m a with
  | nil => rfl
  | cons b bs ih =>
    simp only [List.length_cons] at h
    cases b with
    | none => rw [Memory.writeMask, ih _ _ (by omega)]
    | some b => rw [Memory.writeMask, ih _ _ (by omega), Memory.read_write_ne _ _ (by omega)]

theorem Memory.read_writeMask_in (bs : List (Option Byte)) (m : Memory) (a i : Nat) (h : i < bs.length) :
    (Memory.writeMask m a bs).read (a + i) = (bs[i]).getD (m.read (a + i)) := by
  induction bs generalizing m a i with
  | nil => simp at h
  | cons b bs ih =>
    cases i with
    | zero =>
      cases b with
      | none => rw [Memory.writeMask, Memory.read_writeMask_out _ _ _ _ (by omega)]; rfl
      | some b => rw [Memory.writeMask, Memory.read_writeMask_out _ _ _ _ (by omega)]; simp
    | succ i =>
      have hi : i < bs.length := by simpa using h
      have e : a + (i + 1) = a + 1 + i := by omega
      cases b with
      | none => rw [Memory.writeMask, e, ih _ _ _ hi]; rfl
      | some b => rw [Memory.writeMask, e, ih _ _ _ hi, Memory.read_write_ne _ _ (by omega)]; rfl

theorem Memory.read_readN (m : Memory) (a n i : Nat) (h : i < n) : (Memory.readN m a n)[i]? = some (m.read (a + i)) := by
  induction n generalizing a i with
  | zero => omega
  | succ n ih =>
    cases i with
    | zero => rfl
    | succ i => rw [Memory.readN, List.getElem?_cons_succ, ih _ _ (by omega), show a + 1 + i = a + (i + 1) by omega]

/-! ## The canonical form -/

theorem Memory.wf_write {m : Memory} (a : Nat) (b : Byte) (h : m.wf = true) : (Memory.write m a b).wf = true := FMap.wf_put m a b h
theorem Memory.wf_writeN (bs : List Byte) {m : Memory} (a : Nat) (h : m.wf = true) : (Memory.writeN m a bs).wf = true := by
  induction bs generalizing m a with
  | nil => exact h
  | cons b bs ih => exact ih _ (Memory.wf_write a b h)
theorem Memory.wf_writeMask (bs : List (Option Byte)) {m : Memory} (a : Nat) (h : m.wf = true) : (Memory.writeMask m a bs).wf = true := by
  induction bs generalizing m a with
  | nil => exact h
  | cons b bs ih =>
    cases b with
    | none => exact ih _ h
    | some b => exact ih _ (Memory.wf_write a b h)
theorem Memory.wf_filter (p : Nat × Byte → Bool) {m : Memory} (h : m.wf = true) : Memory.wf (m.filter p) = true := FMap.wfFrom_filter p m none h

namespace Machine

theorem State.wf_poison {s : State} (a : Nat) (h : Memory.wf s.mem = true) : Memory.wf (s.poison a).mem = true := Memory.wf_writeN _ _ h
theorem State.wf_applyBytes {s : State} (a : Nat) (bs : List (Option Byte)) (h : Memory.wf s.mem = true) :
    Memory.wf (s.applyBytes a bs).mem = true := Memory.wf_writeMask _ _ h
theorem State.wf_applyAll {s : State} (a : Nat) (bs : List Byte) (h : Memory.wf s.mem = true) : Memory.wf (s.applyAll a bs).mem = true :=
  State.wf_applyBytes a _ h
theorem State.wf_zeroBytes {s : State} (a n : Nat) (h : Memory.wf s.mem = true) : Memory.wf (s.zeroBytes a n).mem = true := Memory.wf_filter _ h

theorem State.length_passMask (s : State) (a : Nat) (bs : List (Option Byte)) : (s.passMask a bs).length = bs.length := by simp [State.passMask]

/-- A write leaves every byte outside it as it was. -/
theorem State.byte_applyBytes_out (s : State) (a a' : Nat) (bs : List (Option Byte)) (h : a' < a ∨ a + bs.length ≤ a') :
    (s.applyBytes a bs).byte a' = s.byte a' :=
  Memory.read_writeMask_out _ _ _ _ (by rw [State.length_passMask]; exact h)

end Machine

end Sys2Proof
end

