-- ==== Sys2Proof/Tests/Slice0.lean ====
section
/-! SUPPORT. Tests: ill-formed terms that the decode checks refuse, single steps with results that the spec's worked examples and tables give, and for each
statement states and operands that meet its hypotheses. -/

set_option Elab.async false

namespace Sys2Proof.Tests

open Sys2Proof Sys2Proof.Machine Sys2Proof.Decode Sys2Proof.Safety Sys2Proof.Claims

/-! ## Small states -/

/-- Two acting threads on core 0 with t1 = 3, 4; t2 = 7, 8; t3 = 5 and others 0; w2 = 9, w3 = 12,
w4 and w5 label pointers, w6 a pointer into `.core`; p1 true in thread 0, q1 true. -/
def g0 : Group :=
  { blk := 1, ext0 := 2, allot := 128, act := 3, code := 0x1000000000000000, len := 1
    t := [(1, { v := 3 }), (2, { v := 7 }), (3, { v := 5 }), (129, { v := 4 }), (130, { v := 8 })]
    w := [(2, { v := 9 }), (3, { v := 12 }), (4, { v := 0x1000000000000010 }), (5, { v := 0x1000000000000040 }), (6, { v := 0x2100000000000020 })], p := [(1, { v := true })], q := [(1, { v := true })] }

/-- A state in which group record `g` holds lane 0 of core 0, whose turn it is; its block is block 1. -/
def st (g : Group) (b : Block := { hdr := { regs := 128, cbsz := 64 }, groups := [0], live := 1 }) : Machine.State :=
  { State.reset with groups := [(0, g)], blocks := [(1, b)], lanes := [(0, { slot := some 0 })], nextId := 2 }

/-- The same on system core 0. -/
def stSys (g : Group) : Machine.State :=
  { State.reset with groups := [(393216, g)], blocks := [(1, { core := 1536, part := 15, hdr := { regs := 128, cbsz := 64 }, groups := [393216], live := 1 })]
                     lanes := [(49152, { slot := some 0 })], cur := 49152, nextId := 2 }

/-- The state `st g0`. -/
def s0 : Machine.State := st g0

/-- Operands in thread form, and in uniform form. -/
def tt (d a b : Opd) : Args := ⟨{}, ⟨d, false⟩, ⟨a, false⟩, ⟨b, false⟩⟩
def uu (d a b : Opd) : Args := ⟨{ u := true }, ⟨d, false⟩, ⟨a, false⟩, ⟨b, false⟩⟩

/-- The operands of a word. -/
def opds (i : Instr) : Args := (argsOf i).getD (tt .none .none .none)

/-- What an instruction leads to, if that is a next state. -/
def after (i : Instr) (s : Machine.State) : Machine.State := match exec i s with | .next t => t | _ => State.reset

/-- Thread register `k` of thread `t` of the group on core 0. -/
def rd (s : Machine.State) (t k : Nat) : Nat := ((s.grp 0).treg t k).v.toNat

/-- `Passes`, as a decision. -/
def passesB (c : Iss) (h : Hdr) (rs : List Read) (dst : Bool) : Bool :=
  ((guardThreads c h).all fun t => !(guardAt c h t).2.isTent && decide ((guardAt c h t).2 ≠ .pois)) &&
  (rs.all fun r => r.vals.all fun x =>
    decide (x.2.st ≠ .empty) && tagFits r.role.fmt x.2 && (!r.role.waits || !x.2.st.isTent) && (!r.role.consumes || decide (x.2.st ≠ .pois))) && !dst

theorem passes_of {c : Iss} {h : Hdr} {rs : List Read} {dst : Bool} (e : passesB c h rs dst = true) : Passes c h rs dst := by
  simp only [passesB, Bool.and_eq_true, decide_eq_true_eq, List.all_eq_true, Bool.not_eq_true', Bool.or_eq_true] at e
  obtain ⟨⟨h2, h3⟩, h4⟩ := e
  refine ⟨h2, fun r hr x hx => ?_, h4⟩
  obtain ⟨⟨⟨a, b⟩, c⟩, d⟩ := h3 r hr x hx
  exact ⟨a, b, fun hw => by simpa [hw] using c, fun hc => by simpa [hc] using d⟩

/-- `Issues` for some thread, as a decision. -/
def issuesB (s : Machine.State) (gid : Nat) (i : Instr) : Bool :=
  let o := opds i
  let c := issOf s gid
  decide (s.issuer = some gid) && passesB c o.hdr (reads c i o (acting c o.hdr)) (dstEmpty c (acting c o.hdr) (spec i).d.width o.d.x) && !(acting c o.hdr).isEmpty

theorem issues_of {s : Machine.State} {gid : Nat} {i : Instr} (h : issuesB s gid i = true) : Issues s gid i (opds i) ∧ actingOf s gid (opds i) ≠ [] := by
  simp only [issuesB, Bool.and_eq_true, decide_eq_true_eq, Bool.not_eq_true'] at h
  exact ⟨⟨h.1.1, passes_of h.1.2⟩, by simpa [actingOf] using h.2⟩

/-- Every instruction of a list issues with its operands in a state, for some thread. -/
def AllIssue (s : Machine.State) (gid : Nat) (xs : List Instr) : Prop := ∀ i ∈ xs, Issues s gid i (opds i) ∧ actingOf s gid (opds i) ≠ []

theorem all_issue {s : Machine.State} {gid : Nat} {xs : List Instr} (h : xs.all (issuesB s gid) = true) : AllIssue s gid xs :=
  fun i hi => issues_of (List.all_eq_true.mp h i hi)

/-! ## Witnesses: integer, logic and move instructions -/

/-- Hypotheses of `IntegerResults`: each instruction issues, with 32-bit and with 64-bit operands. -/
theorem witness_integerResults : AllIssue s0 0
    [.iadd false (tt (.t 4) (.t 1) (.t 2)), .iadd true (tt (.t 4) (.t 2) (.w 2)), .isub false (tt (.t 4) (.t 1) (.t 2)), .imul false (tt (.t 4) (.t 1) (.imm 3)),
     .imulh ⟨true, true⟩ (tt (.t 4) (.t 2) (.t 0)), .imad false (tt (.t 1) (.t 1) (.t 2)), .imin ⟨false, false⟩ (tt (.t 4) (.t 1) (.t 2)),
     .imax ⟨true, true⟩ (tt (.t 4) (.t 0) (.t 2)), .iabs false (tt (.t 4) (.t 1) .none), .ineg true (tt (.t 4) (.t 0) .none),
     .and false (tt (.t 4) (.t 1) (.t 2)), .or false (tt (.t 4) (.t 1) (.t 2)), .xor true (tt (.t 4) (.t 0) (.t 2)), .andn false (tt (.t 4) (.t 1) (.t 2)),
     .not false (tt (.t 4) (.t 1) .none), .shl false (tt (.t 4) (.t 1) (.imm 32)), .shr true (tt (.t 4) (.t 0) (.imm 64)), .sar false (tt (.t 4) (.t 1) (.imm 31)),
     .rotl false (tt (.t 4) (.t 1) (.t 2)), .popc false (tt (.t 4) (.t 1) .none), .clz true (tt (.t 4) (.t 0) .none), .ctz false (tt (.t 4) (.t 1) .none),
     .brev false (tt (.t 4) (.t 1) .none), .iadd true (uu (.w 4) (.w 2) (.w 3))] := all_issue (by decide +kernel)

/-- Hypotheses of `BitsAndCarries`. -/
theorem witness_bitsAndCarries : AllIssue s0 0
    [.funs true (tt (.t 1) (.t 2) (.imm 31)), .bfx true (tt (.t 4) (.t 1) (.imm 0x2000)), .bfx false (tt (.t 4) (.t 1) (.imm 0)), .bfi (tt (.t 1) (.t 2) (.imm 0x041C)),
     .permb (tt (.t 1) (.t 2) (.imm 0x7F30)), .iaddc ⟨1, false⟩ (tt (.t 4) (.t 1) (.t 2)), .iaddc ⟨1, true⟩ (uu (.w 4) (.w 2) (.w 3)),
     .isel ⟨1, false⟩ (tt (.t 4) (.t 1) (.t 2))] := all_issue (by decide +kernel)

/-- Hypotheses of `CompareAndMove`: the integer class and the float classes of `SETP`. -/
theorem witness_compareAndMove : AllIssue s0 0
    [.icmp ⟨.lt, true, false⟩ (tt (.t 4) (.t 1) (.t 2)), .setp ⟨.int, .ge, false, false⟩ (tt (.p 2) (.t 1) (.t 2)), .setp ⟨.f32, .nan, false, false⟩ (tt (.p 2) (.t 1) (.t 2)),
     .setp ⟨.f64, .num, false, false⟩ (tt (.p 2) (.t 0) (.t 2)), .mov false (tt (.t 4) (.t 1) .none), .movi false (tt (.t 4) (.long 0xBF80) (.long 0)),
     .lea ⟨7, false⟩ (tt (.t 4) (.t 1) (.t 2))] := all_issue (by decide +kernel)

/-! ## Witnesses: pointers, floating point, conversions, special functions -/

/-- A pointer instruction issues, and the rule gives a value in every acting thread. -/
def ptrOkB (i : Instr) (f : Nat → Nat → Nat → Except Reason Nat) : Bool :=
  issuesB s0 0 i && (actingOf s0 0 (opds i)).all fun t => let x := srcsOf s0 0 i (opds i) t; (f x.1.v x.2.1.v x.2.2.v).isOk

theorem ptr_ok_of {i : Instr} {f : Nat → Nat → Nat → Except Reason Nat} (h : ptrOkB i f = true) :
    ∃ v : Nat → Nat, Issues s0 0 i (opds i) ∧ ∀ t ∈ actingOf s0 0 (opds i),
      f (srcsOf s0 0 i (opds i) t).1.v (srcsOf s0 0 i (opds i) t).2.1.v (srcsOf s0 0 i (opds i) t).2.2.v = .ok (v t) := by
  simp only [ptrOkB, Bool.and_eq_true, List.all_eq_true] at h
  let r (t : Nat) : Except Reason Nat := f (srcsOf s0 0 i (opds i) t).1.v (srcsOf s0 0 i (opds i) t).2.1.v (srcsOf s0 0 i (opds i) t).2.2.v
  refine ⟨fun t => match r t with | .ok n => n | .error _ => 0, (issues_of h.1).1, fun t ht => ?_⟩
  have e : (r t).isOk = true := h.2 t ht
  show r t = .ok (match r t with | .ok n => n | .error _ => 0)
  cases hr : r t with
  | ok n => rfl
  | error x => rw [hr] at e; cases e

/-- A pointer instruction issues, and the rule gives a fault in its one acting thread, thread 0. -/
def ptrBadB (i : Instr) (f : Nat → Nat → Nat → Except Reason Nat) (r : Reason) : Bool :=
  issuesB s0 0 i && decide ((actingOf s0 0 (opds i)).head? = some 0) &&
    (let x := srcsOf s0 0 i (opds i) 0; match f x.1.v x.2.1.v x.2.2.v with | .error e => decide (e = r) | .ok _ => false)

theorem ptr_bad_of {i : Instr} {f : Nat → Nat → Nat → Except Reason Nat} {r : Reason} (h : ptrBadB i f r = true) :
    Issues s0 0 i (opds i) ∧ (∃ rest, actingOf s0 0 (opds i) = [] ++ 0 :: rest) ∧
      f (srcsOf s0 0 i (opds i) 0).1.v (srcsOf s0 0 i (opds i) 0).2.1.v (srcsOf s0 0 i (opds i) 0).2.2.v = .error r := by
  simp only [ptrBadB, Bool.and_eq_true, decide_eq_true_eq] at h
  refine ⟨(issues_of h.1.1).1, ?_, ?_⟩
  · have := h.1.2
    revert this
    cases actingOf s0 0 (opds i) <;> simp
  · have := h.2
    revert this
    cases f _ _ _ <;> simp

/-- Hypotheses of the first half of `Pointers`: the last offset of a region, the first and the last of a local space, both ends of a field. -/
theorem witness_pointers :
    ([(.pmk false (tt (.t 12) (.w 2) (.imm 5)), fun _ a b => pmkSpec false a b), (.pmk true (tt (.t 12) (.imm 3) (.imm 5)), fun _ a b => pmkSpec true a b),
      (.padd false (tt (.t 12) (.w 4) (.imm 0xFFF0)), fun _ a b => paddSpec false a b), (.padd true (tt (.t 12) (.w 4) (.imm 0xFFFF)), fun _ a b => paddSpec true a b),
      (.padd false (tt (.t 12) (.w 6) (.imm 0xFFE0)), fun _ a b => paddSpec false a b), (.pdif (tt (.t 12) (.w 4) (.w 5)), fun _ a b => pdifSpec a b),
      (.pset .off (uu (.w 4) (.imm 3) .none), fun d a _ => psetSpec .off d a), (.pset .space (uu (.w 6) (.imm 3) .none), fun d a _ => psetSpec .space d a)]
      : List (Instr × (Nat → Nat → Nat → Except Reason Nat))).all (fun x => ptrOkB x.1 x.2) = true ∧
    AllIssue s0 0 [.pget .form (tt (.t 12) (.w 4) .none), .pget .addr (tt (.t 12) (.w 6) .none), .pform 15 (tt (.p 2) (.w 4) .none)] :=
  ⟨by decide +kernel, all_issue (by decide +kernel)⟩

/-- Hypotheses of the second half of `Pointers`: a sum one past the region, pointers of different forms, a field too wide. -/
theorem witness_pointerFaults :
    ([(.pmk false (tt (.t 12) (.w 4) (.imm 5)), fun _ a b => pmkSpec false a b, .form), (.pmk true (tt (.t 12) (.imm 4) (.imm 5)), fun _ a b => pmkSpec true a b, .form),
      (.padd false (tt (.t 12) (.w 4) (.imm 0xFFEF)), fun _ a b => paddSpec false a b, .straddle), (.padd false (tt (.t 12) (.w 2) (.imm 1)), fun _ a b => paddSpec false a b, .form),
      (.pdif (tt (.t 12) (.w 4) (.w 6)), fun _ a b => pdifSpec a b, .form), (.pset .space (uu (.w 6) (.imm 4) .none), fun d a _ => psetSpec .space d a, .form),
      (.pset .off (uu (.w 6) (.imm 4) .none), fun d a _ => psetSpec .off d a, .form)]
      : List (Instr × (Nat → Nat → Nat → Except Reason Nat) × Reason)).all (fun x => ptrBadB x.1 x.2.1 x.2.2) = true := by decide +kernel

/-- Hypotheses of `FloatResults`. -/
theorem witness_floatResults : AllIssue s0 0
    [.fadd ⟨.rne, false⟩ (tt (.t 4) (.t 1) (.t 2)), .fsub ⟨.rd, true⟩ (tt (.t 4) (.t 1) (.t 2)), .fmul ⟨.rz, false⟩ (tt (.t 4) (.t 1) (.t 2)),
     .ffma ⟨.ru, false⟩ (tt (.t 4) (.t 1) (.t 2)), .ffms ⟨.rne, false⟩ (tt (.t 4) (.t 1) (.t 2)), .fnma ⟨.rne, false⟩ (tt (.t 4) (.t 1) (.t 2)),
     .fmin (tt (.t 4) (.t 1) (.t 2)), .fmax (tt (.t 4) (.t 1) (.t 2)), .fcmp ⟨.lt, true⟩ (tt (.p 2) (.t 1) (.t 2)), .fclass (tt (.t 4) (.t 1) .none),
     .frnd .rne (tt (.t 4) (.t 1) .none), .fscale ⟨.rne, false⟩ (tt (.t 4) (.t 1) (.t 2)), .fexpo (tt (.t 4) (.t 1) .none), .dadd ⟨.rne, false⟩ (tt (.t 4) (.t 0) (.t 2)),
     .dmul ⟨.rne, false⟩ (tt (.t 4) (.t 0) (.t 2)), .dfma ⟨.rne, false⟩ (tt (.t 4) (.t 0) (.t 2)), .dcmp ⟨.eq, false⟩ (tt (.p 2) (.t 0) (.t 2)),
     .hadd2 ⟨false, .rne, false⟩ (tt (.t 4) (.t 1) (.t 2)), .hmul2 ⟨true, .rne, false⟩ (tt (.t 4) (.t 1) (.t 2)), .hfma2 ⟨true, .rz, true⟩ (tt (.t 4) (.t 1) (.t 2)),
     .hmin2 true (tt (.t 4) (.t 1) (.t 2)), .hmax2 false (tt (.t 4) (.t 1) (.t 2))] := all_issue (by decide +kernel)

/-- Hypotheses of `FloatResults` about special values: `FCLASS` issues; the least and the greatest finite value are no zero and not infinite. -/
theorem witness_floatSpecial : AllIssue s0 0 [.fclass (tt (.t 4) (.t 1) .none)] ∧
    ∀ x ∈ [1, 0x7F7FFFFF], x < 2 ^ 31 ∧ slice x 23 8 ≠ 255 ∧ x ≠ 0 := ⟨all_issue (by decide +kernel), by decide⟩

/-- Hypotheses of `ConvertResults`: both directions of `CVTI`, and `UNPK2` in both forms. -/
theorem witness_convertResults : AllIssue s0 0
    [.cvti ⟨true, .s32, .f32, .rz, false⟩ (tt (.t 4) (.t 1) .none), .cvti ⟨false, .uint32, .f32, .rne, false⟩ (tt (.t 4) (.t 1) .none), .pack2 (tt (.t 4) (.t 1) (.t 2)),
     .scle .e4m3 (tt (.t 4) (.t 1) .none), .fmtset (tt (.t 4) (.imm 3) .none), .fmtget (tt (.t 4) (.t 1) .none), .lmul .l8 (tt (.t 4) (.t 1) (.t 2)),
     .ladd .l6 (tt (.t 4) (.t 1) (.t 2))] ∧
    (∀ o ∈ [tt (.t 4) (.t 1) .none, uu (.w 8) (.w 2) .none], Passes (issOf s0 0) o.hdr (reads (issOf s0 0) (.unpk2 o) o (actingOf s0 0 o))
      (dstEmpty (issOf s0 0) (actingOf s0 0 o) (if o.hdr.u then 128 else 64) o.d.x)) := by
  refine ⟨all_issue (by decide +kernel), fun o ho => ?_⟩
  simp only [List.mem_cons, List.not_mem_nil, or_false] at ho
  rcases ho with rfl | rfl <;> exact passes_of (by decide +kernel)

/-- A group whose t1 holds FP32 values, whose t2 holds LOG8 codes (tag 17), and t3 with poison in thread 0. -/
def gTags : Group := { g0 with t := [(1, { v := 0x3F800000, tag := 1 }), (2, { v := 7, tag := 17 }), (3, { v := 5, st := .pois }), (129, { v := 4, tag := 1 }), (130, { v := 8, tag := 16 })] }

/-- Hypotheses of `FormatConversions`: `CVT` of FP32 values to BF16, and of a POIS source in thread 0 alone; `LCVT` of two log formats. -/
theorem witness_formatConversions :
    (∀ o ∈ [tt (.t 4) (.t 1) .none], let m : Mods.Cvt := ⟨.bf16, .rne, false⟩
      let as := (actingOf (st gTags) 0 o).map fun t => (t, cvtSrc (issOf (st gTags) 0) t o.a.x)
      (st gTags).issuer = some 0 ∧ as ≠ [] ∧ passesB (issOf (st gTags) 0) o.hdr [⟨2, o.a.ea, .data none, as⟩,
        ⟨3, o.b.ea, .data none, (as.filter fun x => cvtUsesB m x.2.tag && decide (x.2.st ≠ .pois)).map fun x =>
          (x.1, readOp (issOf (st gTags) 0) x.1 (spec (.cvt m o)).b o.b.x o.a.x)⟩]
        (dstEmpty (issOf (st gTags) 0) (actingOf (st gTags) 0 o) (fmtWidth m.dst) o.d.x) = true ∧
      (∀ x ∈ as, (match cvtFmt m o.a.x x.2 with | .ok f => decide (f = .f32) | .error _ => false) = true)) ∧
    (let o : Args := { tt (.t 4) (.t 3) .none with hdr := { guard := .on false 1 } };
      actingOf (st gTags) 0 o = [0] ∧ (cvtSrc (issOf (st gTags) 0) 0 o.a.x).st = .pois) ∧
    AllIssue (st gTags) 0 [.lcvt ⟨.l6, true⟩ (tt (.t 4) (.t 2) .none)] ∧
    (∀ t ∈ actingOf (st gTags) 0 (tt (.t 4) (.t 2) .none), let a := (srcsOf (st gTags) 0 (.lcvt ⟨.l6, true⟩ (tt (.t 4) (.t 2) .none)) (tt (.t 4) (.t 2) .none) t).2.1
      16 ≤ a.tag ∧ a.tag ≤ 18 ∧ fmtOf a.tag = some (if t = 0 then .l8 else .l6)) := by
  refine ⟨by decide +kernel, by decide +kernel, all_issue (by decide +kernel), by decide +kernel⟩

/-- Hypotheses of `SpecialFunctions`: each instruction issues with a register destination; an operation is outstanding. -/
theorem witness_specialFunctions : AllIssue s0 0
    [.frcp (tt (.t 4) (.t 1) .none), .frsq (tt (.t 4) (.t 1) .none), .fsqrt (tt (.t 4) (.t 1) .none), .fex2 (tt (.t 4) (.t 1) .none), .flg2 (tt (.t 4) (.t 1) .none),
     .fsin (tt (.t 4) (.t 1) .none), .fcos (tt (.t 4) (.t 1) .none), .ftwid (tt (.t 4) (.t 1) (.imm 3)), .ftanh (tt (.t 4) (.t 1) .none), .fsigm (tt (.t 4) (.t 1) .none)] ∧
    destOf 32 (.t 4) = some ⟨false, 4, 32⟩ ∧
    (match FMap.find? (after (.frcp (tt (.t 4) (.t 1) .none)) s0).ops 2 with | some (.sfu x) => decide (x.gid = 0) | _ => false) = true :=
  ⟨all_issue (by decide +kernel), by decide, by decide +kernel⟩

/-! ## Witnesses: group data -/

/-- Hypotheses of `ExchangeResults`: a source inside the group, and one outside it (B = 31). -/
theorem witness_exchangeResults : ∀ b ∈ [(.imm 1 : Opd), .imm 31],
    (s0.issuer = some 0 ∧ (∀ t ∈ actingOf s0 0 (tt (.t 4) (.t 1) b), (readOp (issOf s0 0) t (spec (.xch ⟨.idx, false⟩ (tt (.t 4) (.t 1) b))).b b b).st ≠ .empty)) ∧
    (∀ m ∈ [XMode.idx, .xor, .up, .down], passesB (issOf s0 0) {} [⟨2, false, .data none, (actingOf s0 0 (tt (.t 4) (.t 1) b)).map fun t =>
        (t, regAt (s0.grp 0) (xchSource m (s0.grp 0).ext0 t (readOp (issOf s0 0) t (spec (.xch ⟨m, false⟩ (tt (.t 4) (.t 1) b))).b b b).v) (.t 1) 32)⟩]
        (dstEmpty (issOf s0 0) (actingOf s0 0 (tt (.t 4) (.t 1) b)) 32 (.t 4)) = true) ∧
    passesB (issOf s0 0) {} [⟨2, false, .data none, (actingOf s0 0 (tt (.t 4) (.t 1) b)).map fun t =>
      (t, if (readOp (issOf s0 0) 0 (spec (.bcst false (tt (.t 4) (.t 1) b))).b b b).v % 32 < (s0.grp 0).ext0 then regAt (s0.grp 0) 1 (.t 1) 32 else {})⟩]
      (dstEmpty (issOf s0 0) (actingOf s0 0 (tt (.t 4) (.t 1) b)) 32 (.t 4)) = true := by decide +kernel

/-- Hypotheses of `GroupDataResults`. -/
theorem witness_groupDataResults : AllIssue s0 0
    [.vote .ballot (tt (.t 4) (.p 1) .none), .vote .uni (tt (.t 4) .pt .none), .elect (tt (.p 2) .none .none), .gred ⟨.add, .s32⟩ (tt (.t 4) (.t 1) .none),
     .gred ⟨.max, .f32⟩ (tt (.t 4) (.t 1) .none), .gscn ⟨.add, .uint32, true⟩ (tt (.t 4) (.t 1) .none), .gscn ⟨.min, .f32, false⟩ (tt (.t 4) (.t 1) .none),
     .movpPack (tt (.t 4) .none .none), .movpUnpk (tt .none (.t 1) .none), .movpPack (uu (.w 4) .none .none), .movpUnpk (uu .none (.w 2) .none)] := all_issue (by decide +kernel)

/-- A block of two groups, of which the second, with one thread, is the sibling of number 1. -/
def stSib : Machine.State :=
  { st g0 { hdr := { regs := 128, cbsz := 64 }, groups := [0, 1], live := 2 } with groups := [(0, g0), (1, { blk := 1, num := 1, allot := 32, t := [(31, { v := 77 })] })] }

/-- Hypotheses of `SiblingAccess`: the sibling's last register, one that is EMPTY, and a read that is outstanding. -/
theorem witness_siblingAccess : AllIssue stSib 0 [.srd 31 (tt (.t 4) (.imm 1) .none), .swr 31 (tt .none (.imm 1) (.t 1))] ∧
    (∀ i ∈ [Instr.srd 31 (tt (.t 4) (.imm 1) .none), .swr 31 (tt .none (.imm 1) (.t 1))], sibling (issOf stSib 0) (srcsOf stSib 0 i (opds i) 0).2.1.v = some 1 ∧
      31 < (stSib.grp 1).allot ∧ ∀ t ∈ actingOf stSib 0 (opds i), t < (stSib.grp 1).ext0 → ((stSib.grp 1).treg t 31).st ≠ .empty) ∧
    (let s := stSib.onGrp 1 fun g => g.setT 0 31 { st := .empty }
     issuesB s 0 (.srd 31 (tt (.t 4) (.imm 1) .none)) = true ∧ 0 ∈ actingOf s 0 (tt (.t 4) (.imm 1) .none) ∧ 0 < (s.grp 1).ext0 ∧ ((s.grp 1).treg 0 31).st = .empty) ∧
    (match (after (.srd 31 (tt (.t 4) (.imm 1) .none)) stSib).ops with | [(2, .srd x)] => decide (x.gid = 0) | _ => false) = true :=
  ⟨all_issue (by decide +kernel), by decide +kernel⟩

/-! ## Witnesses: control flow -/

/-- Operands under a guard that holds in thread 0 alone, and under one that holds in no thread. -/
def divg (x : Args) : Args := { x with hdr := { x.hdr with guard := .on false 1 } }
def off (x : Args) : Args := { x with hdr := { x.hdr with guard := .on false 2 } }

/-- Hypotheses of `Branches`: taken, not taken and divergent; `BRAI` with a common B, with no acting thread, with B differing, and divergent. -/
theorem witness_branches :
    AllIssue s0 0 [.bra .uni (tt .none (.imm 24) .none), .bra .any (divg (tt .none (.imm 24) .none)), .bra .uni (divg (tt .none (.imm 24) .none)),
      .call .all (tt (.w 8) (.imm 2) .none), .call .all (divg (tt (.w 8) (.imm 2) .none)), .call .uni (divg (tt (.w 8) (.imm 2) .none)), .ret (uu .none (.w 2) .none),
      .ret (tt .none (.w 2) .none), .ret (divg (tt .none (.w 2) .none)), .brai (tt .none (.w 2) (.imm 0)), .brai (tt .none (.w 2) (.t 1)), .brai (divg (tt .none (.w 2) (.t 1)))] ∧
    (decides s0 0 (tt .none (.imm 24) .none) .uni = some true ∧ decides s0 0 (divg (tt .none (.imm 24) .none)) .any = some true ∧
      decides s0 0 (divg (tt .none (.imm 24) .none)) .all = some false ∧ decides s0 0 (divg (tt .none (.imm 24) .none)) .uni = none ∧
      decides s0 0 (off (tt .none (.imm 24) .none)) .uni = some false) ∧
    (∀ o ∈ [off (tt .none (.w 2) (.imm 0))], s0.issuer = some 0 ∧ passesB (issOf s0 0) o.hdr (reads (issOf s0 0) (.brai o) o (acting (issOf s0 0) o.hdr))
      (dstEmpty (issOf s0 0) (acting (issOf s0 0) o.hdr) (spec (.brai o)).d.width o.d.x) = true ∧ actingOf s0 0 o = []) ∧
    (∀ t ∈ actingOf s0 0 (tt .none (.w 2) (.imm 0)), (srcsOf s0 0 (.brai (tt .none (.w 2) (.imm 0))) (tt .none (.w 2) (.imm 0)) t).2.2.v = 0) ∧
    (srcsOf s0 0 (.brai (tt .none (.w 2) (.t 1))) (tt .none (.w 2) (.t 1)) 0).2.2.v ≠ (srcsOf s0 0 (.brai (tt .none (.w 2) (.t 1))) (tt .none (.w 2) (.t 1)) 1).2.2.v :=
  ⟨all_issue (by decide +kernel), by decide +kernel⟩

/-- Mask stacks: an IF entry, a LOOP entry, an IF entry in a loop, and a full stack. -/
def mIf : MEntry := ⟨.ifThen, 3, 1, 8, 0⟩
def mLoop : MEntry := ⟨.loop, 3, 0, 8, 2⟩

/-- The mask of predicate 1 among the active threads. -/
theorem mask_of : IsPredMask (st { g0 with stack := [mIf, mLoop] }) 0 (tt .none (.p 1) (.imm 4)) 1 := by
  intro t
  by_cases h : t < 32
  · have e : ∀ t < 32, (1 : BitVec 32).getLsbD t = (decide (t ∈ activeThreads ((st { g0 with stack := [mIf, mLoop] }).grp 0)) &&
      predA (st { g0 with stack := [mIf, mLoop] }) 0 (tt .none (.p 1) (.imm 4)) t) := by decide +kernel
    exact e t h
  · have e : activeThreads ((st { g0 with stack := [mIf, mLoop] }).grp 0) = [0, 1] := by decide +kernel
    rw [e, BitVec.getLsbD_of_ge (1 : BitVec 32) t (by omega), decide_eq_false (by simp; omega)]
    rfl

/-- Hypotheses of `MaskStack`: each instruction issues on each of the stacks; each stack shape of its clauses. -/
theorem witness_maskStack :
    (∀ stack ∈ [[], [mIf], [mLoop], [mIf, mLoop], List.replicate 15 mIf, List.replicate 16 mIf], AllIssue (st { g0 with stack := stack }) 0
      [.ifp (tt .none (.p 1) (.imm 4)), .elsp (tt .none .none (.imm 4)), .endp (tt .none .none .none), .loopb (tt .none .none (.imm 4)), .brkp (tt .none (.p 1) .none),
       .contp (tt .none (.p 1) .none), .loope (tt .none (.p 1) .none)]) ∧
    (List.replicate 15 mIf).length < 16 ∧ 16 ≤ (List.replicate 16 mIf).length ∧ mIf.kind = .ifThen ∧ mLoop.kind = .loop ∧ [mIf, mLoop] = [mIf] ++ mLoop :: [] ∧
    IsPredMask (st { g0 with stack := [mIf, mLoop] }) 0 (tt .none (.p 1) (.imm 4)) 1 := by
  refine ⟨fun stack h => ?_, by decide, by decide, rfl, rfl, rfl, mask_of⟩
  simp only [List.mem_cons, List.not_mem_nil, or_false] at h
  rcases h with rfl | rfl | rfl | rfl | rfl | rfl <;> exact all_issue (by decide +kernel)

/-- Hypotheses of `EndAndRegion`: in both forms, with and without acting threads. -/
theorem witness_endAndRegion :
    AllIssue s0 0 [.exit (tt .none .none .none), .exit (uu .none .none .none), .nop (tt .none .none .none), .regn (tt .none .none .none), .yield (tt .none .none .none)] ∧
    (∀ i ∈ [Instr.exit (off (tt .none .none .none))], s0.issuer = some 0 ∧ passesB (issOf s0 0) (opds i).hdr (reads (issOf s0 0) i (opds i) (acting (issOf s0 0) (opds i).hdr))
      (dstEmpty (issOf s0 0) (acting (issOf s0 0) (opds i).hdr) (spec i).d.width (opds i).d.x) = true ∧ actingOf s0 0 (opds i) = []) ∧
    (∀ t < 32, (3 : BitVec 32).getLsbD t = decide (t < 32 ∧ t ∈ actingOf s0 0 (tt .none .none .none))) :=
  ⟨all_issue (by decide +kernel), by decide +kernel⟩

/-! ## Witnesses: memory instructions -/

/-- Operands of the memory instructions: t8 : t9 a label pointer to offset 0x40 in both threads, t10 : t11 a pointer into `.core` at byte 8 in thread 0 and 16 in thread 1. -/
def gMem : Group :=
  { g0 with
    t := [(1, { v := 3 }), (2, { v := 7 }), (8, { v := 0x40 }), (9, { v := 0x10000000 }), (10, { v := 8 }), (11, { v := 0x21000000 }), (136, { v := 0x60 }), (137, { v := 0x10000000 }),
      (138, { v := 16 }), (139, { v := 0x21000000 })] }

/-- The block of `gMem`: 1,024 bytes of `.core`, past its containment window. -/
def bMem : Block := { hdr := { regs := 128, cbsz := 64, lane := 64, core := 1024 }, groups := [0], live := 1, rl := false, place := 1, cbase := 2 }
def sMem : Machine.State := st gMem bMem

/-- Loads of these threads may issue, as a decision. -/
def mayLoadB (s : Machine.State) (n : Nat) (xs : List (Nat × W64)) : Bool :=
  !s.acquiring 0 && decide (s.atBuckets (unitOfGid 0) (s.blk (s.grp 0).blk).ctx < 64) && xs.all fun x => (latePromise (issOf s 0) x.1 x.2 n).isOk &&
    match checkAccess (issOf s 0) x.1 x.2 n .read false with
    | .ok (.sram sp a) => decide (sp < 2) || (localWaits (issOf s 0) a n).isNone
    | .ok _ => (loadWaits (issOf s 0) x.2 n).isNone
    | .error _ => false

theorem ok_unit {ε : Type} {x : Except ε Unit} (h : x.isOk = true) : x = .ok () := by
  cases x with
  | error e => cases h
  | ok u => rfl

theorem mayLoad_of {s : Machine.State} {n : Nat} {xs : List (Nat × W64)} (h : mayLoadB s n xs = true) : MayLoad s 0 n xs := by
  simp only [mayLoadB, Bool.and_eq_true, Bool.not_eq_true', List.all_eq_true, decide_eq_true_eq] at h
  refine ⟨h.1.1, h.1.2, fun x hx => ?_⟩
  obtain ⟨h1, h2⟩ := h.2 x hx
  refine ⟨ok_unit h1, ?_⟩
  split at h2
  · next sp a e => exact ⟨_, e, fun hs => by simpa [Nat.not_lt.mpr hs] using h2⟩
  · next p e he =>
    refine ⟨_, he, ?_⟩
    cases p with
    | sram sp a => exact absurd he (by simpa using e sp a)
    | label => simpa using h2
    | window a => simpa using h2
  · cases h2

/-- Hypotheses of `Loads`: `LD` through a label stack and from `.core`, `LDV`, `LDS`; a group that exists. -/
theorem witness_loads :
    AllIssue sMem 0 [.ld ⟨.b32, .plain⟩ (tt (.t 4) (.t 8) .none), .ld ⟨.b64, .acq .core⟩ (tt (.t 4) (.t 10) .none), .ldv ⟨.b16, .plain⟩ (tt (.t 4) (.t 8) (.t 1)),
      .lds ⟨some .core, none, .b32⟩ (tt (.t 4) (.t 10) .none)] ∧
    MayLoad sMem 0 4 (ptrsOf sMem 0 (.ld ⟨.b32, .plain⟩ (tt (.t 4) (.t 8) .none)) (tt (.t 4) (.t 8) .none)) ∧
    MayLoad sMem 0 8 (ptrsOf sMem 0 (.ld ⟨.b64, .acq .core⟩ (tt (.t 4) (.t 10) .none)) (tt (.t 4) (.t 10) .none)) ∧
    MayLoad sMem 0 2 (elementsOf sMem 0 (.ldv ⟨.b16, .plain⟩ (tt (.t 4) (.t 8) (.t 1))) (tt (.t 4) (.t 8) (.t 1)) fun x => x.2.2.v) ∧
    (sMem.grp 0).gth < 255 ∧ FMap.find? sMem.groups 0 = some gMem :=
  ⟨all_issue (by decide +kernel), mayLoad_of (by decide +kernel), mayLoad_of (by decide +kernel), mayLoad_of (by decide +kernel), by decide +kernel⟩

theorem ok_ex {ε α : Type} {x : Except ε α} (h : x.isOk = true) : ∃ a, x = .ok a := by
  cases x with
  | error e => cases h
  | ok a => exact ⟨a, rfl⟩

/-- A computation ends in this value. -/
def okIs {ε α : Type} [DecidableEq α] (x : Except ε α) (a : α) : Bool := match x with | .ok b => decide (b = a) | .error _ => false

theorem ok_of {ε α : Type} [DecidableEq α] {x : Except ε α} {a : α} (h : okIs x a = true) : x = .ok a := by
  cases x with
  | error e => cases h
  | ok b => rw [of_decide_eq_true h]

/-- Stores of these threads may issue, as a decision; without a release. -/
def mayStoreB (s : Machine.State) (n : Nat) (xs : List Store) (t : Machine.State) : Bool :=
  !s.acquiring 0 && !s.logBlocked 0 && (xs.all fun x => (latePromise (issOf s 0) x.t x.ptr n).isOk && !x.waits) && decide (t.logSize (unitOfGid 0) ≤ 64)

theorem mayStore_of {s : Machine.State} {n : Nat} {rel : Option Scope} {xs : List Store} {t : Machine.State} (h : mayStoreB s n xs t = true)
    (hr : (rel.toList.all fun sc => (release (issOf s 0) sc (xs.map fun x => x.ptr)).isOk) = true) : MayStore s 0 n rel xs t := by
  simp only [mayStoreB, Bool.and_eq_true, Bool.not_eq_true', List.all_eq_true, decide_eq_true_eq] at h
  obtain ⟨⟨⟨h1, h2⟩, h3⟩, h5⟩ := h
  refine ⟨h1, h2, fun x hx => ⟨ok_unit (h3 x hx).1, (h3 x hx).2⟩, fun sc hsc => ?_, .inl h5⟩
  exact ok_ex (List.all_eq_true.mp hr sc (by simpa using hsc))

/-- Stores that enter, and may issue. -/
def Enter (s : Machine.State) (n : Nat) (rel : Option Scope) (xs : List Store) : Prop := ∃ t, stored s 0 rel xs = some t ∧ MayStore s 0 n rel xs t

theorem enter_of {s : Machine.State} {n : Nat} {rel : Option Scope} {xs : List Store} (h : ((stored s 0 rel xs).any fun t => mayStoreB s n xs t) = true)
    (hr : (rel.toList.all fun sc => (release (issOf s 0) sc (xs.map fun x => x.ptr)).isOk) = true) : Enter s n rel xs := by
  unfold Enter
  cases e : stored s 0 rel xs with
  | none => rw [e] at h; cases h
  | some t => exact ⟨t, rfl, mayStore_of (by simpa [e] using h) hr⟩

/-- The state with a buffer of 256 entries. -/
def sFull : Machine.State :=
  { sMem with wrs := (List.range 256).map fun i =>
      (i, { data := .bytes (0x1000000000100000 + BitVec.ofNat 64 (32 * i)) (List.replicate 32 (some 1)), ctx := 0, blk := 1, src := [], unit := 0, place := .buffer }) }

/-- Where each thread's pointer in t10 leads: `.core` of the block, from byte 8 and 16. -/
def atCore (t : Nat) : Place := .sram 1 (coreAddr 1 (if t = 0 then 8 else 16))

/-- Hypotheses of `StoreIssues` and of `StoreFrames`: a store to labels with a release, one to `.core`; a vector store; `STS` to `.core`. -/
theorem witness_storeIssues :
    AllIssue sMem 0 [.st ⟨.b32, some .core⟩ (tt .none (.t 8) (.t 1)), .st ⟨.b32, none⟩ (tt .none (.t 10) (.t 1)), .stv ⟨.b16, none⟩ (tt (.t 1) (.t 8) (.t 2)),
      .sts ⟨some .core, none, .b32⟩ (tt .none (.t 10) (.t 1))] ∧
    (∀ t ∈ [0, 1], okIs (checkAccess (issOf sMem 0) t (BitVec.ofNat 64 (srcsOf sMem 0 (.st ⟨.b32, some .core⟩ (tt .none (.t 8) (.t 1))) (tt .none (.t 8) (.t 1)) t).2.1.v) 4 .write false) Place.label = true) ∧
    Enter sMem 4 (some .core) (storesOf sMem 0 (.st ⟨.b32, some .core⟩ (tt .none (.t 8) (.t 1))) (tt .none (.t 8) (.t 1)) 4 fun _ => .label) ∧
    (∀ t ∈ [0, 1], okIs (checkAccess (issOf sMem 0) t (BitVec.ofNat 64 (srcsOf sMem 0 (.st ⟨.b32, none⟩ (tt .none (.t 10) (.t 1))) (tt .none (.t 10) (.t 1)) t).2.1.v) 4 .write false) (atCore t) = true) ∧
    Enter sMem 4 none (storesOf sMem 0 (.st ⟨.b32, none⟩ (tt .none (.t 10) (.t 1))) (tt .none (.t 10) (.t 1)) 4 atCore) ∧ BucketRoom sMem 0 ∧
    (∀ t ∈ [0, 1], let x := srcsOf sMem 0 (.stv ⟨.b16, none⟩ (tt (.t 1) (.t 8) (.t 2))) (tt (.t 1) (.t 8) (.t 2)) t
      pForm (BitVec.ofNat 64 x.2.1.v) = 1 ∧ pOff (BitVec.ofNat 64 x.2.1.v) + x.1.v % 65536 + 2 ≤ 2 ^ 24) ∧
    (∀ t ∈ [0, 1], okIs (localCheck (issOf sMem 0) (localPtr ⟨some .core, none, .b32⟩ (srcsOf sMem 0 (.sts ⟨some .core, none, .b32⟩ (tt .none (.t 10) (.t 1))) (tt .none (.t 10) (.t 1)) t).2.1.v) 4
      .write true) (atCore t) = true) ∧
    (∀ x ∈ lastWins (storesOf sMem 0 (.st ⟨.b32, none⟩ (tt .none (.t 10) (.t 1))) (tt .none (.t 10) (.t 1)) 4 atCore), sMem.refusedUnits (coreAddr 1 8) (writable (coreAddr 1 8) x.data) = []) := by
  unfold BucketRoom
  exact ⟨all_issue (by decide +kernel), by decide +kernel, enter_of (by decide +kernel) (by decide +kernel), by decide +kernel, enter_of (by decide +kernel) (by decide +kernel),
    by decide +kernel⟩

/-- Hypotheses of `StoreIssues` where the buffer is full. -/
theorem witness_storeFull : AllIssue sFull 0 [.st ⟨.b32, none⟩ (tt .none (.t 8) (.t 1))] ∧ BucketRoom sFull 0 ∧
    (let xs := storesOf sFull 0 (.st ⟨.b32, none⟩ (tt .none (.t 8) (.t 1))) (tt .none (.t 8) (.t 1)) 4 fun _ => .label
     (stored sFull 0 none xs).isNone = true ∧ MayStore sFull 0 4 none xs sFull) := by
  unfold BucketRoom
  exact ⟨all_issue (by decide +kernel), by decide +kernel, by decide +kernel, mayStore_of (by decide +kernel) (by decide +kernel)⟩

/-- Hypotheses of `LocalStoreFrame`: a masked store to the last bytes of `.core`. -/
theorem witness_localStoreFrame : let x : Store := ⟨0, 0x21000000000003FC, .sram 1 (coreAddr 1 1020), [some 1, none, some 3, some 4], none, none⟩
    x.at_ = .sram 1 (coreAddr 1 1020) ∧ 1 < 2 ∧ sMem.refusedUnits (coreAddr 1 1020) (writable (coreAddr 1 1020) x.data) = [] ∧ x.data[3]? = some (some 4) ∧
      frameRo (coreAddr 1 1020 + 3) = false ∧ x.data[1]? = some none := by decide +kernel

/-- Hypotheses of `LastThreadWins`: two stores of one byte each to the same place. -/
theorem witness_lastThreadWins : let x (t : Nat) : Store := ⟨t, 0x1000000000000040, .label, [some 7], none, none⟩
    [x 0, x 1][0]? = some (x 0) ∧ (x 0).data[0]? = some (some 7) ∧ (x 0).hits (x 1) 0 = true ∧ ∀ j z, 1 < j → [x 0, x 1][j]? = some z → (x 1).hits z 0 = false := by
  refine ⟨rfl, rfl, by decide, fun j z h e => ?_⟩
  rw [List.getElem?_eq_none (by simp; omega)] at e
  cases e

/-- Hypotheses of `AtomicIssues`: `ATOM` through labels, and `RED` with a release in `.core`, each with room. -/
theorem witness_atomicIssues :
    AllIssue sMem 0 [.atom ⟨false, .add, .u32, .relaxed, .mod⟩ (tt (.t 20) (.t 8) (.t 1)), .atom ⟨true, .max, .s32, .ar, .core⟩ (tt (.t 20) (.t 8) (.t 1)),
      .red ⟨.add, .f32, false, .mod⟩ (tt .none (.t 8) (.t 1)), .red ⟨.or, .u32, true, .core⟩ (tt .none (.t 10) (.t 1))] ∧
    (let o := tt (.t 20) (.t 8) (.t 1)
     let ps := ptrsOf sMem 0 (.atom ⟨false, .add, .u32, .relaxed, .mod⟩ o) o
     let xs := partsFor sMem 0 (.atom ⟨false, .add, .u32, .relaxed, .mod⟩ o) o 4 true ps fun _ => .label
     (∀ p ∈ ps, okIs (checkAccess (issOf sMem 0) p.1 p.2 4 .atomic true) (Place.label) = true) ∧ (atomWaits (issOf sMem 0) 4 false xs).isOk = true ∧ (sMem.grp 0).atm < 255 ∧
     (let s1 := atomBefore sMem 0 none true xs
      let after := atomSent sMem (atomOpened sMem s1 0 ⟨false, .add, .u32, .relaxed, .mod⟩ (.t 20) 32 xs) 0 .add .u32 (some s1.nextId) none xs
      (after.any fun t => decide (t.logSize 0 ≤ 64)) = true)) ∧
    (let o := tt .none (.t 10) (.t 1)
     let ps := ptrsOf sMem 0 (.red ⟨.or, .u32, true, .core⟩ o) o
     let xs := partsFor sMem 0 (.red ⟨.or, .u32, true, .core⟩ o) o 4 false ps atCore
     (∀ p ∈ ps, okIs (checkAccess (issOf sMem 0) p.1 p.2 4 .atomic true) (atCore p.1) = true) ∧ (atomWaits (issOf sMem 0) 4 true xs).isOk = true ∧
     (release (issOf sMem 0) .core (xs.map fun x => x.ptr)).isOk = true ∧
     (let after := atomSent sMem (atomBefore sMem 0 (some .core) false xs) 0 .or .u32 none (some .core) xs; (after.any fun t => decide (t.logSize 0 ≤ 64)) = true)) :=
  ⟨all_issue (by decide +kernel), by decide +kernel⟩

/-- Hypotheses of `FenceCommit`: nothing is outstanding; a store in the buffer stands before a release past `.grp`. -/
theorem witness_fenceCommit :
    AllIssue sMem 0 [.fence ⟨.acq, .mod⟩ (tt .none .none .none), .fence ⟨.rel, .grp⟩ (tt .none .none .none), .fence ⟨.ar, .dom⟩ (tt .none .none .none), .commit true (tt .none .none .none)] ∧
    (sMem.commit 1).released 0 .mod = true ∧ sMem.awaitsLoads 0 = false ∧ sMem.tentRegs 1 = false ∧ sMem.wrs = [] ∧
    (let s := after (.st ⟨.b32, none⟩ (tt .none (.t 8) (.t 1))) sMem; AllIssue s 0 [.fence ⟨.rel, .mod⟩ (tt .none .none .none)] ∧ (s.commit 1).released 0 .mod = false) :=
  ⟨all_issue (by decide +kernel), by decide +kernel, by decide +kernel, by decide +kernel, by decide +kernel, all_issue (by decide +kernel), by decide +kernel⟩

/-- Hypotheses of `CacheControl`: each instruction issues; an empty range and one to the end of a region; no wait under way, and one that is over. -/
theorem witness_cacheControl :
    AllIssue sMem 0 [.pref true (tt .none (.t 8) .none), .icinv ⟨false, .clu⟩ (uu .none (.w 4) (.imm 0xFFF0)), .icinv ⟨true, .mod⟩ (uu .none .none .none), .wbr true (uu .none (.w 4) (.imm 0)),
      .wbr false (uu .none (.w 4) (.imm 64)), .invl1 ⟨true, .core⟩ (uu .none .none .none), .invl1 ⟨false, .core⟩ (uu .none (.w 4) (.imm 64))] ∧
    (sMem.fenced 0 .mod = true ∧ sMem.fenced 0 .clu = true ∧ (sMem.grp 0).cont = none ∧ sMem.wrs = []) ∧
    (∀ i ∈ [Instr.wbr true (uu .none (.w 4) (.imm 0)), .wbr false (uu .none (.w 4) (.imm 64))],
      pForm (rangePtr sMem 0 i (opds i)) = 1 ∧ (rangeLen sMem 0 i (opds i) = 0 ∨ pOff (rangePtr sMem 0 i (opds i)) + rangeLen sMem 0 i (opds i) ≤ 2 ^ 24)) ∧
    (let s := st { gMem with cont := some (.wbr []) } bMem; AllIssue s 0 [.wbr false (uu .none (.w 4) (.imm 64))] ∧ (s.grp 0).cont = some (.wbr [])) :=
  ⟨all_issue (by decide +kernel), by decide +kernel, by decide +kernel, all_issue (by decide +kernel), by decide +kernel⟩

/-! ## Witnesses: copies, waits, barriers, watches, traps -/

/-- A uniform state: w2 : w3 pointers to labels, w4 : w5 to `.core` bytes 0x80 and 0xC0, w8 … w11 a copy descriptor of 16 bytes in 1 row in 1 plane, w12 … a bad one. -/
def gCopy : Group :=
  { g0 with act := 1, ext0 := 1
            w := [(2, { v := 0x1000000000000010 }), (3, { v := 0x1000000000000040 }), (4, { v := 0x2100000000000080 }), (5, { v := 0x21000000000000C0 }), (6, { v := 0x2100000000000008 }), (7, { v := 1 }),
                  (8, { v := 0x0001000100000010 }), (12, { v := 0x10 }), (13, { v := 0x10000 })] }
def sCopy : Machine.State := st gCopy bMem

/-- `MayCopy`, as a decision, with these places of its ranges. -/
def mayCopyB (s : Machine.State) (dst src : W64) (x : CopyDesc) (dl sl : Option Nat) : Bool :=
  let base (p : W64) : Nat := if pForm p = 2 then bf p 0 32 else pOff p
  okIs (copyPtr (issOf s 0) dst .write (copyRange (base dst) x.e x.ds) (decide (x.e.1 = 0))) dl &&
  (if x.zf then decide (sl = none) else okIs (copyPtr (issOf s 0) src .read (copyRange (base src) x.e x.ss) (decide (x.e.1 = 0))) sl) &&
  decide (s.copyQueue (clusterOf (unitOfGid 0)) < 64) && decide ((s.grp 0).cpy < 255) && decide (s.atBuckets (unitOfGid 0) (s.blk (s.grp 0).blk).ctx < 64) && !s.acquiring 0 &&
  (x.zf || (if privateSpace dst then s else s.commit (s.grp 0).blk).released 0 (sourceScope s (s.blk (s.grp 0).blk).ctx src))

theorem mayCopy_of {s : Machine.State} {dst src : W64} {x : CopyDesc} {dl sl : Option Nat} (h : mayCopyB s dst src x dl sl = true) : MayCopy s 0 dst src x dl sl := by
  simp only [mayCopyB, Bool.and_eq_true, Bool.not_eq_true', Bool.or_eq_true, decide_eq_true_eq] at h
  obtain ⟨⟨⟨⟨⟨⟨h1, h2⟩, h3⟩, h4⟩, hb⟩, h5⟩, h6⟩ := h
  refine ⟨ok_of h1, ?_, h3, h4, hb, h5, fun hz => by simpa [hz] using h6⟩
  by_cases hz : x.zf = true
  · rw [if_pos hz] at h2 ⊢; exact of_decide_eq_true h2
  · rw [if_neg hz] at h2 ⊢; exact ok_of h2

/-- Hypotheses of `Copies`: between labels, between local ranges, of no bytes; a descriptor with E1 = 0; the extreme strides. -/
theorem witness_copies :
    (∀ x ∈ [(Instr.cpy (uu (.w 16) (.w 2) (.imm 16))), .cpy (uu (.w 16) (.w 4) (.imm 16)), .cpy (uu (.w 16) (.w 2) (.imm 0)), .cpys (uu (.w 16) (.w 4) (.w 8)), .cpys (uu (.w 16) (.w 4) (.w 12))],
      sCopy.issuer = some 0 ∧ actingOf sCopy 0 (opds x) ≠ [] ∧
      passesB (issOf sCopy 0) (opds x).hdr (copyReads (issOf sCopy 0) x (opds x)) (dstEmpty (issOf sCopy 0) (actingOf sCopy 0 (opds x)) 64 (opds x).d.x) = true) ∧
    MayCopy sCopy 0 0x1000000000000010 0x1000000000000040 ⟨(16, 1, 1), (0, 0), (0, 0), false⟩ none none ∧
    MayCopy sCopy 0 0x1000000000000010 0x1000000000000040 ⟨(0, 1, 1), (0, 0), (0, 0), false⟩ none none ∧
    MayCopy sCopy 0 0x2100000000000080 0x21000000000000C0 ⟨(16, 1, 1), (0, 0), (0, 0), false⟩ (some (coreAddr 1 0)) (some (coreAddr 1 0)) ∧
    copyDesc (descWord sCopy 0 (uu (.w 16) (.w 4) (.w 8)) 0) (descWord sCopy 0 (uu (.w 16) (.w 4) (.w 8)) 1) (descWord sCopy 0 (uu (.w 16) (.w 4) (.w 8)) 2)
      (descWord sCopy 0 (uu (.w 16) (.w 4) (.w 8)) 3) = some ⟨(16, 1, 1), (0, 0), (0, 0), false⟩ ∧
    slice (descWord sCopy 0 (uu (.w 16) (.w 4) (.w 12)) 0) 32 16 = 0 ∧
    (0xFFFFFFFF < 2 ^ 32 ∧ 0 < 1 ∧ 65535 < 2 ^ 16 ∧ ∀ x ∈ [(-2 ^ 31 : Int), 2 ^ 31 - 1, 0, 1], -2 ^ 31 ≤ x ∧ x < 2 ^ 31) :=
  ⟨by decide +kernel, mayCopy_of (by decide +kernel), mayCopy_of (by decide +kernel), mayCopy_of (by decide +kernel), by decide +kernel, by decide +kernel, by decide⟩

/-- A copy of the group on core 0, as `CPY` leaves it, and the state with it. -/
def sCopied : Machine.State := after (.cpy (uu (.w 16) (.w 2) (.imm 16))) sCopy

/-- Hypotheses of `Waiting`: a time that has passed and one to come; an operand of 255; a class with nothing outstanding, and one with a copy before the count; a sleeping group. -/
theorem witness_waiting :
    AllIssue sCopied 0 [.sleept true (uu .none (.imm 5) .none), .sleept false (uu .none (.imm 0) .none), .waitc .cpy (uu .none (.imm 0) .none), .waitc .net (uu .none (.imm 0) .none),
      .waitc .cpy (uu .none (.imm 255) .none)] ∧
    (match sCopied.met 0 .net 0 with | .clear => true | _ => false) = true ∧
    (∃ x ∈ sCopied.copies, x.2.gid = 0 ∧ x.2.num < (sCopied.grp 0).cpyN - 0) ∧ (∀ x ∈ sCopied.copies, (sCopied.grp 0).cpyN - 1 ≤ x.2.num) ∧
    (let s := after (.sleept true (uu .none (.imm 5) .none)) sCopy; (FMap.find? s.groups 0).map (fun g => g.wait) = some (.sleep 5)) :=
  ⟨all_issue (by decide +kernel), by decide +kernel⟩

/-- A barrier word of 2 members at `.core` byte 8 of the block, with `arr` arrivals, at phase 65,535. -/
def sBar (arr : Nat) : Machine.State := { sCopy with mem := Memory.writeN [] (coreAddr 1 8) (leBytes 8 (2 * 2 ^ 32 + arr * 2 ^ 16 + 65535)) }

/-- An arrival that has been counted, and a group that waits for a phase to end. -/
def sArw : Machine.State := { sBar 0 with groups := [(0, { gCopy with cont := some (.arw 65535 0) })] }
def sWtb : Machine.State := { sBar 1 with groups := [(0, { gCopy with wait := .barrier false (coreAddr 1 8) 65535 false })] }

/-- Hypotheses of `Barriers`: counts of 0, 1, 65,535 and more; an arrival that ends the phase, one too many, one of 0, an unset word, a poisoned one; `WTB` with and without a wait; `ARW`. -/
theorem witness_barriers :
    (∀ i ∈ [Instr.binit .core (uu .none (.w 6) (.imm 0)), .binit .core (uu .none (.w 6) (.imm 1)), .binit .core (uu .none (.w 6) (.imm 0xFFFF)), .binit .core (uu .none (.w 6) (.w 13))],
      issuesB (sBar 1) 0 i = true) ∧ 65535 < (srcsOf (sBar 1) 0 (.binit .core (uu .none (.w 6) (.w 13))) (uu .none (.w 6) (.w 13)) 0).2.2.v ∧
    (∀ i ∈ [Instr.arv ⟨.core, .core⟩ (uu (.w 16) (.w 6) (.imm 1)), .arv ⟨.core, .core⟩ (uu (.w 16) (.w 6) (.imm 2)), .arv ⟨.core, .core⟩ (uu (.w 16) (.w 6) (.imm 0)),
        .wtb ⟨.core, .core⟩ (uu .none (.w 6) (.imm 0xFFFF)), .wtb ⟨.core, .core⟩ (uu .none (.w 6) (.imm 0)), .arw ⟨.core, .core⟩ (uu (.w 16) (.w 6) (.imm 1))],
      issuesB (sBar 1) 0 i = true ∧ okIs (barPlace (issOf (sBar 1) 0) (barPtr .core (srcsOf (sBar 1) 0 i (opds i) 0).2.1.v)) (coreAddr 1 8) = true) ∧
    ((sBar 1).poison (coreAddr 1 8)).anyPoison (coreAddr 1 8) 8 = true ∧ issuesB ((sBar 1).poison (coreAddr 1 8)) 0 (.arv ⟨.core, .core⟩ (uu (.w 16) (.w 6) (.imm 1))) = true ∧
    (barWaits (issOf (sBar 1) 0) (coreAddr 1 8)).isNone = true ∧ (sBar 1).anyPoison (coreAddr 1 8) 8 = false ∧ ((sBar 1).commit 1).released 0 .core = true ∧
    cntAt (sBar 1) (coreAddr 1 8) = 2 ∧ arrAt (sBar 1) (coreAddr 1 8) = 1 ∧ phAt (sBar 1) (coreAddr 1 8) = 65535 ∧ cntAt sCopy (coreAddr 1 8) = 0 ∧
    (sArw.issuer = some 0 ∧ (sArw.grp 0).arrived = some 65535 ∧ ((sBar 1).grp 0).arrived = none) ∧ (sWtb.grp 0).wait = .barrier false (coreAddr 1 8) 65535 false := by decide +kernel

/-- A state in which the group on core 0 watches the word at `.core` byte 8, and one in which its watch is due. -/
def sWatch : Machine.State := after (.watch ⟨false, .core⟩ (uu (.w 16) (.w 6) (.imm 0))) sCopy
def sDue : Machine.State := { sWatch with watches := FMap.mapVals sWatch.watches fun _ w => { w with fired := true } }

/-- Hypotheses of `Watching`: a local word and a labelled one; a report for a watch that is due, and for one whose group has left it. -/
theorem witness_watching :
    AllIssue sCopy 0 [.watch ⟨false, .core⟩ (uu (.w 16) (.w 6) (.imm 0)), .watch ⟨true, .mod⟩ (uu (.w 16) (.w 2) (.imm 0))] ∧ sCopy.acquiring 0 = false ∧ BucketRoom sCopy 0 ∧
    okIs (checkAccess (issOf sCopy 0) 0 0x2100000000000008 4 .read true) (.sram 1 (coreAddr 1 8)) = true ∧
    okIs (checkAccess (issOf sCopy 0) 0 0x1000000000000010 8 .read true) .label = true ∧
    (∃ x ∈ sDue.watches, (sDue.grp x.2.gid).wait = .watch x.1 ∧ sDue.watchLocal x.2 = some (coreAddr 1 8) ∧ x.2.due sDue.now = true) ∧
    (∃ x ∈ ({ sDue with groups := [] } : Machine.State).watches, (({ sDue with groups := [] } : Machine.State).grp x.2.gid).wait ≠ .watch x.1) := by
  unfold BucketRoom
  exact ⟨all_issue (by decide +kernel), by decide +kernel⟩

/-- Hypotheses of `TrapsAndReturns`: a trap; returns from a handler, with a region, without one, and outside a handler; halts on a compute core and on a system core. -/
theorem witness_trapsAndReturns :
    AllIssue s0 0 [.trap (tt .none (.imm 0xFFFF) .none), .rett false (tt .none .none .none), .halt (tt .none .none .none)] ∧ (s0.grp 0).inH = false ∧
    (let s := st { g0 with inH := true, rgn := some ⟨7, 3, []⟩ }
     AllIssue s 0 [.rett false (uu .none .none .none), .rett true (uu .none .none .none)] ∧ (s.grp 0).inH = true ∧ (s.grp 0).rgn = some ⟨7, 3, []⟩) ∧
    (let s := st { g0 with inH := true }; AllIssue s 0 [.rett true (uu .none .none .none)] ∧ (s.grp 0).rgn = none) ∧
    AllIssue (stSys g0) 393216 [.halt (tt .none .none .none)] ∧ isSys (unitOfGid 393216) = true ∧ isSys (unitOfGid 0) = false :=
  ⟨all_issue (by decide +kernel), by decide +kernel, ⟨all_issue (by decide +kernel), by decide +kernel⟩, ⟨all_issue (by decide +kernel), by decide +kernel⟩,
    all_issue (by decide +kernel), by decide +kernel⟩

/-- Hypotheses of `TrapEntry`: a context with a handler; one without. -/
theorem witness_trapEntry : let s : Machine.State := { s0 with ctxs := [(0, { hcode := 0x1000000000000000, hlen := 2, hent := 5 })] }
    FMap.find? s.groups 0 = some g0 ∧ g0.inH = false ∧ (s.ctx (s.blk g0.blk).ctx).hlen ≠ 0 ∧ (s0.ctx (s0.blk g0.blk).ctx).hlen = 0 := by decide +kernel

/-! ## Witnesses: the matrix engine -/

/-- Uniform registers for the matrix instructions: w2 : w3 operands A and B in labels, w4 their row strides, w5 a `.core` pointer with its strides in w6; tile 1 is bound in FP32
mode, tile 2 in welt mode. -/
def gMat : Group :=
  { g0 with act := 1, ext0 := 1
            w := [(2, { v := 0x1000000000000000 }), (3, { v := 0x1000000000010000 }), (4, { v := 0x0000004000000040 }), (5, { v := 0x2100000000000000 }), (6, { v := 0x100 }), (7, { v := 1 })]
            tiles := [(1, ⟨.f32, false, 0, 0⟩), (2, ⟨.welt, false, 1, 0⟩)] }
def bMat : Block := { bMem with hdr := { bMem.hdr with core := 65536 } }
def sMat : Machine.State := { st gMat bMat with cores := [(0, { slots := [(0, { own := 0 }), (1, { own := 0 })] })] }

/-- `GroupIssues`, as a decision. -/
def groupB (s : Machine.State) (gid : Nat) (i : Instr) (field k : Nat) : Bool :=
  decide (s.issuer = some gid) && decide (actingOf s gid (opds i) ≠ []) &&
    passesB (issOf s gid) (opds i).hdr (tileReads (issOf s gid) i (opds i) field k) (dstEmpty (issOf s gid) (actingOf s gid (opds i)) (spec i).d.width (opds i).d.x)

theorem group_of {s : Machine.State} {gid : Nat} {i : Instr} {field k : Nat} (h : groupB s gid i field k = true) : GroupIssues s gid i (opds i) field k := by
  simp only [groupB, Bool.and_eq_true, decide_eq_true_eq] at h
  exact ⟨h.1.1, h.1.2, passes_of h.2⟩

/-- `OperandOk`, as a decision. -/
def operandB (s : Machine.State) (p : W64) (k : AKind) (rb rows stride planes ps : Nat) (loc : Option Nat) : Bool :=
  match opRange (issOf s 0) p k rb rows stride planes ps with
  | .ok r => decide (r.1 = loc) && (opPromise (issOf s 0) p (r.2.1, r.2.2)).isOk
  | .error _ => false

theorem operand_of {s : Machine.State} {p : W64} {k : AKind} {rb rows stride planes ps : Nat} {loc : Option Nat}
    (h : operandB s p k rb rows stride planes ps loc = true) : OperandOk s 0 p k rb rows stride planes ps loc := by
  unfold operandB at h
  split at h
  · next r e =>
    simp only [Bool.and_eq_true, decide_eq_true_eq] at h
    exact ⟨(r.2.1, r.2.2), by rw [e, ← h.1], ok_unit h.2⟩
  · cases h

/-- Hypotheses of `EngineWork`: a multiplication of 64 FP8 elements, its tile unbound or in another mode, a K off the chunk; a store of a tile's image and drains to `.core`; both forms of `MTOPK`. -/
theorem witness_engineWork :
    (∀ i ∈ [Instr.mma ⟨false, false, .e4m3⟩ (uu (.tile 1) (.w 2) (.imm 64)), .mma ⟨false, false, .e4m3⟩ (uu (.tile 3) (.w 2) (.imm 64)), .mma ⟨false, true, .e4m3⟩ (uu (.tile 1) (.w 2) (.imm 64)),
        .mma ⟨false, false, .e4m3⟩ (uu (.tile 1) (.w 2) (.imm 1)), .mdist ⟨false, false, .bf16⟩ (uu (.tile 1) (.w 2) (.imm 64))], groupB sMat 0 i 2 3 = true) ∧
    (∀ i ∈ [Instr.mstt (uu (.tile 1) (.w 5) .none), .mdrn ⟨.diff, .f32, .rne, false⟩ (uu (.tile 1) (.w 5) .none), .mdrn ⟨.gate, .f32, .rne, false⟩ (uu (.tile 2) (.w 5) (.ag 3)),
        .mdrn ⟨.gate, .f32, .rne, false⟩ (uu (.tile 1) (.w 5) (.ag 3))], groupB sMat 0 i 2 2 = true) ∧
    groupB sMat 0 (.mtopkMem ⟨0, true, true⟩ (uu .none (.tile 1) (.w 5))) 3 2 = true ∧
    passesB (issOf sMat 0) {} [] false = true ∧ actingOf sMat 0 (tt (.t 20) (.tile 1) .none) ≠ [] ∧ (∀ j < 5, ((sMat.grp 0).treg 0 (20 + j)).st ≠ .empty) ∧
    TileAt sMat 0 (.tile 1) ⟨.f32, false, 0, 0⟩ ∧ TileAt sMat 0 (.tile 2) ⟨.welt, false, 1, 0⟩ ∧ FMap.find? (sMat.grp 0).tiles 3 = none ∧
    64 % chunkOf .e4m3 = 0 ∧ 1 % chunkOf .e4m3 ≠ 0 ∧ 64 % chunkOf .bf16 = 0 ∧
    (srcsOf sMat 0 (.mma ⟨false, false, .e4m3⟩ (uu (.tile 1) (.w 2) (.imm 64))) (uu (.tile 1) (.w 2) (.imm 64)) 0).2.2.v % 2 ^ 32 = 64 ∧
    OperandOk sMat 0 0x1000000000000000 .read (64 * elemBits .e4m3 / 8) 64 64 1 0 none ∧ OperandOk sMat 0 0x1000000000010000 .read (64 * elemBits .e4m3 / 8) 64 64 1 0 none ∧
    OperandOk sMat 0 0x2100000000000000 .write (imageRow .f32 64) 64 256 (imagePlanes .f32) 0 (some (coreAddr 1 0)) ∧
    privateSpace 0x2100000000000000 = true ∧ EngineRoom sMat 0 := by
  have work : ∀ i ∈ [Instr.mma ⟨false, false, .e4m3⟩ (uu (.tile 1) (.w 2) (.imm 64)), .mma ⟨false, false, .e4m3⟩ (uu (.tile 3) (.w 2) (.imm 64)),
      .mma ⟨false, true, .e4m3⟩ (uu (.tile 1) (.w 2) (.imm 64)), .mma ⟨false, false, .e4m3⟩ (uu (.tile 1) (.w 2) (.imm 1)), .mdist ⟨false, false, .bf16⟩ (uu (.tile 1) (.w 2) (.imm 64))],
      groupB sMat 0 i 2 3 = true := by decide +kernel
  have reads : OperandOk sMat 0 0x1000000000000000 .read (64 * elemBits .e4m3 / 8) 64 64 1 0 none ∧
      OperandOk sMat 0 0x1000000000010000 .read (64 * elemBits .e4m3 / 8) 64 64 1 0 none ∧
      OperandOk sMat 0 0x2100000000000000 .write (imageRow .f32 64) 64 256 (imagePlanes .f32) 0 (some (coreAddr 1 0)) :=
    ⟨operand_of (by decide +kernel), operand_of (by decide +kernel), operand_of (by decide +kernel)⟩
  simp only [reads, true_and, TileAt, EngineRoom, BucketRoom]
  exact ⟨work, by decide +kernel⟩

/-- Hypotheses of `EngineControl`: names bound and unbound, on an even and on an odd core; agreement registers; a batch closed and a batch without a number. -/
theorem witness_engineControl :
    AllIssue sMat 0 [.mzero .f32 (uu (.tile 1) .none .none), .mzero .f64 (uu (.tile 3) .none .none), .mpair .f32 (uu (.tile 1) .none .none), .mfree true (uu .none .none .none),
      .mfree false (uu (.tile 2) .none .none), .magr (uu (.ag 0) (.w 2) .none), .magrGet (uu (.w 16) (.ag 0) .none), .mprog (uu .none (.imm 0) .none), .mbatch (uu (.w 16) .none .none),
      .mwait (uu .none (.imm 1) .none)] ∧
    groupB sMat 0 (.mldt .f32 (uu (.tile 1) (.w 5) .none)) 2 2 = true ∧ OperandOk sMat 0 0x2100000000000000 .read (imageRow .f32 64) 64 256 (imagePlanes .f32) 0 (some (coreAddr 1 0)) ∧
    (((issOf sMat 0).bindOne 1 .f64).isSome = true ∧ ((issOf sMat 0).bindOne 3 .f64).isSome = true ∧ sMat.freeSlot 0 = some 2 ∧ sMat.freeSlot 1 = some 0 ∧ unitOfGid 0 % 2 = 0 ∧
    sMat.openOps 0 = 0 ∧ (sMat.grp 0).closed = []) ∧
    (let s := after (.mbatch (uu (.w 16) .none .none)) sMat
     (s.grp 0).closed.find? (fun b => b.1 = 1) = some (1, []) ∧ s.incomplete [] = false ∧ AllIssue s 0 [.mwait (uu .none (.imm 1) .none)]) ∧
    (let s : Machine.State := { sMat with groups := [(256, gMat)], lanes := [(32, { slot := some 0 })], cur := 32, blocks := [(1, { bMat with core := 1, groups := [256] })] }
     AllIssue s 256 [.mpair .f32 (uu (.tile 1) .none .none)] ∧ unitOfGid 256 % 2 = 1) ∧
    (∀ j < 2, FMap.find? (sMat.core 0).slots j ≠ none) ∧ FMap.find? (sMat.core 0).slots 2 = none :=
  ⟨all_issue (by decide +kernel), by decide +kernel, operand_of (by decide +kernel), by decide +kernel, ⟨by decide +kernel, by decide +kernel, all_issue (by decide +kernel)⟩,
    ⟨all_issue (by decide +kernel), by decide +kernel⟩, by decide +kernel⟩

/-! ## Witnesses: token routing, collectives, launches -/

/-- A served request by which the group on core 0 has read bytes at issue. -/
def gotReq (p : W64) (bs : List Byte) : Req :=
  { client := .range 0, kind := .read, org := { ptr := p, guidon := 0, unit := 0 }, ptr := p, ptr0 := p, fam := p.toNat, len := bs.length, stage := .context
    result := bs.map fun b => (b, false), served := true }

/-- Descriptors in w20 … w23 (a round: map at label 0x100, one expert, no payload), w24 … w27 (a receive buffer of 4 slots for session 0, expert 0, one end), w28 … w31 (a collective of
one member, its list at label 0x200), w40 … w47 (a launch packet with LID 5); t8 : t9 names expert 0 without a second choice; t10 : t11 a label pointer. -/
def gNet : Group :=
  { g0 with act := 1, ext0 := 1, cob := true
            t := [(8, { v := 0xFFFF0000 }), (9, { v := 7 }), (10, { v := 0x40 }), (11, { v := 0x10000000 })]
            w := [(20, { v := 0x1000000000000100 }), (21, { v := 0x0001000000000000 }), (22, { v := 0x1000000000001000 }), (23, { v := 4 }),
                  (24, { v := 0x1000000000002000 }), (25, { v := 0x1000000000003000 }), (26, { v := 0x0000000400000010 }), (27, { v := 0x0000000000010000 }),
                  (28, { v := 0x1000000000004000 }), (29, { v := 0x1000000000005000 }), (30, { v := 0x0000000100000004 }), (31, { v := 0x1000000000000200 }), (46, { v := 5 * 2 ^ 50 })] }
def sNet : Machine.State :=
  { st gNet bMem with regs := { State.reset.regs with mod := some 0, mask := 1 }
                      reqs := [(1000, gotReq 0x1000000000000100 [0, 0, 0, 0x80]), (1001, gotReq 0x1000000000000200 [0, 0])]
                      parts := [(0, { dies := 1 })], recs := [(5, { q := 0, ctx := 0, part := 0, hdr := {}, pkt := List.replicate 8 0, die := 0, t := 2, count := 2, bps := 1, gpb := 1, prio := 0 })]
                      nextId := 2000 }

/-- Hypotheses of `Network`: a token whose map entry has been read; a receive buffer; a flush of a round; a count; a collective of one member, a member list out of range, a tag in use. -/
theorem witness_network :
    groupB sNet 0 (.rsend (tt (.t 8) (.t 10) (.w 20))) 3 4 = true ∧ groupB sNet 0 (.rpost (uu .none (.w 24) .none)) 2 4 = true ∧ groupB sNet 0 (.rflush (uu .none .none (.w 20))) 3 4 = true ∧
    AllIssue sNet 0 [.rstat .cnt (uu (.w 16) (.imm 0) .none), .rstat .drop (uu (.w 16) (.imm 0) .none)] ∧
    groupB sNet 0 (.coll ⟨.allreduce, .f32, .add⟩ (uu .none (.w 28) (.imm 9))) 2 4 = true ∧
    (let d := fourWords sNet 0 (.w 20)
     (roundAt sNet 0 d).flush = none ∧ routeOk d = true ∧
     (rsendCheck (issOf sNet 0) (roundAt sNet 0 d) (sendsOf (issOf sNet 0) (tt (.t 8) (.t 10) (.w 20)) (actingOf sNet 0 (tt (.t 8) (.t 10) (.w 20))))).isOk = true ∧
     (readMap (issOf sNet 0) (roundAt sNet 0 d).map [(0, 0)]).isOk = true ∧ (List.range (roundAt sNet 0 d).nexp).map (fun e => (0, e)) = [(0, 0)] ∧
     (sNet.commit 1).entriesUsed 0 + 1 ≤ 8192) ∧
    ((sNet.commit 1).ownReleased 0 .mod = true ∧ sNet.acquiring 0 = false ∧ (sNet.grp 0).net < 255) ∧
    (let d := fourWords sNet 0 (.w 24)
     bf (dw d 3) 48 16 = 0 ∧ bf (dw d 2) 32 32 = 4 ∧ bf (dw d 3) 16 16 = 1 ∧ bf (dw d 2) 0 32 = 16 ∧ (sNet.openBuf 0 0 (bf (dw d 3) 32 16) (bf (dw d 3) 0 16)).isNone = true ∧
     (boundHere (issOf sNet 0) (dw d 0) .write 128).isOk = true ∧ (boundHere (issOf sNet 0) (dw d 1) .write 64).isOk = true ∧ (sNet.commit 1).bufs = []) ∧
    (let d := fourWords sNet 0 (.w 28)
     bf (dw d 2) 48 16 = 0 ∧ bf (dw d 2) 32 16 = 1 ∧ okIs (readList (issOf sNet 0) (dw d 3) 1) [0] = true ∧ (distinct [0]).length = 1 ∧ sNet.modNo = 0 ∧ sNet.member 0 = true ∧
     (sNet.collOf 9).isNone = true ∧ (boundHere (issOf sNet 0) (dw d 0) .read 16).isOk = true) ∧
    (bf (dw (fourWords sNet 0 (.w 20)) 2) 32 16 ≤ bf (dw (fourWords sNet 0 (.w 20)) 2) 48 16) ∧
    (let s := after (.coll ⟨.allreduce, .f32, .add⟩ (uu .none (.w 28) (.imm 9))) sNet; (s.collOf 9).isSome = true) :=
  ⟨by decide +kernel, by decide +kernel, by decide +kernel, all_issue (by decide +kernel), by decide +kernel⟩

/-- Where the first fit of a set succeeds, it has a placement. -/
theorem placement_some {s : Machine.State} {c : Nat} {h : Header} {ngrp n : Nat} {gone : Nat → Bool} {rs : List (Nat × Room)} (e : s.clusterRooms c h.eighth gone = some rs)
    (f : (firstFit (h.shape ngrp) n rs).isSome = true) : ∃ pl, s.placement c h ngrp n gone = some pl := by
  unfold State.placement
  rw [e]
  dsimp only
  split
  · exact ⟨_, rfl⟩
  · exact Option.isSome_iff_exists.mp f

/-- Hypotheses of `Launching`: a record that is live and one that is not, a set beyond the last, no such cluster, a set that is too large, one with a placement; a group that is no
cobbler; a mailbox with an entry, and an empty one. -/
theorem witness_launching :
    groupB sNet 0 (.launch true (uu (.w 16) (.w 40) (.imm 0))) 2 8 = true ∧ groupB sNet 0 (.mbxfwd true (uu (.w 16) (.w 40) (.imm 0))) 2 8 = true ∧
    AllIssue sNet 0 [.mbxrd false (uu (.w 32) .none .none), .mbxrd true (uu (.w 32) .none .none), .pennant (uu .none .none .none)] ∧ (sNet.grp 0).cob = true ∧ gMat.cob = false ∧
    groupB (st gMat bMem) 0 (.launch true (uu (.w 16) (.w 40) (.imm 0))) 2 8 = true ∧ packetEmpty (sNet.grp 0) (.w 32) = false ∧
    (let s1 := sNet.commit 1
     pktLid (packetAt sNet 0 (.w 40)) = 5 ∧ (s1.liveRec 5 0).isSome = true ∧ (s1.liveRec 6 0).isNone = true ∧ pktFirst (packetAt sNet 0 (.w 40)) < 2 ∧ s1.launchCluster 0 0 = some 0 ∧
     s1.launchCluster 0 17 = none ∧ s1.everFits 0 {} 1 1 = true ∧ s1.everFits 0 { core := 300000 } 1 1 = false ∧ s1.released 0 .mod = true ∧
     (0 : Nat) ∈ s1.partDies 0 ∧ 1 ∉ s1.partDies 0 ∧ s1.boxFree 0 ≠ 0) ∧
    (∃ pl, (sNet.commit 1).placement 0 {} 1 1 (fun _ => false) = some pl) := by
  refine ⟨by decide +kernel, by decide +kernel, all_issue (by decide +kernel), by decide +kernel, by decide +kernel, by decide +kernel, by decide +kernel, by decide +kernel, ?_⟩
  have h : ((sNet.commit 1).clusterRooms 0 ({} : Header).eighth (fun _ => false)).any (fun rs => (firstFit (({} : Header).shape 1) 1 rs).isSome) = true := by decide +kernel
  obtain ⟨rs, hr⟩ : ∃ rs, (sNet.commit 1).clusterRooms 0 ({} : Header).eighth (fun _ => false) = some rs := by
    cases e : (sNet.commit 1).clusterRooms 0 ({} : Header).eighth (fun _ => false) with
    | none => rw [e] at h; cases h
    | some rs => exact ⟨rs, rfl⟩
  rw [hr] at h
  exact placement_some hr h

/-! ## Witnesses: the supervisor's instructions -/

/-- Uniform registers of a system core's group: w2 a chip entry's table address with an entry in w4 : w5, w3 a context entry's address, w6 an address out of range, w7 a queue pointer. -/
def gSup : Group :=
  { g0 with act := 1, ext0 := 1
            w := [(2, { v := 0x4 }), (3, { v := 0x8 }), (4, { v := 0 }), (5, { v := 0x4F00000000000000 }), (6, { v := 0x40000 }), (7, { v := 0x1000000000000100 }), (8, { v := 0 }), (9, { v := 0x1000000000000 })] }

/-- Tables through which label 0 reaches stack 0: a context entry, a port entry, a chip entry, a stack entry of 64 KiB with its page table at byte 4,096, one open rule at each level;
O = 1 is an egress to port 5 of this module; M = 1 is gated. -/
def tabs0 : FMap (BitVec 128) :=
  [(State.reset.keyCtx 0 0, 0x4F000000000000000000000000000000), (State.reset.keyCtx 0 1, 0x4F000000800000000000000000000000 ||| (5 : BitVec 128) <<< 85),
   (keyPort 5, 0x4F000000000000000000000000000000), (keyChip 0, 0x4F000000000000000000000000000000), (keyChip 1, 0x9F000000000000000000000000000000),
   (keyStack 0 0, 0x4F000000000000000000000000000000 ||| (1 : BitVec 128) <<< 56),
   (keyRule 1 0 0 0, 0xF8000000000000000000000000000000), (keyRule 2 0 0 0, 0xF8000000000000000000000000000000), (keyRule 3 0 0 0, 0xF8000000000000000000000000000000),
   (keyRule 4 0 0 0, 0xF8000000000000000000000000000000)]

def sSup : Machine.State := { stSys gSup with tabs := tabs0 }

/-- Hypotheses of `Tables`: each instruction issues; a good and a bad table address; an entry that the level allows and one that it does not; an entry in use and one that is gated. -/
theorem witness_tables :
    AllIssue sSup 393216 [.linv ⟨true, false, .mod⟩ (uu .none (.imm 0) .none), .linv ⟨false, true, .core⟩ (uu .none (.imm 0) .none), .lsync (uu .none .none .none),
      .gateClose .chip (uu (.w 16) (.imm 0) .none), .gateClose .chip (uu (.w 16) (.imm 4) .none), .gateOpen .chip (uu (.w 16) (.imm 4) .none), .gateOpen .chip (uu (.w 16) (.w 6) .none)] ∧
    groupB sSup 393216 (.ltwr .chip (uu (.w 16) (.w 2) (.w 4))) 3 2 = true ∧ groupB sSup 393216 (.ltwr .acl (uu (.w 16) (.w 6) (.w 4))) 3 2 = true ∧
    sSup.tabKey .chip 4 = some (keyChip 1) ∧ sSup.tabKey .chip 0x40000 = none ∧ sSup.tabKey .chip 0 = some (keyChip 0) ∧
    entryOk 3 0x4F000000000000000000000000000000 = true ∧ entryOk 3 0x4F000000000000000000000000000001 = false ∧ ruleOk 0xF8000000000000000000000000000000 = true ∧
    eST (sSup.tab (keyChip 1)) = 2 ∧ eST (sSup.tab (keyChip 0)) ≠ 2 ∧
    (let s1 := sSup.gateClose 1536 (gateTab .chip) 0 (keyChip 0); s1.count (keyChip 0) = 0) ∧
    (let s : Machine.State := { sSup with counts := [(keyChip 0, 1)] }; (s.gateClose 1536 (gateTab .chip) 0 (keyChip 0)).count (keyChip 0) ≠ 0) ∧
    (let l : CLine := { ctx := 0, o := 0, ent := 0 }; let s : Machine.State := { sSup with cores := [(0, { lcache := [l] })] }; l ∈ (s.core 0).lcache) :=
  ⟨all_issue (by decide +kernel), by decide +kernel⟩

/-- Hypotheses of `Supervision`: a relocation that a check refuses, and one that none does; hoists that may run, and each status. -/
theorem witness_supervision :
    (let pe : Machine.State := { sSup with
       tabs := FMap.insert tabs0 (keyStack 0 0) (0x9F000000000000000000000000000000 ||| (1 : BitVec 128) <<< 56), mem := Memory.writeN [] (hbmAddr 0 4096) (leBytes 8 (2 ^ 62 + 16)) }
     AllIssue pe 393216 [.reloc (uu (.w 16) (.imm 0) (.imm 0x20)), .reloc (uu (.w 16) (.imm 0) (.w 9))] ∧ pe.relocCheck 0 0x20 = 0 ∧ pe.relocCheck 0 0x1000000000000 = 6 ∧
     (pe.base 0).reloc.isNone = true) ∧
    AllIssue sSup 393216 [.hoistJoin (uu (.w 16) (.imm 1) .none), .hoistLeave (uu (.w 16) (.imm 1) .none), .hoistEvict (uu (.w 16) (.imm 1) .none), .hoistRekey (uu (.w 16) (.imm 0) .none)] ∧
    sSup.hoistStatus 3 0 = some 1 ∧ sSup.hoist.isNone = true ∧
    (let s : Machine.State := { sSup with regs := { sSup.regs with mod := some 0, lead := true, memb := true, mask := 3 } }
     s.hoistStatus 0 1 = some 2 ∧ s.hoistStatus 1 1 = none ∧ s.hoistStatus 2 2 = some 2 ∧
     (let t : Machine.State := { s with regs := { s.regs with gen := 0xFFFFFFFF } }; t.hoistStatus 3 0 = some 3)) ∧
    (let s : Machine.State := { sSup with regs := { sSup.regs with mod := some 0 } }; s.hoistStatus 0 s.modNo = none) := by
  refine ⟨⟨all_issue (by decide +kernel), by decide +kernel⟩, all_issue (by decide +kernel), by decide +kernel⟩

/-- A queue header and an entry that the group on the system core has read. -/
def qReq (p : W64) (bs : List Byte) : Req :=
  { client := .range 393216, kind := .read, org := { ptr := p, guidon := 0, unit := 0 }, ptr := p, ptr0 := p, fam := p.toNat, len := bs.length, stage := .context
    result := bs.map fun b => (b, false), served := true }

/-- A queue of size 2 at the pointer in w7 with RIDX 0, WIDX `w` and an entry of sevens, as the group on the system core has read them. -/
def sEq (w : Nat) (f : Group → Group := id) : Machine.State :=
  { sSup with tabs := [], groups := [(393216, f gSup)], reqs := [(0, qReq 0x1000000000000100 (leBytes 8 2 ++ leBytes 8 w ++ leBytes 16 0)), (1, qReq 0x1000000000000140 (leBytes 64 7))] }

/-- A state in which context 4 has a block with a group. -/
def sBusy : Machine.State :=
  { sSup with
    blocks := sSup.blocks ++ [(2, { ctx := 4, groups := [7], live := 1 })]
    groups := sSup.groups ++ [(7, { g0 with blk := 2 })]
    ctxs := [(4, { vst := .run })] }

/-- Hypotheses of `QueuesAndContexts`: an empty queue, one with an entry, a packet register that is EMPTY, a read index still to be written; contexts in each of their states, stops that
are done at once and ones that are not. -/
theorem witness_queuesAndContexts :
    (∀ w ∈ [0, 1], let s := sEq w
      ridxPending (issOf s 393216) 0x1000000000000100 = false ∧ issuesB s 393216 (.eqpop false (uu (.w 16) (.w 7) .none)) = true ∧ packetEmpty (s.grp 393216) (.w 16) = false ∧
      okIs (issueReads (issOf s 393216) 32 [(0, 0x1000000000000100)]) [((leBytes 8 2 ++ leBytes 8 w ++ leBytes 16 0).map fun b => (b, false))] = true ∧
      okIs (issueReads (issOf s 393216) 64 [(0, pPlus 0x1000000000000100 64)]) [((leBytes 64 7).map fun b => (b, false))] = true) ∧
    (let s := sEq 1 fun g => g.setW 20 { st := .empty }; issuesB s 393216 (.eqpop false (uu (.w 16) (.w 7) .none)) = true ∧ packetEmpty (s.grp 393216) (.w 16) = true) ∧
    (let s := after (.eqpop false (uu (.w 16) (.w 7) .none)) (sEq 1)
     issuesB s 393216 (.eqpop false (uu (.w 16) (.w 7) .none)) = true ∧ ridxPending (issOf s 393216) 0x1000000000000100 = true) ∧
    (∀ h ∈ [How.save, .halt, .pause, .reset], let s1 := (sSup.setCtx 4 { sSup.ctx 4 with stopping := true, starting := false }).stopOn h 4; s1.stopDone h 4 = true) ∧
    (let s1 := (sBusy.setCtx 4 { sBusy.ctx 4 with stopping := true, starting := false }).stopOn .save 4; s1.stopDone .save 4 = false) ∧
    AllIssue sSup 393216 [.pstopSave (uu (.w 16) (.imm 4) .none), .pstopHalt (uu (.w 16) (.imm 4) .none), .pstopPause (uu (.w 16) (.imm 4) .none), .pstopReset (uu (.w 16) (.imm 4) .none),
      .pstart (uu (.w 16) (.imm 4) .none)] ∧
    (sSup.grp 393216).cont ≠ some .pstop ∧ (sSup.ctx 4).stopping = false ∧
    (let s : Machine.State := { sSup with ctxs := [(4, { vst := .run })] }; (s.ctx 4).vst = .run ∧ (s.ctx 4).vst ≠ How.save.vst ∧
      ∀ k ∈ (((s.setCtx 4 { s.ctx 4 with stopping := true, starting := false }).stopOn .save 4)).ctxBlocks 4, False) ∧
    (let s : Machine.State := { sSup with ctxs := [(4, { stopping := true })] }; (s.ctx 4).stopping = true) :=
  ⟨by decide +kernel, by decide +kernel, by decide +kernel, by decide +kernel, by decide +kernel, all_issue (by decide +kernel), by decide +kernel⟩

/-! ## Witnesses: the memory path -/

/-- A state with `tabs0`, its page in DRAM, domain 0 on slice 0, and one request. -/
def sPath (q : Req) (f : Machine.State → Machine.State := id) : Machine.State :=
  f { State.reset with tabs := tabs0, mem := Memory.writeN [] (hbmAddr 0 4096) (leBytes 8 (2 ^ 62 + 16)), doms := [(0, { aslices := 1, act := true })]
                       regs := { State.reset.regs with mod := some 0, mask := 3 }, reqs := [(1, q)], nextId := 2 }

/-- A request of a kind for a pointer, at a stage. -/
def rq (ptr : W64) (stage : Stage) (kind : AKind := .read) (pay : Payload := .load) (client : Client := .load 9) : Req :=
  { client := client, kind := kind, org := { ptr := ptr, guidon := guidonOf 0 0 0 0 false false, unit := 0 }, ptr := ptr, len := 4, pay := pay, stage := stage }

def p0 : W64 := 0x1000000000000040
def p1 : W64 := 0x1004000000000040
def pGate : W64 := 0x1000004000000040
def pNone : W64 := 0x1008000000000040
/-- The line of region 0 at offset 0, as a target and in its slice. -/
def t0 : Tag := ⟨0, 0, 0, 0⟩
def at0 : Stage := .slice (.line t0 64 64 0)
/-- A valid entry, a gated one that was valid, an egress to label 5 of module `m`, a forward to module `m` and label `l` of the chip level or, from bit 66 on, of the port level. -/
def eValid : BitVec 128 := 0x4F000000000000000000000000000000
def eGated : BitVec 128 := 0x9F000000000000000000000000000000
def eOut (m : BitVec 128) : BitVec 128 := 0x4F000000800000000000000000000000 ||| (5 : BitVec 128) <<< 85 ||| m <<< 76
def eFwd (m l : BitVec 128) : BitVec 128 := 0xCF000000000000000000000000000000 ||| m <<< 76 ||| l <<< 64
/-- A table entry replaced. -/
def withTab (key : Nat) (e : BitVec 128) (s : Machine.State) : Machine.State := { s with tabs := FMap.insert s.tabs key e }

/-- The stack level places offset 64 of region 0, whatever the page-entry cache has kept. -/
theorem placed_of_read : stackSays (sPath (rq p0 (.stack 0 0 64 (.remote 0)))) (rq p0 (.stack 0 0 64 (.remote 0))) .clean 0 0 64 = .place (hbmAddr 0 (65536 + 64)) ∧
    stackSays (sPath (rq p0 at0)) (rq p0 at0) .clean 0 0 64 = .place (hbmAddr 0 (65536 + 64)) := by
  unfold stackSays stackSeen State.pageTurn
  generalize Config.pageKeeps (((sPath (rq p0 (.stack 0 0 64 (.remote 0)))).readTab (keyStack 0 0) .clean).1).fresh = b
  generalize Config.pageKeeps (((sPath (rq p0 at0)).readTab (keyStack 0 0) .clean).1).fresh = c
  revert b c
  decide +kernel
/-- A store to region 0, at its home slice. -/
def qStore : Req := rq p0 at0 .write (.store [some 1, some 2, some 3, some 4] [])
theorem placed_of_write : stackSays (sPath qStore) qStore .clean 0 0 64 = .place (hbmAddr 0 (65536 + 64)) := by
  unfold stackSays stackSeen State.pageTurn
  generalize Config.pageKeeps (((sPath qStore).readTab (keyStack 0 0) .clean).1).fresh = b
  revert b
  decide +kernel
/-- Region 7 has no entry. -/
theorem refused_by_stack : stackSays (sPath (rq p0 (.stack 0 7 64 (.remote 0)))) (rq p0 (.stack 0 7 64 (.remote 0))) .clean 0 7 64 = .refuse .absent := by
  unfold stackSays stackSeen State.pageTurn
  generalize Config.pageKeeps (((sPath (rq p0 (.stack 0 7 64 (.remote 0)))).readTab (keyStack 0 7) .clean).1).fresh = b
  revert b
  decide +kernel

/-- Hypotheses of `LevelGrants`: a request that the context level sends to the chip level, to a port level of this module, to another module with its bucket open and at work; one that
the port level grants, sends on in this module, to another; one that the chip level grants whole and in part, sends on in this module, to another; reads that the stack level places. -/
theorem witness_levelGrants :
    (let q := rq p0 .context; Pending (sPath q) 1 q ∧ CtxSays (sPath q) q .clean eValid (.chip p0)) ∧
    (let q := rq p1 .context; Pending (sPath q) 1 q ∧ CtxSays (sPath q) q .clean (eOut 0) (.fabric 0 5) ∧
      (∀ r ∈ [0, 1], let s := sPath q fun s => { withTab (State.reset.keyCtx 0 1) (eOut 1) s with fbkts := [(0, { rate := r })] }
        Pending s 1 q ∧ CtxSays s q .clean (eOut 1) (.fabric 1 5) ∧ (s.bucket 4096).rate = r)) ∧
    (let q : Req := { rq p1 .port with label := 5 }; Pending (sPath q) 1 q ∧ PortSays (sPath q) q .clean (.chip p1) ∧
      (∀ m ∈ [0, 1], let s := sPath q (withTab (keyPort 5) (eFwd (BitVec.ofNat 128 m) 24)); Pending s 1 q ∧ PortSays s q .clean (.portAgain m 6))) ∧
    (let q := rq p0 .chip; Pending (sPath q) 1 q ∧ ChipSays (sPath q) q .clean eValid (.target 0 .entry) ∧ q.len ≤ (sPath q).firstPart q eValid ∧
      (∀ m ∈ [0, 1], let s := sPath q (withTab (keyChip 0) (eFwd (BitVec.ofNat 128 m) 2)); Pending s 1 q ∧ ChipSays s q .clean (eFwd (BitVec.ofNat 128 m) 2) (.chipAgain m 0x1000008000000040))) ∧
    (let q : Req := { rq 0x10000000000000F0 .chip with len := 32 }; ChipSays (sPath q) q .clean eValid (.target 0 .entry) ∧ (sPath q).firstPart q eValid < q.len) ∧
    (let q := rq p0 (.stack 0 0 64 (.remote 0)); Pending (sPath q) 1 q ∧ (sPath q).stampOk q = true) ∧
    (let q := rq p0 at0; let s := sPath q; Pending s 1 q ∧ q.kind = .read ∧ s.stampOk q = true ∧ s.frozen t0 = false ∧ s.held q.org.guidon q.kind t0 64 q.len = false ∧ s.hasWay t0 0 = true) ∧
    stackSays (sPath (rq p0 at0)) (rq p0 at0) .clean 0 0 64 = .place (hbmAddr 0 (65536 + 64)) := by
  unfold Pending CtxSays PortSays ChipSays
  simp only [placed_of_read, and_true]
  decide +kernel

/-- Hypotheses of `LevelRefusals`: an absent entry at each level; entries whose sector is lost, gated entries; a held request at an entry that is no longer gated, first in its order,
and one at an entry that is. -/
theorem witness_levelRefusals :
    (let q := rq pNone .context; Pending (sPath q) 1 q ∧ CtxSays (sPath q) q .clean 0 (.refuse .absent)) ∧
    (let q := rq p0 .context; Pending (sPath q) 1 q ∧ (sPath q).loadBehind q = false ∧ (ctxSeen (sPath q) q .entry).2 = none) ∧
    (let q := rq pGate .context; let s := sPath q (withTab (State.reset.keyCtx 0 0) eGated); Pending s 1 q ∧ CtxSays s q .clean eGated .gated) ∧
    (let q : Req := { rq p1 .port with label := 6 }; Pending (sPath q) 1 q ∧ PortSays (sPath q) q .clean (.refuse .absent)) ∧
    (let q : Req := { rq p1 .port with label := 5 }; let s := sPath q (withTab (keyPort 5) eGated); Pending s 1 q ∧ PortSays s q .clean .gated) ∧
    (let q := rq 0x1000008000000040 .chip; Pending (sPath q) 1 q ∧ ChipSays (sPath q) q .clean 0 (.refuse .absent)) ∧
    (let q := rq p0 .chip; Pending (sPath q) 1 q ∧ (chipSeen (sPath q) q .entry).2 = none) ∧
    (let q := rq pGate .chip; Pending (sPath q) 1 q ∧ ChipSays (sPath q) q .clean eGated .gated) ∧
    (let q := rq p0 (.stack 0 7 64 (.remote 0)); Pending (sPath q) 1 q ∧ (sPath q).stampOk q = true ∧ stackSays (sPath q) q .clean 0 7 64 = .refuse .absent) ∧
    (let q := rq p0 (.held 3 (keyChip 0) 0 .chip); Pending (sPath q) 1 q ∧ eST ((sPath q).tab (keyChip 0)) ≠ 2 ∧ FirstAt (sPath q) q fun _ => true) ∧
    (let q := rq p0 (.held 3 (keyChip 1) 0 .chip); Pending (sPath q) 1 q ∧ eST ((sPath q).tab (keyChip 1)) = 2) := by
  unfold Pending CtxSays PortSays ChipSays FirstAt
  simp only [refused_by_stack, and_true]
  decide +kernel

/-- The line of offset 0 with a sector of data, under the grant of the requests; its sectors in `ps` are poisoned. -/
def line0 (ps : List Nat := []) : L2Line := { slice := 0, data := (List.range 256).map fun i => (i, 0), pois := ps, grant := some (guidonOf 0 0 0 0 false false) }
def withLine (ps : List Nat := []) (s : Machine.State) : Machine.State := { s with l2 := [(t0.key, line0 ps)] }

/-- An atomic at region 0's home slice, and the stages of a store and an atomic at the chip scratchpad and at replica set 2. -/
def qAtomic (st : Stage := at0) : Req := rq p0 st .atomic (.atomic .add .u32 [(1, 0)])
def qMasked (st : Stage) : Req := rq p0 st .write (.store [some 1] [])

/-- Replica set 2 with one member, this module's label 3, and its HOME in module `h`. -/
def withRep (h : W64) (s : Machine.State) : Machine.State := { s with reps := [(2, { w0 := 0x8000000000000800 ||| h <<< 15, mem := [(0, 3)] })] }

/-- Hypotheses of `OwnersPerform`: a bucket that is open, that lets its first request pass, and that does not; an egress whose flow is open; targets whose domain is busy, and is not; a
write that must take its line's grant; stores and atomics at a line and at the scratchpad, one on poison; a replica store away from and at its HOME; acknowledgements; a request of an
older epoch. -/
theorem witness_ownersPerform :
    (let q := rq p0 (.bucket 0 32 .entry); ∀ x ∈ [({ rate := 0 } : Bucket), { rate := 1, bal := 1 }, { rate := 1, bal := -9 }], let s := sPath q fun s => { s with mbkts := [(0, x)] }
      Pending s 1 q ∧ FirstAt s q (fun _ => true) ∧ ((s.bucket 0).refill s.now true).rate = x.rate ∧ ((s.bucket 0).refill s.now true).passes = decide (0 < x.bal)) ∧
    (let q := rq p0 (.egress 1 2); Pending (sPath q) 1 q ∧ (sPath q).flowOpen 1 = true) ∧
    (let q := rq p0 .chip; bf q.ent 94 2 = 0 ∧ q.pay.isRange = false ∧ (FMap.getD (sPath q).doms (domOf q.ent) {}).busy = false ∧
      (sPath q).chipTarget q.len q.ptr q.ent = some (.line t0 64 64 0) ∧
      (FMap.getD (sPath q fun s => { s with doms := [(0, { act := true, busy := true })] }).doms (domOf q.ent) {}).busy = true) ∧
    (let s := sPath qStore; Pending s 1 qStore ∧ s.stampOk qStore = true ∧ s.firstAt qStore t0 = true ∧ qStore.half = false ∧ s.held qStore.org.guidon qStore.kind t0 64 4 = false ∧ s.hasWay t0 0 = true) ∧
    (let s := sPath qStore withLine; Pending s 1 qStore ∧ s.stampOk qStore = true ∧ s.held qStore.org.guidon .write t0 64 4 = true ∧ s.firstAt qStore t0 = true ∧ s.inStamp qStore = true) ∧
    (∀ q ∈ [qMasked (.slice (.chip 64)), qAtomic (.slice (.chip 64)), { rq p0 (.ready (.line t0 64 64 0)) .write with served := true }, qMasked (.members true)],
      Pending (sPath q) 1 q ∧ (q.served = false ∨ (q.kind = .write ∧ q.mcast = none))) ∧
    (∀ ps ∈ [[], [2]], let s := sPath qAtomic (withLine ps); Pending s 1 qAtomic ∧ s.stampOk qAtomic = true ∧ s.firstAt qAtomic t0 = true ∧ s.inStamp qAtomic = true ∧
      s.held qAtomic.org.guidon .atomic t0 64 4 = true ∧ s.atHand t0 64 (atyBytes .u32) = true ∧
      ((List.range 4).map fun i => s.lineByte t0 (64 + i)).all (fun x => !x.2) = decide (ps = [])) ∧
    (let q := qMasked (.slice (.replica 2 0 64)); ∀ h ∈ [0, 1], let s := sPath q (withRep (BitVec.ofNat 64 h)); Pending s 1 q ∧ repHome (FMap.getD s.reps 2 {}) = h ∧ s.modNo = 0 ∧ s.sequencing = false ∧
      (∀ x ∈ s.reqs, q.turn ≤ x.2.turn) ∧ s.ownReplica 2 = some 3 ∧ (let r := FMap.getD s.reps 2 {}; bt r.w0 63 = true ∧ 1 ≤ bf r.w0 11 4 ∧ bf r.w0 11 4 ≤ 8)) ∧
    (let q : Req := { rq p0 at0 with stamp := some (0, 255) }; Pending (sPath q) 1 q ∧ q.inSlice = true ∧ (let x := FMap.getD (sPath q).doms 0 {}; x.epoch ≠ 255 ∧ x.busy = false) ∧
      ∀ r ∈ (sPath q).reqs, q.arrived ≤ r.2.arrived) ∧
    stackSays (sPath qStore) qStore .clean 0 0 64 = .place (hbmAddr 0 (65536 + 64)) := by
  unfold Pending FirstAt
  simp only [placed_of_write, and_true]
  decide +kernel

/-- A load of core 0's group that lacks these bytes, at a place of the SRAM if any, and the state with it. -/
def loadOp (bs : List (Option Byte)) (loc : Option Nat := none) : LoadOp :=
  { gid := 0, thread := 0, dst := ⟨false, 4, 32⟩, ty := .b32, bytes := bs, loc := loc, org := { ptr := p0, guidon := 0, unit := 0 } }
def sOp (o : Op) (f : Machine.State → Machine.State := id) : Machine.State := f { s0 with ops := [(9, o)] }
def aOp : AtomOp := { gid := 0, dst := some ⟨false, 4, 32⟩, op := .add, ty := .u32, locs := [{ ptr := p0, threads := [(0, 1, 0)], result := some [7] }], org := { ptr := p0, guidon := 0, unit := 0 } }
def srdOp : SrdOp := { gid := 0, dst := ⟨false, 4, 32⟩, vals := [(0, { v := 5 })] }

/-- Hypotheses of `ResultsReturn`: a load with all its bytes, through labels and from `.core`; a sibling's register; a load that its request serves; an atomic whose location has
returned; a line whose only part has come. -/
theorem witness_resultsReturn :
    (∀ loc ∈ [none, some (coreAddr 1 8)], let o := loadOp [some 1, some 2, some 3, some 4] loc; let s := sOp (.load o)
      FMap.find? s.ops 9 = some (.load o) ∧ o.bytes.all Option.isSome = true ∧ o.gth = none ∧ o.loc = loc ∧ s.olderLoad 0 p0 4 9 = false) ∧
    FMap.find? (sOp (.srd srdOp)).ops 9 = some (.srd srdOp) ∧
    (let o := loadOp [none, none, none, none]; let q : Req := { rq p0 .context with served := true, result := [(1, false), (2, false), (3, true), (4, false)] }
     let s := sOp (.load o) fun s => { s with reqs := [(1, q)] }
     FMap.find? s.ops 1 = none ∧ Pending (s.serve 1 .clean) 1 q ∧ q.served = true ∧ q.client = .load 9 ∧ FMap.find? (s.serve 1 .clean).ops 9 = some (.load o) ∧
     (s.serve 1 .clean).olderLoad 0 p0 4 9 = false) ∧
    (FMap.find? (sOp (.atom aOp)).ops 9 = some (.atom aOp) ∧ aOp.dst = some ⟨false, 4, 32⟩ ∧ ∀ l ∈ aOp.locs, l.result.isSome = true) ∧
    (let q : Req := { rq p0 (.ready (.line t0 64 64 0)) .fetch .load (.fetch 0) with served := true, result := (leBytes 192 5).map fun b => (b, false), len := 192, fam := 7 }
     Pending (sPath q) 1 q ∧ q.client = .fetch 0 ∧
     (((sPath q).famParts q.fam).foldl (fun s' x => s'.serve x.1 .clean) (sPath q)).brought q.fam = some ((leBytes 192 5).map fun b => (b, false))) := by
  unfold Pending
  decide +kernel

/-- A write at a place, and the state with it. -/
def wr (place : WPlace) (d : WData := .bytes p0 (List.replicate 32 (some 1))) : Wr := { data := d, ctx := 0, blk := 1, src := [], unit := 0, place := place }
def sWr (w : Wr) (f : Machine.State → Machine.State := id) : Machine.State := f { sMem with wrs := [(5, w)] }
/-- Its pointer's chip entry names replica set 2. -/
def toReplica (s : Machine.State) : Machine.State := { s with tabs := withTab (keyChip 0) (eValid ||| (2 : BitVec 128) <<< 94 ||| (2 : BitVec 128) <<< 72) { s with tabs := tabs0 } |>.tabs }
/-- A refused request of write 5, and an entry of the group's side log for the line of `p0`. -/
def qRefused (k : AKind) : Req := rq p0 (.refused ⟨1, .absent, 0, 0, false, 0⟩ false) k .load (.write 5)
def logged (id : Nat) : Nat × Wr := (id, { wr .log with src := [{ gid := 0, org := { ptr := p0, guidon := 0, unit := 0 }, len := 32 }] })

/-- Hypotheses of `WritesLeave`: a local and a labelled buffer entry of a committed block, one of a block in its window, a replica store; a queue entry with nothing before it, for
which the log holds no entry and one; the answered head of a log; a refused reduction with and without room, a refused replay; a write-back. -/
theorem witness_writesLeave :
    (∀ x ∈ [({ wr .buffer with loc := some (coreAddr 1 0) }, false, false), (wr .buffer, true, false), (wr .buffer (.red .add .u32 p0 1), false, false), (wr .buffer, false, true)],
      let w := x.1; let s := sWr w fun s => { (if x.2.2 then toReplica s else s) with blocks := [(1, { bMem with rl := x.2.1 })] }
      FMap.find? s.wrs 5 = some w ∧ w.place = .buffer ∧ (s.blk w.blk).rl = x.2.1 ∧ w.tent = none ∧ s.blockedIn 5 w = false ∧ s.joining w = [] ∧
      (w.loc = none → (w.data.isStore && s.isReplica w.ctx w.data.range.1) = x.2.2) ∧ ∀ y ∈ s.wrs, y.1 = 5) ∧
    (∀ old ∈ [[], [logged 3]], let w : Wr := { wr .queue with src := (logged 3).2.src }; let s := sWr w fun s => { s with wrs := old ++ s.wrs }
      FMap.find? s.wrs 5 = some w ∧ (∀ x ∈ s.wrs, x.1 ≠ 5 → x.2.onCore = false) ∧ s.loadsBefore w = false ∧ s.releaseHeld w = false ∧ s.partsBehind w = false ∧ (s.joining w = [] ↔ old = [])) ∧
    (let w : Wr := { wr .log with answered := some true }; FMap.find? (sWr w).wrs 5 = some w ∧ (sWr w).replayable 5 w = true) ∧
    (∀ n ∈ [0, 64], let w := wr .flight (.red .add .u32 p0 1)
      let s := sWr w fun s => { s with reqs := [(1, qRefused .atomic)], wrs := s.wrs ++ (List.range n).map fun i => logged (6 + i) }
      Pending s 1 (qRefused .atomic) ∧ FMap.find? s.wrs 5 = some w ∧ s.logSize 0 = n) ∧
    (let s := sWr (wr .log) fun s => { s with reqs := [(1, qRefused .write)] }; Pending s 1 (qRefused .write) ∧ FMap.find? s.wrs 5 = some (wr .log)) ∧
    (let w : WBack := { tag := t0, data := [(0, 1)], pois := [], seq := 0, rows := [0] }; let s : Machine.State := { s0 with wbacks := [(5, w)] }
     FMap.find? s.wbacks 5 = some w ∧ ∀ x ∈ s.wbacks, w.seq ≤ x.2.seq) := by
  unfold Pending
  decide +kernel

theorem find_key {ks : List Nat} {k : Nat} (l : L2Line) (h : k ∈ ks) : FMap.find? (ks.map fun j => (j, l)) k = some l := by
  induction ks with
  | nil => cases h
  | cons j ks ih =>
    by_cases e : j = k
    · simp [FMap.find?, e]
    · simpa [FMap.find?, e] using ih (by simpa [Ne.symm e] using h)

/-- The lines of keys that stand in one set: all but the line itself share its set. -/
theorem sameSet_of {ks : List Nat} {id y : Nat} (nd : ks.Nodup) (h : ∀ k ∈ ks, Config.l2Set k % 2048 = y) (hid : id ∈ ks) (hkey : (tagOf id).key = id) :
    ({ State.reset with l2 := ks.map fun k => (k, ({ slice := 0 } : L2Line)) } : Machine.State).sameSet (tagOf id) 0 = (ks.erase id).map fun k => (k, { slice := 0 }) := by
  simp only [State.sameSet, hkey, List.filter_map, nd.erase_eq_filter]
  refine congrArg (List.map _) (List.filter_congr fun k hk => ?_)
  by_cases e : k = id <;> simp [e, h k hk, h id hid]

/-- Hypotheses of `WritesLeave` about an eviction: of 30,721 lines of one slice some 16 share a set, whichever set each stands in. -/
theorem witness_eviction : ∃ (s : Machine.State) (id : Nat) (l : L2Line), s.line? (tagOf id) = some l ∧ l.wb = 0 ∧ 15 ≤ (s.sameSet (tagOf id) l.slice).length ∧
    (∀ x ∈ s.sameSet (tagOf id) l.slice, l.used ≤ x.2.used) ∧ s.frozen (tagOf id) = false := by
  obtain ⟨y, -, hy⟩ := Finset.exists_lt_card_fiber_of_mul_lt_card_of_maps_to (s := Finset.range 30721) (t := Finset.range 2048) (f := fun k => Config.l2Set k % 2048) (n := 15)
    (fun a _ => by simp [Nat.mod_lt]) (by simp)
  obtain ⟨ks, nd, hlen, hmem⟩ : ∃ ks : List Nat, ks.Nodup ∧ 15 < ks.length ∧ ∀ k ∈ ks, k < 30721 ∧ Config.l2Set k % 2048 = y :=
    ⟨_, Finset.nodup_toList _, by simpa using hy, fun k hk => by simpa using hk⟩
  obtain ⟨id, hid⟩ : ∃ id, id ∈ ks := List.exists_mem_of_length_pos (by omega)
  have hkey : (tagOf id).key = id := by have := (hmem id hid).1; simp only [Tag.key, tagOf]; omega
  refine ⟨{ State.reset with l2 := ks.map fun k => (k, { slice := 0 }) }, id, { slice := 0 }, ?_, rfl, ?_, fun x _ => Nat.zero_le _, rfl⟩
  · simpa [State.line?, hkey] using find_key { slice := 0 } hid
  · have : (ks.erase id).length = ks.length - 1 := List.length_erase_of_mem hid
    simp only [sameSet_of nd (fun k hk => (hmem k hk).2) hid hkey, List.length_map]
    omega

/-! ## Witnesses: events of the engine, the routing engine, the front end -/

/-- A multiplication of operands in `.core` (A at byte 0, B at byte 0x1000, rows of 64 bytes), as `MMA` leaves it, and one by `MDIST`. -/
def gMul : Group := { gMat with w := [(2, { v := 0x2100000000000000 }), (3, { v := 0x2100000000001000 }), (4, { v := 0x0000004000000040 }), (5, { v := 0x2100000000002000 }), (6, { v := 0x100 })] }
def sMul : Machine.State := { sMat with groups := [(0, gMul)] }
def sMma : Machine.State := after (.mma ⟨false, false, .e4m3⟩ (uu (.tile 1) (.w 2) (.imm 64))) sMul

/-- The first engine operation of a state, with its key. -/
def op1 (s : Machine.State) : Nat × EOp :=
  s.eops.headD (0, { gid := 0, num := 0, unit := 0, ctx := 0, blk := 0, op := .zero .f32, bind := ⟨.f32, false, 0, 0⟩, pc := 0, org := { ptr := 0, guidon := 0, unit := 0 } })
def copy1 (s : Machine.State) : Nat × Copy :=
  s.copies.headD (0, { gid := 0, blk := 0, ctx := 0, clu := 0, unit := 0, num := 0, dst := 0, src := 0, e := (0, 0, 0), ss := (0, 0), ds := (0, 0), zf := true, lo := 0, hi := 0, promise := 0,
                       left := [], org := { ptr := 0, guidon := 0, unit := 0 } })

/-- A copy between local ranges and one between labels, each due at once. -/
def dueNow (s : Machine.State) : Machine.State := { s with copies := FMap.mapVals s.copies fun _ c => { c with promise := 0 } }
def sCpyLocal : Machine.State := dueNow (after (.cpy (uu (.w 16) (.w 4) (.imm 16))) sCopy)

/-- What the operand reads of the first multiplication of a state have come to, at its `%prog`. -/
def mulPipes (s : Machine.State) : Pipes :=
  match (op1 s).2.op with
  | .mma m K d => s.pipes (op1 s).1 (op1 s).2 (chunkPipes (op1 s).2 m K (s.grp (op1 s).2.gid).prog.toNat d)
  | _ => .wait s
/-- A state's first operation may go on with its tile. -/
def mayTile (s : Machine.State) : Bool :=
  let k := (op1 s).1; let e := (op1 s).2
  decide (FMap.find? s.eops k = some e) && !e.done && !e.cancelled && !e.tileDone && s.heads k e && !s.opStops k e
/-- A request of a unit, asked, read and served, written and served, or refused. -/
def asked (c : Client) (k : AKind) (x : Req → Req) : Req := x { rq p0 .context k (if k = .write then .store (List.replicate 4 (some 1)) [] else .load) c with fam := 7 }
def servedNow (q : Req) : Req := { q with stage := .ready (.line t0 64 64 0), served := true, result := List.replicate 4 (1, false) }
def refusedNow (q : Req) : Req := { q with stage := .refused ⟨1, .permission, 0, 0, false, 0⟩ false }
def withReq (q : Req) (s : Machine.State) : Machine.State := { s with reqs := [(1, q)] }
/-- `MSTT`'s operation once its tile has been read, with these writes left. -/
def eStt (ws : List (W64 × Option Nat × List Byte)) : EOp := { (op1 (after (.mstt (uu (.tile 1) (.w 5) .none)) sMul)).2 with tileDone := true, writes := ws }
def sStt (ws : List (W64 × Option Nat × List Byte)) (f : Machine.State → Machine.State := id) : Machine.State := f { sMul with eops := [(9, eStt ws)] }
/-- `CPY`'s copy between labels, due at once. -/
def sCpyLbl : Machine.State := dueNow sCopied

/-- Hypotheses of `EngineEvents` about engine operations: a multiplication with its operands at hand, one that asks for them, one refused; one that has reached K, one off its chunk; a
zeroing, a pairing, a store, a drain; an operation with a write into SRAM or to labels, with a write under way and one refused, with nothing left; a cancelled one. -/
theorem witness_engineOps :
    (∀ x ∈ [(sMma, 0), (after (.mma ⟨false, false, .e4m3⟩ (uu (.tile 1) (.w 2) (.imm 64))) sMat, 1), (withReq (asked (.eop (op1 sMma).1 0) .read refusedNow) sMma, 2)],
      mayTile x.1 = true ∧ (op1 x.1).2.begun = false ∧ (x.1.grp (op1 x.1).2.gid).prog = 0 ∧ (match mulPipes x.1 with | .all _ => 0 | .wait _ => 1 | .failed _ => 2) = x.2) ∧
    (∀ n ∈ [64, 1], let s := sMma.onGrp 0 fun g => { g with prog := BitVec.ofNat 32 n }; mayTile s = true ∧ (s.grp (op1 s).2.gid).prog.toNat = n) ∧ 1 % chunkOf .e4m3 ≠ 0 ∧
    (∀ i ∈ [Instr.mzero .f32 (uu (.tile 1) .none .none), .mpair .f32 (uu (.tile 1) .none .none), .mstt (uu (.tile 1) (.w 5) .none), .mdrn ⟨.diff, .f32, .rne, false⟩ (uu (.tile 1) (.w 5) .none)],
      mayTile (after i sMul) = true) ∧
    (∀ l ∈ [none, some (coreAddr 1 0)], let w := (0x2100000000002000, l, [1]); EngineOp (sStt [w]) 9 (eStt [w]) ∧ (sStt [w]).eopReq 9 5 = none ∧ (eStt [w]).writes[5 % 1]? = some w) ∧
    (EngineOp (sStt []) 9 (eStt []) ∧ (eStt []).writes = [] ∧ (sStt []).eopReqs 9 = [] ∧ (eStt []).tileDone = true) ∧
    (∀ f ∈ [id, refusedNow], let q := asked (.eop 9 5) .write f; let s := sStt [] (withReq q); EngineOp s 9 (eStt []) ∧ s.eopReq 9 5 = some (1, q) ∧
      ((s.famFailed q.fam).isSome = true ∨ s.famPast q.fam = false)) ∧
    (let s : Machine.State := { sMma with eops := FMap.mapVals sMma.eops fun _ e => { e with cancelled := true } }
     (op1 s).2.cancelled = true ∧ FMap.find? s.eops (op1 s).1 = some (op1 s).2 ∧ (op1 s).2.done = false ∧ s.heads (op1 s).1 (op1 s).2 = true) := by
  unfold EngineOp
  decide +kernel

/-- Hypotheses of `EngineEvents` about copies: pieces between local ranges, between labels and of zeros; a read under way that is refused and one that is served, a write that is served. -/
theorem witness_copyEvents :
    (∀ s ∈ [sCpyLocal, sCpyLbl, { sCpyLbl with copies := FMap.mapVals sCpyLbl.copies fun _ c => { c with zf := true } }],
      CopyAt s (copy1 s).1 (copy1 s).2 0 ∧ (copy1 s).2.piece 0 16 ≠ 0 ∧ s.copyTurn (copy1 s).2 = true) ∧
    (∀ x ∈ [(AKind.read, true), (.read, false), (.write, false)], let q := asked (.copy (copy1 sCpyLbl).1 0) x.1 (if x.2 then refusedNow else servedNow); let s := withReq q sCpyLbl
      CopyAsks s (copy1 s).1 (copy1 s).2 0 q ∧ q.kind = x.1 ∧ (s.famFailed q.fam).isSome = x.2 ∧ (x.2 = false → (s.brought q.fam).isSome = true ∧ s.famPast q.fam = true)) := by
  unfold CopyAt CopyAsks
  decide +kernel

/-- A token of expert 0 of session 0 at a place, with 16 bytes of payload, and a state with it and its round. -/
def tk (at_ : TokAt) (mark : Bool := false) (len : Nat := 16) : Token :=
  { die := 0, src := 0, ctx := 0, sess := 0, exp := 0, hdr := setBf 0 192 32 len, pay := [(1, false)], at_ := at_, mark := mark, org := { ptr := 0x1000000000000040, guidon := 0, unit := 0 } }
def round0 : Session := { die := 0, ctx := 0, sess := 0, map := 0, nexp := 1, len := 16, ovf := 0x1000000000004000, ocap := 1, org := { ptr := 0, guidon := 0, unit := 0 } }
def sTok (k : Token) (f : Machine.State → Machine.State := id) : Machine.State := f { sNet with toks := [(5, k)], sess := [(sessKey 0 0 0, round0)] }
/-- A receive buffer in local memory of 1 slot of 16 bytes, with a count. -/
def buf0 (count : Nat) : RBuf :=
  { die := 0, ctx := 0, sess := 0, exp := 0, hdr := 0x1000000000000100, pay := 0x1000000000000200, cap := 1, ps := 16, e := 1, count := count, op := 1, unit := 0, org := { ptr := 0, guidon := 0, unit := 0 } }
/-- The chip level's entry and a context's entry for offset 0, so that a walk at the labels of region 0 arrives. -/
def labelled (s : Machine.State) : Machine.State := sPath (rq p0 .chip) fun x => { s with tabs := x.tabs, mem := Memory.writeN s.mem (hbmAddr 0 4096) (leBytes 8 (2 ^ 62 + 16)), doms := x.doms, regs := x.regs }
def coll0 : Coll :=
  { op := 3, unit := 0, m := ⟨.allreduce, .f32, .add⟩, tag := 9, snd := 0x1000000000000040, rcv := 0x1000000000000060, rank := 0, g := 3, n := 3, lst := [0, 1, 2], heard := [0], org := { ptr := 0, guidon := guidonOf 0 0 0 0 false false, unit := 0 } }
def sColl (c : Coll) (m : CMsg) (f : Machine.State → Machine.State := id) : Machine.State := f { sNet with colls := [(4, c)], cmsgs := [(5, m)], reqs := [] }
/-- A client's request in each state of `doneOf` but the first: asked, served, refused. -/
def dones (c : Client) (k : AKind) : List (Machine.State → Machine.State) := [id, servedNow, refusedNow].map fun f s => withReq (asked c k f) s
/-- Which case of `Done` it is. -/
def doneCase : Done → Nat | .none => 0 | .wait => 1 | .bytes _ => 2 | .failed _ => 3

/-- Hypotheses of `RoutingEvents` about tokens on their way: one in its list; one whose payload is asked for, read, refused; one with no buffer, with room, too long, with a full buffer
and a second choice or none. -/
theorem witness_tokens :
    FMap.find? (sTok (tk (.list 1))).toks 5 = some (tk (.list 1)) ∧
    (let k := tk (.read 1); k.loc = none ∧ 0 < hLen k.hdr ∧ (sTok k).doneOf (.tok 5) = .none ∧ FMap.find? (sTok k).toks 5 = some k ∧
      (dones (.tok 5) .read).map (fun f => doneCase ((f (sTok k)).doneOf (.tok 5))) = [1, 2, 3]) ∧
    (let k := tk (.way 0); let s := sTok k; FMap.find? s.toks 5 = some k ∧ s.openBuf 0 k.ctx k.sess k.exp = none ∧ s.holding 0 < 256) ∧
    (∀ x ∈ [(16, 0), (17, 0), (16, 1)], let k := tk (.way 0) false x.1; let b := buf0 x.2; let s := sTok k fun s => { s with bufs := [(8, b)] }
      FMap.find? s.toks 5 = some k ∧ s.openBuf 0 k.ctx k.sess k.exp = some (8, b) ∧ (if x.1 = 17 then b.ps < hLen k.hdr else hLen k.hdr ≤ b.ps) ∧ (if x.2 = 1 then b.cap ≤ b.count else b.count < b.cap)) ∧
    (hE2 (tk .back).hdr = 0 ∧ hSC (tk .back).hdr = false ∧ hE2 (BitVec.allOnes 256) = 65535 ∧ hSC (BitVec.allOnes 256) = true) := by decide +kernel

/-- Hypotheses of `RoutingEvents` about tokens that are done: a token at its slot, its payload or header written, refused or on its way; one returned, with room in the overflow and none;
markers; an acknowledgement. -/
theorem witness_tokensDone :
    (∀ pay ∈ [false, true], let k := tk (.placing 8 0 pay); let s := sTok k fun s => { s with bufs := [(8, buf0 1)] }
     FMap.find? s.toks 5 = some k ∧ FMap.find? s.bufs 8 = some (buf0 1) ∧ s.doneOf (.tok 5) = .none ∧ (dones (.tok 5) .write).map (fun f => doneCase ((f s).doneOf (.tok 5))) = [1, 2, 3]) ∧
    (∀ n ∈ [0, 1], let s := sTok (tk .back) fun s => { s with sess := [(sessKey 0 0 0, { round0 with ret := n })] }
      FMap.find? s.toks 5 = some (tk .back) ∧ FMap.find? s.sess (sessKey 0 0 0) = some { round0 with ret := n } ∧ (n < round0.ocap ↔ n = 0)) ∧
    (let k := tk (.way 0) true; FMap.find? (sTok k).toks 5 = some k ∧ (sTok k).openBuf 0 k.ctx k.sess k.exp = none ∧
     (let s := sTok k fun s => { s with bufs := [(8, buf0 0)] }; s.openBuf 0 k.ctx k.sess k.exp = some (8, buf0 0) ∧ FMap.find? ((s.dropTok 5).tokAck k).bufs 8 = some (buf0 0))) ∧
    FMap.find? (sTok (tk .ack)).toks 5 = some (tk .ack) := by decide +kernel

/-- Hypotheses of `RoutingEvents` about collectives: a member's description that agrees and one that does not, a contribution that leaves some to come, a block in each of its states; a
collective that has heard every member, with parts to send and with none. -/
theorem witness_collectives :
    (∀ m ∈ [(⟨9, 1, 0, 0, 0, coll0.desc⟩ : CMsg), ⟨9, 1, 0, 0, 0, []⟩, ⟨9, 1, 1, 0, 0, [(5, false)]⟩, ⟨9, 1, 2, 1, 0, [(5, false)]⟩], let s := sColl coll0 m
      s.hoist = none ∧ FMap.find? s.cmsgs 5 = some m ∧ s.collOf m.tag = some (4, coll0) ∧ coll0.got + m.vals.length < coll0.g * coll0.own + 9 ∧ s.doneOf (.coll 4 6) = .none ∧
      (dones (.coll 4 6) .write).map (fun f => doneCase ((f s).doneOf (.coll 4 6))) = [1, 2, 3]) ∧ coll0.got + 1 < coll0.g * coll0.own ∧ coll0.desc ≠ [] ∧
    (∀ n ∈ [0, 3], let c : Coll := { coll0 with heard := [0, 1, 2], dest := n }; let s := sColl c ⟨9, 1, 0, 0, 0, []⟩
      s.hoist = none ∧ FMap.find? s.cmsgs 4 = none ∧ FMap.find? s.colls 4 = some c ∧ c.g ≤ c.heard.length ∧ (c.dest < c.g ↔ n = 0)) := by decide +kernel

/-- An enabled queue 0 of 4 packets, its index at label byte 0x100, its ring at 0x200, and its state: `pend` packets pending, the ring's bytes and the header's (at 0x300). -/
def queue0 : LQueue := { ring := 0x1000000000000200, wixp := 0x1000000000000100, en := true, size := 2 }
def packet0 : List W64 := [0x1000000000000300, 0, 0, 0, 0, 0, 0x00003C0100000000, 0]
def sQueue (ring hdr : List W64) (f : Machine.State → Machine.State := id) : Machine.State :=
  let put (m : List Host.Cell) (a : Nat) (ws : List W64) := Memory.writeN m (hbmAddr 0 (65536 + a)) (ws.flatMap fun w => leBytes 8 w.toNat)
  let s := labelled sNet
  f { s with mem := put (put (put s.mem 0x100 [1]) 0x200 ring) 0x300 hdr, queues := [(0, queue0)], ctxs := [(0, { vst := .run })], reqs := [], recs := [] }

/-- A record of a launch that is over. -/
def over0 : LRec := { q := 0, ctx := 0, part := 0, hdr := {}, pkt := List.replicate 8 0, die := 0, t := 1, count := 1, bps := 1, gpb := 1, prio := 0, launched := 1, ended := 1, passed := 1, pennant := true }

/-- A queue with a packet that passes the checks, one whose KPTR is null, one of a size outside the table, one whose index no level grants; what each finds at its head. -/
def turns : List (Machine.State × Head) :=
  [(sQueue packet0 [0, 0x0000000100000001], .deliver packet0 (headerOf fun i => ([0, 0x0000000100000001][i]?).getD 0) 0 0),
   (sQueue [] [], .bad (List.replicate 8 0) 1),
   (sQueue [] [] fun s => { s with queues := [(0, { queue0 with size := 1 })] }, .ring),
   (sQueue [] [] fun s => { s with queues := [(0, { queue0 with wixp := pNone })] }, .refused pNone ⟨1, .absent, 2, 0, false, 0⟩)]

/-- Hypotheses of `FrontEndEvents`: each queue's turn, and a context that does not run. -/
theorem witness_frontEndEvents : (∀ x ∈ turns, QueueTurn x.1 0 x.2) ∧ ((sQueue [] []).ctx 9).vst ≠ .run ∧ (({ queue0 with size := 1 } : LQueue).size < 2 ∧ queue0.en = true) := by
  unfold QueueTurn
  decide +kernel

/-- A lane of core 0 without a group, `g0` ready on it; in rotation mode or not. -/
def sLane (pmode : BitVec 16) : Machine.State := { s0 with lanes := [], regs := { s0.regs with pmode := pmode } }

/-- Hypotheses of `LaunchEvents`: a launch that is over and one that is not; a lane with a ready group, in both modes, and one without; a ready group off its lane, and one that is not ready. -/
theorem witness_launchEvents :
    (∀ n ∈ [0, 1], let r : LRec := { over0 with launched := n }; let s := sQueue [] [] fun s => { s with recs := [(5, r)], blocks := [] }
     FMap.find? (s.countSilent 5).recs 5 = some r ∧ ((s.countSilent 5).launchOver 5 r = true ↔ n = 1)) ∧
    (∀ m ∈ [0, 1], let s := sLane (BitVec.ofNat 16 m)
     (FMap.getD s.lanes 0 {}).slot = none ∧ 0 / 32 < offCore ∧ s.readyOn 0 = [(0, g0)] ∧ s.rotates 0 (s.blk g0.blk).part = decide (m = 1) ∧ s.pickPrio [(0, g0)] = some (0, g0) ∧
     (let c := s.nextCtx (FMap.getD s.lanes 0 {}) [(s.blk g0.blk).ctx]; bestOf earlier ([(0, g0)].filter fun y => (s.blk y.2.blk).ctx = c.1) = some (0, g0)) ∧
     FMap.find? s.groups 0 = some g0 ∧ s.lanes = [] ∧ s.isReady g0 = true) ∧
    (sLane 0).readyOn 1 = [] ∧ (let g : Group := { g0 with wait := .halted }; (sLane 0).isReady g = false) := by decide +kernel

/-! ## Witnesses: events of placement, faults, the fabric, the module -/

/-- One block on one core has one place, whatever the free value that begins the search. -/
theorem placement_one {s : Machine.State} {c : Nat} {h : Header} {ngrp : Nat} {gone : Nat → Bool} {r : Nat × Room} (e : s.clusterRooms c h.eighth gone = some [r]) :
    s.placement c h ngrp 1 gone = firstFit (h.shape ngrp) 1 [r] := by
  have h1 : ∀ n, rotate [r] n = [r] := fun n => by simp [rotate, Nat.mod_one]
  unfold State.placement firstFit
  rw [e]
  simp only [pack, h1]
  cases ((List.findSome? (fun r => Option.map (fun lam => (r.1, lam)) (r.2.lowest (h.shape ngrp))) [r])) <;> rfl

/-- Core 0 alone in its cluster, full with a halted block, and a set that waits for it. -/
def hBig : Header := { regs := 128, core := 245760 }
def bHalt : Block := { hdr := hBig, groups := [0], live := 1, stop := some .halt, place := 1, cbase := 2 }
def sHalt : Machine.State :=
  { State.reset with
    groups := [(0, { g0 with blk := 1, allot := 256 }), (2048, { g0 with blk := 3, cont := some (.launchOn 0 5) })]
    blocks := [(1, bHalt), (3, { core := 8, groups := [2048], live := 1, place := 3, cbase := 4 })]
    saved := [(1, { from_ := 0 })], cores := (List.range 7).map fun u => (u + 1, { retired := true })
    recs := [(5, { q := 0, ctx := 0, part := 0, hdr := hBig, pkt := List.replicate 8 0, die := 0, t := 1, count := 1, bps := 1, gpb := 1, prio := 0 })] }

theorem halt_lacks : ∀ l ∈ [none, some 0], sHalt.lacks 0 l = true := by
  have hw : sHalt.wanted = [(0, hBig, 1, 1)] := by decide +kernel
  have h1 : sHalt.clusterRooms 0 hBig.eighth (fun _ => false) = some [(0, sHalt.room 0 fun _ => false)] := by decide +kernel
  have h2 : sHalt.clusterRooms 0 hBig.eighth sHalt.haltedBlock = some [(0, sHalt.room 0 sHalt.haltedBlock)] := by decide +kernel
  have hx : sHalt.wantedOn 0 = [(hBig.shape 1, 0)] := by
    unfold State.wantedOn
    rw [hw]
    simp only [List.flatMap_cons, List.flatMap_nil, placement_one h1, placement_one h2]
    decide +kernel
  unfold State.lacks
  rw [hx]
  decide +kernel

/-- A block on its core that is chosen to be saved, and one that has been. -/
def sSaved (f : Block → Block := id) : Machine.State :=
  { labelled sMem with blocks := [(1, f { bMem with rl := true })], lanes := [], reqs := [], ctxs := [(0, { vst := .run, savesz := 1024, save := 0x1000000000000000 })], parts := [(0, { dies := 1 })] }
def sAway (f : Block → Block := id) : Machine.State :=
  { sSaved (fun b => f { b with core := offUnit 1 }) with saved := [(1, { from_ := 0 })], groups := [(offUnit 1 * 256, gMem)] }

/-- The same with a small group and no allotment, which a save writes into few bytes. -/
def sSmall : Machine.State :=
  { sSaved (fun b => { b with stop := some .save, hdr := { regs := 1 } }) with groups := [(0, { gMem with allot := 1, t := [], w := [] })] }

/-- A hot core 0 with the block of `sSaved`, which migrates or not. -/
def sHot (mig : Bool) : Machine.State := { sSaved fun b => { b with mig := mig } with regs := { State.reset.regs with cyc := 6000000 } }

/-- Hypotheses of `PlacementEvents`: a draining block; a hot core with a block that may move, with none, with one that moves already; a halted block that a waiting set's placement lacks; a block
to save, ready, not ready, and without room for its image; a saved block and a dropped one with a core for it, and one without. -/
theorem witness_placementEvents :
    (let s := sSaved fun b => { b with stop := some .drain }; (FMap.find? s.blocks 1).map (fun b => b.stop) = some (some .drain)) ∧
    (State.reset.regs.ten = true ∧ 94 % 256 < State.reset.regs.thot ∧ State.reset.regs.thot ≤ 95 % 256) ∧
    (let hot (s : Machine.State) : Machine.State := s.onCore 0 fun c => { c with tmp := 95 }
     (∀ x ∈ (sHot false).blocks, x.2.mig = false) ∧ (hot (sHot false)).migrant 0 = some 1 ∧ State.reset.blocks = [] ∧ (hot State.reset).migrant 0 = none ∧
     ∃ x ∈ (sHot true).blocks, x.2.mig = true ∧ ((FMap.find? (sHot true).saved x.1).map fun v => v.from_).getD x.2.core = 0) ∧
    (FMap.find? sHalt.groups 0 = some { g0 with blk := 1, allot := 256 } ∧ sHalt.haltedBlock 1 = true ∧ sHalt.holdsBytes 1 (sHalt.blk 1) = true ∧
     sHalt.lacks 0 (some (laneOf (sHalt.blk 1) { g0 with blk := 1, allot := 256 })) = true ∧ sHalt.lacks (sHalt.blk 1).core none = true) ∧
    (let s := sSmall; (s.blk 1).onCore = true ∧ (s.blk 1).live ≠ 0 ∧ (s.blk 1).stop = some .save ∧ s.canSave 1 = true ∧ (s.doSave 1).isSome = true ∧
      { s with lanes := [(0, { slot := some 0 })] }.canSave 1 = false ∧ ({ s with ctxs := [] } : Machine.State).doSave 1 = none) ∧
    (∀ r ∈ [false, true], let s : Machine.State := { sAway with saved := [(1, { from_ := 0, restart := r })] }
     FMap.find? s.saved 1 = some { from_ := 0, restart := r } ∧ (s.blk 1).onCore = false ∧ s.restorable 0 = true ∧
     ((s.restoreOrder 1).findSome? (fun u => if s.promised (clusterOf u) (s.prioNow (s.blk 1)) = true then none else (s.qualifies 1 u).map fun lam => (u, lam))).isSome = true) ∧
    (let s := sAway fun b => { b with hdr := { b.hdr with core := 300000 } }; ∀ u ∈ s.restoreOrder 1, s.qualifies 1 u = none) := by
  have lacks : sHalt.lacks 0 (some (laneOf (sHalt.blk 1) { g0 with blk := 1, allot := 256 })) = true ∧ sHalt.lacks (sHalt.blk 1).core none = true :=
    ⟨halt_lacks _ (by decide), halt_lacks _ (by decide)⟩
  simp only [lacks, and_true]
  decide +kernel

/-- The fault queue of context 0 at label byte 0x400, its response word holding `v`. -/
def sFq (v : Nat) (f : Machine.State → Machine.State := id) : Machine.State :=
  let s := sQueue [] []
  f { s with ctxs := [(0, { vst := .run, fq := 0x1000000000000400 })], mem := Memory.writeN s.mem (hbmAddr 0 (65536 + 0x420)) (leBytes 8 v), awaits := [⟨0, 7, 3⟩] }

/-- A group that has waited at a barrier word since cycle 0. -/
def sHang : Machine.State :=
  { st { gMem with wait := .barrier false (coreAddr 1 8) 0 false } bMem with regs := { State.reset.regs with cyc := 200000000 }, flows := [(1, { recov := some 0 })] }

/-- Hypotheses of `FaultEvents`: a response to an awaited entry, a queue without a pointer, one without a response; a record held, and none; a context whose one group hangs, and one with
none; a peer in recovery before and after its deadline. -/
theorem witness_faultEvents :
    (∀ v ∈ [2 ^ 56 + 7, 2 ^ 57 + 7], let s := sFq v
      s.queuePtr 0 ≠ 0 ∧ (let w := s.peek (s.queueGuidon 0) (pPlus (s.queuePtr 0) 32) 8; (w / 2 ^ 56 = 1 ∨ w / 2 ^ 56 = 2) ∧
        (List.find? (fun (a : Awaiting) => a.dst = 0 && a.seq = w % 2 ^ 32) (s.poke (s.queueGuidon 0) (pPlus (s.queuePtr 0) 32) 8 0).awaits) = some ⟨0, 7, 3⟩)) ∧
    (State.reset.queuePtr 0 = 0 ∧ (sFq 0).queuePtr 0 ≠ 0 ∧ (sFq 0).peek ((sFq 0).queueGuidon 0) (pPlus ((sFq 0).queuePtr 0) 32) 8 / 2 ^ 56 = 0) ∧
    (let p : Post := ⟨0, 0, 1, false, none⟩; let s : Machine.State := { State.reset with posts := [p] }; s.posts = [p] ∧ p.dst = 0 ∧ ∀ p ∈ s.posts, p.dst ≠ 1) ∧
    (sHang.hangCount 0 = some 200000000 ∧ (sHang.residents 0).length = 1 ∧ (sHang.ctx 0).hangEn = true ∧ max 1 (sHang.ctx 0).hthr * 1000 ≤ 200000000 ∧ sHang.hangCount 1 = none) ∧
    (sHang.inRecovery 1 = true ∧ sHang.now - sHang.recoverySince 1 < max 1 sHang.regs.pdl * 1000000 ∧ sHang.inRecovery 2 = false) ∧
    (let s : Machine.State := { sHang with regs := { sHang.regs with cyc := 3000000000 } }; max 1 s.regs.pdl * 1000000 ≤ s.now - s.recoverySince 1 ∧ s.inRecovery 1 = true) := by decide +kernel

/-- A packet of a flow, and a module of a two-member fabric with a working port 3 and a flow with module 1. -/
def pk (seq : Nat) (rel : Bool := false) (gen : Nat := 0) : Packet := { seq := seq, rel := rel, vc := 1, gen := gen, body := .tokenAck 0 0 0 true }
def seal0 (ps : List Packet) (closed : Bool := true) : Seal := { id := 1, peer := 1, port := 3, vc := 1, pkts := ps, flits := 1, closed := closed }
def sFab (f : Flow) (x : Port := { st := 2, lanes := 4 }) : Machine.State :=
  { State.reset with regs := { State.reset.regs with mod := some 0, mask := 3, memb := true }, ports := [(3, x)], flows := [(1, f)] }

/-- Hypotheses of `FabricEvents` at ingress: flits of another generation, of no member, of a member's present generation that begin a seal group or go on with one; a flow that is deaf; a
group that is verified, and one that fails; held packets in their turn and out of it, one that a refusal holds back. -/
theorem witness_fabricIngress :
    (let s := sFab {}; s.regs.mod.isSome = true ∧ (s.port 3).works = true ∧ (s.flow 1).deaf = false ∧ (s.flow 1).in_ = [] ∧ ∀ x ∈ [(1, 1, 0), (2, 0, 0), (1, 0, 0), (1, 0, 1)],
      let h := flitHdr x.1 0 (pk 1 false x.2.1) true true x.2.2 true
      bf h 124 2 = 0 ∧ bf h 107 9 = x.1 ∧ bf h 126 2 = 1 ∧ (bf h 90 8 = s.regs.gen.toNat % 256 ↔ x.2.1 = 0) ∧ (s.regs.mask.getLsbD (bf h 107 9) = true ↔ x.1 = 1) ∧ bf h 117 4 = x.2.2) ∧
    ((sFab { deaf := true }).flow 1).deaf = true ∧
    ((((sFab { in_ := [seal0 [] false] }).flow 1).in_.find? fun g => g.port = 3 && g.vc = 1 && !g.closed) = some (seal0 [] false)) ∧
    (∀ p ∈ [pk 1, pk 1 true], let s := sFab { in_ := [seal0 [p]] }
      ((s.flow 1).in_.find? fun g => g.id = 1 && g.closed) = some (seal0 [p]) ∧ ((s.flow 1).in_.find? fun g => g.id = 1) = some (seal0 [p]) ∧ s.blocks = [] ∧
      (((s.setFlow 1 { s.flow 1 with in_ := [] }).freeSeal (seal0 [p])).applyPacket 1 p).blocks = []) ∧
    (let s := sFab { held := [pk 1 true, pk 2 true] }
     ((s.flow 1).held.find? fun p => p.seq = 1) = some (pk 1 true) ∧ ((s.flow 1).held.find? fun p => p.seq = 2) = some (pk 2 true) ∧ (s.flow 1).expect = 1 ∧ s.unperformed 1 (pk 1 true) = false ∧
     (s.flow 1).refs = []) ∧
    (let s := sFab { held := [pk 1 true], refs := [(0, 1)] }; ∃ r ∈ (s.flow 1).refs, r.1 < 1 ∧ epochOlder (pk 1 true).fep r.2 = true) := by decide +kernel

/-- Hypotheses of `FabricEvents` at egress and at a port: a group with flits left; a run of packets, with room and without; a group that has failed; counts that agree, that do not, and of
which a flit is lost. -/
theorem witness_fabricEgress :
    (let g : Seal := { seal0 [pk 1] with left := 1 }; let s := sFab { out := [g] }; (s.flow 1).stopped = false ∧ ((s.flow 1).out.find? fun g => g.vc = 1 && g.left ≠ 0) = some g ∧
      (s.port g.port).works = true ∧ (s.flow 1).mask.getLsbD g.port = true ∧ ((s.flow 1).out.find? fun g => g.id = 1) = some g) ∧
    (∀ x ∈ [({ st := 2, lanes := 4 } : Port), { st := 2, lanes := 4, lim := [8, 0, 8, 8] }], let s := sFab { wait := [pk 1, pk 2] } x
      s.regs.mod.isSome = true ∧ (s.flow 1).out = [] ∧ sealRun 1 [] (s.flow 1).wait = [pk 1, pk 2] ∧ s.nextPlane 1 = some 3 ∧ ((s.port 3).room 1 = 0 ↔ x.lim = [8, 0, 8, 8])) ∧
    (let s := sFab {}; (∀ v < 4, cnt [0, 0, 0, 0] v % 2 ^ 32 = cnt (s.port 3).recv v ∧ cnt (s.port 3).recv v < 2 ^ 32) ∧ (s.port 3).freed = (List.range 4).map (fun v => cnt [0, 0, 0, 0] v % 2 ^ 32) ∧
      (s.port 3).freed ≠ (List.range 4).map (fun v => cnt [1, 0, 0, 0] v % 2 ^ 32) ∧ (∃ v < 4, (cnt [1, 0, 0, 0] v + 2 ^ 32 - cnt (s.port 3).recv v) % 2 ^ 32 ≠ 0) ∧
      (let x := s.port 3; let lost (v : Nat) : Nat := (cnt [1, 0, 0, 0] v + 2 ^ 32 - cnt x.recv v) % 2 ^ 32
       (((s.setPort 3 { x with recv := (List.range 4).map (fun v => cnt [1, 0, 0, 0] v % 2 ^ 32), rfree := (List.range 4).map fun v => (cnt x.rfree v + lost v) % 2 ^ 32 }).leak 3).port 3).freed
         = (List.range 4).map (fun v => cnt [0, 0, 0, 0] v % 2 ^ 32))) := by decide +kernel

/-- Hypotheses of `PortEvents`: buffers on both sides of 16 and 32 flits; a port with nothing to send; a peer without a hoist, and one that a join waits for; a port in training, and one that
is not; a hoist that begins, one whose flows are drained and sessions held, ones that wait for a flow or for a session; one whose deadline has passed or not. -/
theorem witness_portEvents :
    (min 14 (State.reset.port 3).cap + 1 < 16 ∧ ¬ min 15 (State.reset.port 3).cap + 1 < 16 ∧ 32 ≤ min 255 (State.reset.port 3).cap + 1 ∧ (State.reset.port 3).vcmap = 0 ∧
      (State.reset.port 3).lim.sum ≤ min 255 (State.reset.port 3).cap + 1) ∧
    (let s := sFab {}; (∀ x ∈ s.flows, ∀ g ∈ x.2.out, g.port ≠ 3) ∧ s.hoist = none ∧ ((s.setFlow 1 { s.flow 1 with attested := false }).service 5 1).hoist = none ∧ (s.port 3).st ≠ 1 ∧
      s.regs.lead = false ∧ s.regs.mod.isSome = true) ∧
    (let s : Machine.State := { State.reset with ports := [(3, { st := 1, lanes := 4 })] }; (s.port 3).st = 1 ∧ (s.port 3).vcmap = 0 ∧ (s.port 3).lanes = 4) ∧
    (∀ op ∈ [0, 4], let h : Hoist := { op := op, mod := 2, gid := none, start := 0 }; let s : Machine.State := { sFab { attested := true } with hoist := some h }
      s.hoist = some h ∧ (let mk := if op = 4 then 3 else s.newMask h; ((s.refuseHeld mk).flows.all fun x => (s.refuseHeld mk).drainedOf h.absent x.1) = true ∧
        (op = 4 → mk.getLsbD (s.refuseHeld mk).modNo = true ∧ (s.refuseHeld mk).sessions mk = true) ∧ (op = 0 → (s.refuseHeld mk).sessions mk = false))) ∧
    (let h : Hoist := { op := 3, mod := 0, gid := none, start := 0 }; let s : Machine.State := { sFab {} with hoist := some h }
     ((s.refuseHeld (s.newMask h)).flows.all fun x => (s.refuseHeld (s.newMask h)).drainedOf h.absent x.1) = true ∧ (s.refuseHeld (s.newMask h)).sessions (s.newMask h) = true) ∧
    (let h : Hoist := { op := 4, mod := 0, gid := none, start := 0 }; let s : Machine.State := { sFab { wait := [pk 1] } with hoist := some h }
     ∃ x ∈ (s.refuseHeld 3).flows, (s.refuseHeld 3).drainedOf h.absent x.1 = false) ∧
    (∀ t ∈ [(0 : Nat), 200000000], let h : Hoist := { op := 1, mod := 1, gid := none, start := 0 }
      let s : Machine.State := { sFab {} with hoist := some h, regs := { (sFab {}).regs with cyc := BitVec.ofNat 64 t } }
      s.hoist = some h ∧ h.op ≠ 4 ∧ s.regs.mask.getLsbD 1 = true ∧ 1 ≠ s.modNo ∧ h.absent.contains 1 = false ∧ (max 1 s.regs.hdl * 1000000 ≤ s.now - h.start ↔ t ≠ 0)) := by decide +kernel

/-- Hypotheses of `TopologyEvents`: a domain that waits for its walk, one with no line to move and one with a line whose slice it gives up; a pair to scan, a retired pair, a scan under way
and one that is over; a partition that changes with no die leaving, and one that does not change. -/
theorem witness_topologyEvents :
    (let s : Machine.State := { State.reset with doms := [(0, { busy := true }), (1, { busy := true, walking := true })] }
     (s.dom 0).busy = true ∧ (s.dom 0).walking = false ∧ (s.dom 1).walking = true ∧ s.movedLines (s.dom 1) = []) ∧
    (let s := sPath (rq p0 (.domainHeld 0)) fun s => { withLine [] s with doms := [(0, { aslices := 1, act := true, nslices := 2, nen := true, busy := true, walking := true })] }
     (s.dom 0).busy = true ∧ (s.dom 0).walking = true ∧ s.movedLines (s.dom 0) ≠ [] ∧ (1, rq p0 (.domainHeld 0)) ∈ s.domainHeldBy 0) ∧
    (State.reset.regs.scen = true ∧ State.reset.moving 0 = false ∧ FMap.find? State.reset.scanEnd 0 = none ∧ ((State.reset.pairAt 0).all fun u => (State.reset.core u).retired) = false) ∧
    (let s : Machine.State := { State.reset with cores := (State.reset.pairAt 0).map fun u => (u, { retired := true }) }; ((s.pairAt 0).all fun u => (s.core u).retired) = true ∧ s.moving 0 = false) ∧
    (let s : Machine.State := { State.reset with scanEnd := [(0, 5)], cores := (State.reset.pairAt 0).map fun u => (u, { scanning := true }) }
     FMap.find? s.scanEnd 0 = some 5 ∧ s.now < 5 ∧ ((s.pairAt 0).all fun u => (s.core u).scanning && !(s.core u).retired) = true ∧
     5 ≤ ({ s with regs := { s.regs with cyc := 5 } } : Machine.State).now) ∧
    (let s : Machine.State := { State.reset with parts := [(0, { st := 3, stg := 1, goal := 1, dies := 1 })] }
     (s.part 0).changing = true ∧ (List.range 12).filter (s.part 0).leaves = [] ∧ (s.part 1).changing = false) := by decide +kernel

/-- Hypotheses of `SystemEvents`: a part without power; each stage of boot; the bits of SHED; register addresses; relocations in a stack, to another region before and after their
writes, to a module of no domain; a pin, and the end of its time; a scrubber on. -/
theorem witness_systemEvents :
    (State.reset.regs.power = false ∧ State.reset.regs.shed = false) ∧
    (∀ n ∈ [1, 2, 3, 4, 5], ∀ b ∈ [false, true], let s : Machine.State := { State.reset with regs := { State.reset.regs with power := true, bstage := n, shed := true, badImage := b } }
      s.regs.power = true ∧ s.regs.bstage = n ∧ s.regs.badImage = b ∧ s.regs.shed = true) ∧
    (winAt (2 ^ 40) = .none ∧ 8 % 8 = 0 ∧ 5 ≠ 4 ∧ 5 ≠ 8) ∧
    (∀ x ∈ [(false, false, false, 0), (true, false, false, 0), (true, true, false, 0), (true, false, true, 0), (true, false, false, 5)],
     let r : Reloc := { i := 0, off := 0, fwd := x.1, plc := x.2.2.2 * 2 ^ 34 + 7, gid := 0, wd := 0, begun := x.2.1, failed := x.2.2.1 }; let s : Machine.State := { State.reset with hbm := [(0, { reloc := some r })] }
     (s.base 0).reloc = some r ∧ (r.plc / 2 ^ 34 % 512 = s.modNo ↔ x.2.2.2 = 0) ∧ s.regs.mask.getLsbD 5 = false) ∧
    (let m : Mover := { count := 9, pin := some 5 }; let s : Machine.State := { State.reset with hbm := [(0, { movers := [(moverKey 0 0, m)] })] }
     FMap.find? (s.base 0).movers (moverKey 0 0) = some m ∧ m.pin = some 5 ∧ ¬ 5 ≤ s.now) ∧
    ((State.reset.base 0).sen = true ∧ 2 ^ 36 - 1 < 2 ^ 36 ∧ (State.reset.base 0).reloc = none) := by decide +kernel

/-! ## Witnesses: encoding, the step, frames -/

def env0 : Env := ⟨false, 128, 64⟩
/-- What a decoding gives, as an instruction or as a failed check. -/
def reads? (env : Env) (w : W96) : Option Instr := (decodeWord env w).toOption
def fails? (env : Env) (w : W96) : Option DErr := match decodeWord env w with | .ok _ => none | .error e => some e
def envSys : Env := ⟨true, 128, 64⟩

/-- Hypotheses of `RoundTrip` and `DecodeInverse`: the printed instructions are well formed where they run, and their words decode. -/
theorem witness_roundTrip : ∀ x ∈ printed, x.2.isWord = true ∧ x.2.wf (tableEnv x.1) = true := by decide +kernel
theorem witness_decodeInverse : ∃ i, decodeWord env0 0x0107800000000A0000310003 = .ok i := ⟨.iadd false (thr (.t 10) (.t 3) (.w 3)), rfl⟩

/-- A state whose turn it is to run a word, as it stands after a reset. -/
def sWord (w : Nat) : Machine.State := State.reset.withFetchWord 96 w

/-- An instruction that adds bytes 8 to 11 of the constant bank, its word where a group fetches next, and a state in which a read of those bytes has been served. -/
def iBank : Instr := .iadd false (thr (.t 10) (.t 3) (.cb 8))
def sBank (cbank : W64) : Machine.State := (sWord 0x107800000000a0000360008).onBlk 0 fun b => { b with cbank := cbank, hdr := { b.hdr with cbsz := 64 } }
def sBanked : Machine.State := { sBank 0x1000000000000200 with reqs := [(1000, { gotReq 0x1000000000000208 [1, 2, 3, 4] with client := .range 0 })], nextId := 2000 }

/-- Hypotheses of `StepRunsDecoded`: a word at the index of the lane's group; events and turns on the agenda; a lane without a group. -/
theorem witness_stepRunsDecoded :
    (let s := sWord 0x0107800000000A0000310003
     s.agenda = [] ∧ s.tick.issuer = some 0 ∧ (s.tick.grp 0).due = [] ∧ (s.tick.grp 0).wait = .none ∧ s.tick.heldByFault 0 = false ∧ (s.tick.grp 0).pc.toNat < 16 * (s.tick.grp 0).len.toNat ∧
     (s.tick.fetchLine 0).map (fun l => decide (reads? (s.tick.envOf 0) (wordAt l.bits (s.tick.grp 0).pc) = some (.iadd false (thr (.t 10) (.t 3) (.w 3))))) = some true) ∧
    (sWord 0x0107800000000A0000310003).tick.lineFault 0 = none ∧ bankParts (.iadd false (thr (.t 10) (.t 3) (.w 3))) = [] ∧ (match sBanked.bankTurn 0 iBank with | .ok u => decide (bankVal (u.blk 0) 8 32 = 0x04030201) | .error _ => false) = true ∧
    (Instr.portQuiesce 0).isWord = false ∧ (Instr.iadd false (thr (.t 10) (.t 3) (.w 3))).isWord = true ∧ State.reset.agenda = [] ∧ State.reset.tick.issuer = none := by
  decide +kernel

/-- A state whose turn it is to issue `iBank`, and that stops where the bank is read. -/
def stopsAtBank (s : Machine.State) : Bool :=
  decide (s.issuer = some 0) && (s.lineFault 0).isNone && ((s.fetchLine 0).map fun l => reads? (s.envOf 0) (wordAt l.bits (s.grp 0).pc)) == some (some iBank) &&
  (match s.bankTurn 0 iBank with | .ok _ => false | .error _ => true)

/-- Hypotheses of `FetchStops`: a trap due, a wait, an index past the code, a line not held, a word that no opcode has; code whose base is no label pointer or whose line passes the
region's end; a constant-bank operand whose base is no label pointer, and one that must be asked for. -/
theorem witness_fetchStops :
    (let s := st { g0 with due := [{ cause := .fetchRange }] }; s.agenda = [] ∧ s.tick.issuer = some 0 ∧ (s.tick.grp 0).due = [{ cause := .fetchRange }]) ∧
    (let s := st { g0 with wait := .sleep 9 }; s.tick.issuer = some 0 ∧ (s.tick.grp 0).due = [] ∧ (s.tick.grp 0).wait ≠ .none) ∧
    (let s := st { g0 with pc := 16 }; s.tick.issuer = some 0 ∧ s.tick.heldByFault 0 = false ∧ 16 * (s.tick.grp 0).len.toNat ≤ (s.tick.grp 0).pc.toNat) ∧
    (s0.tick.issuer = some 0 ∧ (s0.tick.grp 0).pc.toNat < 16 * (s0.tick.grp 0).len.toNat ∧ s0.tick.fetchLine 0 = none) ∧
    (let s := sWord 0; (s.tick.fetchLine 0).map (fun l => decide (fails? (s.tick.envOf 0) (wordAt l.bits (s.tick.grp 0).pc) = some ⟨.illegal, 1, 0⟩)) = some true ∧ s.tick.lineFault 0 = none) ∧
    ((st { g0 with code := 0 }).tick.lineFault 0).isSome = true ∧ ((st { g0 with code := 0x1000000000FFFF80 }).tick.lineFault 0).isSome = true ∧
    stopsAtBank (sBank 0).tick = true ∧ stopsAtBank (sBank 0x1000000000000200).tick = true := by
  decide +kernel

/-- Hypotheses of `StepKeepsMemory`: memory of the form, and steps that answer a next state, one of which stores. -/
theorem witness_stepKeepsMemory :
    Memory.wf State.reset.mem = true ∧ (match step (sWord 0x0107800000000A0000310003) with | .next t => Memory.wf t.mem | _ => false) = true ∧
    (match step { sMem with agenda := [.event (.sideLogEnter 0)] } with | .next t => Memory.wf t.mem | _ => false) = true := by
  decide +kernel

/-- Hypotheses of `RegisterFrames`: instructions of both classes that issue and answer a next state. -/
theorem witness_registerFrames :
    AllIssue s0 0 [.iadd false (thr (.t 4) (.t 1) (.w 3)), .fadd ⟨.rne, false⟩ (thr (.t 4) (.t 1) (.t 2))] ∧
    (∀ i ∈ [Instr.iadd false (thr (.t 4) (.t 1) (.w 3)), .fadd ⟨.rne, false⟩ (thr (.t 4) (.t 1) (.t 2))], (plainAlu i = true ∨ floatAlu i = true) ∧ (argsOf i).isSome = true ∧
      (match exec i s0 with | .next _ => true | _ => false) = true) :=
  ⟨all_issue (by decide +kernel), by decide +kernel⟩

/-- The opcode of `IADD` reads as an instruction, the premise of `HintsChangeNothing`. -/
theorem witness_hintsChangeNothing : (mk 0x010 0).isSome = true := by decide +kernel

/-! ## Ill-formed terms: one for each decode check of Table 2-6 that a term can break, and words that break them -/

/-- Check 2: a supervisor instruction on a compute core. -/
theorem test_check2 : (Instr.gateClose .stack (uu (.w 2) (.w 4) .none)).wf env0 = false ∧ (Instr.gateClose .stack (uu (.w 2) (.w 4) .none)).wf envSys = true := by decide +kernel
/-- Check 3: an engine instruction on a system core. -/
theorem test_check3 : (Instr.mma ⟨true, true, .e4m3⟩ (uu (.tile 1) (.w 8) (.imm 32))).wf envSys = false ∧ (Instr.mma ⟨true, true, .e4m3⟩ (uu (.tile 1) (.w 8) (.imm 32))).wf env0 = true := by decide +kernel
/-- Check 4: a uniform instruction under a guard of a thread's predicate 9. -/
theorem test_check4 : (Instr.iadd false ⟨{ u := true, guard := .on false 9 }, ⟨.w 1, false⟩, ⟨.w 2, false⟩, ⟨.w 3, false⟩⟩).wf env0 = false := by decide +kernel
/-- Check 5: `FADD` in stochastic rounding; a fence of no order. -/
theorem test_check5 : (Instr.fadd ⟨.rs, false⟩ (tt (.t 1) (.t 2) (.t 3))).wf env0 = false ∧ (Instr.fence ⟨.relaxed, .mod⟩ (tt .none .none .none)).wf env0 = false := by decide +kernel
/-- Check 6: a tile as a source of `IADD`; an operand that `NOT` does not use. -/
theorem test_check6 : (Instr.iadd false (tt (.t 1) (.tile 2) (.t 3))).wf env0 = false ∧ (Instr.not false (tt (.t 1) (.t 2) (.t 3))).wf env0 = false := by decide +kernel
/-- Check 7: a thread register under U = 1; a uniform register written under U = 0. -/
theorem test_check7 : (Instr.iadd false (uu (.w 1) (.t 2) (.w 3))).wf env0 = false ∧ (Instr.iadd false (tt (.w 1) (.t 2) (.w 3))).wf env0 = false := by decide +kernel
/-- Check 8: a register outside the allotment; an odd pair. -/
theorem test_check8 : (Instr.iadd false (tt (.t 127) (.t 2) (.t 3))).wf ⟨false, 64, 64⟩ = false ∧ (Instr.dadd ⟨.rne, false⟩ (tt (.t 3) (.t 2) (.t 4))).wf env0 = false := by decide +kernel
/-- Check 9: one half of a long immediate. -/
theorem test_check9 : (Instr.iadd false (tt (.t 1) (.t 2) (.long 7))).wf env0 = false ∧ (Instr.movi false (tt (.t 9) (.long 0xBF80) (.long 0))).wf env0 = true := by decide +kernel
/-- Check 10: the empty-action bit of an immediate. -/
theorem test_check10 : (Instr.iadd false ⟨{}, ⟨.t 1, false⟩, ⟨.t 2, false⟩, ⟨.imm 3, true⟩⟩).wf env0 = false := by decide +kernel
/-- Check 11: a constant-bank offset that is not aligned; one outside the bank. -/
theorem test_check11 : (Instr.iadd false (tt (.t 1) (.t 2) (.cb 62))).wf env0 = false ∧ (Instr.iadd false (tt (.t 1) (.t 2) (.cb 64))).wf env0 = false ∧
    (Instr.iadd false (tt (.t 1) (.t 2) (.cb 60))).wf env0 = true := by decide +kernel
/-- Check 12: `%fflags` as the destination of `IADD.b64`, which R44 shuts out; another special register as a destination. -/
theorem test_check12 : (Instr.iadd true (tt (.sr .fflags) (.t 2) (.t 4))).wf env0 = false ∧ (Instr.iadd false (tt (.sr .cyc) (.t 2) (.t 3))).wf env0 = false ∧
    (Instr.iadd false (tt (.sr .fflags) (.t 2) (.t 3))).wf env0 = true := by decide +kernel
/-- Check 1: all-zero memory is opcode 0x000, undefined, detail 1 (R46). -/
theorem test_zeroWord : fails? env0 0 = some ⟨.illegal, 1, 0⟩ := by decide +kernel
/-- The details of checks 8 and 9 on words of `IADD` (Table 2-1): D beyond the allotment of 8, field 1; a long half in A, field 2. -/
theorem test_wordDetails : fails? ⟨false, 8, 0⟩ 0x0107800000000A0000310003 = some ⟨.illegal, 4, 1⟩ ∧ fails? env0 0x0107800000000A7000010003 = some ⟨.illegal, 6, 2⟩ := by decide +kernel

/-! ## Single steps; values from the tables of the spec, or worked out from its rules by hand -/

def sT (xs : List (Nat × TReg)) : Machine.State := st { g0 with act := 1, ext0 := 1, t := xs }
def flags (s : Machine.State) : Nat := (s.grp 0).fflags.toNat

/-- R223: addition wraps modulo 2^32; the result is written to each acting thread. -/
theorem test_iaddWraps : rd (after (.iadd false (tt (.t 4) (.t 1) (.imm 1))) (sT [(1, { v := 0xFFFFFFFF })])) 0 4 = 0 := by decide +kernel
/-- Table 10-4: the high half of (−1)·2, signed, is −1. -/
theorem test_imulhSigned : rd (after (.imulh ⟨false, false⟩ (tt (.t 4) (.t 1) (.t 2))) (sT [(1, { v := 0xFFFFFFFF }), (2, { v := 2 })])) 0 4 = 0xFFFFFFFF := by decide +kernel
/-- Table 10-4: shifts by 32 and more. -/
theorem test_shiftByWidth : rd (after (.shl false (tt (.t 4) (.t 1) (.imm 32))) (sT [(1, { v := 1 })])) 0 4 = 0 ∧
    rd (after (.sar false (tt (.t 4) (.t 1) (.imm 32))) (sT [(1, { v := 0x80000000 })])) 0 4 = 0xFFFFFFFF := by decide +kernel
/-- R224: PR takes the carry, and the sum is taken modulo 2^32. -/
theorem test_iaddcCarry : let s := after (.iaddc ⟨1, false⟩ (tt (.t 4) (.t 1) (.t 2))) (sT [(1, { v := 0xFFFFFFFF }), (2, { v := 0 })])
    rd s 0 4 = 0 ∧ (FMap.getD (s.grp 0).p 1 {}).v = true := by decide +kernel
/-- Table 9-9: 300.0 into E4M3, to nearest and up; inexact. -/
theorem test_cvt300 : (let s := after (.cvt ⟨.e4m3, .rne, false⟩ (tt (.t 4) (.t 1) (.t 0))) (sT [(1, { v := 0x43960000, tag := 1 })]); rd s 0 4 = 0x79 ∧ flags s = 8) ∧
    rd (after (.cvt ⟨.e4m3, .ru, false⟩ (tt (.t 4) (.t 1) (.t 0))) (sT [(1, { v := 0x43960000, tag := 1 })])) 0 4 = 0x7A := by decide +kernel
/-- Table 9-9: 460.0 is 448 without overflow; 500.0 overflows to NaN, to 448 under `.sat` and `.rz`; −0.0 is exact. -/
theorem test_cvt500 : (let s := after (.cvt ⟨.e4m3, .rne, false⟩ (tt (.t 4) (.t 1) (.t 0))) (sT [(1, { v := 0x43E60000, tag := 1 })]); rd s 0 4 = 0x7E ∧ flags s = 8) ∧
    (let s := after (.cvt ⟨.e4m3, .rne, false⟩ (tt (.t 4) (.t 1) (.t 0))) (sT [(1, { v := 0x43FA0000, tag := 1 })]); rd s 0 4 = 0x7F ∧ flags s = 10) ∧
    (let s := after (.cvt ⟨.e4m3, .rne, true⟩ (tt (.t 4) (.t 1) (.t 0))) (sT [(1, { v := 0x43FA0000, tag := 1 })]); rd s 0 4 = 0x7E ∧ flags s = 10) ∧
    (let s := after (.cvt ⟨.e4m3, .rz, false⟩ (tt (.t 4) (.t 1) (.t 0))) (sT [(1, { v := 0x43FA0000, tag := 1 })]); rd s 0 4 = 0x7E ∧ flags s = 10) ∧
    (let s := after (.cvt ⟨.e4m3, .rne, false⟩ (tt (.t 4) (.t 1) (.t 0))) (sT [(1, { v := 0x80000000, tag := 1 })]); rd s 0 4 = 0x80 ∧ flags s = 0) := by decide +kernel
/-- Table 9-10: L6 codes into FP32. -/
theorem test_logCodes : (let s := after (.cvt ⟨.f32, .rne, false⟩ (tt (.t 4) (.t 1) (.t 0))) (sT [(1, { v := 0x06, tag := 16 })]); rd s 0 4 = 0x403504F3 ∧ flags s = 0) ∧
    (let s := after (.cvt ⟨.f32, .rne, false⟩ (tt (.t 4) (.t 1) (.t 0))) (sT [(1, { v := 0x30, tag := 16 })]); rd s 0 4 = 0x7FC00000 ∧ flags s = 1) ∧
    rd (after (.cvt ⟨.f32, .rne, false⟩ (tt (.t 4) (.t 1) (.t 0))) (sT [(1, { v := 0x10, tag := 16 })])) 0 4 = 0 := by decide +kernel
/-- 1.0 + 2.0 = 3.0 with no flag; +Inf − +Inf is the canonical NaN and sets invalid (chapter 9). -/
theorem test_fadd : (let s := after (.fadd ⟨.rne, false⟩ (tt (.t 4) (.t 1) (.t 2))) (sT [(1, { v := 0x3F800000 }), (2, { v := 0x40000000 })]); rd s 0 4 = 0x40400000 ∧ flags s = 0) ∧
    (let s := after (.fsub ⟨.rne, false⟩ (tt (.t 4) (.t 1) (.t 2))) (sT [(1, { v := 0x7F800000 }), (2, { v := 0x7F800000 })]); rd s 0 4 = 0x7FC00000 ∧ flags s = 1) := by decide +kernel
/-- Bytes of a local store stand in little-endian order from the address; the next byte is untouched. -/
theorem test_stsBytes : let s := after (.sts ⟨some .core, none, .b32⟩ (tt .none (.t 1) (.t 2))) (st { g0 with act := 1, ext0 := 1, t := [(1, { v := 8 }), (2, { v := 0x11223344 })] } bMem)
    (s.byte (coreAddr 1 8)).toNat = 0x44 ∧ (s.byte (coreAddr 1 11)).toNat = 0x11 ∧ (s.byte (coreAddr 1 12)).toNat = 0 := by decide +kernel
/-- R355: a software trap saves its pc and the pc after it, and starts the handler at its entry index. -/
theorem test_trapEntry : let s := after (.trap (tt .none (.imm 7) .none)) { st { g0 with pc := 3 } with ctxs := [(0, { hcode := 0x1000000000000400, hlen := 2, hent := 5 })] }
    (s.grp 0).inH = true ∧ (s.grp 0).pc.toNat = 5 ∧ (s.grp 0).code = 0x1000000000000400 ∧ s.le (s.frameAddr 0) 4 = 3 ∧ s.le (s.frameAddr 0 + 4) 4 = 4 := by decide +kernel
/-- A step runs the word at the group's index: `IADD t10, t3, w3` leaves the index one word further. -/
theorem test_stepRuns : (match step (sWord 0x0107800000000A0000310003) with | .next t => decide ((t.grp 0).pc = 1) | _ => false) = true := by decide +kernel

end Sys2Proof.Tests
end

section
/-! SUPPORT. What the steps of boot, power, rates, windows, relocation, pins and the scrubber do, a lemma for each case (R3, R10, R96 to R103, R121, R380, R392, R393),
and the proofs of the statements on reset and on these steps. -/

namespace Sys2Proof

/-- Memory with nothing listed is in canonical form. -/
theorem Memory.wf_nil : Memory.wf [] = true := rfl

namespace Machine

open Decode Claims

/-! ## Reset -/

theorem State.reset_regs : State.reset.regs = {} := rfl
theorem State.reset_mem : State.reset.mem = [] := rfl

/-- Settles O54: the registers of reset are their defaults, memory is empty and so in canonical form, and every table is empty. -/
theorem resetState : Obligations.ResetState := by
  unfold Obligations.ResetState
  simp only [State.reset_regs, State.reset_mem, Memory.wf_nil, true_and]
  exact ⟨rfl, rfl, rfl, rfl, rfl⟩

/-! ## A step that always completes leads to one state -/

/-- Where an event completes, it leads to the state that it completes in and to no other. -/
theorem leads_iff_of_exec {i : Instr} {s t u : State} (h : exec i s = .next u) : Leads i s t ↔ u = t := by simp [Leads, h]

section
variable {s t : State}

theorem leads_powerGood {ok : Bool} {kind n : Nat} : Leads (.powerGood ok kind n) s t ↔ s.powerGood ok kind n = t := leads_iff_of_exec rfl
theorem leads_powerShed {n : Nat} : Leads (.powerShed n) s t ↔ s.powerShed n = t := leads_iff_of_exec rfl
theorem leads_bucketRateWrite {fab : Bool} {b rate : Nat} :
    Leads (.bucketRateWrite fab b rate) s t ↔ (if b < 4096 then s.setRate (if fab then 4096 + b else b) rate else s) = t := leads_iff_of_exec rfl
theorem leads_registerWrite {bar n v : Nat} : Leads (.registerWrite bar n v) s t ↔ (if bar % n = 0 then s.winWrite bar n v else s) = t :=
  leads_iff_of_exec rfl
theorem exec_relocDone (s : State) (st : Nat) (found : List (Nat × Bool)) : exec (.relocDone st found) s = .next ((s.relocReads st found).relocDone st) := rfl
theorem leads_pinExpiry {st key : Nat} : Leads (.pinExpiry st key) s t ↔ s.pinOver st key = t := leads_iff_of_exec rfl
theorem leads_patrolScrub {st a found : Nat} : Leads (.patrolScrub st a found) s t ↔ s.scrub st a found = t := leads_iff_of_exec rfl

end

/-! ## Boot (R3, R392) -/

section
variable {s : State} {kind n : Nat}

theorem State.powerGood_first {ok : Bool} (off : s.regs.power = false) :
    s.powerGood ok kind n = { s with regs := { s.regs with power := true, cyc := 0, bstage := 1, pmode := 0xFFFF } } := by simp [State.powerGood, off]
theorem State.powerGood_ok (on : s.regs.power = true) : s.powerGood true kind n = s.nextStage := by simp [State.powerGood, on]
theorem State.powerGood_imageFails (on : s.regs.power = true) (h : s.regs.bstage = 1) :
    s.powerGood false kind n = ({ s with regs := { s.regs with badImage := true } } : State).service 10 sysUnit := by simp [State.powerGood, on, h]
theorem State.powerGood_unitFails (on : s.regs.power = true) (h : s.regs.bstage = 2 ∨ s.regs.bstage = 3) :
    s.powerGood false kind n = s.bootFail (brokenOf kind) n := by
  rcases h with h | h <;> simp [State.powerGood, on, h]

theorem State.nextStage_goodImage (h : s.regs.bstage = 1) (good : s.regs.badImage = false) : s.nextStage = { s with regs := { s.regs with bstage := 2 } } := by
  simp [State.nextStage, h, good]
theorem State.nextStage_badImage (h : s.regs.bstage = 1) (bad : s.regs.badImage = true) : s.nextStage = s := by simp [State.nextStage, h, bad]
theorem State.nextStage_two (h : s.regs.bstage = 2) : s.nextStage = { s with regs := { s.regs with bstage := 3 } } := by simp [State.nextStage, h]
theorem State.nextStage_three (h : s.regs.bstage = 3) : s.nextStage = { s with regs := { s.regs with bstage := 4 } } := by simp [State.nextStage, h]
theorem State.nextStage_four (h : s.regs.bstage = 4) :
    s.nextStage = { s.zeroHbm.startPorts with regs := { s.zeroHbm.startPorts.regs with bstage := 5 } } := by simp [State.nextStage, h]
theorem State.nextStage_five (h : s.regs.bstage = 5) : s.nextStage = { s with regs := { s.regs with bstage := 6, ready := true } } := by
  simp [State.nextStage, h]

end

/-! ## Power shedding (R393) -/

section
variable {s : State}

theorem State.powerShed_zero : s.powerShed 0 = { s with regs := { s.regs with shed := false, retain := 0 } } := by simp [State.powerShed]
theorem State.powerShed_one_shedding (h : s.regs.shed = true) : s.powerShed 1 = s := by simp [State.powerShed, h]
theorem State.powerShed_one_begins (h : s.regs.shed = false) :
    s.powerShed 1 = ({ s with regs := { s.regs with shed := true } } : State).service 8 sysUnit := by simp [State.powerShed, h]

end

/-! ## Register windows (R380) -/

section
variable {s : State} {bar n v : Nat}

theorem State.winWrite_eight : s.winWrite bar 8 v = s.winPut bar (BitVec.ofNat 64 v) (BitVec.allOnes 64) := rfl
theorem State.winWrite_width (h4 : n ≠ 4) (h8 : n ≠ 8) : s.winWrite bar n v = s := by simp [State.winWrite, h4, h8]
theorem State.winPut_nowhere {x m : W64} (h : winAt bar = .none) : s.winPut bar x m = s := by simp [State.winPut, h]
theorem State.winWrite_nowhere (h : winAt bar = .none) : s.winWrite bar n v = s := by
  unfold State.winWrite
  split
  · exact State.winPut_nowhere h
  · split
    · exact State.winPut_nowhere h
    · rfl

end

/-! ## Relocation (R96) -/

/-- The bits of a page entry that its move keeps: WP, XD and the page's size. -/
def keptAttrs (pe : W64) : Nat := bf pe 57 2 * 2 ^ 57 + bf pe 59 3 * 2 ^ 59

/-- The stack byte at which the page of an entry begins. -/
def pageStart (st : Nat) (pe : W64) : Nat := hbmAddr st (bf pe 0 24 * 4096)

/-- The sectors of a page are copied to the frame that the relocation names, in the same stack. -/
def State.copyPage (s : State) (st : Nat) (r : Reloc) (pe : W64) : State :=
  (List.range (pageSize (bf pe 59 3) / 32)).foldl (fun s k => s.copySector (pageStart st pe + 32 * k) (hbmAddr st (r.plc % 2 ^ 24 * 4096) + 32 * k)) s

/-- The end of a relocation: the entries of the page `x` become `new`, the move is counted, and the engine reports status 0. -/
def State.pageMoved (s : State) (st : Nat) (r : Reloc) (x : Nat × W64) (new : Nat) : State :=
  ((s.writePages st x.1 (pageSize (bf x.2 59 3) / 4096) (BitVec.ofNat 64 new)).countMove st (moverKey r.i r.off)).relocEnd st r 0

section
variable {s : State} {st : Nat} {found : List (Nat × Bool)} {r : Reloc}

theorem State.relocReads_idle (h : (s.base st).reloc = none) : s.relocReads st found = s := by simp [State.relocReads, h]
@[simp] theorem State.relocReads_nil : s.relocReads st [] = s := by
  unfold State.relocReads
  split
  · rfl
  · split <;> rfl

theorem State.relocDone_idle (h : (s.base st).reloc = none) : s.relocDone st = s := by simp [State.relocDone, h]

theorem State.relocDone_inStack (h : (s.base st).reloc = some r) (stays : r.fwd = false) :
    s.relocDone st =
      (s.copyPage st r (s.pageAt st r.i r.off).2).pageMoved st r (s.pageAt st r.i r.off)
        (2 ^ 62 + keptAttrs (s.pageAt st r.i r.off).2 + r.plc % 2 ^ 24) := by
  simp only [State.relocDone, h, stays]
  rfl
theorem State.relocDone_failed (h : (s.base st).reloc = some r) (moves : r.fwd = true) (failed : r.failed = true) :
    s.relocDone st = s.relocFail st r := by
  simp [State.relocDone, h, moves, failed]
theorem State.relocDone_writing (h : (s.base st).reloc = some r) (moves : r.fwd = true) (ok : r.failed = false) (begun : r.begun = true) :
    s.relocDone st =
      if (s.relocReqs st).isEmpty then s.pageMoved st r (s.pageAt st r.i r.off) (2 ^ 63 + keptAttrs (s.pageAt st r.i r.off).2 + r.plc) else s := by
  simp only [State.relocDone, h, moves, ok, begun]
  rfl
theorem State.relocDone_begins (h : (s.base st).reloc = some r) (moves : r.fwd = true) (ok : r.failed = false) (fresh : r.begun = false) :
    s.relocDone st = s.relocSend st r (pageStart st (s.pageAt st r.i r.off).2) (pageSize (bf (s.pageAt st r.i r.off).2 59 3)) := by
  simp only [State.relocDone, h, moves, ok, fresh]
  rfl

theorem State.relocWrite_home_modNo {m src st' i' off : Nat} (h : m = s.modNo) : (s.relocWrite st m src st' i' off).modNo = s.modNo := by
  unfold State.relocWrite
  rw [if_pos h]
  rfl

theorem State.relocSend_refused {src n : Nat} (away : r.plc / 2 ^ 34 % 512 ≠ s.modNo) (outside : s.regs.mask.getLsbD (r.plc / 2 ^ 34 % 512) = false) :
    s.relocSend st r src n = s.setBase st { s.base st with reloc := some { r with begun := true, failed := true } } := by
  unfold State.relocSend
  exact if_pos (by simp only [away, outside, Bool.and_false, Bool.not_false, ne_eq, not_false_eq_true, decide_true, Bool.and_self])

/-- Writes to this module keep its number, so that naming the number of the first state or of the state that each write meets is the same. -/
theorem State.foldl_relocWrite_home {st' i' m : Nat} (src off : Nat → Nat) (ks : List Nat) (h : m = s.modNo) :
    ks.foldl (fun s k => s.relocWrite st m (src k) st' i' (off k)) s = ks.foldl (fun s k => s.relocWrite st s.modNo (src k) st' i' (off k)) s := by
  subst h
  induction ks generalizing s with
  | nil => rfl
  | cons k ks ih =>
    have keeps : s.modNo = (s.relocWrite st s.modNo (src k) st' i' (off k)).modNo := (State.relocWrite_home_modNo rfl).symm
    simp only [List.foldl_cons]
    rw [← ih, ← keeps]

theorem State.relocSend_home {src n : Nat} (home : r.plc / 2 ^ 34 % 512 = s.modNo) :
    s.relocSend st r src n = (List.range (n / 256)).foldl
      (fun s k => s.relocWrite st s.modNo (src + 256 * k) (r.plc / 2 ^ 43) (r.plc / 2 ^ 20 % 2 ^ 14) (r.plc / 2 ^ 8 % 2 ^ 12 * 4096 + 256 * k))
      (s.setBase st { s.base st with reloc := some { r with begun := true } }) := by
  have inside : ¬ (decide (r.plc / 2 ^ 34 % 512 ≠ s.modNo) && !(s.regs.memb && s.regs.mask.getLsbD (r.plc / 2 ^ 34 % 512))) = true := by
    rw [decide_eq_false (not_not_intro home)]
    exact Bool.false_ne_true
  unfold State.relocSend
  rw [if_neg inside]
  exact State.foldl_relocWrite_home (fun k => src + 256 * k) (fun k => r.plc / 2 ^ 8 % 2 ^ 12 * 4096 + 256 * k) _ home

theorem leads_relocDone_nil {t : State} : Leads (.relocDone st []) s t ↔ s.relocDone st = t := by
  rw [leads_iff_of_exec (exec_relocDone s st []), State.relocReads_nil]

end

/-! ## Pins and the scrubber (R99, R102, R103) -/

theorem State.pinOver_pinned {s : State} {st key t : Nat} {m : Mover} (hm : FMap.find? (s.base st).movers key = some m) (pinned : m.pin = some t) :
    s.pinOver st key =
      if t ≤ s.now then s.setBase st { s.base st with movers := FMap.insert (s.base st).movers key { m with pin := none, count := 0 } } else s := by
  simp only [State.pinOver, hm, pinned]

/-- The stack of a stack byte. -/
theorem hbmAddr_div {st a : Nat} (h : a < 2 ^ 36) : hbmAddr st a / 2 ^ 36 = st := by
  unfold hbmAddr
  omega

section
variable {s : State} {st a : Nat}

theorem State.eccRead_corrected (h : a < 2 ^ 36) :
    s.eccRead (hbmAddr st a) (some false) = s.setBase st { s.base st with cec := min (2 ^ 32 - 1) ((s.base st).cec + 1) } := by
  simp only [State.eccRead, hbmAddr_div h]
  rfl
theorem State.eccRead_lost (h : a < 2 ^ 36) :
    s.eccRead (hbmAddr st a) (some true) = if s.poisoned (hbmAddr st a) then s
      else (((s.setBase st { s.base st with uec := min (2 ^ 32 - 1) ((s.base st).uec + 1) }).poison (hbmAddr st a)).notice ntPoison (hbmAddr st a)).tellMapped 1
        (hbmAddr st a) := by
  simp only [State.eccRead, State.newPoison, hbmAddr_div h]
  rfl

/-- A scrubber that is on reads a sector of its stack. -/
theorem State.scrub_reads (on : (s.base st).sen = true) (h : a < 2 ^ 36) : ¬ (!(s.base st).sen || decide (2 ^ 36 ≤ a)) = true := by
  simp only [on, Nat.not_le.mpr h, decide_false, Bool.not_true, Bool.or_self, Bool.false_eq_true, not_false_eq_true]
theorem State.scrub_clean (on : (s.base st).sen = true) (h : a < 2 ^ 36) : s.scrub st a 0 = s := if_neg (State.scrub_reads on h)
theorem State.scrub_corrected (on : (s.base st).sen = true) (h : a < 2 ^ 36) : s.scrub st a 1 = s.eccRead (hbmAddr st a) (some false) :=
  if_neg (State.scrub_reads on h)
theorem State.scrub_lost (on : (s.base st).sen = true) (h : a < 2 ^ 36) (k : Nat) : s.scrub st a (k + 2) = s.eccRead (hbmAddr st a) (some true) :=
  if_neg (State.scrub_reads on h)

end

/-! ## The statement, event by event -/

/-- Settles O48, event by event: each clause is the case of its event's step in the lemmas above. -/
theorem systemEvents : Obligations.SystemEvents := by
  unfold Obligations.SystemEvents
  simp only [leads_powerGood, leads_powerShed, leads_bucketRateWrite, leads_registerWrite, leads_pinExpiry, leads_patrolScrub, leads_relocDone_nil]
  refine ⟨?firstPower, ?boot, ?shed, ?rate, ?write8, ?writeWidth, ?writeNowhere, ?relocReads, ?relocIdle, ?reloc, ?pin, ?scrub⟩
  case firstPower => exact fun s ok kind n => State.powerGood_first
  case boot =>
    intro s kind n on
    simp only [State.powerGood_ok on]
    exact ⟨State.nextStage_goodImage, State.powerGood_imageFails on, State.nextStage_two, State.nextStage_three, State.nextStage_four,
      State.nextStage_badImage, State.nextStage_five, State.powerGood_unitFails on⟩
  case shed => exact fun s => ⟨State.powerShed_zero, State.powerShed_one_shedding, State.powerShed_one_begins⟩
  case rate => exact fun s fab b rate hb => if_pos hb
  case write8 =>
    intro s bar v aligned
    rw [if_pos aligned, State.winWrite_eight]
  case writeWidth =>
    intro s bar n v h4 h8
    rw [State.winWrite_width h4 h8, ite_self]
  case writeNowhere =>
    intro s bar n v nowhere
    rw [State.winWrite_nowhere nowhere, ite_self]
  case relocReads =>
    intro s st found
    rw [exec_relocDone, exec_relocDone, State.relocReads_nil]
  case relocIdle =>
    intro s st found idle
    rw [leads_iff_of_exec (exec_relocDone s st found), State.relocReads_idle idle, State.relocDone_idle idle]
  case reloc =>
    intro s st r busy
    refine ⟨?inStack, ?failed, ?writing, ?refused, ?home⟩
    case inStack => exact State.relocDone_inStack busy
    case failed =>
      rintro moves failed _ rfl
      exact State.relocDone_failed busy moves failed
    case writing => exact State.relocDone_writing busy
    case refused =>
      intro moves ok fresh away outside
      rw [State.relocDone_begins busy moves ok fresh, State.relocSend_refused away outside]
    case home =>
      intro moves ok fresh home
      rw [State.relocDone_begins busy moves ok fresh, State.relocSend_home home]
      rfl
  case pin => exact fun s st key m t hm pinned => State.pinOver_pinned hm pinned
  case scrub =>
    intro s st a on h
    refine ⟨State.scrub_clean on h, (State.scrub_corrected on h).trans (State.eccRead_corrected h), fun n two => ?_⟩
    obtain ⟨k, rfl⟩ := Nat.exists_eq_add_of_le' two
    exact (State.scrub_lost on h k).trans (State.eccRead_lost h)

end Machine

end Sys2Proof
end

section
/-! SUPPORT. What a fetch comes to, a lemma for each of its branches, and which branch of a step is taken (R20, R28 to R30, R46, R50, R54, R57, R352, R361), and the proofs of the
statements on the step and on what stops a fetch. The interleaving and the cycles that pass with a step are the model's choices (log entries 1 and 4); the hold of a refused fetch and
the reading of the bank at each use are deduced (log entries 10 and 75). -/

namespace Sys2Proof.Machine

open Decode

/-! ## Which branch of a step is taken -/

section
variable {s s' : State} {gid : Nat} {i : Instr} {rest : List Agendum}

theorem step_event (h : s.agenda = .event i :: rest) (ev : i.isWord = false) : step s = exec i { s.tick with agenda := rest } := by
  rw [Instr.isWord] at ev
  simp only [step, h, ev, Bool.false_eq_true, if_false]
theorem step_notAnEvent (h : s.agenda = .event i :: rest) (word : i.isWord = true) : step s = .refused .notAnEvent := by
  rw [Instr.isWord] at word
  simp only [step, h, word, if_true]
theorem step_turn {l : Nat} (h : s.agenda = .turn l :: rest) : step s = .next { s.tick with agenda := rest, cur := l } := by simp only [step, h]
theorem step_noIssuer (idle : s.agenda = []) (free : s.tick.issuer = none) : step s = .next (s.tick.laneTurn s.cur) := by
  simp only [step, idle, stepLane, free, State.tick_cur]

/-- A group that holds the lane whose turn it is executes what its fetch reaches, … -/
theorem step_fetched (idle : s.agenda = []) (turn : s.tick.issuer = some gid) (reached : s.tick.fetch gid = .exec i s') : step s = exec i s' := by
  simp only [step, idle, stepLane, turn, reached]
/-- … or ends its turn where its fetch stops. -/
theorem step_stopped (idle : s.agenda = []) (turn : s.tick.issuer = some gid) (stops : s.tick.fetch gid = .done s') : step s = .next s' := by
  simp only [step, idle, stepLane, turn, stops]

end

/-! ## What a fetch comes to

The lemmas stand in the order of the fetch's checks: each assumes that the checks before its own were passed. -/

section
variable {s s' : State} {gid : Nat} {l : ILine} {i : Instr}

theorem State.fetch_due {t : Trap} {rest : List Trap} (h : (s.grp gid).due = t :: rest) : s.fetch gid = .done (s.takeDue gid t rest) := by
  simp only [State.fetch, h]

variable (quiet : (s.grp gid).due = [])
include quiet

theorem State.fetch_held (h : (s.grp gid).wait ≠ .none ∨ s.heldByFault gid = true) : s.fetch gid = .done (s.endRun gid) := by
  simp only [State.fetch, quiet, Bool.or_eq_true, decide_eq_true_eq, if_pos h]

variable (awake : (s.grp gid).wait = .none) (unheld : s.heldByFault gid = false)
include awake unheld

theorem State.fetch_pastEnd (h : 16 * (s.grp gid).len.toNat ≤ (s.grp gid).pc.toNat) : s.fetch gid = .done (s.takeTrap gid { cause := .fetchRange }) := by
  simp [State.fetch, quiet, awake, unheld, h]

variable (inside : (s.grp gid).pc.toNat < 16 * (s.grp gid).len.toNat)
include inside

theorem State.fetch_lineFault {t : Trap} (h : s.lineFault gid = some t) : s.fetch gid = .done (s.takeTrap gid t) := by
  simp [State.fetch, quiet, awake, unheld, inside.not_ge, h]

variable (sound : s.lineFault gid = none)
include sound

theorem State.fetch_missingLine (h : s.fetchLine gid = none) : s.fetch gid = .done ((s.askLine gid).endRun gid) := by
  simp [State.fetch, quiet, awake, unheld, inside.not_ge, sound, h]

variable (hit : s.fetchLine gid = some l)
include hit

theorem State.fetch_badWord {e : DErr} (h : decodeWord (s.envOf gid) (wordAt l.bits (s.grp gid).pc) = .error e) :
    s.fetch gid = .done (s.takeTrap gid (trapOfErr e)) := by
  simp [State.fetch, quiet, awake, unheld, inside.not_ge, sound, hit, h]

variable (word : decodeWord (s.envOf gid) (wordAt l.bits (s.grp gid).pc) = .ok i)
include word

theorem State.fetch_bankStopped {x : Stop} (h : s.bankTurn gid i = .error x) : s.fetch gid = .done (s.stopped gid x) := by
  simp [State.fetch, quiet, awake, unheld, inside.not_ge, sound, hit, word, h]
theorem State.fetch_instr (h : s.bankTurn gid i = .ok s') : s.fetch gid = .exec i (s'.touchLine gid l) := by
  simp [State.fetch, quiet, awake, unheld, inside.not_ge, sound, hit, word, h]

end

/-- An instruction that takes nothing from the constant bank reads nothing there. -/
theorem State.bankTurn_noParts {s : State} {gid : Nat} {i : Instr} (h : bankParts i = []) : s.bankTurn gid i = .ok s := by
  rw [State.bankTurn, h, List.foldl_nil]

/-! ## The level-0 check of a line (R54, R57) -/

section
variable {s : State} {gid : Nat}

theorem State.lineFault_form (h : pForm (s.grp gid).code ≠ 1) : ∃ t, s.lineFault gid = some t ∧ t.cause = .pointerFault := ⟨_, if_pos h, rfl⟩
theorem State.lineFault_straddle (form : pForm (s.grp gid).code = 1) (h : 2 ^ 24 < pOff (s.grp gid).code + 192 * ((s.grp gid).pc.toNat / 16 + 1)) :
    ∃ t, s.lineFault gid = some t ∧ t.cause = .pointerFault := ⟨_, (if_neg (not_not_intro form)).trans (if_pos h), rfl⟩
theorem State.lineFault_sound (form : pForm (s.grp gid).code = 1) (h : pOff (s.grp gid).code + 192 * ((s.grp gid).pc.toNat / 16 + 1) ≤ 2 ^ 24) :
    s.lineFault gid = none := (if_neg (not_not_intro form)).trans (if_neg h.not_gt)

/-- A line passes the check, or fails it with a pointer fault. -/
theorem State.lineFault_cases (s : State) (gid : Nat) :
    (pForm (s.grp gid).code = 1 ∧ pOff (s.grp gid).code + 192 * ((s.grp gid).pc.toNat / 16 + 1) ≤ 2 ^ 24 ∧ s.lineFault gid = none) ∨
    (¬ (pForm (s.grp gid).code = 1 ∧ pOff (s.grp gid).code + 192 * ((s.grp gid).pc.toNat / 16 + 1) ≤ 2 ^ 24) ∧
      ∃ t, s.lineFault gid = some t ∧ t.cause = .pointerFault) := by
  by_cases form : pForm (s.grp gid).code = 1
  · rcases Nat.lt_or_ge (2 ^ 24) (pOff (s.grp gid).code + 192 * ((s.grp gid).pc.toNat / 16 + 1)) with past | fits
    · exact .inr ⟨fun h => past.not_ge h.2, State.lineFault_straddle form past⟩
    · exact .inl ⟨form, fits, State.lineFault_sound form fits⟩
  · exact .inr ⟨fun h => form h.1, State.lineFault_form form⟩

theorem State.lineFault_eq_none_iff :
    s.lineFault gid = none ↔ pForm (s.grp gid).code = 1 ∧ pOff (s.grp gid).code + 192 * ((s.grp gid).pc.toNat / 16 + 1) ≤ 2 ^ 24 := by
  obtain ⟨form, fits, sound⟩ | ⟨bad, t, fault, -⟩ := State.lineFault_cases s gid
  · exact iff_of_true sound ⟨form, fits⟩
  · exact iff_of_false (by rw [fault]; exact Option.some_ne_none t) bad
theorem State.lineFault_cause {t : Trap} (h : s.lineFault gid = some t) : t.cause = .pointerFault := by
  obtain ⟨-, -, sound⟩ | ⟨-, u, fault, cause⟩ := State.lineFault_cases s gid
  · exact absurd (sound.symm.trans h) (Option.some_ne_none t).symm
  · exact Option.some.inj (fault.symm.trans h) ▸ cause

end

/-! ## The statements on the step -/

/-- Settles O52: each clause is a branch of the step; an instruction is executed in the state in which the fetch reaches it. -/
theorem stepRunsDecoded : Obligations.StepRunsDecoded := by
  unfold Obligations.StepRunsDecoded
  refine ⟨?runs, ?noParts, ?event, ?notAnEvent, ?turn, ?noIssuer, ?tick⟩
  case runs =>
    intro s gid l i u idle turn quiet awake unheld inside sound hit word banked
    exact step_fetched idle turn (State.fetch_instr quiet awake unheld inside sound hit word banked)
  case noParts => exact fun s gid i => State.bankTurn_noParts
  case event => exact fun s i rest => step_event
  case notAnEvent => exact fun s i rest => step_notAnEvent
  case turn => exact fun s l rest => step_turn
  case noIssuer => exact fun s => step_noIssuer
  case tick => exact fun s => rfl

/-- Settles O53: a step stops where the fetch of the group that holds the lane stops, check by check in the order of the fetch. -/
theorem fetchStops : Obligations.FetchStops := by
  unfold Obligations.FetchStops
  refine ⟨?stops, fun s gid => ⟨State.lineFault_eq_none_iff, fun t => State.lineFault_cause⟩⟩
  intro s gid idle turn
  refine ⟨fun t rest due => step_stopped idle turn (State.fetch_due due), fun quiet =>
    ⟨?held, fun awake unheld => ⟨?pastEnd, fun inside => ⟨?lineFault, ?missing, ?present⟩⟩⟩⟩
  case held => exact fun h => step_stopped idle turn (State.fetch_held quiet h)
  case pastEnd => exact fun past => step_stopped idle turn (State.fetch_pastEnd quiet awake unheld past)
  case lineFault => exact fun t fault => step_stopped idle turn (State.fetch_lineFault quiet awake unheld inside fault)
  case missing => exact fun sound miss => step_stopped idle turn (State.fetch_missingLine quiet awake unheld inside sound miss)
  case present =>
    intro l sound hit
    refine ⟨?badWord, ?bank⟩
    case badWord => exact fun e bad => step_stopped idle turn (State.fetch_badWord quiet awake unheld inside sound hit bad)
    case bank => exact fun i x word stop => step_stopped idle turn (State.fetch_bankStopped quiet awake unheld inside sound hit word stop)

end Sys2Proof.Machine
end

section
/-! SUPPORT. What a lookup at each level comes to, a lemma for each decision of the level (R58 to R61, R66, R69, R70, R72, R77, R92, R94), and what becomes of a request
that a gate holds, with the proofs of the statements on granted and on refused requests. The bound of a held request is the one that stood at its arrival, which is deduced
(log entry 111). -/

namespace Sys2Proof.Machine

open Claims

/-! ## The events of the levels -/

section
variable {s t : State} {x : Look} {id : Nat}

theorem leads_contextLevelLookup : Leads (.contextLevelLookup x) s t ↔ s.contextLookup x.id x.ecc = t := leads_iff_of_exec rfl
theorem leads_portLevelLookup : Leads (.portLevelLookup x) s t ↔ s.portLookup x.id x.ecc = t := leads_iff_of_exec rfl
theorem leads_chipLevelLookup : Leads (.chipLevelLookup x) s t ↔ s.chipLookup x.id x.ecc = t := leads_iff_of_exec rfl
theorem leads_stackLevelLookup : Leads (.stackLevelLookup x) s t ↔ s.stackLookup x.id x.ecc = t := leads_iff_of_exec rfl
theorem leads_gatedReread : Leads (.gatedReread id) s t ↔ s.gatedReread id = t := leads_iff_of_exec rfl
theorem leads_gateTimeout : Leads (.gateTimeout id) s t ↔ s.gateTimeout id = t := leads_iff_of_exec rfl

end

/-- A step on a pending request is the step's own function of that request. -/
theorem State.onReq_of_pending {s : State} {id : Nat} {q : Req} (here : Pending s id q) (f : Req → State) : s.onReq id f = f q := by
  rw [Pending] at here
  rw [State.onReq, here]

/-! ## The context level (R59, R69, R70)

The model's lookups spell out what the statements name: `← atContext.eq_1` and its like fold the terms back into these names. -/

section
variable {s : State} {id m l : Nat} {p : W64} {r : Reason} {q : Req} {e : Ecc} {ent : BitVec 128}

/-- A request as the context level looks it up is the request that came, but for the engine class in its guidon (R152). -/
theorem atContext_eq (s : State) (q : Req) : ∃ g, atContext s q = { q with org := { q.org with guidon := g } } := by
  unfold atContext
  split
  · exact ⟨_, rfl⟩
  · exact ⟨q.org.guidon, rfl⟩
@[simp] theorem atContext_ptr : (atContext s q).ptr = q.ptr := by
  obtain ⟨g, h⟩ := atContext_eq s q
  rw [h]
@[simp] theorem atContext_kind : (atContext s q).kind = q.kind := by
  obtain ⟨g, h⟩ := atContext_eq s q
  rw [h]
@[simp] theorem atContext_fwd : (atContext s q).fwd = q.fwd := by
  obtain ⟨g, h⟩ := atContext_eq s q
  rw [h]
@[simp] theorem atContext_stage : (atContext s q).stage = q.stage := by
  obtain ⟨g, h⟩ := atContext_eq s q
  rw [h]
@[simp] theorem atContext_shared : (atContext s q).shared = q.shared := by
  obtain ⟨g, h⟩ := atContext_eq s q
  rw [h]

/-- A request at the context level that no older load holds back is looked up. -/
theorem context_free (at_ : q.stage = .context) (free : s.loadBehind q = false) : ¬ (decide (q.stage ≠ .context) || s.loadBehind q) = true := by simp [at_, free]

variable (here : Pending s id q)
include here

theorem State.contextLookup_lost (at_ : q.stage = .context) (free : s.loadBehind q = false) (lost : (ctxSeen s q e).2 = none) :
    s.contextLookup id e = (ctxSeen s q e).1.refuse id (atContext s q) ⟨1, .poison, pO q.ptr, s.modNo, false, q.fwd⟩ := by
  rw [State.contextLookup, State.onReq_of_pending here, if_neg (context_free at_ free)]
  simp only [← atContext.eq_1, ← ctxSeen.eq_1, atContext_ptr, atContext_fwd, lost]
theorem State.contextLookup_refuse (h : CtxSays s q e ent (.refuse r)) :
    s.contextLookup id e = (ctxSeen s q e).1.refuse id (atContext s q) ⟨1, r, pO q.ptr, s.modNo, false, q.fwd⟩ := by
  obtain ⟨at_, free, hit, dec⟩ := h
  rw [State.contextLookup, State.onReq_of_pending here, if_neg (context_free at_ free)]
  simp only [← atContext.eq_1, ← ctxSeen.eq_1, atContext_ptr, atContext_kind, atContext_fwd, hit, dec]
theorem State.contextLookup_gated (h : CtxSays s q e ent .gated) :
    let s1 := (ctxSeen s q e).1
    s.contextLookup id e = s1.arrive id (atContext s q) (.held 1 (ctxKey s q) (s1.now + eGTO (s1.tab (ctxKey s q))) .context) := by
  obtain ⟨at_, free, hit, dec⟩ := h
  rw [State.contextLookup, State.onReq_of_pending here, if_neg (context_free at_ free)]
  simp only [← atContext.eq_1, ← ctxSeen.eq_1, ← ctxKey.eq_1, atContext_ptr, atContext_kind, hit, dec]
  rw [State.holdAt, atContext_stage, at_, State.gateEnd]
theorem State.contextLookup_chip (h : CtxSays s q e ent (.chip p)) :
    s.contextLookup id e = ((ctxSeen s q e).1.countUp (ctxKey s q)).setReq id { atContext s q with stage := .chip, shared := q.shared ++ [ctxKey s q] } := by
  obtain ⟨at_, free, hit, dec⟩ := h
  rw [State.contextLookup, State.onReq_of_pending here, if_neg (context_free at_ free)]
  simp only [← atContext.eq_1, ← ctxSeen.eq_1, ← ctxKey.eq_1, atContext_ptr, atContext_kind, atContext_shared, hit, dec]
theorem State.contextLookup_fabric (h : CtxSays s q e ent (.fabric m l)) :
    let q' := { atContext s q with label := l, shared := q.shared ++ [ctxKey s q] }
    let s1 := (ctxSeen s q e).1.countUp (ctxKey s q)
    let b := 4096 + (s.grants 1 (gCtx q'.org.guidon) (eACL ent) q'.org.guidon q.kind).getD 0
    s.contextLookup id e =
      if m = s.modNo then s1.setReq id { q' with stage := .port }
      else if (s.bucket b).rate = 0 then s1.depart id q' m 2
      else (s1.tickBucket b).arrive id q' (.bucket b (s.egressCharge id (atContext s q) m) (.remote m)) := by
  obtain ⟨at_, free, hit, dec⟩ := h
  rw [State.contextLookup, State.onReq_of_pending here, if_neg (context_free at_ free)]
  simp only [← atContext.eq_1, ← ctxSeen.eq_1, ← ctxKey.eq_1, atContext_ptr, atContext_kind, atContext_shared, hit, dec]

end

/-! ## The port level (R60) -/

section
variable {s : State} {id m l : Nat} {p : W64} {r : Reason} {q : Req} {e : Ecc} (here : Pending s id q)
include here

theorem State.portLookup_refuse (h : PortSays s q e (.refuse r)) :
    s.portLookup id e = (portSeen s q e).refuse id q ⟨2, r, q.label, (portSeen s q e).modNo, false, q.fwd⟩ := by
  obtain ⟨at_, dec⟩ := h
  rw [State.portLookup, State.onReq_of_pending here, if_neg (not_not_intro at_)]
  simp only [← portSeen.eq_1, dec]
theorem State.portLookup_gated (h : PortSays s q e .gated) :
    let s1 := portSeen s q e
    s.portLookup id e = s1.arrive id q (.held 2 (keyPort q.label) (s1.now + eGTO (s1.tab (keyPort q.label))) .port) := by
  obtain ⟨at_, dec⟩ := h
  rw [State.portLookup, State.onReq_of_pending here, if_neg (not_not_intro at_)]
  simp only [← portSeen.eq_1, dec, State.holdAt, State.gateEnd, at_]
theorem State.portLookup_chip (h : PortSays s q e (.chip p)) :
    s.portLookup id e = ((portSeen s q e).countUp (keyPort q.label)).setReq id { q with stage := .chip, shared := q.shared ++ [keyPort q.label] } := by
  obtain ⟨at_, dec⟩ := h
  rw [State.portLookup, State.onReq_of_pending here, if_neg (not_not_intro at_)]
  simp only [← portSeen.eq_1, dec]
theorem State.portLookup_again (h : PortSays s q e (.portAgain m l)) :
    let s1 := (portSeen s q e).countUp (keyPort q.label)
    let q' := { q with label := l, fwd := q.fwd + 1, shared := q.shared ++ [keyPort q.label] }
    s.portLookup id e = if m = (portSeen s q e).modNo then s1.setReq id q' else s1.depart id q' m 2 := by
  obtain ⟨at_, dec⟩ := h
  rw [State.portLookup, State.onReq_of_pending here, if_neg (not_not_intro at_)]
  simp only [← portSeen.eq_1, dec]

end

/-! ## The chip level (R61, R94, R105) -/

section
variable {s : State} {id m b : Nat} {p : W64} {t : Target} {r : Reason} {q : Req} {e : Ecc} {ent : BitVec 128} (here : Pending s id q)
include here

theorem State.chipLookup_lost (at_ : q.stage = .chip) (lost : (chipSeen s q e).2 = none) :
    s.chipLookup id e = (chipSeen s q e).1.refuse id q ⟨3, .poison, pM q.ptr, s.modNo, false, q.fwd⟩ := by
  rw [State.chipLookup, State.onReq_of_pending here, if_neg (not_not_intro at_)]
  simp only [← chipSeen.eq_1, lost]
theorem State.chipLookup_refuse (h : ChipSays s q e ent (.refuse r)) :
    s.chipLookup id e = (chipSeen s q e).1.refuse id q ⟨3, r, pM q.ptr, s.modNo, false, q.fwd⟩ := by
  obtain ⟨at_, hit, dec⟩ := h
  rw [State.chipLookup, State.onReq_of_pending here, if_neg (not_not_intro at_)]
  simp only [← chipSeen.eq_1, hit, dec]
theorem State.chipLookup_gated (h : ChipSays s q e ent .gated) :
    let s1 := (chipSeen s q e).1
    s.chipLookup id e = s1.arrive id q (.held 3 (keyChip (pM q.ptr)) (s1.now + eGTO (s1.tab (keyChip (pM q.ptr)))) .chip) := by
  obtain ⟨at_, hit, dec⟩ := h
  rw [State.chipLookup, State.onReq_of_pending here, if_neg (not_not_intro at_)]
  simp only [← chipSeen.eq_1, hit, dec, State.holdAt, State.gateEnd, at_]
theorem State.chipLookup_again (h : ChipSays s q e ent (.chipAgain m p)) :
    let s1 := (chipSeen s q e).1.countUp (keyChip (pM q.ptr))
    let q' := { q with entries := q.entries ++ [keyChip (pM q.ptr)], ptr := p, fwd := q.fwd + 1 }
    s.chipLookup id e = if m = s.modNo then s1.setReq id q' else s1.depart id q' m 3 := by
  obtain ⟨at_, hit, dec⟩ := h
  rw [State.chipLookup, State.onReq_of_pending here, if_neg (not_not_intro at_)]
  simp only [← chipSeen.eq_1, hit, dec]
theorem State.chipLookup_split (h : ChipSays s q e ent (.target b t)) (crosses : s.firstPart q ent < q.len) :
    s.chipLookup id e = (chipSeen s q e).1.splitReq id q (s.firstPart q ent) := by
  obtain ⟨at_, hit, dec⟩ := h
  rw [State.chipLookup, State.onReq_of_pending here, if_neg (not_not_intro at_)]
  simp only [← chipSeen.eq_1, hit, dec, crosses, if_true]
theorem State.chipLookup_whole (h : ChipSays s q e ent (.target b t)) (whole : q.len ≤ s.firstPart q ent) :
    let s1 := (chipSeen s q e).1.countUp (keyChip (pM q.ptr))
    let q' := { q with entries := q.entries ++ [keyChip (pM q.ptr)], ent := ent, fwd0 := q.fwd, ptrC := q.ptr }
    s.chipLookup id e =
      if q.pay.isRange = true ∨ (s1.bucket b).rate = 0 then s1.issueTo id q' else (s1.tickBucket b).arrive id q' (.bucket b (chargeOf q') .entry) := by
  obtain ⟨at_, hit, dec⟩ := h
  rw [State.chipLookup, State.onReq_of_pending here, if_neg (not_not_intro at_)]
  simp only [← chipSeen.eq_1, hit, dec, whole.not_gt, if_false, Bool.or_eq_true, decide_eq_true_eq]

end

/-! ## The stack level (R92) -/

section
variable {s : State} {id st i off pa b sl : Nat} {t : Tag} {tg : Target} {r : Reason} {q : Req} {e : Ecc}

theorem State.stackTurn_refuse (h : stackSays s q e st i off = .refuse r) :
    s.stackTurn id q e st i off tg = (stackSeen s e st i off).refuse id { q with home := none } ⟨4, r, i, s.modNo, false, q.fwd⟩ := by
  rw [stackSays] at h
  unfold State.stackTurn
  simp only [← stackSeen.eq_1, h]
theorem State.stackTurn_place_remote {n : Nat} (h : stackSays s q e st i off = .place pa) :
    s.stackTurn id q e st i off (.remote n) = (stackSeen s e st i off).stackServe id q pa e := by
  rw [stackSays] at h
  unfold State.stackTurn
  simp only [← stackSeen.eq_1, h]
theorem State.stackTurn_place_read {o : Nat} (h : stackSays s q e st i off = .place pa) (reads : q.kind = .read ∨ q.kind = .fetch) (way : s.hasWay t sl = true) :
    s.stackTurn id q e st i off (.line t b o sl) = (((stackSeen s e st i off).eccRead pa e.ofData).fillLine t sl b pa).serveLine id q t b := by
  rw [stackSays] at h
  have noWrite : ¬ (decide (q.kind = .write) || decide (q.kind = .atomic)) = true := by rcases reads with k | k <;> simp [k]
  unfold State.stackTurn
  simp only [← stackSeen.eq_1, h, way, Bool.not_true, Bool.false_eq_true, if_false, if_neg noWrite]

variable (here : Pending s id q) (current : s.stampOk q = true)
include here current

/-- A request that another module has forwarded to a stack here passes the stack level where no walk holds it, … -/
theorem State.stackLookup_remote {n : Nat} (at_ : q.stage = .stack st i off (.remote n)) : s.stackLookup id e = s.stackTurn id q e st i off (.remote n) := by
  rw [State.stackLookup, State.onReq_of_pending here]
  simp only [at_, current, Bool.and_true, if_true]
/-- … and so does a read or fetch at its home slice which the line there does not serve. -/
theorem State.stackLookup_read (at_ : q.stage = .slice (.line t b off sl)) (reads : q.kind = .read ∨ q.kind = .fetch) (thawed : s.frozen t = false)
    (miss : s.held q.org.guidon q.kind t b q.len = false) : s.stackLookup id e = s.stackTurn id q e t.stack t.i off (.line t b off sl) := by
  rw [State.stackLookup, State.onReq_of_pending here]
  have isRead : (decide (q.kind = .read) || decide (q.kind = .fetch)) = true := by simpa using reads
  simp only [at_, isRead, current, thawed, miss, Bool.not_false, Bool.and_true, if_true]

end

/-! ## Requests that a gate holds (R70, R72) -/

section
variable {s : State} {id lvl key end_ : Nat} {back : Stage} {q : Req}

/-- The stage holds a request at the gate of an entry. -/
def Stage.heldAt (key : Nat) : Stage → Bool
  | .held _ k _ _ => decide (k = key)
  | _ => false

variable (here : Pending s id q) (at_ : q.stage = .held lvl key end_ back)
include here at_

theorem State.gatedReread_first (opened : eST (s.tab key) ≠ 2) (first : FirstAt s q (Stage.heldAt key)) :
    s.gatedReread id = (s.setReq id { q with stage := back }).lookAgain id .clean := by
  have turn : (s.gateOpen key && !s.reqs.any fun x => decide (x.2.arrived < q.arrived) && x.2.stage.heldAt key) = true := by
    have noEarlier : ∀ x ∈ s.reqs, x.2.arrived < q.arrived → ¬ x.2.stage.heldAt key = true := fun x hx earlier same => (first x hx same).not_gt earlier
    simpa [State.gateOpen, opened] using noEarlier
  rw [State.gatedReread, State.onReq_of_pending here]
  simp only [at_]
  exact if_pos turn
theorem State.gateTimeout_gated (gated : eST (s.tab key) = 2) :
    s.gateTimeout id = if end_ < s.now then s.refuse id { q with stage := back } ⟨lvl, .gate, keyLabel lvl key, s.modNo, false, q.fwd⟩ else s := by
  rw [State.gateTimeout, State.onReq_of_pending here]
  simp only [at_, State.gateOpen, gated, ne_eq, not_true_eq_false, decide_false, Bool.not_false, Bool.true_and, decide_eq_true_eq]

end

/-! ## The statements -/

/-- Settles O34, level by level: each clause is the case of its level's lookup in the lemmas above. -/
theorem levelGrants : Obligations.LevelGrants := by
  unfold Obligations.LevelGrants
  simp only [leads_contextLevelLookup, leads_portLevelLookup, leads_chipLevelLookup, leads_stackLevelLookup]
  refine ⟨?contextToChip, ?contextToFabric, ?portToChip, ?portForward, ?chipGrants, ?chipForward, ?stackRemote, ?stackRead⟩
  case contextToChip => exact fun s id q e ent p here h => State.contextLookup_chip here h
  case contextToFabric => exact fun s id q e ent m l here h => State.contextLookup_fabric here h
  case portToChip => exact fun s id q e p here h => State.portLookup_chip here h
  case portForward => exact fun s id q e m l here h => State.portLookup_again here h
  case chipGrants => exact fun s id q e ent b t here h => ⟨State.chipLookup_split here h, State.chipLookup_whole here h⟩
  case chipForward => exact fun s id q e ent m p here h => State.chipLookup_again here h
  case stackRemote =>
    intro s id q e st i off pa here at_ current placed
    rw [State.stackLookup_remote here current at_, State.stackTurn_place_remote placed]
  case stackRead =>
    intro s id q e t b off sl pa here at_ reads current thawed miss way placed
    rw [State.stackLookup_read here current at_ reads thawed miss, State.stackTurn_place_read placed reads way]

/-- Settles O35, level by level, then the two events of a gate. -/
theorem levelRefusals : Obligations.LevelRefusals := by
  unfold Obligations.LevelRefusals
  simp only [leads_contextLevelLookup, leads_portLevelLookup, leads_chipLevelLookup, leads_stackLevelLookup, leads_gatedReread, leads_gateTimeout]
  refine ⟨?contextRefuses, ?contextLost, ?contextGated, ?portRefuses, ?portGated, ?chipRefuses, ?chipLost, ?chipGated, ?stackRefuses, ?reread, ?timeout⟩
  case contextRefuses => exact fun s id q e ent r here h => State.contextLookup_refuse here h
  case contextLost => exact fun s id q e here at_ free lost => State.contextLookup_lost here at_ free lost
  case contextGated => exact fun s id q e ent here h => State.contextLookup_gated here h
  case portRefuses => exact fun s id q e r here h => State.portLookup_refuse here h
  case portGated => exact fun s id q e here h => State.portLookup_gated here h
  case chipRefuses => exact fun s id q e ent r here h => State.chipLookup_refuse here h
  case chipLost => exact fun s id q e here at_ lost => State.chipLookup_lost here at_ lost
  case chipGated => exact fun s id q e ent here h => State.chipLookup_gated here h
  case stackRefuses =>
    intro s id q e st i off r here at_ current refused
    rw [State.stackLookup_remote here current at_, State.stackTurn_refuse refused]
  case reread => exact fun s id q lvl key end_ back here at_ opened first => State.gatedReread_first here at_ opened first
  case timeout => exact fun s id q lvl key end_ back here at_ gated => State.gateTimeout_gated here at_ gated

end Sys2Proof.Machine
end

section
/-! SUPPORT. The width of the operands that an instruction reads (R38 to R40), what an instruction that can trap in some thread comes to (R80, R203), numbers by their
bits, and the results of the pointer instructions (R81 to R85), with the proof of the statement on them. That the record of a fault of `PMK` or `PDIF` holds the value of A
is the model's choice (log entry 126). -/

namespace Sys2Proof

theorem leNat_lt (bs : List Byte) : leNat bs < 256 ^ bs.length := by
  induction bs with
  | nil => simp [leNat]
  | cons b bs ih =>
    have := b.isLt
    rw [leNat, List.length_cons, Nat.pow_succ]
    omega

namespace Machine

open Decode Safety Claims

/-! ## The operands of an instruction lie within their widths -/

/-- A position that takes a number of 32 or 64 bits. -/
def NumPos (p : Pos) : Prop := (p.width = 32 ∨ p.width = 64) ∧ (p.ext = .zero ∨ p.ext = .sign)

section
variable {w : Nat} (hw : w = 32 ∨ w = 64)
include hw

theorem Group.readT_v_lt (g : Group) (t k : Nat) : (g.readT t k w).v < 2 ^ w := by
  have lo := (g.treg t k).v.isLt
  have hi := (g.treg t (k + 1)).v.isLt
  rcases hw with rfl | rfl
  · exact lo
  · simp only [Group.readT]
    omega
theorem Group.readW_v_lt (g : Group) (k : Nat) : (g.readW k w).v < 2 ^ w := by
  rcases hw with rfl | rfl
  · exact Nat.mod_lt _ (by decide)
  · exact (g.ureg k).v.isLt
theorem extImm_lt {e : Ext} (he : e = .zero ∨ e = .sign) {v : Nat} (hv : v < 2 ^ 16) : extImm e w v < 2 ^ w := by
  have room : 2 ^ 16 ≤ 2 ^ w := by rcases hw with rfl | rfl <;> decide
  rcases he with rfl | rfl
  · exact hv.trans_le room
  · simp only [extImm]
    split <;> omega
theorem extLong_lt {e : Ext} (he : e = .zero ∨ e = .sign) (hi lo : BitVec 16) : extLong e w hi lo < 2 ^ w := by
  have room : 2 ^ 32 ≤ 2 ^ w := by rcases hw with rfl | rfl <;> decide
  have fits : hi.toNat * 2 ^ 16 + lo.toNat < 2 ^ 32 := by
    have := hi.isLt
    have := lo.isLt
    omega
  have signed : ∀ v < 2 ^ 32, (if v < 2 ^ 31 then v else v + (2 ^ w - 2 ^ 32)) < 2 ^ w := by
    intro v hv
    split <;> omega
  rcases he with rfl | rfl
  · exact fits.trans_le room
  · exact signed _ fits
theorem bankVal_lt (b : Block) (off : Nat) : bankVal b off w < 2 ^ w := by
  have h := leNat_lt ((List.range (w / 8)).map fun i => FMap.getD b.bank (off + i) 0)
  rw [List.length_map, List.length_range] at h
  rcases hw with rfl | rfl <;> exact h

end

/-- Every kind of operand supplies a number within the width of its position. -/
theorem readOp_v_lt {p : Pos} (hp : NumPos p) (c : Iss) (t : Nat) (x lo : Opd) : (readOp c t p x lo).v < 2 ^ p.width := by
  obtain ⟨hw, he⟩ := hp
  cases x with
  | t n => exact Group.readT_v_lt hw _ _ _
  | w n => exact Group.readW_v_lt hw _ _
  | sr r => exact Nat.mod_lt _ (Nat.two_pow_pos _)
  | imm v => exact extImm_lt hw he v.isLt
  | cb off => exact bankVal_lt hw _ _
  | long hi =>
    cases lo with
    | long l => exact extLong_lt hw he _ _
    | _ => exact Nat.two_pow_pos _
  | _ => exact Nat.two_pow_pos _

/-! ## Numbers by their bits -/

theorem slice_eq_div {x lo w n : Nat} (h : x < 2 ^ n) (top : lo + w = n) : slice x lo w = x / 2 ^ lo := by
  refine Nat.mod_eq_of_lt (Nat.div_lt_of_lt_mul ?_)
  rwa [← Nat.pow_add, top]

theorem ofBits_succ (w : Nat) (f : Nat → Bool) : ofBits (w + 1) f = 2 ^ w * (f w).toNat + ofBits w f := by
  simp only [ofBits, List.range_succ, List.map_append, List.sum_append, List.map_cons, List.map_nil, List.sum_cons, List.sum_nil]
  cases f w <;> simp [Nat.add_comm]
theorem ofBits_lt (w : Nat) (f : Nat → Bool) : ofBits w f < 2 ^ w := by
  induction w with
  | zero => simp [ofBits]
  | succ w ih =>
    rw [ofBits_succ, Nat.pow_succ]
    cases f w <;> simp <;> omega
/-- The number made of some bits has these bits and no others. -/
theorem testBit_ofBits (w : Nat) (f : Nat → Bool) (i : Nat) : (ofBits w f).testBit i = (decide (i < w) && f i) := by
  induction w with
  | zero => simp [ofBits]
  | succ w ih =>
    rw [ofBits_succ, Nat.testBit_two_pow_mul_add _ (ofBits_lt w f)]
    rcases lt_trichotomy i w with below | rfl | above
    · simp [ih, below, below.trans (Nat.lt_succ_self w)]
    · cases f i <;> simp
    · have past : (f w).toNat.testBit (i - w) = false := by
        refine Nat.testBit_lt_two_pow ((Bool.toNat_lt _).trans_le ?_)
        exact Nat.le_self_pow (by omega) 2
      simp [above.not_gt, past, show ¬ i < w + 1 by omega]

/-- Writing `a` into the field of `w` bits from `lo` on replaces the bits there and leaves the others. -/
theorem ofBits_field {lo w n d a : Nat} (hd : d < 2 ^ n) (hw : lo + w ≤ n) :
    ofBits n (fun i => if lo ≤ i ∧ i < lo + w then a.testBit (i - lo) else d.testBit i) = d - d / 2 ^ lo % 2 ^ w * 2 ^ lo + a % 2 ^ w * 2 ^ lo := by
  have joined : d - d / 2 ^ lo % 2 ^ w * 2 ^ lo + a % 2 ^ w * 2 ^ lo = 2 ^ lo * (2 ^ w * (d / 2 ^ lo / 2 ^ w) + a % 2 ^ w) + d % 2 ^ lo := by
    have outer : 2 ^ lo * (d / 2 ^ lo) + d % 2 ^ lo = d := Nat.div_add_mod d _
    have inner : 2 ^ lo * (2 ^ w * (d / 2 ^ lo / 2 ^ w)) + 2 ^ lo * (d / 2 ^ lo % 2 ^ w) = 2 ^ lo * (d / 2 ^ lo) := by rw [← Nat.mul_add, Nat.div_add_mod]
    rw [Nat.mul_comm _ (2 ^ lo), Nat.mul_comm _ (2 ^ lo), Nat.mul_add]
    omega
  rw [joined]
  refine Nat.eq_of_testBit_eq fun i => ?_
  rw [testBit_ofBits, Nat.testBit_two_pow_mul_add _ (Nat.mod_lt _ (Nat.two_pow_pos _)), Nat.testBit_two_pow_mul_add _ (Nat.mod_lt _ (Nat.two_pow_pos _))]
  simp only [Nat.testBit_mod_two_pow, Nat.testBit_div_two_pow]
  rcases lt_or_ge i lo with below | from_
  · simp [below, below.not_ge, (by omega : i < n)]
  · rcases lt_or_ge i (lo + w) with inside | above
    · simp [from_, inside, from_.not_gt, (by omega : i < n), (by omega : i - lo < w)]
    · have top : n ≤ i → d.testBit i = false := fun h => Nat.testBit_lt_two_pow (hd.trans_le (Nat.pow_le_pow_right (by decide) h))
      rw [if_neg (by omega), if_neg (by omega), if_neg (by omega), (by omega : i - lo - w + w + lo = i)]
      rcases lt_or_ge i n with within | out
      · simp [within]
      · simp [top out]

/-! ## An instruction that can trap in some thread (R80, R203) -/

section
variable {α : Type} {f : α → Except Stop Unit}

theorem firstStop_ok {xs : List α} (h : ∀ x ∈ xs, f x = .ok ()) : firstStop f xs = .ok () := by
  induction xs with
  | nil => rfl
  | cons x xs ih => simp only [firstStop, h x (List.mem_cons_self ..), ih fun y hy => h y (List.mem_cons_of_mem _ hy)]
theorem firstStop_first {before after : List α} {x : α} {e : Stop} (passed : ∀ y ∈ before, f y = .ok ()) (stops : f x = .error e) :
    firstStop f (before ++ x :: after) = .error e := by
  induction before with
  | nil => simp only [List.nil_append, firstStop, stops]
  | cons y ys ih => simp only [List.cons_append, firstStop, passed y (List.mem_cons_self ..), ih fun z hz => passed z (List.mem_cons_of_mem _ hz)]

end

section
variable {i : Instr} {o : Args} {s : State} {gid : Nat} {f : Iss → Nat → Val → Val → Val → Except Stop Res} (p : Issues s gid i o)

/-- What a thread of the issuing group computes. -/
def computed (f : Iss → Nat → Val → Val → Val → Except Stop Res) (s : State) (gid : Nat) (i : Instr) (o : Args) (t : Nat) : Except Stop Res :=
  f (issOf s gid) t (srcsOf s gid i o t).1 (srcsOf s gid i o t).2.1 (srcsOf s gid i o t).2.2

include p

/-- Where no acting thread stops it, the instruction delivers each thread's result, … -/
theorem aluTrap_next {r : Nat → Res} (ok : ∀ t ∈ actingOf s gid o, computed f s gid i o t = .ok (r t)) :
    aluTrap i o s f = .next (delivered s gid o (spec i).d.width ((actingOf s gid o).map fun t =>
      (t, ({ v := (r t).v, tag := (r t).tag, tag2 := (r t).tag, st := worst (srcsOf s gid i o t) } : Val), (r t).fl))) := by
  have results : ((actingOf s gid o).map fun t => (t, worst (srcsOf s gid i o t), computed f s gid i o t)) =
      (actingOf s gid o).map fun t => (t, worst (srcsOf s gid i o t), .ok (r t)) :=
    List.map_congr_left fun t ht => by rw [ok t ht]
  unfold computed srcsOf at results
  unfold aluTrap
  refine issue_next p.1 (s' := s.setGrp gid (putResults (s.blk (s.grp gid).blk).tents (s.grp gid) (spec i).d.width o.d.x _)) ?_
  rw [start_ok p]
  simp only [results]
  rw [firstStop_ok (by simp)]
  simp only [List.filterMap_map, Function.comp_def, List.filterMap_eq_map']
  rfl
/-- … and otherwise the lowest thread that something stops stops it. -/
theorem aluTrap_stop {before after : List Nat} {t : Nat} {x : Stop} (threads : actingOf s gid o = before ++ t :: after)
    (ok : ∀ t' ∈ before, ∃ r, computed f s gid i o t' = .ok r) (stops : computed f s gid i o t = .error x) : aluTrap i o s f = .next (s.stopped gid x) := by
  unfold computed srcsOf at ok stops
  unfold aluTrap
  refine issue_stop p.1 ?_
  rw [start_ok p, threads]
  simp only [List.map_append, List.map_cons]
  rw [firstStop_first (e := x)]
  · simp only [List.forall_mem_map]
    intro t' ht'
    obtain ⟨r, hr⟩ := ok t' ht'
    rw [hr]
  · rw [stops]

end

/-! ## The results of the pointer instructions (R81 to R85) -/

section
variable {a b d : Nat}

theorem pmkR_eq (win : Bool) (ha : a < 2 ^ 64) : pmkR win a b = pmkSpec win a b := by
  cases win
  · simp only [pmkR, pmkSpec, slice_eq_div ha (lo := 36) (w := 28) rfl]
    simp [slice]
  · simp only [pmkR, pmkSpec, slice_eq_div ha (lo := 2) (w := 62) rfl]
    simp [slice]
/-- The immediate or register that `PADD` adds is the number that its 32 bits stand for. -/
theorem addend_eq_asInt (hb : b < 2 ^ 32) (uns : Bool) : (if uns then (b : Int) else sext 32 b) = asInt 32 uns b := by
  have whole : b % 2 ^ 32 = b := Nat.mod_eq_of_lt hb
  cases uns <;> simp only [sext, asInt, whole] <;> simp
theorem paddR_eq (uns : Bool) (ha : a < 2 ^ 64) (hb : b < 2 ^ 32) : paddR uns a b = paddSpec uns a b := by
  have end24 : ∀ x : Int, x > 0xFFFFFF ↔ 2 ^ 24 ≤ x := by omega
  have end32 : ∀ x : Int, x > 0xFFFFFFFF ↔ 2 ^ 32 ≤ x := by omega
  simp only [paddR, paddSpec, addend_eq_asInt hb, end24, end32, slice_eq_div ha (lo := 60) (w := 4) rfl, slice_eq_div ha (lo := 24) (w := 40) rfl,
    slice_eq_div ha (lo := 32) (w := 32) rfl]
  simp [slice]
/-- Within one form, pointers agree above a bit where their fields between it and the form do. -/
theorem above_form_eq {lo w : Nat} (form : a / 2 ^ 60 = b / 2 ^ 60) (top : lo + w = 60) : slice a lo w = slice b lo w ↔ a / 2 ^ lo = b / 2 ^ lo := by
  have above : a / 2 ^ lo / 2 ^ w = b / 2 ^ lo / 2 ^ w := by rwa [Nat.div_div_eq_div_mul, Nat.div_div_eq_div_mul, ← Nat.pow_add, top]
  constructor
  · intro h
    rw [← Nat.div_add_mod (a / 2 ^ lo) (2 ^ w), above, ← slice, h, slice, Nat.div_add_mod]
  · intro h
    rw [slice, h, slice]
theorem pdifR_eq (ha : a < 2 ^ 64) (hb : b < 2 ^ 64) : pdifR a b = pdifSpec a b := by
  simp only [pdifR, pdifSpec, slice_eq_div ha (lo := 60) (w := 4) rfl, slice_eq_div hb (lo := 60) (w := 4) rfl]
  by_cases form : a / 2 ^ 60 = b / 2 ^ 60
  · simp only [ne_eq, above_form_eq form (lo := 24) (w := 36) rfl, above_form_eq form (lo := 32) (w := 28) rfl, form]
    by_cases one : b / 2 ^ 60 = 1
    · simp [one, slice, word, -Nat.reducePow]
    · by_cases two : b / 2 ^ 60 = 2
      · simp [two, slice, word, -Nat.reducePow]
      · simp [one, two, -Nat.reducePow]
  · simp only [ne_eq, form, not_false_eq_true, true_or, if_true]
theorem ptrField_le (m : PField) : (ptrField m).1 + (ptrField m).2 ≤ 64 := by cases m <;> decide
theorem psetR_eq {m : PField} (hm : m ≠ .form) (hd : d < 2 ^ 64) : psetR m d a = psetSpec m d a := by
  simp only [psetSpec, ofBits_field hd (ptrField_le m), slice_eq_div hd (lo := 60) (w := 4) rfl]
  cases m <;> simp [psetR, ptrField] at hm ⊢

end

/-! ## From the results to the statement -/

section
variable {i : Instr} {o : Args} {f g : Nat → Nat → Nat → Except Reason Nat} {ptr : Val × Val × Val → Nat}

/-- The instruction is a pointer instruction: its result for a thread is `g` of its sources, or a pointer fault with the pointer `ptr` of them; and `g` is `f`
on all sources that operands can supply. -/
structure PtrInstr (i : Instr) (o : Args) (g f : Nat → Nat → Nat → Except Reason Nat) (ptr : Val × Val × Val → Nat) : Prop where
  runs : ∀ s, exec i s = aluTrap i o s fun c t d a b => ptrRes c t (ptr (d, a, b)) (g d.v a.v b.v)
  agrees : ∀ s gid t, let x := srcsOf s gid i o t; g x.1.v x.2.1.v x.2.2.v = f x.1.v x.2.1.v x.2.2.v

theorem PtrInstr.ok (h : PtrInstr i o g f ptr) : PtrOk i o f := by
  intro s gid v p ok
  rw [Computes, h.runs, aluTrap_next p (r := fun t => { v := v t })]
  intro t ht
  rw [computed, h.agrees, ok t ht, ptrRes]
theorem PtrInstr.faults (h : PtrInstr i o g f ptr) : PtrFaults i o f ptr := by
  intro s gid before t after r p threads ok bad
  rw [h.runs, aluTrap_stop p threads (x := pointerFault (issOf s gid) t (BitVec.ofNat 64 (ptr (srcsOf s gid i o t))) .pointer r)]
  · rfl
  · intro t' ht'
    obtain ⟨v, hv⟩ := ok t' ht'
    exact ⟨{ v := v }, by rw [computed, h.agrees, hv, ptrRes]⟩
  · rw [computed, h.agrees, bad, ptrRes]

theorem ptrInstr_pmk (m : Bool) (o : Args) : PtrInstr (.pmk m o) o (fun _ a b => pmkR m a b) (fun _ a b => pmkSpec m a b) fun x => x.2.1.v where
  runs _ := rfl
  agrees _ _ _ := pmkR_eq m (readOp_v_lt (p := pP) ⟨.inr rfl, .inl rfl⟩ _ _ _ _)
theorem ptrInstr_padd (m : Bool) (o : Args) : PtrInstr (.padd m o) o (fun _ a b => paddR m a b) (fun _ a b => paddSpec m a b) fun x => x.2.1.v where
  runs _ := rfl
  agrees _ _ _ := paddR_eq m (readOp_v_lt (p := pP) ⟨.inr rfl, .inl rfl⟩ _ _ _ _)
    (readOp_v_lt (p := pA 32 (sg m)) ⟨.inl rfl, by cases m <;> simp [pA, sg]⟩ _ _ _ _)
theorem ptrInstr_pdif (o : Args) : PtrInstr (.pdif o) o (fun _ a b => pdifR a b) (fun _ a b => pdifSpec a b) fun x => x.2.1.v where
  runs _ := rfl
  agrees _ _ _ := pdifR_eq (readOp_v_lt (p := pP) ⟨.inr rfl, .inl rfl⟩ _ _ _ _) (readOp_v_lt (p := pP) ⟨.inr rfl, .inl rfl⟩ _ _ _ _)
theorem ptrInstr_pset {m : PField} (hm : m ≠ .form) (o : Args) :
    PtrInstr (.pset m o) o (fun d a _ => psetR m d a) (fun d a _ => psetSpec m d a) fun x => x.1.v where
  runs _ := rfl
  agrees _ _ _ := psetR_eq hm (readOp_v_lt (p := pR 64) ⟨.inr rfl, .inl rfl⟩ _ _ _ _)

end

/-- `PGET` takes the bits of its field, … -/
theorem alu_pget (m : PField) (o : Args) : Alu (.pget m o) o fun _ _ a _ => { v := slice a.v (ptrField m).1 (ptrField m).2 } :=
  fun _ _ p => alu_next (fun _ _ a _ => { v := pgetR m a.v }) p
/-- … and `PFORM` compares the form field. -/
theorem alu_pform (m : BitVec 4) (o : Args) : Alu (.pform m o) o fun _ _ a _ => { v := if slice a.v 60 4 = m.toNat then 1 else 0 } := by
  intro s gid p
  have form : ∀ t, slice (srcsOf s gid (.pform m o) o t).2.1.v 60 4 = (srcsOf s gid (.pform m o) o t).2.1.v / 2 ^ 60 := fun t =>
    slice_eq_div (readOp_v_lt (p := pP) ⟨.inr rfl, .inl rfl⟩ _ _ _ _) rfl
  have flag : ∀ x : Nat, (if x = m.toNat then 1 else 0) = (decide (x = m.toNat)).toNat := fun x => by by_cases h : x = m.toNat <;> simp [h]
  simp only [Computes, form, flag]
  exact alu_next (fun _ _ a _ => { v := (decide (a.v / 2 ^ 60 = m.toNat)).toNat }) p

theorem pointerResults : PointerResults :=
  ⟨fun m o => (ptrInstr_pmk m o).ok, fun m o => (ptrInstr_padd m o).ok, fun o => (ptrInstr_pdif o).ok, fun _ o hm => (ptrInstr_pset hm o).ok, alu_pget, alu_pform⟩
theorem pointerFaults : PointerFaults :=
  ⟨fun m o => (ptrInstr_pmk m o).faults, fun m o => (ptrInstr_padd m o).faults, fun o => (ptrInstr_pdif o).faults, fun _ o hm => (ptrInstr_pset hm o).faults⟩

/-- Settles O4: each instruction that can fault is a `PtrInstr`, and `PGET` and `PFORM` cannot. -/
theorem pointers : Obligations.Pointers := by
  unfold Obligations.Pointers
  exact ⟨pointerResults, pointerFaults⟩

end Machine
end Sys2Proof
end

section
/-! SUPPORT. What the owners of a request's bytes do, a lemma for each case of their events (R105, R108, R111, R113, R115, R117, R120, R187, R190), and the
proof of the statement on them. Which writes the read-only fields of structures in memory are held to is deduced (log entry 132). -/

namespace Sys2Proof.Machine

open Claims

/-! ## The events of the owners -/

section
variable {s t : State} {x : Look} {id : Nat}

theorem leads_bucketRelease : Leads (.bucketRelease id) s t ↔ s.bucketRelease id = t := leads_iff_of_exec rfl
theorem leads_grantRequest : Leads (.grantRequest x) s t ↔ s.grantRequest x.id x.ecc = t := leads_iff_of_exec rfl
theorem leads_writeApply : Leads (.writeApply id) s t ↔ s.writeApply id = t := leads_iff_of_exec rfl
theorem leads_homeSliceAtomic : Leads (.homeSliceAtomic id) s t ↔ s.homeAtomic id = t := leads_iff_of_exec rfl
theorem leads_replicaSequence : Leads (.replicaSequence id) s t ↔ s.replicaSeq id = t := leads_iff_of_exec rfl
theorem leads_writeAcknowledgement : Leads (.writeAcknowledgement id) s t ↔ s.writeAck id = t := leads_iff_of_exec rfl
theorem leads_domainChangedReplay : Leads (.domainChangedReplay id) s t ↔ s.domainReplay id = t := leads_iff_of_exec rfl

end

/-! ## Buckets and egress (R120, R140) -/

/-- The stage holds a request at a bucket. -/
def Stage.atBucket (b : Nat) : Stage → Bool
  | .bucket b' _ _ => decide (b' = b)
  | _ => false

/-- A request that its bucket has let pass goes to egress, or is issued at the chip level. -/
def State.passBucket (s : State) (id : Nat) (q : Req) : Target → State
  | .remote m => s.depart id q m 2
  | _ => s.issueTo id q

/-- No request that has waited longer stands in the way of the first. -/
theorem noneEarlier_of_firstAt {s : State} {q : Req} {same : Stage → Bool} (first : FirstAt s q same) :
    ¬ (s.reqs.any fun x => same x.2.stage && decide (x.2.arrived < q.arrived)) = true := by
  rw [List.any_eq_true]
  rintro ⟨x, hx, both⟩
  obtain ⟨there, earlier⟩ := (Bool.and_eq_true _ _).mp both
  exact (first x hx there).not_gt (of_decide_eq_true earlier)

section
variable {s : State} {id : Nat} {q : Req} (here : Pending s id q)
include here

theorem State.bucketRelease_first {b n : Nat} {t : Target} (at_ : q.stage = .bucket b n t) (first : FirstAt s q (Stage.atBucket b)) :
    let x := (s.bucket b).refill s.now true
    s.bucketRelease id = if x.rate = 0 then s.passBucket id q t
      else if x.passes = true then (s.setBucket b (x.charge n)).passBucket id q t else s.setBucket b x := by
  rw [State.bucketRelease, State.onReq_of_pending here]
  simp only [at_]
  exact if_neg (noneEarlier_of_firstAt first)
theorem State.bucketRelease_egress {m lvl : Nat} (at_ : q.stage = .egress m lvl) (opened : s.flowOpen m = true) :
    s.bucketRelease id = s.depart id q m lvl := by
  rw [State.bucketRelease, State.onReq_of_pending here]
  simp only [at_, opened, if_true]

end

/-! ## Issue past the bucket (R105, R111) -/

section
variable {s : State} {id : Nat} {q : Req}

theorem State.issueTo_busy (stack : bf q.ent 94 2 = 0) (busy : (FMap.getD s.doms (domOf q.ent) {}).busy = true) :
    s.issueTo id q = s.arrive id q (.domainHeld (domOf q.ent)) := by
  rw [State.issueTo]
  simp only [stack, busy, decide_true, Bool.and_self, if_true]
theorem State.issueTo_line {t : Tag} {b off sl : Nat} (free : (FMap.getD s.doms (domOf q.ent) {}).busy = false) (single : q.pay.isRange = false)
    (goes : s.chipTarget q.len q.ptr q.ent = some (.line t b off sl)) :
    s.issueTo id q =
      s.arrive id { q with stamp := some (domOf q.ent, (FMap.getD s.doms (domOf q.ent) {}).epoch), turn := s.nextId } (.slice (.line t b off sl)) := by
  rw [State.issueTo]
  simp only [free, single, goes, Bool.and_false, Bool.false_eq_true, if_false, if_true]

end

/-! ## Sequencers (R115) -/

/-- The stage holds a request at a sequencer. -/
def Stage.atSequencer : Stage → Bool
  | .slice (.replica ..) => true
  | _ => false

theorem Stage.atSequencer_iff {st : Stage} : st.atSequencer = true ↔ ∃ a b c, st = .slice (.replica a b c) := by
  unfold Stage.atSequencer
  split
  · next a b c => exact ⟨fun _ => ⟨a, b, c, rfl⟩, fun _ => rfl⟩
  · next elsewhere => exact ⟨fun no => absurd no Bool.false_ne_true, fun ⟨a, b, c, h⟩ => absurd h (elsewhere a b c)⟩

/-! ## Home slices and banks (R108, R113, R117, R187) -/

section
variable {s : State} {id st i off pa b sl : Nat} {t : Tag} {q : Req} {e : Ecc}

theorem State.stackTurn_place_write {o : Nat} (h : stackSays s q e st i off = .place pa) (writes : q.kind = .write ∨ q.kind = .atomic)
    (way : s.hasWay t sl = true) : s.stackTurn id q e st i off (.line t b o sl) = (stackSeen s e st i off).granted id q t sl (.line t b o sl) := by
  rw [stackSays] at h
  have isWrite : (decide (q.kind = .write) || decide (q.kind = .atomic)) = true := by simpa using writes
  unfold State.stackTurn
  simp only [← stackSeen.eq_1, h, way, isWrite, Bool.not_true, Bool.false_eq_true, if_false, if_true]

variable (here : Pending s id q)
include here

section
variable (at_ : q.stage = .slice (.line t b off sl)) (current : s.stampOk q = true) (first : s.firstAt q t = true)
include at_ current first

/-- A write or atomic that its line has not granted passes the stack level in its turn. -/
theorem State.grantRequest_turn (writes : q.kind = .write ∨ q.kind = .atomic) (whole : q.half = false) (asks : s.held q.org.guidon q.kind t b q.len = false) :
    s.grantRequest id e = s.stackTurn id q e t.stack t.i off (.line t b off sl) := by
  have isWrite : (decide (q.kind = .write) || decide (q.kind = .atomic)) = true := by simpa using writes
  rw [State.grantRequest, State.onReq_of_pending here]
  simp only [at_, isWrite, current, first, whole, asks, Bool.not_false, Bool.and_self, Bool.true_or, if_true]

theorem State.writeApply_line {m : List (Option Byte)} {ps : List Nat} (stores : q.pay = .store m ps) (granted : s.held q.org.guidon .write t b q.len = true)
    (turn : s.inStamp q = true) :
    let bs := maskBytes b (s.mayWrite q (s.lineAt t b) m)
    s.writeApply id = (((s.lineApply t sl q.org.guidon bs).poisonLine t (ps.map fun i => (b + i) / 32)).discarded q (s.lineRefuses t bs).length).storeDone id q
      (.line t b off sl) := by
  rw [State.writeApply, State.onReq_of_pending here]
  simp only [at_, stores, current, granted, first, turn, Bool.and_self, if_true]

section
variable {op : AOp} {ty : ATy} {vals : List (W64 × W64)} (performs : q.pay = .atomic op ty vals) (turn : s.inStamp q = true)
  (granted : s.held q.org.guidon .atomic t b q.len = true) (present : s.atHand t b (atyBytes ty) = true)
include performs turn granted present

theorem State.homeAtomic_poisoned (bad : ∃ x ∈ (List.range (atyBytes ty)).map (fun i => s.lineByte t (b + i)), x.2 = true) :
    s.homeAtomic id = s.finish id { q with stage := Stage.ready (.line t b off sl) } (List.replicate vals.length 0) true := by
  rw [State.homeAtomic, State.onReq_of_pending here]
  simp only [at_, performs, current, first, turn, granted, present, Bool.or_true, Bool.and_self, if_true]
  exact if_pos (List.any_eq_true.mpr bad)

theorem State.homeAtomic_sound (sound : ∀ x ∈ (List.range (atyBytes ty)).map (fun i => s.lineByte t (b + i)), x.2 = false) :
    let v := (List.range (atyBytes ty)).map fun i => s.lineByte t (b + i)
    let r := q.performs id op ty vals (leNat (v.map fun x => x.1))
    let s1 := s.lineApply t sl q.org.guidon (maskBytes b (s.mayWrite q (s.lineAt t b) ((leBytes (atyBytes ty) r.1).map some)))
    s.homeAtomic id = if r.2.2 = true then s1.finish id { q with stage := Stage.ready (.line t b off sl) } r.2.1 false
      else s1.setReq id { q with result := replyBytes (atyBytes ty) r.2.1 false } := by
  have noPoison : ¬ (((List.range (atyBytes ty)).map fun i => s.lineByte t (b + i)).any fun x => x.2) = true := by
    rw [List.any_eq_true]
    exact fun ⟨x, hx, lost⟩ => Bool.false_ne_true ((sound x hx).symm.trans lost)
  rw [State.homeAtomic, State.onReq_of_pending here]
  simp only [at_, performs, current, first, turn, granted, present, Bool.or_true, Bool.and_self, if_true]
  exact if_neg noPoison

end

end

theorem State.writeApply_chip {a : Nat} {m : List (Option Byte)} {ps : List Nat} (at_ : q.stage = .slice (.chip a)) (stores : q.pay = .store m ps) :
    s.writeApply id = ((s.putMarked q (chipAddr a) (s.mayWrite q (s.addrAt (chipAddr a)) m) ps).touch
      (distinct ((List.range q.len).map fun i => sectorOfChip (a + i)))).storeDone id q (.chip a) := by
  rw [State.writeApply, State.onReq_of_pending here]
  simp only [at_, stores]
theorem State.homeAtomic_chip {a : Nat} {op : AOp} {ty : ATy} {vals : List (W64 × W64)} (at_ : q.stage = .slice (.chip a))
    (performs : q.pay = .atomic op ty vals) : s.homeAtomic id = (s.atomStep id q (chipAddr a) op ty vals).touch [sectorOfChip a] := by
  rw [State.homeAtomic, State.onReq_of_pending here]
  simp only [at_, performs]

/-! ## Replica sets (R115) -/

section
variable {set : Nat} (at_ : q.stage = .slice (.replica set i off))
include at_

theorem State.replicaSeq_elsewhere (away : repHome (FMap.getD s.reps set {}) ≠ s.modNo) :
    s.replicaSeq id = s.depart id { q with label := set } (repHome (FMap.getD s.reps set {})) 5 := by
  rw [State.replicaSeq, State.onReq_of_pending here]
  simp only [at_, if_pos away]

/-- HOME, which is at work on nothing else, stamps the store that has waited longest and passes it on. -/
theorem State.replicaSeq_store {m : Nat} {mk : List (Option Byte)} {ps : List Nat} (stores : q.pay = .store mk ps)
    (home : repHome (FMap.getD s.reps set {}) = s.modNo) (idle : s.sequencing = false)
    (first : ∀ x ∈ s.reqs, (∀ a b c, x.2.stage ≠ .slice (.replica a b c)) ∨ q.turn ≤ x.2.turn) (own : s.ownReplica set = some m)
    (valid : bt (FMap.getD s.reps set {}).w0 63 = true) (nonempty : 1 ≤ bf (FMap.getD s.reps set {}).w0 11 4) (few : bf (FMap.getD s.reps set {}).w0 11 4 ≤ 8) :
    s.replicaSeq id = ((s.toOwn id q m i off (stampName set ((FMap.getD s.reps set {}).stamp.toNat + 1)) q.pay .write).multicast id q set i off q.pay).arrive id
      { q with label := set } (.members true) := by
  have turn : ¬ (s.sequencing || s.reqs.any fun x => x.2.stage.atSequencer && decide (x.2.turn < q.turn)) = true := by
    rw [idle, Bool.false_or, List.any_eq_true]
    rintro ⟨x, hx, both⟩
    obtain ⟨there, earlier⟩ := (Bool.and_eq_true _ _).mp both
    obtain ⟨a, b, c, stands⟩ := Stage.atSequencer_iff.mp there
    rcases first x hx with elsewhere | later
    · exact elsewhere a b c stands
    · exact later.not_gt (of_decide_eq_true earlier)
  have members : ¬ (!bt (FMap.getD s.reps set {}).w0 63 || decide (bf (FMap.getD s.reps set {}).w0 11 4 = 0)
      || decide (8 < bf (FMap.getD s.reps set {}).w0 11 4)) = true := by
    rw [valid, decide_eq_false (Nat.one_le_iff_ne_zero.mp nonempty), decide_eq_false few.not_gt]
    exact Bool.false_ne_true
  rw [State.replicaSeq, State.onReq_of_pending here]
  simp only [at_]
  rw [if_neg (not_not_intro home)]
  refine (if_neg turn).trans ?_
  simp only [own, if_neg members, stores]

end

/-! ## Acknowledgements and replays (R111, R190) -/

theorem State.writeAck_members (at_ : q.stage = .members true) :
    s.writeAck id = if (s.partsAt id).all (fun x => x.2.served) then s.allApplied id q else s := by
  rw [State.writeAck, State.onReq_of_pending here]
  simp only [at_, State.memberTurn, if_true]
theorem State.writeAck_ready {tg : Target} (at_ : q.stage = .ready tg) (served : q.served = true) (writes : q.kind = .write) (plain : q.mcast = none) :
    s.writeAck id = s.finish id q [] false := by
  rw [State.writeAck, State.onReq_of_pending here]
  simp only [at_, served, writes, plain, decide_true, Option.isNone_none, Bool.and_self, if_true]

/-- A request of an older epoch goes again once its domain's switch is over, in order of arrival. -/
theorem State.domainReplay_first {d ep : Nat} (stamped : q.stamp = some (d, ep)) (inside : q.inSlice = true) (old : (FMap.getD s.doms d {}).epoch ≠ ep)
    (free : (FMap.getD s.doms d {}).busy = false) (first : ∀ r ∈ s.reqs, r.2.inSlice = true → r.2.stamp = q.stamp → q.arrived ≤ r.2.arrived) :
    s.domainReplay id = (s.countDown (q.entries.filter isStackKey)).issueTo id
      { q with entries := q.entries.filter fun k => !isStackKey k, fwd := q.fwd0, ptr := q.ptrC, home := none } := by
  have turn : (q.inSlice && decide ((FMap.getD s.doms d {}).epoch ≠ ep) && !(FMap.getD s.doms d {}).busy &&
      !s.reqs.any fun r => r.2.inSlice && decide (r.2.stamp = q.stamp) && decide (r.2.arrived < q.arrived)) = true := by
    have noEarlier : ∀ r ∈ s.reqs, ¬ (r.2.inSlice && decide (r.2.stamp = q.stamp) && decide (r.2.arrived < q.arrived)) = true := by
      intro r hr earlier
      simp only [Bool.and_eq_true, decide_eq_true_eq] at earlier
      obtain ⟨⟨in_, same⟩, before⟩ := earlier
      exact (first r hr in_ same).not_gt before
    rw [List.any_eq_false.mpr noEarlier, inside, decide_eq_true old, free]
    rfl
  rw [State.domainReplay, State.onReq_of_pending here]
  simp only [stamped] at turn ⊢
  exact if_pos turn

end

/-! ## The statement -/

/-- Settles O36, event by event: each clause is the case of its owner's step in the lemmas above. -/
theorem ownersPerform : Obligations.OwnersPerform := by
  unfold Obligations.OwnersPerform
  simp only [leads_bucketRelease, leads_grantRequest, leads_writeApply, leads_homeSliceAtomic, leads_replicaSequence, leads_writeAcknowledgement,
    leads_domainChangedReplay]
  refine ⟨?bucket, ?egress, ?domainHolds, ?domainStamps, ?grant, ?storeLine, ?storeChip, ?atomicLine, ?atomicChip, ?replicaAway, ?replicaHome, ?members,
    ?acknowledged, ?replay⟩
  case bucket => exact fun s id q b n t here at_ first => State.bucketRelease_first here at_ first
  case egress => exact fun s id q m lvl here at_ opened => State.bucketRelease_egress here at_ opened
  case domainHolds => exact fun s id q stack busy => State.issueTo_busy stack busy
  case domainStamps => exact fun s id q t b off sl _ free single goes => State.issueTo_line free single goes
  case grant =>
    intro s id q e t b off sl pa here at_ writes current first whole asks way placed
    rw [State.grantRequest_turn here at_ current first writes whole asks, State.stackTurn_place_write placed writes way]
  case storeLine =>
    exact fun s id q t b off sl m ps here at_ stores current granted first turn => State.writeApply_line here at_ current first stores granted turn
  case storeChip => exact fun s id q a m ps here at_ stores => State.writeApply_chip here at_ stores
  case atomicLine =>
    exact fun s id q t b off sl op ty vals here at_ performs current first turn granted present =>
      ⟨State.homeAtomic_poisoned here at_ current first performs turn granted present,
        State.homeAtomic_sound here at_ current first performs turn granted present⟩
  case atomicChip => exact fun s id q a op ty vals here at_ performs => State.homeAtomic_chip here at_ performs
  case replicaAway => exact fun s id q set i off here at_ away => State.replicaSeq_elsewhere here at_ away
  case replicaHome =>
    exact fun s id q set i off m mk ps here at_ stores home idle first own valid nonempty few =>
      State.replicaSeq_store here at_ stores home idle first own valid nonempty few
  case members => exact fun s id q here at_ => State.writeAck_members here at_
  case acknowledged => exact fun s id q t here at_ served writes plain => State.writeAck_ready here at_ served writes plain
  case replay => exact fun s id q d ep here stamped inside old free first => State.domainReplay_first here stamped inside old free first

end Sys2Proof.Machine
end

section
/-! SUPPORT. What the steps of a write on its way out do, a lemma for each case (R107, R119, R157, R179, R183 to R185), and the proof of the statement on them. -/

namespace Sys2Proof.Machine

open Claims

/-! ## The events of a write on its way -/

section
variable {s t : State} {id : Nat}

theorem leads_storeBufferDrain : Leads (.storeBufferDrain id) s t ↔ s.bufferDrain id = t := leads_iff_of_exec rfl
theorem leads_wcqDrain : Leads (.wcqDrain id) s t ↔ s.wcqDrain id = t := leads_iff_of_exec rfl
theorem leads_sideLogEnter : Leads (.sideLogEnter id) s t ↔ s.logEnter id = t := leads_iff_of_exec rfl
theorem leads_l2WriteBack {evict : Bool} : Leads (.l2WriteBack evict id) s t ↔ s.l2WriteBack evict id = t := leads_iff_of_exec rfl

end

/-! ## The store buffer (R115, R157, R179) -/

/-- A replica store leaves its buffer in program order: past the queue, or, where its group has a side-log entry for its line, into the log. -/
def State.replicaDrain (s : State) (id : Nat) (w : Wr) : State :=
  if s.wrs.any fun x => decide (x.1 < id) && decide (x.2.place = WPlace.buffer) && decide (x.2.blk = w.blk) && x.2.data.isStore
      && s.isReplica x.2.ctx x.2.data.range.1 then s
  else if !(s.joining w).isEmpty then (if 64 < s.logSize w.unit + (s.joining w).length then s else s.joinLog id w)
  else s.launchWr id { w with rep := true } false

/-- A replica store that no other of its block stands before, in a group without a side-log entry for its line, goes to its sequencer. -/
theorem State.replicaDrain_first {s : State} {id : Nat} {w : Wr}
    (first : ∀ x ∈ s.wrs, x.1 < id → x.2.place = .buffer → x.2.blk = w.blk → (x.2.data.isStore && s.isReplica x.2.ctx x.2.data.range.1) = false)
    (unlogged : s.joining w = []) : s.replicaDrain id w = s.launchWr id { w with rep := true } false := by
  have noEarlier : ¬ (s.wrs.any fun x => decide (x.1 < id) && decide (x.2.place = WPlace.buffer) && decide (x.2.blk = w.blk) && x.2.data.isStore
      && s.isReplica x.2.ctx x.2.data.range.1) = true := by
    rw [List.any_eq_true]
    rintro ⟨x, hx, earlier⟩
    simp only [Bool.and_eq_true, decide_eq_true_eq] at earlier
    obtain ⟨⟨⟨⟨older, waits⟩, block⟩, stores⟩, shared⟩ := earlier
    have plain := first x hx older waits block
    rw [stores, shared] at plain
    exact Bool.false_ne_true plain.symm
  rw [State.replicaDrain, if_neg noEarlier, unlogged]
  rfl

section
variable {s : State} {id : Nat} {w : Wr} (here : FMap.find? s.wrs id = some w)
include here

theorem State.bufferDrain_uncommitted (open_ : (s.blk w.blk).rl = true) : s.bufferDrain id = s := by
  rw [State.bufferDrain]
  simp only [here, open_, Bool.or_true, Bool.true_or, if_true]

variable (at_ : w.place = .buffer) (committed : (s.blk w.blk).rl = false) (firm : w.tent = none) (free : s.blockedIn id w = false)
include at_ committed firm free

/-- An entry of a committed block that nothing holds in its buffer leaves it: for its SRAM, past the queue, or into the queue. -/
theorem State.bufferDrain_leaves :
    s.bufferDrain id = match w.loc with
      | some a => s.applyLocal id w a
      | none =>
        if (w.data.isStore && s.isReplica w.ctx w.data.range.1) = true then s.replicaDrain id w
        else if 32 < (s.enqueue id w).queueSize w.unit then s else s.enqueue id w := by
  have leaves : ¬ (decide (w.place ≠ WPlace.buffer) || (s.blk w.blk).rl || w.tent.isSome || s.blockedIn id w) = true := by simp [at_, committed, firm, free]
  rw [State.bufferDrain]
  simp only [here]
  exact if_neg leaves

theorem State.bufferDrain_local {a : Nat} (loc : w.loc = some a) : s.bufferDrain id = s.applyLocal id w a := by
  rw [State.bufferDrain_leaves here at_ committed firm free, loc]
theorem State.bufferDrain_queued (loc : w.loc = none) (plain : (w.data.isStore && s.isReplica w.ctx w.data.range.1) = false) :
    s.bufferDrain id = if 32 < (s.enqueue id w).queueSize w.unit then s else s.enqueue id w := by
  rw [State.bufferDrain_leaves here at_ committed firm free, loc, plain]
  exact if_neg Bool.false_ne_true
theorem State.bufferDrain_replica (loc : w.loc = none) (replica : (w.data.isStore && s.isReplica w.ctx w.data.range.1) = true) :
    s.bufferDrain id = s.replicaDrain id w := by
  rw [State.bufferDrain_leaves here at_ committed firm free, loc, replica]
  exact if_pos rfl

end

/-! ## The write-combining queue and the replay of a side log (R119, R184, R185) -/

section
variable {s : State} {id : Nat} {w : Wr} (here : FMap.find? s.wrs id = some w)
include here

theorem State.wcqDrain_replay (at_ : w.place = .log) (head : s.replayable id w = true) : s.wcqDrain id = s.launchWr id { w with answered := none } true := by
  rw [State.wcqDrain]
  simp only [here, at_, head, if_true]

/-- A queue entry that nothing stands before leaves, or its threads' parts join the log. -/
theorem State.wcqDrain_leaves (at_ : w.place = .queue)
    (first : ∀ x ∈ s.wrs, x.1 ≠ id → x.2.onCore = true → x.2.unit = w.unit → (w.barrier ≤ x.1 ∨ x.2.sameVector w = true) ∧
      (x.1 < id → x.2.ctx = w.ctx → overlap x.2.data.range.1 x.2.data.range.2 w.data.range.1 w.data.range.2 = false))
    (loads : s.loadsBefore w = false) (release : s.releaseHeld w = false) (parts : s.partsBehind w = false) :
    s.wcqDrain id = if (s.joining w).isEmpty = true then s.launchWr id w false
      else if 64 < s.logSize w.unit + (s.joining w).length then s else s.joinLog id w := by
  have noneBefore : ¬ (s.wrs.any fun x => decide (x.1 ≠ id) && x.2.onCore && decide (x.2.unit = w.unit) &&
      (decide (x.1 < w.barrier) && !x.2.sameVector w
        || decide (x.1 < id) && decide (x.2.ctx = w.ctx) && overlap x.2.data.range.1 x.2.data.range.2 w.data.range.1 w.data.range.2)) = true := by
    rw [List.any_eq_true]
    rintro ⟨x, hx, before⟩
    simp only [Bool.and_eq_true, Bool.or_eq_true, decide_eq_true_eq, Bool.not_eq_true'] at before
    obtain ⟨⟨⟨other, onCore⟩, unit⟩, ⟨older, vector⟩ | ⟨⟨older, ctx⟩, meets⟩⟩ := before
    · rcases (first x hx other onCore unit).1 with later | same
      · exact later.not_gt older
      · exact Bool.false_ne_true (vector.symm.trans same)
    · exact Bool.false_ne_true (((first x hx other onCore unit).2 older ctx).symm.trans meets)
  rw [State.wcqDrain]
  simp only [here, at_, reduceCtorEq, if_false, ne_eq, not_true_eq_false]
  refine (if_neg noneBefore).trans ?_
  simp only [loads, release, parts, Bool.or_self, Bool.false_eq_true, if_false]

end

/-! ## The side log (R183) -/

@[simp] theorem State.countDown_wrs (s : State) (keys : List Nat) : (s.countDown keys).wrs = s.wrs := rfl
@[simp] theorem State.uncount_wrs (s : State) (id : Nat) (q : Req) : (s.uncount id q).wrs = s.wrs := by
  simp only [State.uncount]
  split <;> rfl
@[simp] theorem State.dropReq_wrs (s : State) (id : Nat) : (s.dropReq id).wrs = s.wrs := by
  unfold State.dropReq
  split
  · exact State.uncount_wrs s id _
  · rfl

/-- The access that a write's record names: that of the first of its threads, or its request's. -/
def Wr.origin (w : Wr) (o : Origin) : Origin := match w.src with | y :: _ => y.org | [] => o

section
variable {s : State} {id k : Nat} {q : Req} {r : Refuse} {w : Wr} (here : Pending s id q) (client : q.client = .write k) (at_ : q.stage = .refused r false)
  (write : FMap.find? s.wrs k = some w)
include here client at_ write

theorem State.logEnter_again (logged : w.place = .log) :
    s.logEnter id = ({ s.dropReq id with wrs := FMap.insert (s.dropReq id).wrs k { w with refuse := some r, answered := none, reqs := 0 } } : State).report
      (w.origin q.org) q.kind r (some k) := by
  rw [State.logEnter, State.onReq_of_pending here]
  simp only [client, at_, write, logged, State.dropReq_wrs, if_true]
  rfl

/-- A refused reduction or atomic is one part: it enters the log if there is room. -/
theorem State.logEnter_whole (fresh : w.place ≠ .log) (whole : ∀ b d, w.data ≠ .bytes b d) :
    let s1 := (s.dropReq id).writePart k
    s.logEnter id = if 64 < s.logSize w.unit + 1 then s else
      ({ s1 with wrs := FMap.insert s1.wrs s1.nextId { w with place := .log, refuse := some r, reqs := 0 }, nextId := s1.nextId + 1 } : State).report
        (w.origin q.org) q.kind r (some s1.nextId) := by
  rw [State.logEnter, State.onReq_of_pending here]
  simp only [client, at_, write, if_neg fresh]
  rfl

end

/-! ## The L2 (R106, R107) -/

section
variable {s : State} {id : Nat}

/-- A slice whose set is full evicts the line that it has used least recently. -/
theorem State.l2WriteBack_evicts {l : L2Line} (here : s.line? (tagOf id) = some l) (settled : l.wb = 0) (full : 15 ≤ (s.sameSet (tagOf id) l.slice).length)
    (oldest : ∀ x ∈ s.sameSet (tagOf id) l.slice, l.used ≤ x.2.used) (thawed : s.frozen (tagOf id) = false) :
    s.l2WriteBack true id = s.writeBack (tagOf id) true := by
  have lru : ((s.sameSet (tagOf id) l.slice).all fun x => decide (l.used ≤ x.2.used)) = true :=
    List.all_eq_true.mpr fun x hx => decide_eq_true (oldest x hx)
  rw [State.l2WriteBack]
  simp only [here, settled, full, lru, thawed, decide_true, Bool.not_false, Bool.and_self, if_true]

/-- The rows of a write-back go to their stacks after those of the earlier ones of its line. -/
theorem State.l2WriteBack_first {w : WBack} (here : FMap.find? s.wbacks id = some w) (first : ∀ x ∈ s.wbacks, x.2.tag = w.tag → w.seq ≤ x.2.seq) :
    s.l2WriteBack false id = (w.rows.foldl (fun s' k => s'.rowTurn id w k) s).backCheck id := by
  have noEarlier : ¬ (s.wbacks.any fun x => decide (x.2.tag = w.tag) && decide (x.2.seq < w.seq)) = true := by
    rw [List.any_eq_true]
    rintro ⟨x, hx, earlier⟩
    simp only [Bool.and_eq_true, decide_eq_true_eq] at earlier
    exact (first x hx earlier.1).not_gt earlier.2
  rw [State.l2WriteBack]
  simp only [here, if_neg noEarlier, Bool.false_eq_true, if_false]

end

/-! ## The statement -/

/-- Settles O38, station by station: each clause is the case of its step in the lemmas above. -/
theorem writesLeave : Obligations.WritesLeave := by
  unfold Obligations.WritesLeave
  simp only [leads_storeBufferDrain, leads_wcqDrain, leads_sideLogEnter, leads_l2WriteBack]
  refine ⟨?local_, ?uncommitted, ?queued, ?replica, ?queue, ?replay, ?enters, ?again, ?full, ?evict, ?writeBack⟩
  case local_ => exact fun s id w a here at_ committed firm free loc => State.bufferDrain_local here at_ committed firm free loc
  case uncommitted => exact fun s id w here _ open_ => State.bufferDrain_uncommitted here open_
  case queued => exact fun s id w here at_ committed firm free loc plain => State.bufferDrain_queued here at_ committed firm free loc plain
  case replica =>
    intro s id w here at_ committed firm free loc replica first unlogged
    rw [State.bufferDrain_replica here at_ committed firm free loc replica, State.replicaDrain_first first unlogged]
  case queue =>
    intro s id w here at_ first loads release parts
    rw [State.wcqDrain_leaves here at_ first loads release parts]
    exact ⟨fun unlogged => if_pos (List.isEmpty_iff.mpr unlogged), fun logged => if_neg (mt List.isEmpty_iff.mp logged)⟩
  case replay => exact fun s id w here at_ head => State.wcqDrain_replay here at_ head
  case enters =>
    intro s id q k r w here client at_ write fresh whole room
    exact (State.logEnter_whole here client at_ write fresh whole).trans (if_neg room.not_gt)
  case again => exact fun s id q k r w here client at_ write logged => State.logEnter_again here client at_ write logged
  case full =>
    intro s id q k r w here client at_ write fresh whole full
    exact (State.logEnter_whole here client at_ write fresh whole).trans (if_pos (Nat.lt_succ_of_le full))
  case evict => exact fun s id l here settled full oldest thawed => State.l2WriteBack_evicts here settled full oldest thawed
  case writeBack => exact fun s id w here first => State.l2WriteBack_first here first

end Sys2Proof.Machine
end

section
/-! SUPPORT. What a domain's switch, the scan rotation and a partition's change come to, a lemma for each case (R110, R111, R383, R384, R389, R396), and the
proof of the statement on them. That epochs count modulo 256 (log entry 67), how a pair is emptied and that a result before the end of its scan is ignored
(log entry 89), and what a partition's change takes as staged (log entry 91) are deduced. -/

namespace Sys2Proof.Machine

open Claims

/-! ## The events of the topology -/

section
variable {s t : State} {d p : Nat}

theorem leads_domainSwitchGo : Leads (.domainSwitchGo d) s t ↔ s.domainGo d = t := leads_iff_of_exec rfl
theorem leads_domainWalkBegin : Leads (.domainWalkBegin d) s t ↔ s.domainWalk d = t := leads_iff_of_exec rfl
theorem leads_domainSwitchEnd : Leads (.domainSwitchEnd d) s t ↔ s.domainEnd d = t := leads_iff_of_exec rfl
theorem leads_scanPair : Leads (.scanPair d) s t ↔ s.scanPair d = t := leads_iff_of_exec rfl
theorem leads_scanComplete {ok0 ok1 : Bool} : Leads (.scanComplete d ok0 ok1) s t ↔ s.scanComplete d ok0 ok1 = t := leads_iff_of_exec rfl
theorem leads_partitionGo : Leads (.partitionChange true p) s t ↔ (if 12 ≤ p then s else s.partitionGo p) = t := leads_iff_of_exec rfl
theorem leads_partitionStep : Leads (.partitionChange false p) s t ↔ (if 12 ≤ p then s else s.partitionStep p) = t := leads_iff_of_exec rfl

end

/-! ## Requests held at issue, in order of arrival (R396) -/

/-- A request came to where it stands no later than another. -/
abbrev NoLater (a b : Nat × Req) : Prop := a.2.arrived ≤ b.2.arrived

/-- The stage holds a request for the switch of a domain. -/
def Stage.heldBy (d : Nat) : Stage → Bool
  | .domainHeld e => decide (e = d)
  | _ => false

theorem Stage.heldBy_iff {d : Nat} {st : Stage} : st.heldBy d = true ↔ st = .domainHeld d := by
  unfold Stage.heldBy
  split
  · next e => simp
  · next other => exact ⟨fun no => absurd no Bool.false_ne_true, fun h => absurd h (other d)⟩

theorem byArrival_eq (x : Nat × Req) (l : List (Nat × Req)) : byArrival x l = l.orderedInsert NoLater x := by
  induction l with
  | nil => rfl
  | cons y ys ih => rw [byArrival, List.orderedInsert_cons, ih]
theorem foldr_byArrival (l : List (Nat × Req)) : l.foldr byArrival [] = l.insertionSort NoLater := by
  induction l with
  | nil => rfl
  | cons x xs ih => rw [List.foldr_cons, ih, byArrival_eq, List.insertionSort_cons]

section
variable (s : State) (d : Nat)

theorem State.domainHeldBy_eq : s.domainHeldBy d = (s.reqs.filter fun x => x.2.stage.heldBy d).insertionSort NoLater := foldr_byArrival _
theorem State.mem_domainHeldBy {k : Nat} {q : Req} : (k, q) ∈ s.domainHeldBy d ↔ (k, q) ∈ s.reqs ∧ q.stage = .domainHeld d := by
  rw [State.domainHeldBy_eq, List.mem_insertionSort, List.mem_filter, Stage.heldBy_iff]
theorem State.domainHeldBy_sorted : (s.domainHeldBy d).Pairwise NoLater := by
  have : Std.Total NoLater := ⟨fun a b => Nat.le_total a.2.arrived b.2.arrived⟩
  have : IsTrans (Nat × Req) NoLater := ⟨fun _ _ _ => Nat.le_trans⟩
  rw [State.domainHeldBy_eq]
  exact List.pairwise_insertionSort NoLater _

end

/-! ## The switch of a domain (R110, R111, R396) -/

/-- What GO took is active, under the next epoch, and the switch is over. -/
def Dom.switched (x : Dom) : Dom :=
  { x with aslices := x.nslices, ahm := x.nhm, act := x.nen, epoch := (x.epoch + 1) % 256, err := 0, busy := false, walking := false }

/-- The walk writes back and drops the lines of a domain that move. -/
def State.walkLines (s : State) (x : Dom) : State :=
  (s.movedLines x).foldl (fun s t => match s.line? t with | some l => if l.wb = 0 then s.writeBack t true else s | none => s) s

section
variable {s : State} {d : Nat}

theorem State.domainGo_eq :
    s.domainGo d = if (s.dom d).busy then s.setDom d { s.dom d with err := 4 }
      else if (s.dom d).en ∧ s.domCheck d (s.dom d) ≠ 0 then s.setDom d { s.dom d with err := s.domCheck d (s.dom d) }
      else s.setDom d { s.dom d with busy := true, nslices := (s.dom d).slices, nhm := (s.dom d).hm, nen := (s.dom d).en } := by
  simp only [State.domainGo, Bool.and_eq_true, decide_eq_true_eq]
theorem State.domainWalk_busy (busy : (s.dom d).busy = true) (waits : (s.dom d).walking = false) :
    s.domainWalk d = if s.oldRequest d then s else s.setDom d { s.dom d with walking := true } := by
  cases old : s.oldRequest d <;> simp [State.domainWalk, busy, waits, old]

theorem State.domainEnd_idle (idle : (s.dom d).busy = false ∨ (s.dom d).walking = false) : s.domainEnd d = s := by
  have still : (!(s.dom d).busy || !(s.dom d).walking) = true := by simpa using idle
  exact if_pos still

/-- A walk that has lines left to move stays; one that has none installs what GO took. -/
theorem State.domainEnd_walking (busy : (s.dom d).busy = true) (walks : (s.dom d).walking = true) :
    s.domainEnd d =
      if (!((s.walkLines (s.dom d)).movedLines (s.dom d)).isEmpty) = true then s.walkLines (s.dom d)
      else (((s.walkLines (s.dom d)).setDom d (s.dom d).switched).domainHeldBy d).foldl (fun s q => s.issueTo q.1 q.2)
        ((s.walkLines (s.dom d)).setDom d (s.dom d).switched) := by
  have runs : ¬ (!(s.dom d).busy || !(s.dom d).walking) = true := by simp [busy, walks]
  exact if_neg runs

end

/-! ## The scan rotation (R383, R384) -/

section
variable {s : State} {d u v : Nat}

theorem State.core_onCore (f : Core → Core) : (s.onCore u f).core v = if v = u then f (s.core u) else s.core v := by
  unfold State.onCore
  split
  · next same => rw [same, State.core_setCore_self]
  · next other => exact State.core_setCore_ne s _ other
theorem State.core_scanPass : (s.scanPass u).core v = if v = u then { s.core u with lids := [], ovr := false, scanning := false } else s.core v :=
  State.core_onCore fun c => { c with lids := [], ovr := false, scanning := false }
@[simp] theorem State.scanPass_scanAt : (s.scanPass u).scanAt = s.scanAt := rfl

theorem State.scanPair_paused (h : 12 ≤ d ∨ s.regs.scen = false ∨ s.moving d = true) : s.scanPair d = s := by
  have paused : (decide (12 ≤ d) || !s.regs.scen || s.moving d || (FMap.find? s.scanEnd d).isSome) = true := by
    rcases h with h | h | h <;> simp [h]
  exact if_pos paused

section
variable (die : d < 12) (on : s.regs.scen = true) (stays : s.moving d = false) (idle : FMap.find? s.scanEnd d = none)
include die on stays idle

/-- A rotation that neither stands still nor scans goes past a retired pair, or takes its pair out of service. -/
theorem State.scanPair_turns :
    s.scanPair d = if ((s.pairAt d).all fun u => (s.core u).retired) = true then s.nextPair d else
      let s1 := ((s.pairAt d).foldl (fun (s : State) u => s.onCore u fun c => { c with scanning := !c.retired }) s).saveOff (s.pairAt d) true
      if ((s.pairAt d).all fun u => (s1.liveOn u).isEmpty) = true then { s1 with scanEnd := FMap.insert s1.scanEnd d (s1.now + scanCycles) } else s1 := by
  have turns : ¬ (decide (12 ≤ d) || !s.regs.scen || s.moving d || (FMap.find? s.scanEnd d).isSome) = true := by simp [die, on, stays, idle]
  exact if_neg turns

end

section
variable {e : Nat} (scans : FMap.find? s.scanEnd d = some e)
include scans

theorem State.scanComplete_early {ok0 ok1 : Bool} (early : s.now < e) : s.scanComplete d ok0 ok1 = s := by
  rw [State.scanComplete]
  simp only [scans, if_pos early]

/-- Both cores of a pair in service pass their scan, and the rotation goes on to the next pair. -/
theorem State.scanComplete_passes (ended : e ≤ s.now) (both : ((s.pairAt d).all fun u => (s.core u).scanning && !(s.core u).retired) = true) :
    s.scanComplete d true true = ((s.pairAt d).foldl State.scanPass s).nextPair d := by
  obtain ⟨u, pair⟩ : ∃ u, s.pairAt d = [u, u + 1] := ⟨_, rfl⟩
  rw [pair] at both ⊢
  simp only [List.all_cons, List.all_nil, Bool.and_true, Bool.and_eq_true, Bool.not_eq_true'] at both
  obtain ⟨⟨scans0, stays0⟩, scans1, stays1⟩ := both
  have ne : u + 1 ≠ u := Nat.succ_ne_self u
  rw [State.scanComplete]
  simp only [scans, if_neg ended.not_gt, pair, List.zip_cons_cons, List.zip_nil_right, List.foldl_cons, List.foldl_nil, List.all_cons, List.all_nil,
    State.core_scanPass, scans0, stays0, scans1, stays1, if_neg ne, if_neg ne.symm, if_true, Bool.not_true, Bool.not_false, Bool.or_self, Bool.and_self,
    Bool.false_eq_true, if_false]

end

theorem State.foldl_scanPass_scanAt (us : List Nat) : (us.foldl State.scanPass s).scanAt = s.scanAt := by
  induction us generalizing s with
  | nil => rfl
  | cons u us ih => exact ih
theorem State.nextPair_scanEnd : FMap.find? (s.nextPair d).scanEnd d = none := FMap.find?_erase_self _ d
theorem State.nextPair_scanAt : FMap.getD (s.nextPair d).scanAt d 0 = (FMap.getD s.scanAt d 0 + 1) % 64 := FMap.getD_put_self _ d _ 0

end

/-! ## The change of a partition (R389) -/

section
variable {s : State} {p : Nat}

theorem State.partitionStep_idle (idle : (s.part p).changing = false) : s.partitionStep p = s := by
  rw [State.partitionStep]
  simp only [idle, Bool.not_false, if_true]

/-- A change that takes no die out of its partition ends at once. -/
theorem State.partitionStep_noneLeaves (changes : (s.part p).changing = true) (whole : (List.range 12).filter (s.part p).leaves = []) :
    s.partitionStep p = s.partitionEnd p := by
  rw [State.partitionStep]
  simp only [changes, whole, List.foldl_nil, List.flatMap_nil, List.all_nil, Bool.not_true, Bool.false_eq_true, if_false]

end

/-! ## The statement -/

/-- Settles O47, event by event: each clause is the case of its step in the lemmas above. -/
theorem topologyEvents : Obligations.TopologyEvents := by
  unfold Obligations.TopologyEvents
  simp only [leads_domainSwitchGo, leads_domainWalkBegin, leads_domainSwitchEnd, leads_scanPair, leads_scanComplete, leads_partitionGo, leads_partitionStep]
  refine ⟨?go, ?walk, ?switch, ?noSwitch, ?held, ?paused, ?retired, ?leaves, ?early, ?passes, ?change, ?ends, ?noChange⟩
  case go => exact fun s d => State.domainGo_eq
  case walk => exact fun s d busy waits => State.domainWalk_busy busy waits
  case switch =>
    intro s d busy walks
    rw [State.domainEnd_walking busy walks]
    refine ⟨fun left => if_pos ?_, fun done => if_neg ?_⟩
    · exact (Bool.not_eq_true' _).mpr (List.isEmpty_eq_false_iff.mpr left)
    · exact (Bool.not_eq_true _).mpr ((Bool.not_eq_false' _).mpr (List.isEmpty_iff.mpr done))
  case noSwitch => exact fun s d idle => State.domainEnd_idle idle
  case held => exact fun s d k q => ⟨State.mem_domainHeldBy s d, State.domainHeldBy_sorted s d⟩
  case paused => exact fun s d h => State.scanPair_paused h
  case retired =>
    intro s d die on stays idle gone
    exact (State.scanPair_turns die on stays idle).trans (if_pos gone)
  case leaves =>
    intro s d die on stays idle works
    exact (State.scanPair_turns die on stays idle).trans (if_neg ((Bool.not_eq_true _).mpr works))
  case early => exact fun s d e ok0 ok1 scans early => State.scanComplete_early scans early
  case passes =>
    intro s d e scans ended both
    refine ⟨_, State.scanComplete_passes scans ended both, State.nextPair_scanEnd, ?_⟩
    rw [State.nextPair_scanAt, State.foldl_scanPass_scanAt]
  case change => exact fun s p inside => if_neg inside.not_ge
  case ends =>
    intro s p inside changes whole
    exact (if_neg inside.not_ge).trans (State.partitionStep_noneLeaves changes whole)
  case noChange =>
    intro s p inside idle
    exact (if_neg inside.not_ge).trans (State.partitionStep_idle idle)

end Sys2Proof.Machine
end

section
/-! SUPPORT. What the steps of flows and seal groups do, a lemma for each case (R126 to R133, R135, R136, R145 to R149), and the proof of the statement on them. That a module
counts the failures of what it sends by itself, beside the receiver's count of R149, is deduced (log entry 63), and so are a seal group's number (log entry 62) and what a
plane that is gone does to the groups sent by it (log entry 64). -/

namespace Sys2Proof.Machine

open Claims

/-! ## The events of flows -/

section
variable {s t : State} {p m n vc : Nat} {mine : Bool}

theorem leads_flowFlitIngress {lo hi : W64} {early : Bool} {body : PBody} :
    Leads (.flowFlitIngress p n lo hi early body) s t ↔ s.ingress p n (hi ++ lo) early body = t := leads_iff_of_exec rfl
theorem leads_sealGroupVerify : Leads (.sealGroupVerify mine m n) s t ↔ s.sealVerify mine m n = t := leads_iff_of_exec rfl
theorem leads_sealGroupFail : Leads (.sealGroupFail mine m n) s t ↔ s.sealFail mine m n = t := leads_iff_of_exec rfl
theorem leads_releasePacketApply : Leads (.releasePacketApply m n) s t ↔ s.releaseApply m n = t := leads_iff_of_exec rfl
theorem leads_sealGroupClose : Leads (.sealGroupClose m vc) s t ↔ s.sealClose m vc = t := leads_iff_of_exec rfl
theorem leads_linkReplay : Leads (.linkReplay p) s t ↔ s.setPort p { s.port p with lrty := sat32 ((s.port p).lrty + 1) } = t := leads_iff_of_exec rfl
theorem leads_creditReturn {freed : List Nat} :
    Leads (.creditReturn p freed) s t ↔ s.setPort p { s.port p with freed := (List.range 4).map fun v => cnt freed v % 2 ^ 32 } = t := leads_iff_of_exec rfl
theorem leads_creditAudit {sent freed : List Nat} : Leads (.creditAudit p sent freed) s t ↔ s.audit p sent freed = t := leads_iff_of_exec rfl
theorem leads_reachabilityNotice : Leads (.reachabilityNotice m p) s t ↔ s.planeGone m p = t := leads_iff_of_exec rfl

end

@[simp] theorem State.port_setPort_self (s : State) (p : Nat) (x : Port) : (s.setPort p x).port p = x := FMap.getD_put_self _ p x _

/-! ## Ingress (R126, R127, R132) -/

/-- The seal group that a first flit begins. -/
def sealBegun (port : Nat) (h : BitVec 128) : Seal := { id := bf h 0 64, peer := bf h 107 9, port := port, vc := bf h 126 2, pkts := [] }
/-- A seal group with one more flit; a packet comes with its last flit. -/
def Seal.withFlit (g : Seal) (h : BitVec 128) (p : Packet) : Seal :=
  { g with pkts := if bt h 122 then g.pkts ++ [p] else g.pkts, flits := g.flits + 1, hdrs := g.hdrs ++ [h], closed := bt h 116 }
theorem Seal.withFlit_eq (g : Seal) (h : BitVec 128) (p : Packet) :
    g.withFlit h p = { g with pkts := g.pkts ++ if bt h 122 then [p] else [], flits := g.flits + 1, hdrs := g.hdrs ++ [h], closed := bt h 116 } := by
  unfold Seal.withFlit
  split
  · rfl
  · rw [List.append_nil]

/-- The seal group that a flit of a member's present generation joins, if it joins one. -/
def State.joined (s : State) (port : Nat) (h : BitVec 128) : Option Seal :=
  let f := s.flow (bf h 107 9)
  if f.deaf then none
  else if bf h 117 4 = 0 then if f.in_.any fun g => g.id = bf h 0 64 && g.closed then none else some (sealBegun port h)
  else f.in_.find? fun g => g.port = port && g.vc = bf h 126 2 && !g.closed

/-- The corrected codewords of a flit are counted in FECC. -/
def State.corrected (s : State) (port fec : Nat) : State := s.setPort port { s.port port with fecc := min (2 ^ 32 - 1) ((s.port port).fecc + fec) }
/-- A flit is counted in RECV. -/
def State.received (s : State) (port vc : Nat) : State := s.setPort port { s.port port with recv := bump (s.port port).recv ((s.port port).vcOf vc) 1 }
/-- A failure is counted in SGF. -/
def State.failCounted (s : State) (port : Nat) : State := s.setPort port { s.port port with sgf := min (2 ^ 32 - 1) ((s.port port).sgf + 1) }
/-- A seal group takes its place as the latest of those that a flow collects. -/
def State.collect (s : State) (m : Nat) (g : Seal) : State := s.setFlow m { s.flow m with in_ := (s.flow m).in_.filter (fun y => y.id ≠ g.id) ++ [g] }

section
variable {s : State} {port fec : Nat} {h : BitVec 128} {early : Bool} {body : PBody}

section
variable (deaf : (s.flow (bf h 107 9)).deaf = false)
include deaf

theorem State.joined_first (first : bf h 117 4 = 0) (fresh : ∀ g ∈ (s.flow (bf h 107 9)).in_, g.id = bf h 0 64 → g.closed = false) :
    s.joined port h = some (sealBegun port h) := by
  have unseen : ¬ ((s.flow (bf h 107 9)).in_.any fun g => g.id = bf h 0 64 && g.closed) = true := by
    simp only [List.any_eq_true, Bool.and_eq_true, decide_eq_true_eq, not_exists, not_and, Bool.not_eq_true]
    exact fresh
  rw [State.joined, deaf, if_neg Bool.false_ne_true, if_pos first, if_neg unseen]
theorem State.joined_later (later : bf h 117 4 ≠ 0) :
    s.joined port h = (s.flow (bf h 107 9)).in_.find? fun g => g.port = port && g.vc = bf h 126 2 && !g.closed := by
  rw [State.joined, deaf, if_neg Bool.false_ne_true, if_neg later]
theorem State.joined_orphan (later : bf h 117 4 ≠ 0) (orphan : ∀ g ∈ (s.flow (bf h 107 9)).in_, ¬(g.port = port ∧ g.vc = bf h 126 2 ∧ g.closed = false)) :
    s.joined port h = none := by
  rw [State.joined_later deaf later, List.find?_eq_none]
  intro g collected
  simpa [and_assoc] using orphan g collected

end

theorem State.joined_deaf (deaf : (s.flow (bf h 107 9)).deaf = true) : s.joined port h = none := if_pos deaf

theorem State.ingress_knows (present : bf h 90 8 = s.regs.gen.toNat % 256) (member : s.regs.mask.getLsbD (bf h 107 9) = true) :
    ¬ (decide (bf h 90 8 ≠ s.regs.gen.toNat % 256) || !s.regs.mask.getLsbD (bf h 107 9)) = true := by simp [present, member]

section
variable (numbered : s.regs.mod.isSome = true) (works : (s.port port).works = true) (plain : bf h 124 2 = 0)
include numbered works plain

theorem State.ingress_accepts : ¬ (s.regs.mod.isNone || !(s.port port).works || decide (bf h 124 2 ≠ 0)) = true := by
  simp [plain, works, Option.isSome_iff_ne_none.mp numbered]

/-- A flit of another generation, or of no member, is discarded and counted in SGF. -/
theorem State.ingress_stranger (stranger : bf h 90 8 ≠ s.regs.gen.toNat % 256 ∨ s.regs.mask.getLsbD (bf h 107 9) = false) :
    s.ingress port fec h early body = ((s.corrected port fec).discard port (bf h 126 2)).failCounted port := by
  have sgf : ((s.corrected port fec).port port).sgf = (((s.corrected port fec).discard port (bf h 126 2)).port port).sgf := by
    rw [State.discard, State.port_setPort_self]
  have cond : (decide (bf h 90 8 ≠ s.regs.gen.toNat % 256) || !s.regs.mask.getLsbD (bf h 107 9)) = true := by simpa using stranger
  rw [State.failCounted, ← sgf]
  exact (if_neg (State.ingress_accepts numbered works plain)).trans (if_pos cond)

section
variable (present : bf h 90 8 = s.regs.gen.toNat % 256) (member : s.regs.mask.getLsbD (bf h 107 9) = true)
include present member

/-- A flit that joins no seal group is discarded. -/
theorem State.ingress_discards (joins : s.joined port h = none) : s.ingress port fec h early body = (s.corrected port fec).discard port (bf h 126 2) := by
  refine ((if_neg (State.ingress_accepts numbered works plain)).trans (if_neg (State.ingress_knows present member))).trans ?_
  change (match s.joined port h with | none => _ | some g => _) = _
  rw [joins]
  rfl
/-- A flit with no data to deliver at once joins its seal group. -/
theorem State.ingress_joins {g : Seal} (joins : s.joined port h = some g) :
    s.ingress port fec h false body =
      ((s.corrected port fec).received port (bf h 126 2)).collect (bf h 107 9) (g.withFlit h (s.packetOf h body)) := by
  refine ((if_neg (State.ingress_accepts numbered works plain)).trans (if_neg (State.ingress_knows present member))).trans ?_
  change (match s.joined port h with | none => _ | some g => _) = _
  rw [joins]
  rfl

end
end
end

/-! ## Verified and failed seal groups (R132, R145, R146, R148, R149) -/

/-- A flow collects a seal group no longer, and the group's buffer entries are free. -/
def State.uncollect (s : State) (m id : Nat) (g : Seal) : State :=
  (s.setFlow m { s.flow m with in_ := (s.flow m).in_.filter fun y => y.id ≠ id, bad := FMap.erase (s.flow m).bad (2 * id + 1) }).freeSeal g
/-- A packet of a verified group is applied in its turn, or held where it is release-tagged. -/
def State.takePacket (s : State) (m : Nat) (p : Packet) : State :=
  if (s.flow m).had p.seq then s else if p.rel then s.setFlow m { s.flow m with held := (s.flow m).held ++ [p] } else s.applyPacket m p

section
variable {s : State} {m id : Nat} {g : Seal}

theorem State.sealVerify_sent :
    s.sealVerify true m id = s.setFlow m { s.flow m with out := (s.flow m).out.filter fun g => g.id ≠ id, bad := FMap.erase (s.flow m).bad (2 * id) } := rfl

/-- A group whose data no block holds as tentative brings its packets, in order, and nothing else. -/
theorem State.sealVerify_received (here : ((s.flow m).in_.find? fun g => g.id = id && g.closed) = some g)
    (settled : ∀ b ∈ (g.pkts.foldl (fun s p => s.takePacket m p) (s.uncollect m id g)).blocks, ∀ y ∈ b.2.seals, y.1 ≠ sealKey m id) :
    s.sealVerify false m id = g.pkts.foldl (fun s p => s.takePacket m p) (s.uncollect m id g) := by
  have noBlock : ((g.pkts.foldl (fun s p => s.takePacket m p) (s.uncollect m id g)).blocks.filter fun b => b.2.seals.any fun y => y.1 = sealKey m id) = [] := by
    simp only [List.filter_eq_nil_iff, List.any_eq_true, decide_eq_true_eq, not_exists, not_and]
    exact settled
  rw [State.sealVerify]
  simp only [here]
  change List.foldl _ _ (List.map _ (List.filter _ (g.pkts.foldl (fun s p => s.takePacket m p) (s.uncollect m id g)).blocks)) = _
  rw [noBlock]
  rfl

theorem State.sealFail_received (here : ((s.flow m).in_.find? fun g => g.id = id) = some g) :
    let n := FMap.getD (s.flow m).bad (2 * id + 1) 0 + 1
    let s1 := ((s.failCounted g.port).freeSeal g).setFlow m
      { s.flow m with in_ := (s.flow m).in_.filter (fun y => y.id ≠ id), bad := FMap.insert (s.flow m).bad (2 * id + 1) n, deaf := (s.flow m).deaf || decide (4 ≤ n) }
    s.sealFail false m id = (if n = 4 then (s1.service 6 m).askHoist m else s1).failBlocks g := by
  intro n s1
  rw [State.sealFail]
  simp only [here]
  rfl

theorem State.sealFail_sent (here : ((s.flow m).out.find? fun g => g.id = id) = some g) :
    let n := FMap.getD (s.flow m).bad (2 * id) 0 + 1
    let f := { s.flow m with bad := FMap.insert (s.flow m).bad (2 * id) n }
    s.sealFail true m id = if 4 ≤ n then (s.setFlow m { f with stopped := true }).reachCheck else (s.setFlow m f).push m { g with left := g.flits } := by
  intro n f
  rw [State.sealFail]
  simp only [here]
  rfl

end

/-! ## Release-tagged packets (R133) -/

/-- A packet is held no longer. -/
def State.unhold (s : State) (m seq : Nat) : State := s.setFlow m { s.flow m with held := (s.flow m).held.filter fun x => x.seq ≠ seq }

section
variable {s : State} {m seq : Nat} {p : Packet} (here : ((s.flow m).held.find? fun p => p.seq = seq) = some p)
include here

theorem State.releaseApply_waits (waits : (s.flow m).expect ≠ seq ∨ s.unperformed m p = true) : s.releaseApply m seq = s := by
  have blocked : (decide ((s.flow m).expect ≠ seq) || s.unperformed m p) = true := by simpa using waits
  rw [State.releaseApply]
  simp only [here]
  exact if_pos blocked

section
variable (turn : (s.flow m).expect = seq) (performed : s.unperformed m p = false)
include turn performed

theorem State.releaseApply_turn :
    s.releaseApply m seq = if ((s.flow m).refs.any fun r => decide (r.1 < seq) && epochOlder p.fep r.2) = true then
        ((s.unhold m seq).setFlow m (((s.unhold m seq).flow m).saw seq)).send m 1 (.behind (packetName p.gen p.seq)) false
      else (s.unhold m seq).applyPacket m p := by
  have clear : ¬ (decide ((s.flow m).expect ≠ seq) || s.unperformed m p) = true := by simp [turn, performed]
  rw [State.releaseApply]
  simp only [here]
  exact if_neg clear

theorem State.releaseApply_applies (learned : ∀ r ∈ (s.flow m).refs, seq ≤ r.1 ∨ epochOlder p.fep r.2 = false) :
    s.releaseApply m seq = (s.unhold m seq).applyPacket m p := by
  rw [State.releaseApply_turn here turn performed, if_neg]
  simp only [List.any_eq_true, Bool.and_eq_true, decide_eq_true_eq, not_exists, not_and, Bool.not_eq_true]
  exact fun r refused earlier => (learned r refused).resolve_left earlier.not_ge
theorem State.releaseApply_returns (unlearned : ∃ r ∈ (s.flow m).refs, r.1 < seq ∧ epochOlder p.fep r.2 = true) :
    s.releaseApply m seq = ((s.unhold m seq).setFlow m (((s.unhold m seq).flow m).saw seq)).send m 1 (.behind (packetName p.gen p.seq)) false := by
  rw [State.releaseApply_turn here turn performed, if_pos]
  simpa using unlearned

end
end

/-! ## Egress (R130, R135, R145) -/

/-- A seal group of packets that go by a plane, before any of its flits has gone. -/
def State.sealOf (s : State) (m plane vc : Nat) (p : Packet) (ps : List Packet) : Seal :=
  { id := p.seq, peer := m, port := plane, vc := vc, pkts := p :: ps, flits := flitsOf (p :: ps), left := flitsOf (p :: ps),
    hdrs := sealHdrs s.modNo m 0 (p :: ps), closed := true }

section
variable {s : State} {m vc : Nat}

section
variable (numbered : s.regs.mod.isSome = true) (runs : (s.flow m).stopped = false)
include numbered runs

theorem State.sealClose_runs : ¬ (s.regs.mod.isNone || (s.flow m).stopped) = true := by simp [runs, Option.isSome_iff_ne_none.mp numbered]

/-- A group that has waited for credit goes on. -/
theorem State.sealClose_resumes {g : Seal} (waits : ((s.flow m).out.find? fun g => g.vc = vc && g.left ≠ 0) = some g) : s.sealClose m vc = s.push m g := by
  rw [State.sealClose, if_neg (State.sealClose_runs numbered runs)]
  simp only [waits]

/-- With no group left to send, the next run of packets closes one at the next plane, where that has room. -/
theorem State.sealClose_closes {p : Packet} {ps : List Packet} {n : Nat} (sent : ∀ g ∈ (s.flow m).out, g.vc = vc → g.left = 0)
    (run : sealRun vc [] (s.flow m).wait = p :: ps) (plane : s.nextPlane m = some n) :
    s.sealClose m vc = if (s.port n).room vc = 0 then s else
      (({ s with lastPlane := n } : State).setFlow m
        { s.flow m with wait := (s.flow m).wait.filter fun x => !(p :: ps).contains x, out := (s.flow m).out ++ [s.sealOf m n vc p ps] }).push m
          (s.sealOf m n vc p ps) := by
  have noneLeft : ((s.flow m).out.find? fun g => g.vc = vc && g.left ≠ 0) = none := by simpa using sent
  rw [State.sealClose, if_neg (State.sealClose_runs numbered runs)]
  simp only [noneLeft, run, plane]
  rfl

end

/-- A group at a port that works and reaches its peer sends there what the credits allow. -/
theorem State.push_here {g : Seal} (works : (s.port g.port).works = true) (reached : (s.flow m).mask.getLsbD g.port = true) :
    let x := s.port g.port
    let k := min g.left (x.room g.vc)
    s.push m g = (s.setPort g.port { x with sent := bump x.sent (x.vcOf g.vc) k, replay := if k = 0 then x.replay else lastFlits 64 ((g.id, k) :: x.replay) }).setSeal m
      { g with left := g.left - k } := by
  rw [State.push]
  simp only [works, reached, Bool.and_self, if_true]
  rfl

end

/-! ## The audit of credits (R135, R136) -/

/-- The flits of a VC that a peer has sent and that have not come. -/
def lostFlits (sent recv : List Nat) (v : Nat) : Nat := (cnt sent v + 2 ^ 32 - cnt recv v) % 2 ^ 32

theorem lostFlits_eq_zero {sent recv : List Nat} {v : Nat} (agree : cnt sent v % 2 ^ 32 = cnt recv v) : lostFlits sent recv v = 0 := by
  rw [lostFlits]
  omega

/-- The counts of RECV and of freed entries once the flits that are lost count as received and freed. -/
def State.repaired (s : State) (p : Nat) (sent : List Nat) : State :=
  s.setPort p { s.port p with
    recv := (List.range 4).map fun v => cnt sent v % 2 ^ 32
    rfree := (List.range 4).map fun v => (cnt (s.port p).rfree v + lostFlits sent (s.port p).recv v) % 2 ^ 32 }
/-- FREED as a peer reports it. -/
def Port.withFreed (x : Port) (freed : List Nat) : Port := { x with freed := (List.range 4).map fun v => cnt freed v % 2 ^ 32 }

theorem cnt_map_range {f : Nat → Nat} {n v : Nat} (below : v < n) : cnt ((List.range n).map f) v = f v := by
  simp [cnt, below]

section
variable {s : State} {p : Nat} {sent freed : List Nat}

/-- An audit repairs RECV where flits are lost, and then FREED where it differs. -/
theorem State.audit_eq {s1 : State} (repair : s1 = if ((List.range 4).any fun v => lostFlits sent (s.port p).recv v ≠ 0) = true then (s.repaired p sent).leak p else s) :
    s.audit p sent freed =
      if (s1.port p).freed ≠ (List.range 4).map (fun v => cnt freed v % 2 ^ 32) then (s1.setPort p ((s1.port p).withFreed freed)).leak p else s1 := by
  have rfree : (List.range 4).map (fun v => (cnt (s.port p).rfree v + cnt ((List.range 4).map (lostFlits sent (s.port p).recv)) v) % 2 ^ 32) =
      (List.range 4).map fun v => (cnt (s.port p).rfree v + lostFlits sent (s.port p).recv v) % 2 ^ 32 :=
    List.map_congr_left fun v below => by rw [cnt_map_range (List.mem_range.mp below)]
  have first : s1 = if ((List.range 4).map (lostFlits sent (s.port p).recv)).any (fun d => d ≠ 0) = true then
      (s.setPort p { s.port p with
        recv := (List.range 4).map fun v => cnt sent v % 2 ^ 32
        rfree := (List.range 4).map fun v => (cnt (s.port p).rfree v + cnt ((List.range 4).map (lostFlits sent (s.port p).recv)) v) % 2 ^ 32 }).leak p else s := by
    rw [rfree, List.any_map]
    exact repair
  rw [first]
  rfl

theorem State.audit_agrees (agree : ∀ v < 4, lostFlits sent (s.port p).recv v = 0) :
    s.audit p sent freed = if (s.port p).freed ≠ (List.range 4).map (fun v => cnt freed v % 2 ^ 32) then (s.setPort p ((s.port p).withFreed freed)).leak p else s := by
  refine State.audit_eq (if_neg ?_).symm
  simpa using agree
/-- Lost flits are repaired; FREED, where it agrees, stays. -/
theorem State.audit_lost (lost : ∃ v < 4, lostFlits sent (s.port p).recv v ≠ 0)
    (same : (((s.repaired p sent).leak p).port p).freed = (List.range 4).map fun v => cnt freed v % 2 ^ 32) :
    s.audit p sent freed = (s.repaired p sent).leak p := by
  rw [State.audit_eq (if_pos ?_).symm, if_neg (not_not.mpr same)]
  simpa using lost

end

/-! ## The statement -/

/-- Settles O45, step by step: each clause is the case of its step in the lemmas above. -/
theorem fabricEvents : Obligations.FabricEvents := by
  unfold Obligations.FabricEvents
  refine ⟨?ingress, ?verified, ?applied, ?failed, ?refused, ?release, ?closes, ?push, ?replay, ?credit, ?agree, ?lost, ?notice⟩
  case ingress =>
    intro s port fec lo hi body h numbered works plain m vc f s1 x s2 gone pkts
    refine ⟨fun stranger early => leads_flowFlitIngress.mpr (State.ingress_stranger numbered works plain stranger), fun present member => ⟨?deaf, ?first, ?orphan, ?later⟩⟩
    case deaf => exact fun deaf early => leads_flowFlitIngress.mpr (State.ingress_discards numbered works plain present member (State.joined_deaf deaf))
    case orphan =>
      exact fun deaf later orphan early =>
        leads_flowFlitIngress.mpr (State.ingress_discards numbered works plain present member (State.joined_orphan deaf later orphan))
    case first =>
      intro deaf first fresh
      refine leads_flowFlitIngress.mpr ((State.ingress_joins numbered works plain present member (State.joined_first deaf first fresh)).trans ?_)
      rw [Seal.withFlit_eq]
      rfl
    case later =>
      intro g deaf later collected
      refine leads_flowFlitIngress.mpr ((State.ingress_joins numbered works plain present member ((State.joined_later deaf later).trans collected)).trans ?_)
      rw [Seal.withFlit_eq]
      rfl
  case verified => exact fun s m id => leads_sealGroupVerify.mpr State.sealVerify_sent
  case applied =>
    intro s m id g p here one _ s1 s2 settled
    refine leads_sealGroupVerify.mpr ((State.sealVerify_received here ?_).trans ?_) <;> rw [one]
    · exact settled
    · rfl
  case failed => exact fun s m id g here => leads_sealGroupFail.mpr (State.sealFail_received here)
  case refused => exact fun s m id g here => leads_sealGroupFail.mpr (State.sealFail_sent here)
  case release =>
    intro s m seq p here s1
    exact ⟨fun waits => leads_releasePacketApply.mpr (State.releaseApply_waits here waits),
      fun turn performed learned => leads_releasePacketApply.mpr (State.releaseApply_applies here turn performed learned),
      fun turn performed unlearned => leads_releasePacketApply.mpr (State.releaseApply_returns here turn performed unlearned)⟩
  case closes =>
    intro s m vc numbered runs
    exact ⟨fun g waits => leads_sealGroupClose.mpr (State.sealClose_resumes numbered runs waits),
      fun p ps n sent run plane => leads_sealGroupClose.mpr (State.sealClose_closes numbered runs sent run plane)⟩
  case push => exact fun s m g works reached => State.push_here works reached
  case replay => exact fun s p => leads_linkReplay.mpr rfl
  case credit => exact fun s p freed => leads_creditReturn.mpr rfl
  case agree =>
    intro s p sent freed agree _
    have none_ : ∀ v < 4, lostFlits sent (s.port p).recv v = 0 := fun v below => lostFlits_eq_zero (agree v below)
    exact ⟨fun same => leads_creditAudit.mpr ((State.audit_agrees none_).trans (if_neg (not_not.mpr same))),
      fun differs => leads_creditAudit.mpr ((State.audit_agrees none_).trans (if_pos differs))⟩
  case lost => exact fun s p sent freed lost same => leads_creditAudit.mpr (State.audit_lost lost same)
  case notice => exact fun s m plane => leads_reachabilityNotice.mpr rfl

end Sys2Proof.Machine
end

section
/-! SUPPORT. What the steps of ports, of attestation and of the hoist do, a lemma for each case (R126, R137 to R139, R141, R150, R151), and the proof of the statement on them.
How a member that does not lead enters a hoist and passes its barrier is deduced (log entry 65). -/

namespace Sys2Proof.FMap

/-- A row that is found stands in its table. -/
theorem mem_of_find? {α : Type} {t : FMap α} {k : Nat} {a : α} (found : find? t k = some a) : (k, a) ∈ t := by
  induction t with
  | nil => cases found
  | cons r t ih =>
    obtain ⟨j, b⟩ := r
    rw [find?] at found
    split at found
    · next same =>
      cases found
      exact same ▸ List.mem_cons_self
    · exact List.mem_cons_of_mem _ (ih found)

end Sys2Proof.FMap

namespace Sys2Proof.Machine

open Claims

/-! ## The events of ports and of the hoist -/

section
variable {s t : State} {p m n : Nat}

theorem leads_portDegrade {lanes cap : Nat} : Leads (.portDegrade p lanes cap) s t ↔ s.degrade p lanes cap = t := leads_iff_of_exec rfl
theorem leads_portQuiesce : Leads (.portQuiesce p) s t ↔ s.quiesce p = t := leads_iff_of_exec rfl
theorem leads_portTrainingDone : Leads (.portTrainingDone p) s t ↔ s.trained p = t := leads_iff_of_exec rfl
theorem leads_portLimitWrite : Leads (.portLimitWrite p n) s t ↔ s.setLimits p n = t := leads_iff_of_exec rfl
theorem leads_moduleNumberAssignment : Leads (.moduleNumberAssignment n) s t ↔ s.assign n = t := leads_iff_of_exec rfl
theorem leads_spdmSession {ok : Bool} : Leads (.spdmSession m ok) s t ↔ s.spdm m ok = t := leads_iff_of_exec rfl
theorem leads_hoistBarrier {mask : BitVec 512} {secret : List W64} {gen : W32} {leader : Nat} :
    Leads (.hoistBarrier mask secret gen leader) s t ↔ s.barrier mask secret gen leader = t := leads_iff_of_exec rfl
theorem leads_hoistDeadline : Leads (.hoistDeadline m) s t ↔ s.hoistLate m = t := leads_iff_of_exec rfl

end

/-! ## Lanes, buffers and limits (R137, R138) -/

/-- The lanes that a link goes on with. -/
def lanesUsed (lanes : Nat) : Nat := if 4 ≤ lanes then 4 else if 2 ≤ lanes then 2 else lanes

/-- A port that has lost lanes or buffer entries. -/
def Port.degraded (x : Port) (lanes cap : Nat) : Port :=
  let left := min cap x.cap
  { x with
    lanes := lanesUsed lanes, cap := left, vcmap := (sharesOf left).1
    lim := if (sharesOf left).1 = x.vcmap && x.lim.sum ≤ left + 1 then x.lim else (sharesOf left).2 }

section
variable {s : State} {p lanes cap : Nat}

theorem lanesUsed_eq_zero : lanesUsed lanes = 0 ↔ lanes = 0 := by
  unfold lanesUsed
  split
  · omega
  · split <;> omega

/-- A buffer of 32 flits carries every VC in its own share. -/
theorem sharesOf_whole (whole : 32 ≤ cap + 1) : (sharesOf cap).1 = 0 := by rw [sharesOf, if_pos whole]

/-- A port whose buffer still holds what its VCs need loses lanes and capacity, and nothing else. -/
theorem Port.degraded_whole {x : Port} (whole : 32 ≤ min cap x.cap + 1) (vcs : x.vcmap = 0) (fits : x.lim.sum ≤ min cap x.cap + 1) :
    x.degraded lanes cap = { x with lanes := lanesUsed lanes, cap := min cap x.cap } := by
  have kept : (decide ((sharesOf (min cap x.cap)).1 = x.vcmap) && decide (x.lim.sum ≤ min cap x.cap + 1)) = true := by
    simp [sharesOf_whole whole, vcs, fits]
  rw [Port.degraded, if_pos kept, sharesOf_whole whole, ← vcs]

theorem State.degrade_quiesces (small : min cap (s.port p).cap + 1 < 16 ∨ lanes = 0) :
    s.degrade p lanes cap = (s.setPort p ((s.port p).degraded lanes cap)).quiesce p := by
  have ends : (decide (min cap (s.port p).cap + 1 < 16) || decide (lanesUsed lanes = 0)) = true := by simpa [lanesUsed_eq_zero] using small
  exact if_pos ends

theorem State.degrade_whole (whole : 32 ≤ min cap (s.port p).cap + 1) (linked : lanes ≠ 0) :
    s.degrade p lanes cap = if lanesUsed lanes < 4 then
        (s.setPort p { (s.port p).degraded lanes cap with st := if (s.port p).works then 3 else (s.port p).st }).service 1 p
      else s.setPort p ((s.port p).degraded lanes cap) := by
  have goesOn : ¬ (decide (min cap (s.port p).cap + 1 < 16) || decide (lanesUsed lanes = 0)) = true := by
    simp only [Bool.or_eq_true, decide_eq_true_eq, lanesUsed_eq_zero]
    omega
  have loses : (decide (lanesUsed lanes < 4) || decide ((sharesOf (min cap (s.port p).cap)).1 ≠ 0)) = true ↔ lanesUsed lanes < 4 := by
    simp [sharesOf_whole whole]
  exact (if_neg goesOn).trans (if_congr loses rfl rfl)

theorem State.setLimits_eq {v : Nat} {l : List Nat} (bytes : l = [v / 2 ^ 24 % 256, v / 2 ^ 16 % 256, v / 2 ^ 8 % 256, v % 256]) :
    s.setLimits p v = if (∀ x ∈ l, 8 ≤ x) ∧ l.sum ≤ (s.port p).cap + 1 then s.setPort p { s.port p with lim := l } else s := by
  subst bytes
  simp only [State.setLimits, Port.limitsOk, Bool.and_eq_true, List.all_eq_true, decide_eq_true_eq]

theorem State.trained_idle (idle : (s.port p).st ≠ 1) : s.trained p = s := if_neg idle
theorem State.trained_whole (trains : (s.port p).st = 1) (vcs : (s.port p).vcmap = 0) (links : (s.port p).lanes = 4) :
    s.trained p = (s.setPort p { s.port p with st := 2 }).reachCheck := by
  rw [State.trained, if_pos trains]
  simp [vcs, links]

end

/-! ## A port that is quiesced (R130, R139) -/

/-- The seal groups that the flows to some peers hold at a port go again. -/
def State.pushOff (s : State) (p : Nat) (ms : List Nat) : State :=
  ms.foldl (fun s m => ((s.flow m).out.filter fun g => g.port = p).foldl (fun s g => s.push m g) s) s

section
variable {s : State} {p : Nat}

theorem State.out_flow {P : Seal → Prop} (all : ∀ x ∈ s.flows, ∀ g ∈ x.2.out, P g) (m : Nat) : ∀ g ∈ (s.flow m).out, P g := by
  cases found : FMap.find? s.flows m with
  | none =>
    rw [show s.flow m = {} by rw [State.flow, FMap.getD, found]; rfl]
    exact fun g none_ => absurd none_ List.not_mem_nil
  | some f =>
    rw [show s.flow m = f by rw [State.flow, FMap.getD, found]; rfl]
    exact all (m, f) (FMap.mem_of_find? found)

theorem State.pushOff_nothing (ms : List Nat) (nothing : ∀ m, ∀ g ∈ (s.flow m).out, g.port ≠ p) : s.pushOff p ms = s := by
  induction ms with
  | nil => rfl
  | cons m ms ih =>
    have idle : ((s.flow m).out.filter fun g => g.port = p) = [] := by simpa using nothing m
    rw [State.pushOff, List.foldl_cons, idle]
    exact ih

end

/-! ## Module numbers and attestation (R126, R141) -/

/-- An attestation session is refused, and a service request says so. -/
def State.sessionRefused (s : State) (m : Nat) : State := (s.setFlow m { s.flow m with attested := false }).service 5 m

section
variable {s : State} {m n : Nat}

theorem State.assign_eq : s.assign n = if s.regs.mod = none ∧ n < 512 then { s with regs := { s.regs with mod := some (BitVec.ofNat 9 n) } } else s := by
  have keeps : (s.regs.mod.isSome || decide (512 ≤ n)) = true ↔ ¬(s.regs.mod = none ∧ n < 512) := by
    rw [Bool.or_eq_true, decide_eq_true_eq, Option.isSome_iff_ne_none, not_and_or, not_lt]
  simp only [State.assign, keeps, ite_not]

theorem State.spdm_attested : s.spdm m true = s.setFlow m { s.flow m with attested := true } := rfl

theorem State.spdm_refused (idle : s.hoist = none) : s.spdm m false = s.sessionRefused m := by
  change (match s.hoist with | some h => _ | none => _) = _
  rw [idle]
  rfl
theorem State.spdm_refused_join {h : Hoist} (here : s.hoist = some h) (join : h.op = 0) (peer : h.mod = m) :
    s.spdm m false = (s.sessionRefused m).hoistEnd 4 := by
  have waits : (decide (h.op = 0) && decide (h.mod = m)) = true := by simp [join, peer]
  change (match s.hoist with | some h => _ | none => _) = _
  rw [here]
  exact if_pos waits

end

/-! ## The barrier of a hoist (R150, R151) -/

/-- The members that a module is to meet at the barrier: those that the leader has come to, or those that any other module is sent. -/
def State.barrierMask (s : State) (h : Hoist) (mask : BitVec 512) : BitVec 512 := if h.op ≠ 4 then s.newMask h else mask
theorem State.barrierMask_eq (s : State) (h : Hoist) (mask : BitVec 512) : s.barrierMask h mask = if h.op = 4 then mask else s.newMask h := ite_not ..

/-- Every flow is drained, and a module that is a member has held its sessions with those that it meets. -/
def State.mayPass (s : State) (h : Hoist) (mk : BitVec 512) : Prop :=
  (∀ x ∈ s.flows, s.drainedOf h.absent x.1 = true) ∧ (mk.getLsbD s.modNo = true → s.sessions mk = true)
theorem State.undrained_iff {s : State} {absent : List Nat} :
    (!s.flows.all fun x => s.drainedOf absent x.1) = true ↔ ¬ ∀ x ∈ s.flows, s.drainedOf absent x.1 = true := by
  rw [Bool.not_eq_true', Bool.eq_false_iff, ne_eq, List.all_eq_true]
theorem State.unheld_iff {s : State} {mk : BitVec 512} :
    (mk.getLsbD s.modNo && !s.sessions mk) = true ↔ ¬ (mk.getLsbD s.modNo = true → s.sessions mk = true) := by
  rw [Bool.and_eq_true, Bool.not_eq_true', Classical.not_imp, Bool.not_eq_true]

/-- Four values have been drawn, the words of a secret. -/
def State.drawn (s : State) : State := { s with fresh := s.fresh + 4 }
/-- The words of the secret that a leader draws. -/
def State.secretDrawn (s : State) : List W64 := (List.range 4).map fun i => Config.random (s.fresh + i)

section
variable {s : State} {mask : BitVec 512} {secret : List W64} {gen : W32} {leader : Nat}

theorem State.barrier_begins (idle : s.hoist = none) (follows : s.regs.lead = false) (numbered : s.regs.mod.isSome = true) :
    s.barrier mask secret gen leader = { s with hoist := some { op := 4, mod := 0, gid := none, start := s.now } } := by
  have enters : ¬ (s.regs.lead || s.regs.mod.isNone) = true := by simp [follows, Option.isSome_iff_ne_none.mp numbered]
  rw [State.barrier]
  simp only [idle, if_neg enters]

section
variable {h : Hoist} (here : s.hoist = some h)
include here

section
variable {s1 : State} (refuses : s1 = s.refuseHeld (s.barrierMask h mask))
include refuses

theorem State.barrier_waits (waits : ¬ s1.mayPass h (s.barrierMask h mask)) : s.barrier mask secret gen leader = s1 := by
  subst refuses
  change (match s.hoist with | none => _ | some h => _) = _
  rw [here]
  by_cases drained : ∀ x ∈ (s.refuseHeld (s.barrierMask h mask)).flows, (s.refuseHeld (s.barrierMask h mask)).drainedOf h.absent x.1 = true
  · have unheld := fun held => waits ⟨drained, held⟩
    exact (if_neg (mt State.undrained_iff.mp (not_not.mpr drained))).trans (if_pos (State.unheld_iff.mpr unheld))
  · exact if_pos (State.undrained_iff.mpr drained)

theorem State.barrier_passes (passes : s1.mayPass h (s.barrierMask h mask)) :
    s.barrier mask secret gen leader =
      (s1.drawn.hoistSwitch (s.barrierMask h mask) (if h.op ≠ 4 then s1.secretDrawn else secret)
        (if decide (h.op ≠ 4) && !s1.regs.memb then 1 else if h.op ≠ 4 then s1.regs.gen + 1 else gen) (if h.op ≠ 4 then s1.modNo else leader)).hoistEnd 0 := by
  subst refuses
  obtain ⟨drained, held⟩ := passes
  change (match s.hoist with | none => _ | some h => _) = _
  rw [here]
  exact (if_neg (mt State.undrained_iff.mp (not_not.mpr drained))).trans (if_neg (mt State.unheld_iff.mp (not_not.mpr held)))

section
variable (passes : s1.mayPass h (s.barrierMask h mask))
include passes

/-- A module that does not lead takes what it is sent. -/
theorem State.barrier_member (follows : h.op = 4) :
    s.barrier mask secret gen leader = (s1.drawn.hoistSwitch (s.barrierMask h mask) secret gen leader).hoistEnd 0 := by
  rw [State.barrier_passes here refuses passes]
  simp only [follows, ne_eq, not_true_eq_false, decide_false, Bool.false_and, Bool.false_eq_true, if_false]
/-- The leader draws the secret; the generation is 1 where it forms a domain, and else the next one. -/
theorem State.barrier_leader (leads : h.op ≠ 4) :
    s.barrier mask secret gen leader =
      (s1.drawn.hoistSwitch (s.barrierMask h mask) s1.secretDrawn (if s1.regs.memb then s1.regs.gen + 1 else 1) s1.modNo).hoistEnd 0 := by
  rw [State.barrier_passes here refuses passes]
  cases s1.regs.memb <;> simp [leads]

end
end

/-- The barrier waits for a member until its deadline; then the hoist goes on without it, and the leader evicts it. -/
theorem State.hoistLate_eq {m : Nat} (member : s.regs.mask.getLsbD m = true) (other : m ≠ s.modNo) (awaited : h.absent.contains m = false) :
    let s1 := { s with hoist := some { h with absent := h.absent ++ [m] } }
    s.hoistLate m = if max 1 s.regs.hdl * 1000000 ≤ s.now - h.start then (if h.op = 4 then s1 else s1.service 11 m) else s := by
  rw [State.hoistLate]
  simp only [here, member, other, awaited, ne_eq, not_false_eq_true, decide_true, Bool.not_false, Bool.and_self, Bool.true_and, decide_eq_true_eq]

end
end

/-! ## The statement -/

/-- Settles O46, step by step: each clause is the case of its step in the lemmas above. -/
theorem portEvents : Obligations.PortEvents := by
  unfold Obligations.PortEvents
  refine ⟨?small, ?whole, ?quiesce, ?attested, ?refused, ?join, ?limits, ?number, ?idle, ?trains, ?begins, ?barrier, ?late⟩
  case small => exact fun s p lanes cap small => ⟨_, leads_portDegrade.mpr (State.degrade_quiesces small), rfl⟩
  case whole =>
    intro s p cap whole vcs fits
    have lost (lanes : Nat) := Port.degraded_whole (lanes := lanes) whole vcs fits
    refine ⟨leads_portDegrade.mpr ?_, fun lanes two four => leads_portDegrade.mpr ?_⟩
    · rw [State.degrade_whole whole (by decide), lost]
      rfl
    · have used : lanesUsed lanes = 2 := by rw [lanesUsed, if_neg four.not_ge, if_pos two]
      rw [State.degrade_whole whole (by omega), lost, used]
      rfl
  case quiesce =>
    intro s p s1 s2 told
    exact ⟨leads_portQuiesce.mpr rfl, fun nothing => State.pushOff_nothing _ (State.out_flow nothing)⟩
  case attested => exact fun s m => leads_spdmSession.mpr State.spdm_attested
  case refused => exact fun s m idle _ => leads_spdmSession.mpr (State.spdm_refused idle)
  case join => exact fun s m h here join peer => leads_spdmSession.mpr (State.spdm_refused_join here join peer)
  case limits => exact fun s p v => leads_portLimitWrite.mpr (State.setLimits_eq rfl)
  case number => exact fun s n => leads_moduleNumberAssignment.mpr State.assign_eq
  case idle => exact fun s p idle => leads_portTrainingDone.mpr (State.trained_idle idle)
  case trains => exact fun s p trains vcs links => leads_portTrainingDone.mpr (State.trained_whole trains vcs links)
  case begins => exact fun s mask sec gen ld idle follows numbered => leads_hoistBarrier.mpr (State.barrier_begins idle follows numbered)
  case barrier =>
    intro s mask sec gen ld h here mk s1 sent s2
    have members : s.barrierMask h mask = mk := State.barrierMask_eq s h mask
    have refuses : s1 = s.refuseHeld (s.barrierMask h mask) := by rw [members]
    refine ⟨fun waits => leads_hoistBarrier.mpr (State.barrier_waits here refuses ?_), fun drained held => ?_⟩
    · rw [members]
      rintro ⟨drained, held⟩
      obtain ⟨x, flow, stays⟩ | ⟨member, unheld⟩ := waits
      · simp [drained x flow] at stays
      · simp [held member] at unheld
    · have passes : s1.mayPass h (s.barrierMask h mask) := members ▸ ⟨drained, held⟩
      rw [← members]
      exact ⟨fun follows => leads_hoistBarrier.mpr (State.barrier_member here refuses passes follows),
        fun leads => leads_hoistBarrier.mpr (State.barrier_leader here refuses passes leads)⟩
  case late => exact fun s m h here member other awaited => leads_hoistDeadline.mpr (State.hoistLate_eq here member other awaited)

end Sys2Proof.Machine
end

section
/-! SUPPORT. What a store straight into SRAM, the issue of a copy, a sleep and a wait for a class come to, a lemma for each case (R10, R103, R157, R160 to R163, R167, R169), and the proofs
of the statements on them; and a uniform store that ends its group (R250, R252), against the statement on the frames of stores. Which bytes of a trap frame software leaves is deduced
(log entry 132), and the time that a copy promises is the model's free value (log entry 46). -/

namespace Sys2Proof.Machine

open Decode Safety Claims

/-! ## A write that no poisoned unit refuses (R10, R103, R157) -/

theorem unitOf_unitOf (a : Nat) : unitOf (unitOf a) = unitOf a := by
  have side : unitOf a < 2 ^ 42 ↔ a < 2 ^ 42 := by
    unfold unitOf eccUnit
    split <;> omega
  have same : eccUnit (unitOf a) = eccUnit a := by simp only [eccUnit, side]
  have pos : 0 < eccUnit a := by
    unfold eccUnit
    split <;> decide
  rw [unitOf, same, unitOf, Nat.mul_div_cancel _ pos]

theorem State.poisoned_unitOf (s : State) (a : Nat) : s.poisoned (unitOf a) = s.poisoned a := by simp only [State.poisoned, unitOf_unitOf]

section
variable {s : State} {a i : Nat} {bs : List (Option Byte)} {b : Option Byte}

theorem getElem?_writable : (writable a bs)[i]? = bs[i]?.map fun b => if frameRo (a + i) then none else b := by simp [writable]
theorem length_writable : (writable a bs).length = bs.length := by simp [writable]

/-- Where no poisoned unit refuses a part of a write, every byte of it passes. -/
theorem State.passMask_whole (sound : s.refusedUnits a bs = []) : s.passMask a bs = bs := by
  refine List.ext_getElem? fun i => ?_
  rw [State.passMask, List.getElem?_mapIdx]
  cases byte : bs[i]? with
  | none => rfl
  | some b =>
    cases b with
    | none => simp
    | some v =>
      have within : i < bs.length := (List.getElem?_eq_some_iff.mp byte).1
      have written : unitOf (a + i) ∈ ((List.range bs.length).filter fun i => ((bs[i]?).join).isSome).map fun i => unitOf (a + i) :=
        List.mem_map.mpr ⟨i, List.mem_filter.mpr ⟨List.mem_range.mpr within, by rw [byte]; rfl⟩, rfl⟩
      have passes := List.filter_eq_nil_iff.mp sound _ written
      rw [State.poisoned_unitOf] at passes
      rw [Option.map_some, if_neg passes]

theorem State.byte_applyBytes_in (sound : s.refusedUnits a bs = []) (byte : bs[i]? = some b) : (s.applyBytes a bs).byte (a + i) = b.getD (s.byte (a + i)) := by
  obtain ⟨within, rfl⟩ := List.getElem?_eq_some_iff.mp byte
  rw [State.byte, State.applyBytes, State.passMask_whole sound, Memory.read_writeMask_in _ _ _ _ within]
  rfl

theorem State.writeLocal_whole (sound : s.refusedUnits a (writable a bs) = []) : s.writeLocal a bs = s.applyBytes a (writable a bs) := by
  rw [State.writeLocal, ← writable, sound]
  rfl

end

theorem putStore_direct {c : Iss} {rel : Option Scope} {s : State} {x : Store} {sp a : Nat} (at_ : x.at_ = .sram sp a) (direct : sp < 2) :
    putStore c rel (some s) x = some (s.writeLocal a x.data) := by
  simp only [putStore, at_, if_pos direct, Option.map_some]

/-- Settles O18: the store is one masked write, of which every byte passes. -/
theorem localStoreFrame : Obligations.LocalStoreFrame := by
  unfold Obligations.LocalStoreFrame
  intro s gid x sp a at_ direct sound
  have inside {i : Nat} {b : Option Byte} (byte : x.data[i]? = some b) :
      (s.applyBytes a (writable a x.data)).byte (a + i) = (if frameRo (a + i) then none else b).getD (s.byte (a + i)) :=
    State.byte_applyBytes_in sound (by rw [getElem?_writable, byte, Option.map_some])
  have outside (b : Nat) (out : b < a ∨ a + x.data.length ≤ b) : (s.applyBytes a (writable a x.data)).byte b = s.byte b :=
    State.byte_applyBytes_out s a b _ (by rwa [length_writable])
  refine ⟨s.applyBytes a (writable a x.data), ?_, outside, ?_, ?_, rfl⟩
  · rw [putStore_direct at_ direct, State.writeLocal_whole sound]
  · intro i v byte writes
    rw [inside byte, writes]
    rfl
  · rintro i (masked | readOnly)
    · rw [inside masked, ite_self, Option.getD_none]
    · cases byte : x.data[i]? with
      | none => exact outside _ (.inr (Nat.add_le_add_left (List.getElem?_eq_none_iff.mp byte) a))
      | some b => rw [inside byte, readOnly, if_pos rfl, Option.getD_none]

/-! ## The issue of a copy (R160, R163) -/

section
variable {s : State} {gid : Nat}

theorem copyStart_ok {i : Instr} {o : Args} (p : CopyPasses s gid i o) : copyStart (issOf s gid) i o = .ok (actingOf s gid o) := by
  obtain ⟨-, -, passes⟩ := p
  unfold copyStart
  simp only [← actingOf.eq_1, runChecks_none passes]

theorem copyPasses_acts {i : Instr} {o : Args} (p : CopyPasses s gid i o) : ¬ (actingOf s gid o).isEmpty = true := by
  obtain ⟨-, acts, -⟩ := p
  simpa using acts

/-- The state from which a copy goes on: where its destination lies outside `.lane` and `.core`, its block has committed (R163, R180). -/
def copyBase (s : State) (gid : Nat) (dst : W64) : State := if privateSpace dst then s else s.commit (s.grp gid).blk

theorem sourceScope_copyBase (s : State) (gid : Nat) (dst : W64) : sourceScope (copyBase s gid dst) = sourceScope s := by
  unfold copyBase
  split <;> rfl

/-- The state with a copy of no bytes complete: the present time in D, one copy more issued, none outstanding (R163). -/
def copyOfNothing (s : State) (gid : Nat) (d : Opd) (dst : W64) : State :=
  let s2 := (copyBase s gid dst).onGrp gid fun g => { writeOp g 0 64 d { v := s.now } with cpyN := g.cpyN + 1 }
  { s2 with fresh := s2.fresh + 1 }

theorem Group.writeT_cpy (g : Group) (t k : Nat) (x : Val) (w : Nat) : (g.writeT t k x w).cpy = g.cpy := by
  unfold Group.writeT
  split <;> rfl
theorem Group.writeW_cpy (g : Group) (k : Nat) (x : Val) (w : Nat) : (g.writeW k x w).cpy = g.cpy := by
  unfold Group.writeW
  split <;> rfl
theorem writeOp_cpy (g : Group) (t w : Nat) (d : Opd) (x : Val) : (writeOp g t w d x).cpy = g.cpy := by
  cases d with
  | t n => exact g.writeT_cpy _ _ _ _
  | w n => exact g.writeW_cpy _ _ _
  | sr r => cases r <;> rfl
  | _ => rfl

/-- A copy that may issue is under way afterwards, or complete at once where it has no bytes. -/
theorem copyIssue_ok {d : Opd} {dst src : W64} {x : CopyDesc} {dl sl : Option Nat} (may : MayCopy s gid dst src x dl sl) :
    copyIssue (issOf s gid) d dst src x = .ok (if x.e.1 = 0 then copyOfNothing s gid d dst else copyOpened s gid d dst src x dl sl) := by
  obtain ⟨dstOk, srcOk, room, count, buckets, free, held⟩ := may
  have srcPasses : (if x.zf then .ok none else copyPtr (issOf s gid) src .read (copyRange (if pForm src = 2 then bf src 0 32 else pOff src) x.e x.ss)
      (decide (x.e.1 = 0))) = Except.ok sl := by
    cases zf : x.zf <;> simpa [zf, eq_comm] using srcOk
  have roomy : ¬ (decide (64 ≤ s.copyQueue (clusterOf (unitOfGid gid))) || counterFull (s.grp gid).cpy || (issOf s gid).bucketsFull) = true := by
    have bucketsFree : ¬ 64 ≤ s.atBuckets (unitOfGid gid) (s.blk (s.grp gid).blk).ctx := Nat.not_le.mpr buckets
    simp [counterFull, Iss.bucketsFull, issOf, room, count, bucketsFree]
  have goes : ¬ (s.acquiring gid || (!x.zf &&
      !(copyBase s gid dst).released gid (sourceScope (copyBase s gid dst) (s.blk (s.grp gid).blk).ctx src))) = true := by
    rw [free, sourceScope_copyBase]
    cases zf : x.zf <;> simp [copyBase, held, zf]
  unfold copyIssue
  extract_lets empty rs rd
  rw [show copyPtr (issOf s gid) dst .write rd (decide empty) = _ from dstOk,
    show ite _ _ (copyPtr (issOf s gid) src .read rs (decide empty)) = _ from srcPasses]
  refine (if_neg roomy).trans ((if_neg goes).trans (congrArg Except.ok ?_))
  by_cases nothing : x.e.1 = 0
  · have sameCount (g : Group) := writeOp_cpy g 0 64 d { v := s.now }
    rw [if_pos nothing]
    simp +zetaDelta only [if_pos nothing, copyOfNothing, copyBase, sameCount]
    generalize privateSpace dst = isPrivate
    cases isPrivate <;> rfl
  · rw [if_neg nothing]
    simp +zetaDelta only [if_neg nothing, copyOpened]
    generalize privateSpace dst = isPrivate
    cases isPrivate <;> rfl

/-! ## The descriptor of a copy (R162, Table 7-6) -/

/-- The 32 bits that hold a number in two's complement stand for it. -/
theorem sext_emod {v : Int} (low : -2 ^ 31 ≤ v) (high : v < 2 ^ 31) : sext 32 (v % 2 ^ 32).toNat = v := by
  simp only [sext]
  split <;> omega

theorem copyDesc_bad {w0 w1 w2 w3 : Nat} (bad : slice w0 32 16 = 0 ∨ slice w0 48 16 = 0 ∨ 1 < w3) : copyDesc w0 w1 w2 w3 = none := by
  refine if_pos ?_
  simpa [slice, or_assoc] using bad

theorem copyDescriptor : CopyDescriptor := by
  intro e0 e1 e2 a b c d zf small0 pos1 small1 pos2 small2 strides
  simp only [List.forall_mem_cons] at strides
  obtain ⟨⟨la, ha⟩, ⟨lb, hb⟩, ⟨lc, hc⟩, ⟨ld, hd⟩, -⟩ := strides
  obtain ⟨bytes, rows, planes⟩ : (e0 + e1 * 2 ^ 32 + e2 * 2 ^ 48) % 2 ^ 32 = e0 ∧ (e0 + e1 * 2 ^ 32 + e2 * 2 ^ 48) / 2 ^ 32 % 65536 = e1 ∧
      (e0 + e1 * 2 ^ 32 + e2 * 2 ^ 48) / 2 ^ 48 % 65536 = e2 := by omega
  have low (x y : Int) : ((x % 2 ^ 32).toNat + (y % 2 ^ 32).toNat * 2 ^ 32) % 2 ^ 32 = (x % 2 ^ 32).toNat := by omega
  have high (x y : Int) : ((x % 2 ^ 32).toNat + (y % 2 ^ 32).toNat * 2 ^ 32) / 2 ^ 32 % 2 ^ 32 = (y % 2 ^ 32).toNat := by omega
  have reserved : ¬ 1 < zf.toNat := by cases zf <;> decide
  have flag : decide (zf.toNat = 1) = zf := by cases zf <;> rfl
  rw [copyDesc, bytes, rows, planes, low, low, high, high, sext_emod la ha, sext_emod lb hb, sext_emod lc hc, sext_emod ld hd, flag]
  simp [pos1.ne', pos2.ne', reserved]

/-! ## The copy instructions (R160 to R163) -/

section
variable {o : Args} {n : Fin 64} {x : CopyDesc} {dl sl : Option Nat}

theorem copyPair_w (pair : o.a.x = .w n) : copyPair (issOf s gid) o.a.x = (((s.grp gid).ureg n.val).v, ((s.grp gid).ureg (n.val + 1)).v) := by
  rw [pair]
  rfl

/-- `CPY` that may issue is the copy of one row of the bytes that B counts. -/
theorem exec_cpy (p : CopyPasses s gid (.cpy o) o) (pair : o.a.x = .w n)
    (row : x = ⟨((srcsOf s gid (.cpy o) o 0).2.2.v % 2 ^ 32, 1, 1), (0, 0), (0, 0), false⟩)
    (may : MayCopy s gid ((s.grp gid).ureg n.val).v ((s.grp gid).ureg (n.val + 1)).v x dl sl) :
    exec (.cpy o) s = .next ((if x.e.1 = 0 then copyOfNothing s gid o.d.x ((s.grp gid).ureg n.val).v
      else copyOpened s gid o.d.x ((s.grp gid).ureg n.val).v ((s.grp gid).ureg (n.val + 1)).v x dl sl).retire gid o.hdr false false) := by
  subst row
  rw [show exec (.cpy o) s = execCpy o s from rfl, execCpy]
  refine issue_next p.1 ?_
  rw [copyStart_ok p]
  refine (if_neg (copyPasses_acts p)).trans ?_
  rw [copyPair_w pair]
  exact copyIssue_ok may

variable (p : CopyPasses s gid (.cpys o) o)
include p

/-- `CPYS` that may issue is the copy that its descriptor gives, … -/
theorem exec_cpys (pair : o.a.x = .w n) (desc : copyDesc (descWord s gid o 0) (descWord s gid o 1) (descWord s gid o 2) (descWord s gid o 3) = some x)
    (may : MayCopy s gid ((s.grp gid).ureg n.val).v ((s.grp gid).ureg (n.val + 1)).v x dl sl) :
    exec (.cpys o) s = .next ((if x.e.1 = 0 then copyOfNothing s gid o.d.x ((s.grp gid).ureg n.val).v
      else copyOpened s gid o.d.x ((s.grp gid).ureg n.val).v ((s.grp gid).ureg (n.val + 1)).v x dl sl).retire gid o.hdr false false) := by
  rw [show exec (.cpys o) s = execCpys o s from rfl, execCpys]
  refine issue_next p.1 ?_
  rw [copyStart_ok p]
  refine (if_neg (copyPasses_acts p)).trans ?_
  extract_lets pointers words
  rw [show copyDesc (words 0) (words 1) (words 2) (words 3) = _ from desc, show pointers = _ from copyPair_w pair]
  exact copyIssue_ok may
/-- … and traps where there is none. -/
theorem exec_cpys_bad (bad : copyDesc (descWord s gid o 0) (descWord s gid o 1) (descWord s gid o 2) (descWord s gid o 3) = none) :
    exec (.cpys o) s = .next (s.takeTrap gid { cause := .copyDescriptor }) := by
  rw [show exec (.cpys o) s = execCpys o s from rfl, execCpys]
  refine issue_stop (x := .trap { cause := .copyDescriptor }) p.1 ?_
  rw [copyStart_ok p]
  refine (if_neg (copyPasses_acts p)).trans ?_
  extract_lets pointers words
  rw [show copyDesc (words 0) (words 1) (words 2) (words 3) = _ from bad]

end

end

theorem copyIssues : CopyIssues := by
  refine ⟨?row, ?described, ?nothing, ?wrong⟩
  case row =>
    intro o s gid n dl sl p pair dst src x may bytes
    rw [exec_cpy p pair rfl may, if_neg bytes]
  case described =>
    intro o s gid n x dl sl p pair dst src desc may bytes
    rw [exec_cpys p pair desc may, if_neg bytes]
  case nothing =>
    intro o s gid n dl sl p pair dst x zero may
    rw [exec_cpy p pair (by rw [zero]) may, if_pos rfl]
    rfl
  case wrong => exact fun o s gid p bad => exec_cpys_bad p (copyDesc_bad bad)

/-- Settles O22: what the two instructions come to, and the fields of a descriptor. -/
theorem copies : Obligations.Copies := by
  unfold Obligations.Copies
  exact ⟨copyIssues, copyDescriptor⟩

/-! ## Sleeping (R167) -/

section
variable {s : State} {gid : Nat}

theorem exec_sleept {rel : Bool} {o : Args} (p : Issues s gid (.sleept rel o) o) :
    let a := (srcsOf s gid (.sleept rel o) o 0).2.1.v
    let t := if rel then (s.now + a) % 2 ^ 64 else a
    exec (.sleept rel o) s = .next (
      if actingOf s gid o = [] ∨ t ≤ s.now then jumped s gid o true { s.grp gid with pc := nextPc s gid }
      else (s.onGrp gid fun g => { g with wait := .sleep t, since := s.now }).retire gid o.hdr true true) := by
  intro a t
  rw [show exec (.sleept rel o) s = execSleept rel o s from rfl, execSleept]
  by_cases passed : actingOf s gid o = [] ∨ t ≤ s.now
  · have passes : ((actingOf s gid o).isEmpty || decide (t ≤ s.now)) = true := by simpa using passed
    rw [if_pos passed]
    refine issue_next p.1 ?_
    rw [start_ok p]
    exact if_pos passes
  · have sleeps : ¬ ((actingOf s gid o).isEmpty || decide (t ≤ s.now)) = true := by simpa using passed
    rw [if_neg passed]
    refine issue_next p.1 ?_
    rw [start_ok p]
    exact if_neg sleeps

theorem exec_sleepWake {g : Group} {t : Nat} (here : FMap.find? s.groups gid = some g) (sleeps : g.wait = .sleep t) :
    exec (.sleepWake gid) s = .next (if t ≤ s.now then s.wake gid else s) := by
  rw [show exec (.sleepWake gid) s = execSleepWake gid s from rfl, execSleepWake]
  simp only [here, sleeps]

theorem sleeping : Sleeping := ⟨fun _ _ _ _ p => exec_sleept p, fun _ _ _ _ here sleeps => exec_sleepWake here sleeps⟩

/-! ## Waiting for a class (R169) -/

section
variable {m : CClass} {o : Args}

theorem waitc_meets (acts : actingOf s gid o ≠ []) (n : (srcsOf s gid (.waitc m o) o 0).2.1.v < 255) :
    ¬ ((actingOf s gid o).isEmpty || decide (255 ≤ (srcsOf s gid (.waitc m o) o 0).2.1.v)) = true := by
  simp [acts, n]

variable (p : Issues s gid (.waitc m o) o)
include p

theorem exec_waitc_all (n : 255 ≤ (srcsOf s gid (.waitc m o) o 0).2.1.v) : exec (.waitc m o) s = .next (s.retire gid o.hdr false false) := by
  rw [show exec (.waitc m o) s = execWaitc m o s from rfl, execWaitc]
  refine issueOr_next p.1 ?_
  rw [start_ok p]
  exact if_pos (Bool.or_eq_true_iff.mpr (.inr (decide_eq_true n)))

variable (acts : actingOf s gid o ≠ []) (n : (srcsOf s gid (.waitc m o) o 0).2.1.v < 255)
include acts n

theorem exec_waitc_clear (clear : s.met gid m (srcsOf s gid (.waitc m o) o 0).2.1.v = .clear) :
    exec (.waitc m o) s = .next ((match m with
      | .cpy => s.covered gid fun x => !x.mma && decide (x.num < (s.grp gid).cpyN - (srcsOf s gid (.waitc m o) o 0).2.1.v)
      | .mma => s.covered gid fun x => x.mma && decide (x.num < (s.grp gid).mmaN - (srcsOf s gid (.waitc m o) o 0).2.1.v)
      | _ => s).retire gid o.hdr false false) := by
  rw [show exec (.waitc m o) s = execWaitc m o s from rfl, execWaitc]
  refine issueOr_next p.1 ?_
  rw [start_ok p]
  refine (if_neg (waitc_meets acts n)).trans ?_
  rw [show (issOf s gid).s.met (issOf s gid).gid m (srcs (issOf s gid) (.waitc m o) o 0).2.1.v = _ from clear]
  cases m <;> rfl

theorem exec_waitc_failed {t : Trap} {s' : State} (failed : s.met gid m (srcsOf s gid (.waitc m o) o 0).2.1.v = .failed t s') :
    exec (.waitc m o) s = .next (s'.takeTrap gid t) := by
  rw [show exec (.waitc m o) s = execWaitc m o s from rfl, execWaitc]
  refine issueOr_other p.1 ?_
  rw [start_ok p]
  refine (if_neg (waitc_meets acts n)).trans ?_
  rw [show (issOf s gid).s.met (issOf s gid).gid m (srcs (issOf s gid) (.waitc m o) o 0).2.1.v = _ from failed]
  rfl

end

/-- A fold whose every step picks something has picked nothing exactly where it had nothing to pick from. -/
theorem foldl_pick_eq_none {α : Type} {pick : Option α → α → Option α} (picks : ∀ m x, pick m x ≠ none) (xs : List α) :
    xs.foldl pick none = none ↔ xs = [] := by
  rcases List.eq_nil_or_concat xs with rfl | ⟨ys, x, rfl⟩
  · simp
  · simp [picks]

/-- A wait meets no copy exactly where the group has none left before the limit. -/
theorem State.metCopy_eq_clear {lim : Nat} : s.metCopy gid lim = .clear ↔ ∀ x ∈ s.copies, x.2.gid = gid → lim ≤ x.2.num := by
  have nothing : (s.copies.filter fun x => x.2.gid = gid && x.2.num < lim) = [] ↔ ∀ x ∈ s.copies, x.2.gid = gid → lim ≤ x.2.num := by
    simp [List.filter_eq_nil_iff]
  unfold State.metCopy
  split
  · next noOldest =>
    refine iff_of_true rfl (nothing.mp ((foldl_pick_eq_none ?_ _).mp noOldest))
    rintro (_ | y) x
    · simp
    · dsimp only
      split <;> simp
  · next k c oldest =>
    have left : (s.copies.filter fun x => x.2.gid = gid && x.2.num < lim) ≠ [] := fun e => by
      rw [e] at oldest
      cases oldest
    refine iff_of_false ?_ (mt nothing.mpr left)
    split <;> simp

end

theorem waitForClass : WaitForClass := by
  refine ⟨fun _ _ _ _ p n => exec_waitc_all p n, fun _ _ _ _ p acts n clear => exec_waitc_clear p acts n clear,
    fun _ _ _ _ _ _ p acts n failed => exec_waitc_failed p acts n failed, ?complete, ?outstanding⟩
  case complete => exact fun s gid n past => State.metCopy_eq_clear.mpr fun x here own => past x.1 x.2 here own
  case outstanding => exact fun s gid n k c here own early clear => early.not_ge (State.metCopy_eq_clear.mp clear (k, c) here own)

/-- Settles O23: each clause is a branch of its instruction, or what a wait for copies meets. -/
theorem waiting : Obligations.Waiting := by
  unfold Obligations.Waiting
  exact ⟨sleeping, waitForClass⟩

/-! ## A uniform store of a group whose mask is empty (R33, R250, R252) -/

/-- A group with an empty active mask and an empty mask stack, and a label pointer in w4, … -/
def endingGroup : Group := { blk := 1, act := 0, code := 0x1000000000000000, len := 1, w := [(4, { v := 0x1000000000000040 })] }
/-- … which holds lane 0 of core 0 in cycle 1. -/
def endingState : State :=
  { State.reset with regs := { State.reset.regs with cyc := 1 }, groups := [(0, endingGroup)], blocks := [(1, { groups := [0], live := 1 })]
                     lanes := [(0, { slot := some 0 })], nextId := 2 }
/-- A store of w2 to the pointer in w4. -/
def uniformStore : Mods.St := ⟨.b32, none⟩
/-- Its operands, with the U bit: it acts once for its group, whatever the mask. -/
def uniformArgs : Args := ⟨{ u := true }, ⟨.none, false⟩, ⟨.w 4, false⟩, ⟨.w 2, false⟩⟩
/-- What it stores. -/
def uniformStores : List Store := storesOf endingState 0 (.st uniformStore uniformArgs) uniformArgs 4 fun _ => .label

theorem uniformStore_acts : actingOf endingState 0 uniformArgs = [0] := by decide +kernel
theorem uniformStore_issues : Issues endingState 0 (.st uniformStore uniformArgs) uniformArgs := by
  unfold Issues Passes Taken
  decide +kernel
theorem uniformStore_passes : ∀ t ∈ actingOf endingState 0 uniformArgs,
    checkAccess (issOf endingState 0) t (BitVec.ofNat 64 (srcsOf endingState 0 (.st uniformStore uniformArgs) uniformArgs t).2.1.v) 4 .write false = .ok .label := by
  rw [uniformStore_acts, List.forall_mem_singleton]
  rfl
theorem uniformStore_labels : ∀ x ∈ lastWins uniformStores, x.at_ = .label := by decide +kernel
theorem uniformStore_room : BucketRoom endingState 0 := by
  unfold BucketRoom
  decide +kernel
theorem uniformStore_enters : ∃ t, stored endingState 0 none uniformStores = some t ∧ MayStore endingState 0 4 none uniformStores t := by
  have enters : ((stored endingState 0 none uniformStores).any fun t => decide (t.logSize 0 ≤ 64)) = true := by decide +kernel
  obtain ⟨t, stores, room⟩ := (Option.any_eq_true _ _).mp enters
  refine ⟨t, stores, rfl, rfl, ?_, nofun, .inl (of_decide_eq_true room)⟩
  exact List.forall_mem_map.mpr fun th _ => ⟨rfl, rfl⟩
/-- The group has ended after its store, and the hang count of its context has started again in this cycle (R250, R252). -/
theorem uniformStore_ends : ∃ t, exec (.st uniformStore uniformArgs) endingState = .next t ∧ t.ctxs ≠ endingState.ctxs := by
  have ends : (match exec (.st uniformStore uniformArgs) endingState with | .next t => decide (t.ctxs ≠ endingState.ctxs) | _ => false) = true := by
    decide +kernel
  split at ends
  · next t runs => exact ⟨t, runs, of_decide_eq_true ends⟩
  · cases ends

/-- Refutes O57: nothing in its premises keeps a uniform store from being the last instruction of its group, whose mask is empty: the end of the group then
changes its context. -/
theorem not_storeFrames : ¬ Obligations.StoreFrames := by
  unfold Obligations.StoreFrames
  intro frames
  obtain ⟨after, stores, may⟩ := uniformStore_enters
  obtain ⟨t, runs, changed⟩ := uniformStore_ends
  have acts : actingOf endingState 0 uniformArgs ≠ [] := by simp [uniformStore_acts]
  have noDirect : ∀ x ∈ lastWins uniformStores, ∀ sp b, x.at_ = .sram sp b → sp < 2 → endingState.refusedUnits b (writable b x.data) = [] := by
    intro x hx sp b at_
    cases (uniformStore_labels x hx).symm.trans at_
  obtain ⟨-, -, same, -⟩ := frames uniformStore uniformArgs endingState 0 (fun _ => .label) t uniformStore_issues uniformStore_passes noDirect acts
    uniformStore_room after stores may runs
  exact changed same

end Sys2Proof.Machine
end

section
/-! SUPPORT. What a load, a store, an atomic, a fence and a commit come to, a lemma for each stage of their issue (R159, R169, R174 to R188, R191, R198, R220, R312), and the
proofs of the statements on them. Which requests the rate buckets count (log entry 131), what a vector packet is (log entry 36), when a local load reads (log entry 34) and what an
`ATOM` does behind a logged write (log entry 29) are the model's choices or deduced. -/

namespace Sys2Proof.Machine

open Decode Safety Claims

/-! ## What holds an access at issue (R169, R174, R175, R183, R312) -/

section
variable {s : State} {gid : Nat}

theorem localGate_read (free : s.acquiring gid = false) : localGate (issOf s gid) false = none := if_neg (by simp [issOf, free])
theorem localGate_write (free : s.acquiring gid = false) (log : s.logBlocked gid = false) : localGate (issOf s gid) true = none :=
  if_neg (by simp [issOf, free, log])
/-- Where the rate buckets have room, an access through labels meets what a local one meets. -/
theorem accessGate_room (room : BucketRoom s gid) (write : Bool) : accessGate (issOf s gid) write = localGate (issOf s gid) write := by
  refine if_neg ?_
  rw [Iss.bucketsFull, decide_eq_true_iff]
  exact Nat.not_le.mpr room

/-- Two meanings that agree on what the group issues with issue alike. -/
theorem issue_congr {o : Args} {jumps ends : Bool} {f f' : Iss → Except Stop State} (h : s.issuer = some gid) (same : f (issOf s gid) = f' (issOf s gid)) :
    issue o s jumps ends f = issue o s jumps ends f' := by
  cases e : f' (issOf s gid) with
  | ok s' => rw [issue_next h e, issue_next h (same.trans e)]
  | error x => rw [issue_stop h e, issue_stop h (same.trans e)]

theorem counterFull_eq_false {n : Nat} (below : n < 255) : counterFull n = false := decide_eq_false (Nat.not_le.mpr below)

theorem isEmpty_actingOf {o : Args} (acts : actingOf s gid o ≠ []) : ¬ (actingOf s gid o).isEmpty = true := by simpa using acts

end

section
variable {c : Iss} {n : Nat}

/-- The elements of a vector packet whose bases are label stacks, each within its region (R177). -/
theorem elements_ok {k : AKind} {al : Bool} {xs : List (Nat × W64 × Nat)} (ok : ∀ x ∈ xs, ElementOk n al x.2.1 x.2.2) :
    elements c n k al xs = .ok (xs.map fun x => (x.1, pPlus x.2.1 (x.2.2 % 65536))) := by
  unfold elements
  rw [firstStop_ok]
  intro x hx
  obtain ⟨form, inside, aligned⟩ := ok x hx
  rw [if_neg (not_not_intro form), if_neg]
  cases al
  · simpa using inside
  · simpa using ⟨inside, aligned rfl⟩

theorem placeStores_ok {gth : Option Nat} {at_ : Nat → Place} {xs : List (Nat × W64 × Val)}
    (ok : ∀ x ∈ xs, checkAccess c x.1 x.2.1 n .write false = .ok (at_ x.1)) :
    placeStores c n gth xs = .ok (xs.map fun x => ⟨x.1, x.2.1, at_ x.1, storeBytes n x.2.2.v, x.2.2.mark, gth⟩) := by
  unfold placeStores
  rw [firstStop_ok fun x hx => by rw [ok x hx]]
  refine congrArg Except.ok (List.filterMap_eq_map_iff_forall_eq_some.mpr fun x hx => ?_)
  rw [ok x hx]

theorem placeAtoms_ok {at_ : Nat → Place} {xs : List (Nat × W64 × Val × Val)} (ok : ∀ x ∈ xs, checkAccess c x.1 x.2.1 n .atomic true = .ok (at_ x.1)) :
    placeAtoms c n xs = .ok (xs.map fun x => ⟨x.1, x.2.1, at_ x.1, BitVec.ofNat 64 (x.2.2.1.v % 2 ^ (8 * n)), BitVec.ofNat 64 (x.2.2.2.v % 2 ^ (8 * n)),
      joinMark x.2.2.1.mark x.2.2.2.mark⟩) := by
  unfold placeAtoms
  rw [firstStop_ok fun x hx => by rw [ok x hx]]
  refine congrArg Except.ok (List.filterMap_eq_map_iff_forall_eq_some.mpr fun x hx => ?_)
  rw [ok x hx]

end

/-! ## Loads (R159, R175, R177) -/

section
variable {s : State} {gid : Nat} {o : Args}

theorem loadChecks_ok {n : Nat} {xs : List (Nat × W64)} (may : MayLoad s gid n xs) : loadChecks (issOf s gid) n xs = .ok () := by
  obtain ⟨-, -, each⟩ := may
  unfold loadChecks
  rw [firstStop_ok, firstStop_ok fun x hx => (each x hx).1, firstStop_ok]
  · intro x hx
    obtain ⟨-, p, passes, free⟩ := each x hx
    rw [passes]
    cases p with
    | sram sp a =>
      dsimp only
      split
      · rfl
      · next shared => rw [free (Nat.not_lt.mp shared)]
    | label =>
      dsimp only at free ⊢
      rw [free]
    | window a =>
      dsimp only at free ⊢
      rw [free]
  · intro x hx
    obtain ⟨-, p, passes, -⟩ := each x hx
    rw [passes]

theorem loadAll_ok {d : Opd} {w : Nat} {ty : Ty} {ca : CA} {xs : List (Nat × W64)} (may : MayLoad s gid (tyBytes ty) xs) :
    loadAll (issOf s gid) d w ty ca xs = .ok (xs.foldl (loadOne (issOf s gid) d w ty ca none) s) := by
  cases xs with
  | nil => rfl
  | cons x xs =>
    have ⟨free, room, _⟩ := may
    refine (if_neg Bool.false_ne_true).trans ?_
    rw [accessGate_room room, localGate_read free, loadChecks_ok may]
    rfl

theorem exec_ld {m : Mods.Ld} (p : Issues s gid (.ld m o) o) (may : MayLoad s gid (tyBytes m.ty) (ptrsOf s gid (.ld m o) o)) :
    exec (.ld m o) s = .next (((ptrsOf s gid (.ld m o) o).foldl
      (loadOne (issOf s gid) o.d.x (spec (.ld m o)).d.width m.ty m.ca none) s).retire gid o.hdr false false) := by
  rw [show exec (.ld m o) s = execLd m o s from rfl, execLd]
  refine issue_next p.1 ?_
  rw [start_ok p]
  exact loadAll_ok may

/-- The elements of a vector instruction that lie in their regions (R177). -/
theorem elements_acting {i : Instr} {n : Nat} {k : AKind} {al : Bool} {off : Val × Val × Val → Nat}
    (inside : ∀ t ∈ actingOf s gid o, ElementOk n al (BitVec.ofNat 64 (srcsOf s gid i o t).2.1.v) (off (srcsOf s gid i o t))) :
    elements (issOf s gid) n k al ((actingOf s gid o).map fun t => (t, BitVec.ofNat 64 (srcs (issOf s gid) i o t).2.1.v, off (srcs (issOf s gid) i o t))) =
      .ok (elementsOf s gid i o off) := by
  unfold elementsOf srcsOf at *
  rw [elements_ok (by rw [List.forall_mem_map]; exact inside), List.map_map]
  rfl

theorem exec_ldv {m : Mods.Ld} {xs : List (Nat × W64)} (p : Issues s gid (.ldv m o) o) (acts : actingOf s gid o ≠ [])
    (packet : xs = elementsOf s gid (.ldv m o) o fun x => x.2.2.v)
    (inside : ∀ t ∈ actingOf s gid o, let x := srcsOf s gid (.ldv m o) o t; ElementOk (tyBytes m.ty) false (BitVec.ofNat 64 x.2.1.v) x.2.2.v)
    (may : MayLoad s gid (tyBytes m.ty) xs) (count : (s.grp gid).gth < 255) :
    exec (.ldv m o) s = .next ((xs.foldl (loadOne (issOf s gid) o.d.x (spec (.ldv m o)).d.width m.ty m.ca (some (s.vector gid xs.length).2))
      (s.vector gid xs.length).1).retire gid o.hdr false false) := by
  have ⟨free, room, _⟩ := may
  rw [show exec (.ldv m o) s = execLdv m o s from rfl, execLdv]
  refine issue_next p.1 ?_
  rw [start_ok p]
  refine (if_neg (isEmpty_actingOf acts)).trans ?_
  rw [accessGate_room room, localGate_read free]
  dsimp only
  rw [elements_acting (off := fun x => x.2.2.v) inside, ← packet]
  dsimp only
  rw [loadChecks_ok may]
  exact if_neg (ne_true_of_eq_false (counterFull_eq_false count))

theorem localChecks_ok {n : Nat} {k : AKind} {xs : List (Nat × W64)} (passes : ∀ x ∈ xs, ∃ p, localCheck (issOf s gid) x.2 n k true = .ok p)
    (prompt : ∀ x ∈ xs, latePromise (issOf s gid) x.1 x.2 n = .ok ()) : localChecks (issOf s gid) n k xs = .ok () := by
  unfold localChecks
  rw [firstStop_ok, firstStop_ok prompt]
  intro x hx
  obtain ⟨p, ok⟩ := passes x hx
  rw [ok]

theorem localAt_ok {c : Iss} {p : W64} {n : Nat} {k : AKind} {a : Place} (ok : localCheck c p n k true = .ok a) : localAt c p n k = a := by
  rw [localAt, ok]

theorem ldsWaits_ok {c : Iss} {n : Nat} {x : Nat × W64} {p : Place} (passes : localCheck c x.2 n .read true = .ok p)
    (free : ∀ sp a, p = .sram sp a → 2 ≤ sp → localWaits c a n = none) : ldsWaits c n x = .ok () := by
  rw [ldsWaits, localAt_ok passes]
  cases p with
  | sram sp a =>
    dsimp only
    split
    · rfl
    · next shared => rw [free sp a rfl (Nat.not_lt.mp shared)]
  | label => rfl
  | window a => rfl

theorem exec_lds {m : Mods.Local} {xs : List (Nat × W64)} (p : Issues s gid (.lds m o) o) (free : s.acquiring gid = false)
    (pointers : xs = (actingOf s gid o).map fun t => (t, localPtr m (srcsOf s gid (.lds m o) o t).2.1.v))
    (each : ∀ x ∈ xs, latePromise (issOf s gid) x.1 x.2 (lwBytes m.width) = .ok () ∧
      ∃ p, localCheck (issOf s gid) x.2 (lwBytes m.width) .read true = .ok p ∧
        match p with | .sram sp a => 2 ≤ sp → localWaits (issOf s gid) a (lwBytes m.width) = none | _ => True) :
    exec (.lds m o) s = .next ((xs.foldl (ldsOne (issOf s gid) o.d.x m) s).retire gid o.hdr false false) := by
  have goes : firstStop (ldsWaits (issOf s gid) (lwBytes m.width)) xs = .ok () := firstStop_ok fun x hx => by
    obtain ⟨-, a, passes, free⟩ := each x hx
    refine ldsWaits_ok passes fun sp b at_ => ?_
    subst at_
    exact free
  rw [show exec (.lds m o) s = execLds m o s from rfl, execLds]
  refine issue_next p.1 ?_
  rw [start_ok p]
  by_cases acts : actingOf s gid o = []
  · rw [pointers, acts]
    rfl
  · refine (if_neg (isEmpty_actingOf acts)).trans ?_
    rw [localGate_read free]
    dsimp only
    rw [show (actingOf s gid o).map (fun t => (t, localPtr m (srcs (issOf s gid) (.lds m o) o t).2.1.v)) = xs from pointers.symm,
      localChecks_ok (fun x hx => (each x hx).2.imp fun _ => And.left) fun x hx => (each x hx).1]
    dsimp only
    rw [goes]
    rfl

end

/-! ## What one load leaves (R198, R220) -/

theorem State.find?_onGrp (s : State) (gid k : Nat) (f : Group → Group) :
    FMap.find? (s.onGrp gid f).groups k = if k = gid then (FMap.find? s.groups k).map f else FMap.find? s.groups k := FMap.find?_modify ..

theorem State.find?_newReq (s : State) (q : Req) :
    FMap.find? (s.newReq q).reqs s.nextId = some { q with arrived := s.nextId, fam := s.nextId, share := s.nextId, ptr0 := q.ptr } := FMap.find?_insert_self ..

theorem length_captured (c : Iss) (s : State) (p : W64) (n : Nat) (ca : CA) (l1 : Bool) : (captured c s p n ca l1).length = n := by simp [captured]

theorem loadOutstanding : LoadOutstanding := by
  intro s gid t p d w ty ca gth g here c
  generalize issued : issueLoad c d w ty ca gth s (t, p) = s'
  unfold issueLoad at issued
  extract_lets n keep got op id s1 s2 at issued
  obtain ⟨groups, mem, blocks, ops⟩ : s'.groups = s1.groups ∧ s'.mem = s.mem ∧ s'.blocks = s.blocks ∧ s'.ops = FMap.insert s.ops s.nextId (.load op) := by
    subst issued
    split <;> exact ⟨rfl, rfl, rfl, rfl⟩
  have found (k : Nat) : FMap.find? s'.groups k = if k = gid then (FMap.find? s.groups k).map fun g => emptyOp g t w d else FMap.find? s.groups k := by
    rw [groups]
    exact State.find?_onGrp ..
  refine ⟨?_, fun k other => by rw [found, if_neg other], mem, blocks, op, by rw [ops, FMap.find?_insert_self], rfl, rfl, ?_, rfl, ?_, ?_, ?_⟩
  · rw [State.grp, FMap.getD, found, if_pos rfl, here]
    rfl
  · intro x hx
    rw [show op.dst = (destOf w d).getD _ from rfl, hx, Option.getD_some]
  · exact (List.length_map ..).trans (length_captured ..)
  · intro whole
    rw [← issued, if_pos whole]
    rfl
  · intro missing
    rw [← issued, if_neg (ne_true_of_eq_false missing)]
    exact ⟨_, State.find?_newReq .., rfl, rfl, rfl, rfl, rfl⟩

/-! ## Stores (R159, R176, R177, R181) -/

section
variable {s : State} {gid n : Nat} {o : Args}

theorem fits_ok {after : State} (room : LogRoom s gid after) : fits (issOf s gid) s (some after) = .ok after := by
  refine if_neg ?_
  simp only [Bool.and_eq_true, decide_eq_true_eq, not_and, not_lt]
  intro above
  exact room.resolve_left above.not_ge

/-- A release that is performed has committed the block, and nothing else (R176). -/
theorem release_ok {c : Iss} {sc : Scope} {targets : List W64} (performed : ∃ s', release c sc targets = .ok s') :
    release c sc targets = .ok (c.s.commit c.g.blk) := by
  obtain ⟨s', ok⟩ := performed
  unfold release at ok ⊢
  extract_lets s1 done at ok
  by_cases h : done = true
  · exact if_pos h
  · rw [if_neg h] at ok
    cases ok

theorem any_waits {xs : List Store} (full : ∀ x ∈ xs, x.waits = false) : ¬ xs.any Store.waits = true := by simpa using full

/-- A store of an element of a vector packet, or of none. -/
def Store.within (gth : Option Nat) (x : Store) : Store := { x with gth := gth }

theorem mayStore_within {rel : Option Scope} {gth : Option Nat} {xs : List Store} {after : State} :
    MayStore s gid n rel (xs.map (Store.within gth)) after ↔ MayStore s gid n rel xs after := by
  simp only [MayStore, List.forall_mem_map, List.map_map]
  rfl

theorem storeAll_eq {rel : Option Scope} {gth : Option Nat} {before after : State} {xs : List Store} (nonempty : xs ≠ []) (room : BucketRoom s gid)
    (may : MayStore s gid n rel xs after) :
    storeAll (issOf s gid) n rel gth before xs = fits (issOf s gid) s
      ((lastWins (xs.map (Store.within gth))).foldl (putStore (issOf s gid) rel) (some (if rel.isSome then before.commit (s.grp gid).blk else before))) := by
  obtain ⟨free, log, each, released, -⟩ := may
  unfold storeAll
  rw [if_neg (by simpa using nonempty), accessGate_room room, localGate_write free log]
  dsimp only
  rw [firstStop_ok fun x hx => (each x hx).1]
  refine (if_neg (any_waits fun x hx => (each x hx).2)).trans ?_
  cases rel with
  | none => rfl
  | some sc =>
    dsimp only
    rw [release_ok (released sc rfl)]
    rfl

section
variable {m : Mods.St} {at_ : Nat → Place}

theorem placeStores_acting
    (passes : ∀ t ∈ actingOf s gid o, checkAccess (issOf s gid) t (BitVec.ofNat 64 (srcsOf s gid (.st m o) o t).2.1.v) n .write false = .ok (at_ t)) :
    placeStores (issOf s gid) n none ((actingOf s gid o).map fun t =>
      (t, BitVec.ofNat 64 (srcs (issOf s gid) (.st m o) o t).2.1.v, (srcs (issOf s gid) (.st m o) o t).2.2)) = .ok (storesOf s gid (.st m o) o n at_) := by
  rw [placeStores_ok (by rw [List.forall_mem_map]; exact passes), List.map_map]
  rfl

variable (acts : actingOf s gid o ≠ []) (room : BucketRoom s gid)
include acts room

/-- The stores of `ST` enter as they are, none of them an element of a vector packet. -/
theorem storeAll_storesOf {rel : Option Scope} {after : State} (may : MayStore s gid n rel (storesOf s gid (.st m o) o n at_) after) :
    storeAll (issOf s gid) n rel none s (storesOf s gid (.st m o) o n at_) = fits (issOf s gid) s (stored s gid rel (storesOf s gid (.st m o) o n at_)) := by
  have whole : (storesOf s gid (.st m o) o n at_).map (Store.within none) = storesOf s gid (.st m o) o n at_ := by
    rw [storesOf, List.map_map]
    rfl
  rw [storeAll_eq (by simpa [storesOf] using acts) room may, whole]
  rfl

variable (p : Issues s gid (.st m o) o)
  (passes : ∀ t ∈ actingOf s gid o, checkAccess (issOf s gid) t (BitVec.ofNat 64 (srcsOf s gid (.st m o) o t).2.1.v) (tyBytes m.ty) .write false = .ok (at_ t))
include p passes

/-- `ST` whose stores nothing holds comes to what the buffer has room for. -/
theorem exec_st_fits {after : State} (may : MayStore s gid (tyBytes m.ty) m.rel (storesOf s gid (.st m o) o (tyBytes m.ty) at_) after) :
    exec (.st m o) s = issue o s false false fun c => fits c s (stored s gid m.rel (storesOf s gid (.st m o) o (tyBytes m.ty) at_)) := by
  rw [show exec (.st m o) s = execSt m o s from rfl, execSt]
  refine issue_congr p.1 ?_
  rw [start_ok p]
  dsimp only
  rw [placeStores_acting passes]
  exact storeAll_storesOf acts room may

theorem exec_st {after : State} (enter : stored s gid m.rel (storesOf s gid (.st m o) o (tyBytes m.ty) at_) = some after)
    (may : MayStore s gid (tyBytes m.ty) m.rel (storesOf s gid (.st m o) o (tyBytes m.ty) at_) after) :
    exec (.st m o) s = .next (after.retire gid o.hdr false false) := by
  have ⟨_, _, _, _, log⟩ := may
  rw [exec_st_fits acts room p passes may, enter]
  exact issue_next p.1 (fits_ok log)

theorem exec_st_full (full : stored s gid m.rel (storesOf s gid (.st m o) o (tyBytes m.ty) at_) = none)
    (may : MayStore s gid (tyBytes m.ty) m.rel (storesOf s gid (.st m o) o (tyBytes m.ty) at_) s) :
    exec (.st m o) s = .next (((s.commit (s.grp gid).blk).stick gid 0).endRun gid) := by
  rw [exec_st_fits acts room p passes may, full]
  exact issue_stop (x := .wait (s.commit (s.grp gid).blk)) p.1 rfl

end

/-- The stores of the elements of `STV`, of a vector packet or of none. -/
def elementStores (s : State) (gid : Nat) (m : Mods.St) (o : Args) (gth : Option Nat) : List Store :=
  (elementsOf s gid (.stv m o) o fun x => x.1.v).map fun p =>
    let b := (srcsOf s gid (.stv m o) o p.1).2.2
    ⟨p.1, p.2, .label, (leBytes (tyBytes m.ty) b.v).map some, b.st.mark, gth⟩

theorem elementStores_within {m : Mods.St} {gth : Option Nat} : (elementStores s gid m o none).map (Store.within gth) = elementStores s gid m o gth := by
  rw [elementStores, List.map_map]
  rfl

theorem exec_stv {m : Mods.St} {xs : List Store} {v after : State} (p : Issues s gid (.stv m o) o) (acts : actingOf s gid o ≠ [])
    (inside : ∀ t ∈ actingOf s gid o, let x := srcsOf s gid (.stv m o) o t; ElementOk (tyBytes m.ty) false (BitVec.ofNat 64 x.2.1.v) x.1.v)
    (count : (s.grp gid).gth < 255) (elems : xs = elementStores s gid m o (some s.nextId)) (packet : v = (s.vector gid xs.length).1) (room : BucketRoom s gid)
    (enter : (lastWins xs).foldl (putStore (issOf s gid) m.rel) (some (if m.rel.isSome then v.commit (s.grp gid).blk else v)) = some after)
    (may : MayStore s gid (tyBytes m.ty) m.rel xs after) :
    exec (.stv m o) s = .next (({ after with ops := FMap.insert after.ops s.nextId (.gth ⟨gid, after.gthLeft s.nextId, (s.grp gid).gthN⟩) }).retire
      gid o.hdr false false) := by
  have ⟨_, _, _, _, log⟩ := may
  have size : (elementStores s gid m o none).length = xs.length := by rw [elems, ← elementStores_within (gth := some _), List.length_map]
  have entered : storeAll (issOf s gid) (tyBytes m.ty) m.rel (some s.nextId) v (elementStores s gid m o none) = .ok after := by
    have nonempty : elementStores s gid m o none ≠ [] := by simpa [elementStores, elementsOf] using acts
    rw [elems, ← elementStores_within, mayStore_within] at may
    rw [storeAll_eq nonempty room may, elementStores_within, ← elems, enter, fits_ok log]
  rw [show exec (.stv m o) s = execStv m o s from rfl, execStv]
  refine issue_next p.1 ?_
  rw [start_ok p]
  refine (if_neg (isEmpty_actingOf acts)).trans ?_
  extract_lets n
  rw [elements_acting (off := fun x => x.1.v) inside]
  refine (if_neg (ne_true_of_eq_false (counterFull_eq_false count))).trans ?_
  extract_lets ys u
  have same : u.1 = v := by rw [packet, ← size]; rfl
  rw [show storeAll (issOf s gid) n m.rel (some u.2) u.1 ys = .ok after by rw [same]; exact entered]
  rfl

theorem exec_sts {m : Mods.Local} {at_ : Nat → Place} {xs : List Store} {after : State} (p : Issues s gid (.sts m o) o) (acts : actingOf s gid o ≠ [])
    (passes : ∀ t ∈ actingOf s gid o,
      localCheck (issOf s gid) (localPtr m (srcsOf s gid (.sts m o) o t).2.1.v) (lwBytes m.width) .write true = .ok (at_ t))
    (stores : xs = (actingOf s gid o).map fun t =>
      let x := srcsOf s gid (.sts m o) o t
      (⟨t, localPtr m x.2.1.v, at_ t, (leBytes (lwBytes m.width) x.2.2.v).map some, x.2.2.st.mark, none⟩ : Store))
    (enter : (lastWins xs).foldl (stsOne (issOf s gid) (lwBytes m.width)) (some s) = some after) (may : MayStore s gid (lwBytes m.width) none xs after) :
    exec (.sts m o) s = .next (after.retire gid o.hdr false false) := by
  obtain ⟨free, log, each, -, room⟩ := may
  rw [show exec (.sts m o) s = execSts m o s from rfl, execSts]
  refine issue_next p.1 ?_
  rw [start_ok p]
  refine (if_neg (isEmpty_actingOf acts)).trans ?_
  extract_lets n ys zs
  have checks : localChecks (issOf s gid) n .write ys = .ok () := by
    refine localChecks_ok ?_ ?_
    · rw [List.forall_mem_map]
      exact fun t ht => ⟨_, passes t ht⟩
    · rw [stores, List.forall_mem_map] at each
      rw [List.forall_mem_map]
      exact fun t ht => (each t ht).1
  rw [localGate_write free log]
  dsimp only
  rw [checks]
  have same : zs = xs := by
    rw [stores]
    refine (List.map_map ..).trans (List.map_congr_left fun t ht => ?_)
    exact congrArg (Store.mk t _ · _ _ none) (localAt_ok (passes t ht))
  rw [same]
  refine (if_neg (any_waits fun x hx => (each x hx).2)).trans ?_
  rw [show (lastWins xs).foldl (stsOne (issOf s gid) n) (some (issOf s gid).s) = _ from enter]
  exact fits_ok room

end

/-! ## Atomics and reductions (R174, R176, R186 to R188) -/

section
variable {s : State} {gid n : Nat} {o : Args}

/-- What a release and the loss of the restart point make of the state from which atomics go (R176, R180, R366), one after the other. -/
theorem atomBefore_eq {rel : Option Scope} {returns : Bool} {xs : List APart} {s0 s1 : State} {out : Bool}
    (committed : s0 = if rel.isSome then s.commit (s.grp gid).blk else s) (shared : out = xs.any fun x => x.at_.shared)
    (restart : s1 = if out then s0.noRestart (s.grp gid).blk else s0) :
    atomBefore s gid rel returns xs = if out && returns then s1.commit (s.grp gid).blk else s1 := by
  subst committed shared restart
  unfold atomBefore
  generalize (xs.any fun x => x.at_.shared) = out
  cases out
  · rfl
  · cases returns <;> rfl

/-- Where nothing holds the atomics of an instruction and their release is performed, what they come to is what their parts have come to. -/
theorem atomAll_red {op : AOp} {ty : ATy} {ord : Sys2Proof.Ord} {sc : Scope} {w : Nat} {rel : Option Scope} {xs : List APart} {after : State} (nonempty : xs ≠ [])
    (releases : relOf ord sc = rel) (may : MayAtom s gid (atyBytes ty) true rel xs)
    (sent : atomSent s (atomBefore s gid rel false xs) gid op ty none rel xs = some after) (log : LogRoom s gid after) :
    atomAll (issOf s gid) op ty ord sc none w false xs = .ok after := by
  obtain ⟨goes, released⟩ := may
  have entered : fits (issOf s gid) s (atomSent s (atomBefore s gid rel false xs) gid op ty none rel xs) = .ok after := by rw [sent, fits_ok log]
  rw [atomBefore_eq rfl rfl rfl] at entered
  unfold atomAll
  rw [if_neg (by simpa using nonempty), show atomWaits (issOf s gid) (atyBytes ty) (none : Option Opd).isNone xs = _ from goes,
    show (if (ord = .rel || ord = .ar) = true then some sc else none) = rel by simp [← releases, relOf]]
  cases rel with
  | none => exact entered
  | some scope =>
    dsimp only
    rw [release_ok (released scope rfl)]
    exact entered

theorem atomAll_atom {m : Mods.Atom} {d : Opd} {w : Nat} {rel : Option Scope} {xs : List APart} {before after : State} (nonempty : xs ≠ [])
    (releases : relOf m.ord m.scope = rel) (may : MayAtom s gid (atyBytes m.ty) false rel xs) (count : (if m.v then (s.grp gid).gth else (s.grp gid).atm) < 255)
    (base : before = atomBefore s gid rel true xs)
    (sent : atomSent s (atomOpened s before gid m d w xs) gid m.op m.ty (some before.nextId) rel xs = some after) (log : LogRoom s gid after) :
    atomAll (issOf s gid) m.op m.ty m.ord m.scope (some d) w m.v xs = .ok after := by
  obtain ⟨goes, released⟩ := may
  have entered : fits (issOf s gid) s (atomSent s (atomOpened s before gid m d w xs) gid m.op m.ty (some before.nextId) rel xs) = .ok after := by
    rw [sent, fits_ok log]
  have free : ¬ ((some d).isSome && if m.v then counterFull (s.grp gid).gth else counterFull (s.grp gid).atm) = true := by
    cases h : m.v <;> simpa [h, counterFull] using count
  rw [base, atomBefore_eq rfl rfl rfl] at entered
  unfold atomOpened atomOp at entered
  unfold atomAll
  rw [if_neg (by simpa using nonempty), show atomWaits (issOf s gid) (atyBytes m.ty) (some d).isNone xs = _ from goes,
    show (if (m.ord = .rel || m.ord = .ar) = true then some m.scope else none) = rel by simp [← releases, relOf],
    show (if (m.ord = .acq || m.ord = .ar) = true then some m.scope else none) = if m.ord = .acq ∨ m.ord = .ar then some m.scope else none by simp]
  generalize m.v = v at free entered ⊢
  cases rel with
  | none =>
    refine (if_neg free).trans ?_
    cases v <;> exact entered
  | some sc =>
    dsimp only
    rw [release_ok (released sc rfl)]
    refine (if_neg free).trans ?_
    cases v <;> exact entered

/-- The pointers of `ATOM`'s threads: with `.v` the elements of its packet. -/
def atomPtrs (s : State) (gid : Nat) (m : Mods.Atom) (o : Args) : List (Nat × W64) :=
  if m.v then elementsOf s gid (.atom m o) o (fun x => x.1.v) else ptrsOf s gid (.atom m o) o

theorem atomPtrs_nonempty {m : Mods.Atom} (acts : actingOf s gid o ≠ []) : atomPtrs s gid m o ≠ [] := by
  unfold atomPtrs
  split
  · simpa [elementsOf] using acts
  · simpa [ptrsOf] using acts

theorem placeAtoms_parts {i : Instr} {cmp : Bool} {ps : List (Nat × W64)} {at_ : Nat → Place} {d : Nat → Val}
    (passes : ∀ p ∈ ps, checkAccess (issOf s gid) p.1 p.2 n .atomic true = .ok (at_ p.1)) (compares : ∀ t, d t = if cmp then (srcsOf s gid i o t).1 else {}) :
    placeAtoms (issOf s gid) n (ps.map fun p => (p.1, p.2, (srcs (issOf s gid) i o p.1).2.2, d p.1)) = .ok (partsFor s gid i o n cmp ps at_) := by
  rw [placeAtoms_ok (by rw [List.forall_mem_map]; exact passes), List.map_map]
  obtain rfl : d = fun t => if cmp then (srcsOf s gid i o t).1 else {} := funext compares
  rfl

theorem exec_atom {m : Mods.Atom} {at_ : Nat → Place} {xs : List APart} {rel : Option Scope} {before after : State} (p : Issues s gid (.atom m o) o)
    (acts : actingOf s gid o ≠ [])
    (parts : xs = partsFor s gid (.atom m o) o (atyBytes m.ty) (!m.v) (atomPtrs s gid m o) at_)
    (inside : m.v = true → ∀ t ∈ actingOf s gid o,
      ElementOk (atyBytes m.ty) true (BitVec.ofNat 64 (srcsOf s gid (.atom m o) o t).2.1.v) (srcsOf s gid (.atom m o) o t).1.v)
    (passes : ∀ p ∈ atomPtrs s gid m o, checkAccess (issOf s gid) p.1 p.2 (atyBytes m.ty) .atomic true = .ok (at_ p.1))
    (releases : relOf m.ord m.scope = rel) (may : MayAtom s gid (atyBytes m.ty) false rel xs) (count : (if m.v then (s.grp gid).gth else (s.grp gid).atm) < 255)
    (base : before = atomBefore s gid rel true xs)
    (sent : atomSent s (atomOpened s before gid m o.d.x (spec (.atom m o)).d.width xs) gid m.op m.ty (some before.nextId) rel xs = some after)
    (log : LogRoom s gid after) : exec (.atom m o) s = .next (after.retire gid o.hdr false false) := by
  have nonempty : xs ≠ [] := by simpa [parts, partsFor] using atomPtrs_nonempty acts
  rw [show exec (.atom m o) s = execAtom m o s from rfl, execAtom]
  refine issue_next p.1 ?_
  rw [start_ok p]
  dsimp -zeta only
  extract_lets n vs
  have pointers : (if m.v then elements (issOf s gid) n .atomic true (vs.map fun x => (x.1, BitVec.ofNat 64 x.2.2.1.v, x.2.1.v))
      else .ok (vs.map fun x => (x.1, BitVec.ofNat 64 x.2.2.1.v))) = .ok (atomPtrs s gid m o) := by
    rw [List.map_map, List.map_map, atomPtrs]
    split
    · next v => exact elements_acting (off := fun x => x.1.v) (inside v)
    · rfl
  rw [pointers]
  dsimp only
  rw [placeAtoms_parts (cmp := !m.v) (d := fun t => if m.v then {} else (srcs (issOf s gid) (.atom m o) o t).1) passes fun t => by cases m.v <;> rfl, ← parts]
  exact atomAll_atom nonempty releases may count base sent log

theorem exec_red {m : Mods.Red} {at_ : Nat → Place} {xs : List APart} {rel : Option Scope} {after : State} (p : Issues s gid (.red m o) o)
    (acts : actingOf s gid o ≠ [])
    (parts : xs = partsFor s gid (.red m o) o (atyBytes m.ty) false (ptrsOf s gid (.red m o) o) at_)
    (passes : ∀ p ∈ ptrsOf s gid (.red m o) o, checkAccess (issOf s gid) p.1 p.2 (atyBytes m.ty) .atomic true = .ok (at_ p.1))
    (releases : rel = if m.rel then some m.scope else none) (may : MayAtom s gid (atyBytes m.ty) true rel xs)
    (sent : atomSent s (atomBefore s gid rel false xs) gid m.op m.ty none rel xs = some after) (log : LogRoom s gid after) :
    exec (.red m o) s = .next (after.retire gid o.hdr false false) := by
  have nonempty : xs ≠ [] := by simpa [parts, partsFor, ptrsOf] using acts
  have scope : relOf (if m.rel then .rel else .relaxed) m.scope = rel := by
    rw [releases]
    cases m.rel <;> rfl
  have placed := placeAtoms_parts (i := .red m o) (o := o) (cmp := false) (d := fun _ => {}) passes fun _ => rfl
  rw [ptrsOf, List.map_map, ← ptrsOf, ← parts] at placed
  rw [show exec (.red m o) s = execRed m o s from rfl, execRed]
  refine issue_next p.1 ?_
  rw [start_ok p]
  dsimp only
  rw [show placeAtoms (issOf s gid) (atyBytes m.ty) ((actingOf s gid o).map fun t =>
    (t, BitVec.ofNat 64 (srcs (issOf s gid) (.red m o) o t).2.1.v, (srcs (issOf s gid) (.red m o) o t).2.2, ({} : Val))) = _ from placed]
  exact atomAll_red nonempty scope may sent log

end

/-! ## Fences and commits (R182, R191) -/

section
variable {s : State} {gid : Nat} {o : Args} {m : Mods.Fence} (p : Issues s gid (.fence m o) o) (acts : actingOf s gid o ≠ [])
include p acts

theorem exec_fence {s1 : State} (committed : s1 = if (m.ord = .rel ∨ m.ord = .ar) ∧ m.scope ≠ .grp then s.commit (s.grp gid).blk else s)
    (released : m.ord = .rel ∨ m.ord = .ar → s1.released gid m.scope = true) (returned : m.ord = .acq ∨ m.ord = .ar → s1.awaitsLoads gid = false) :
    exec (.fence m o) s = .next (((if (m.ord = .rel ∨ m.ord = .ar) ∧ m.scope ≠ .grp then s1.onCore (unitOfGid gid) fun k => { k with barrier := s1.nextId }
      else s1).endCont gid).retire gid o.hdr false false) := by
  rw [show exec (.fence m o) s = execFence m o s from rfl, execFence]
  refine issue_next p.1 ?_
  rw [start_ok p]
  refine (if_neg (isEmpty_actingOf acts)).trans ?_
  extract_lets rel s2
  have commits : (rel && decide (m.scope ≠ .grp)) = true ↔ (m.ord = .rel ∨ m.ord = .ar) ∧ m.scope ≠ .grp := by simp [rel]
  obtain rfl : s2 = s1 := by simp only [s2, committed, commits, issOf]
  have passes : ¬ (rel && !s2.released gid m.scope) = true := by simpa [rel] using released
  have returns : ¬ ((m.ord = .acq || m.ord = .ar) && s2.awaitsLoads gid) = true := by simpa using returned
  refine (if_neg passes).trans ((if_neg returns).trans ?_)
  simp only [commits, issOf]

theorem exec_fence_awaits (releases : m.ord = .rel ∨ m.ord = .ar) (wide : m.scope ≠ .grp) (stands : (s.commit (s.grp gid).blk).released gid m.scope = false) :
    exec (.fence m o) s = .next ((((s.commit (s.grp gid).blk).onGrp gid fun g => { g with cont := some .await }).stick gid 0).endRun gid) := by
  rw [show exec (.fence m o) s = execFence m o s from rfl, execFence]
  refine issue_stop (x := .wait ((s.commit (s.grp gid).blk).onGrp gid fun g => { g with cont := some .await })) p.1 ?_
  rw [start_ok p]
  refine (if_neg (isEmpty_actingOf acts)).trans ?_
  extract_lets rel s2
  have isRel : rel = true := by simpa [rel] using releases
  have committed : s2 = s.commit (s.grp gid).blk := by simp [s2, isRel, wide, issOf]
  have waits : (rel && !s2.released gid m.scope) = true := by simp [isRel, committed, stands]
  rw [← committed]
  exact if_pos waits

end

theorem exec_commit {s : State} {gid : Nat} {o : Args} {vfy : Bool} (p : Issues s gid (.commit vfy o) o) (acts : actingOf s gid o ≠ [])
    (verified : vfy = true → s.tentRegs (s.grp gid).blk = false ∧ ∀ x ∈ s.wrs, x.2.place = .buffer → x.2.blk = (s.grp gid).blk → x.2.tent = none) :
    exec (.commit vfy o) s = .next ((s.commit (s.grp gid).blk).retire gid o.hdr false false) := by
  rw [show exec (.commit vfy o) s = execCommit vfy o s from rfl, execCommit]
  refine issue_next p.1 ?_
  rw [start_ok p]
  refine (if_neg (isEmpty_actingOf acts)).trans (if_neg ?_)
  cases vfy
  · exact Bool.false_ne_true
  · obtain ⟨registers, writes⟩ := verified rfl
    have untent : ¬ (s.wrs.any fun x => x.2.place = WPlace.buffer && x.2.blk = (s.grp gid).blk && x.2.tent.isSome) = true := by
      rw [List.any_eq_true]
      rintro ⟨x, hx, holds⟩
      simp only [Bool.and_eq_true, decide_eq_true_eq] at holds
      obtain ⟨⟨place, blk⟩, tent⟩ := holds
      rw [writes x hx place blk] at tent
      cases tent
    simp only [issOf, registers, Bool.true_and, Bool.false_or]
    exact untent

/-! ## The statements -/

theorem loadIssues : LoadIssues :=
  ⟨fun _ _ _ _ p may => exec_ld p may, fun _ _ _ _ p acts inside may count => exec_ldv p acts rfl inside may count,
    fun _ _ _ _ p free each => exec_lds p free rfl each⟩

/-- Settles O16: the first part is what the loads of the acting threads come to, the second what one of them leaves. -/
theorem loads : Obligations.Loads := by
  unfold Obligations.Loads
  exact ⟨loadIssues, loadOutstanding⟩

/-- Settles O17: the stores enter, or the block commits where one finds no room. -/
theorem storeIssues : Obligations.StoreIssues := by
  unfold Obligations.StoreIssues
  refine ⟨?enter, ?full, ?vector, ?direct⟩
  case enter =>
    intro m o s gid at_ p passes xs acts room after enter may
    exact exec_st acts room p passes enter may
  case full =>
    intro m o s gid at_ p passes xs acts room full may
    exact exec_st_full acts room p passes full may
  case vector =>
    intro m o s gid p acts inside count xs v room after enter may
    exact exec_stv p acts inside count rfl rfl room enter may
  case direct =>
    intro m o s gid at_ p acts passes xs after enter may
    exact exec_sts p acts passes rfl enter may

/-- Settles O19: each location's part is on its way, or performed at once in `.lane` and `.core`. -/
theorem atomicIssues : Obligations.AtomicIssues := by
  unfold Obligations.AtomicIssues
  refine ⟨?atom, ?red⟩
  case atom =>
    intro m o s gid at_ p acts n ps xs rel s1 inside passes may count after sent log
    exact exec_atom p acts rfl inside passes rfl may count rfl sent log
  case red =>
    intro m o s gid at_ p acts n ps xs rel passes may after sent log
    exact exec_red p acts rfl passes rfl may sent log

/-- Settles O20: each clause is a branch of its instruction. -/
theorem fenceCommit : Obligations.FenceCommit := by
  unfold Obligations.FenceCommit
  refine ⟨?passes, ?awaits, ?commits⟩
  case passes =>
    intro m o s gid p acts rel s1 released returned
    exact exec_fence p acts rfl released returned
  case awaits =>
    intro m o s gid p acts releases wide stands
    exact exec_fence_awaits p acts releases wide stands
  case commits =>
    intro vfy o s gid p acts verified
    exact exec_commit p acts verified

end Sys2Proof.Machine
end

section
/-! SUPPORT. From the result that an instruction computes to the result that a statement names (R219): what sources can supply, and when the two agree. -/

namespace Sys2Proof.Machine

open Decode Safety Claims

/-! ## What sources supply (R38 to R40, R192) -/

theorem numPos_pS {w : Nat} (hw : w = 32 ∨ w = 64) {e : Ext} (he : e = .zero ∨ e = .sign) : NumPos (pS w e) := ⟨hw, he⟩
theorem numPos_pR {w : Nat} (hw : w = 32 ∨ w = 64) : NumPos (pR w) := ⟨hw, .inl rfl⟩
theorem numPos_pU : NumPos pU := ⟨.inl rfl, .inl rfl⟩
theorem wd_cases (b64 : Bool) : wd b64 = 32 ∨ wd b64 = 64 := by cases b64 <;> simp [wd]
theorem wd_pos (b64 : Bool) : 0 < wd b64 := by cases b64 <;> decide
theorem sg_cases (uns : Bool) : sg uns = .zero ∨ sg uns = .sign := by cases uns <;> simp [sg]

/-- Every position of the word takes numbers. -/
def NumSpec (sp : Spec) : Prop := NumPos sp.d ∧ NumPos sp.a ∧ NumPos sp.b

/-- Every kind of source, a predicate too, supplies a number within the width of its position. -/
theorem srcVal_v_lt {p : Pos} (hp : NumPos p) (c : Iss) (t : Nat) (x lo : Opd) : (srcVal c t p x lo).v < 2 ^ p.width := by
  unfold srcVal
  split
  · exact (Bool.toNat_lt _).trans_le (Nat.le_self_pow (by obtain ⟨hw | hw, -⟩ := hp <;> omega) 2)
  · exact readOp_v_lt hp c t x lo

/-- A float immediate fills the upper half of its 32 bits (R228). -/
theorem readOp_f32_v_lt (c : Iss) (t : Nat) (x lo : Opd) : (readOp c t (pS 32 .f32) x lo).v < 2 ^ 32 := by
  have plain := readOp_v_lt (numPos_pS (.inl rfl) (.inl rfl)) c t x lo
  cases x with
  | imm v =>
    have := v.isLt
    simp only [readOp, pS, Val.raw, extImm]
    omega
  | _ => exact plain

section
variable {i : Instr} {o : Args} {s : State} {gid t : Nat}

theorem srcsOf_d_lt (hp : NumPos (spec i).d) : (srcsOf s gid i o t).1.v < 2 ^ (spec i).d.width := by
  unfold srcsOf srcs
  dsimp only
  split
  · exact Nat.two_pow_pos _
  · exact srcVal_v_lt hp ..
theorem srcsOf_a_lt (hp : NumPos (spec i).a) : (srcsOf s gid i o t).2.1.v < 2 ^ (spec i).a.width := by
  unfold srcsOf srcs
  dsimp only
  split
  · exact Nat.two_pow_pos _
  · exact srcVal_v_lt hp ..
theorem srcsOf_b_lt (hp : NumPos (spec i).b) : (srcsOf s gid i o t).2.2.v < 2 ^ (spec i).b.width := by
  unfold srcsOf srcs
  dsimp only
  split
  · exact Nat.two_pow_pos _
  · exact srcVal_v_lt hp ..

/-! ## When an instruction computes what a statement names -/

variable {f g : Nat → Val → Val → Val → Res} (runs : ∀ s, exec i s = alu i o s g)
include runs

/-- The instruction computes `f` where its own result is `f`'s on the sources of every thread … -/
theorem alu_agrees (agrees : ∀ s gid t, let x := srcsOf s gid i o t; g t x.1 x.2.1 x.2.2 = f t x.1 x.2.1 x.2.2) : Alu i o f := by
  intro s gid p
  rw [Computes, runs, alu_next g p]
  simp only [agrees s gid]
/-- … so where they are one function, … -/
theorem alu_is (same : g = f) : Alu i o f := same ▸ alu_agrees runs fun _ _ _ => rfl
/-- … where the results agree on all sources, … -/
theorem alu_same (same : ∀ t d a b, g t d a b = f t d a b) : Alu i o f := alu_agrees runs fun _ _ _ => same ..
/-- … or on all numbers that the positions can take. -/
theorem alu_fits (fits : NumSpec (spec i))
    (same : ∀ t d a b, d.v < 2 ^ (spec i).d.width → a.v < 2 ^ (spec i).a.width → b.v < 2 ^ (spec i).b.width → g t d a b = f t d a b) : Alu i o f :=
  alu_agrees runs fun _ _ _ => same _ _ _ _ (srcsOf_d_lt fits.1) (srcsOf_a_lt fits.2.1) (srcsOf_b_lt fits.2.2)

end

end Sys2Proof.Machine
end

section
/-! SUPPORT. The results of the integer, logic, bit-field and move instructions as the statements write them (R222 to R227), and the proofs of the statements on them. -/

namespace Sys2Proof.Machine

open Decode Safety Claims

/-- Equal numbers are equal results, untyped and without flags. -/
theorem Res.num_congr {x y : Nat} (same : x = y) : ({ v := x } : Res) = { v := y } := by rw [same]

/-! ## Integer arithmetic (Table 10-4) -/

section
variable {w a b n : Nat}

theorem natCast_two_pow (k : Nat) : ((2 ^ k : Nat) : Int) = 2 ^ k := Nat.cast_pow 2 k
theorem toNat_natCast_emod (x w : Nat) : ((x : Int) % 2 ^ w).toNat = x % 2 ^ w := by
  rw [← natCast_two_pow, ← Int.natCast_emod, Int.toNat_natCast]
theorem wrap_eq_word (x : Nat) : wrap w x = word w x := Res.num_congr (toNat_natCast_emod x w).symm
theorem wrapI_eq_word (x : Int) : wrapI w x = word w x := rfl
/-- The two spellings of the number that `w` bits stand for agree. -/
theorem sext_eq_asInt : sext w a = asInt w false a := by
  unfold sext asInt
  simp
theorem num_eq_asInt (uns : Bool) (ha : a < 2 ^ w) : num w uns a = asInt w uns a := by
  cases uns
  · exact sext_eq_asInt
  · simp [num, asInt, Nat.mod_eq_of_lt ha]
theorem sext_eq_toInt (hw : 0 < w) : sext w a = (BitVec.ofNat w a).toInt := by
  have half : 2 ^ (w - 1) * 2 = 2 ^ w := Nat.two_pow_pred_mul_two hw
  have signed : 2 * (a % 2 ^ w) < 2 ^ w ↔ a % 2 ^ w < 2 ^ (w - 1) := by omega
  rw [BitVec.toInt_eq_toNat_cond, BitVec.toNat_ofNat]
  simp only [sext, signed]
  push_cast
  rfl
/-- A number of `w` bits is what `w` bits hold of the number that they stand for. -/
theorem word_asInt (uns : Bool) (ha : a < 2 ^ w) : word w (asInt w uns a) = { v := a } := by
  have whole : ((a : Int) % 2 ^ w).toNat = a := by rw [toNat_natCast_emod, Nat.mod_eq_of_lt ha]
  unfold word asInt
  rw [Nat.mod_eq_of_lt ha]
  split
  · rw [whole]
  · rw [Int.sub_emod_right, whole]

theorem subW_eq_word (hb : b < 2 ^ w) : subW w a b = word w ((a : Int) - b) := by
  rw [subW, wrap_eq_word, word, word]
  have shifted : ((a + (2 ^ w - b) : Nat) : Int) = (a - b) + 2 ^ w := by
    rw [Nat.cast_add, Nat.cast_sub hb.le, natCast_two_pow]
    ring
  rw [shifted, Int.add_emod_right]
theorem mulHi_eq_word (uns : Bool) (ha : a < 2 ^ w) (hb : b < 2 ^ w) : mulHi w uns a b = word w (asInt w uns a * asInt w uns b / 2 ^ w) := by
  rw [mulHi, wrapI_eq_word, num_eq_asInt uns ha, num_eq_asInt uns hb]
theorem minW_eq_word (uns : Bool) (ha : a < 2 ^ w) (hb : b < 2 ^ w) : minMaxW w uns false a b = word w (min (asInt w uns a) (asInt w uns b)) := by
  rw [minMaxW, num_eq_asInt uns ha, num_eq_asInt uns hb, min_def, apply_ite (word w), word_asInt uns ha, word_asInt uns hb]
  by_cases le : asInt w uns a ≤ asInt w uns b <;> simp [le]
theorem maxW_eq_word (uns : Bool) (ha : a < 2 ^ w) (hb : b < 2 ^ w) : minMaxW w uns true a b = word w (max (asInt w uns a) (asInt w uns b)) := by
  rw [minMaxW, num_eq_asInt uns ha, num_eq_asInt uns hb, max_def, apply_ite (word w), word_asInt uns ha, word_asInt uns hb]
  by_cases le : asInt w uns a ≤ asInt w uns b <;> simp [le]
theorem absW_eq_word (ha : a < 2 ^ w) : absW w a = word w (asInt w false a).natAbs := by
  rw [absW, wrap_eq_word]
  congr 2
  unfold asInt
  rw [Nat.mod_eq_of_lt ha]
  split
  · next small => simp_all
  · next large =>
    rw [if_neg (by simpa using large)]
    have := natCast_two_pow w
    omega

end

/-! ## Logic and shifts, bit by bit (Table 10-4) -/

section
variable {w a b n : Nat}

/-- A number below 2^w is made of its bits. -/
theorem eq_ofBits {x : Nat} {f : Nat → Bool} (hx : x < 2 ^ w) (bits : ∀ i < w, x.testBit i = f i) : x = ofBits w f := by
  refine Nat.eq_of_testBit_eq fun i => ?_
  rw [testBit_ofBits]
  by_cases inside : i < w
  · simp [inside, bits i inside]
  · simp [inside, Nat.testBit_lt_two_pow (hx.trans_le (Nat.pow_le_pow_right (by decide) (Nat.le_of_not_lt inside)))]

/-- The complement within `w` bits. -/
theorem testBit_complement (hb : b < 2 ^ w) (i : Nat) : (2 ^ w - 1 - b).testBit i = (decide (i < w) && !b.testBit i) := by
  rw [Nat.sub_sub, Nat.add_comm, Nat.testBit_two_pow_sub_succ hb]

theorem and_eq_ofBits (ha : a < 2 ^ w) : a &&& b = ofBits w fun i => a.testBit i && b.testBit i :=
  eq_ofBits (lt_of_le_of_lt Nat.and_le_left ha) fun i _ => Nat.testBit_and a b i
theorem or_eq_ofBits (ha : a < 2 ^ w) (hb : b < 2 ^ w) : a ||| b = ofBits w fun i => a.testBit i || b.testBit i :=
  eq_ofBits (Nat.or_lt_two_pow ha hb) fun i _ => Nat.testBit_or a b i
theorem xor_eq_ofBits (ha : a < 2 ^ w) (hb : b < 2 ^ w) : a ^^^ b = ofBits w fun i => a.testBit i != b.testBit i :=
  eq_ofBits (Nat.xor_lt_two_pow ha hb) fun i _ => Nat.testBit_xor a b i
theorem andn_eq_ofBits (ha : a < 2 ^ w) (hb : b < 2 ^ w) : a &&& (2 ^ w - 1 - b) = ofBits w fun i => a.testBit i && !b.testBit i :=
  eq_ofBits (lt_of_le_of_lt Nat.and_le_left ha) fun i hi => by simp [testBit_complement hb, hi]
theorem not_eq_ofBits (ha : a < 2 ^ w) : 2 ^ w - 1 - a = ofBits w fun i => !a.testBit i :=
  eq_ofBits (by have := Nat.two_pow_pos w; omega) fun i hi => by simp [testBit_complement ha, hi]

theorem shlW_eq_ofBits : shlW w a n = { v := ofBits w fun i => decide (n ≤ i) && a.testBit (i - n) } := by
  unfold shlW wrap
  split
  · next out => exact Res.num_congr (eq_ofBits (Nat.two_pow_pos w) fun i hi => by simp [(hi.trans_le out).not_ge])
  · exact Res.num_congr (eq_ofBits (Nat.mod_lt _ (Nat.two_pow_pos w)) fun i hi => by simp [hi, Nat.testBit_mod_two_pow, Nat.testBit_mul_two_pow])
theorem shrW_eq_ofBits (ha : a < 2 ^ w) : shrW w a n = { v := ofBits w fun i => decide (i + n < w) && a.testBit (i + n) } := by
  unfold shrW
  have top : ∀ i, w ≤ i → a.testBit i = false := fun i hi => Nat.testBit_lt_two_pow (ha.trans_le (Nat.pow_le_pow_right (by decide) hi))
  split
  · next out => exact Res.num_congr (eq_ofBits (Nat.two_pow_pos w) fun i hi => by simp [show ¬ i + n < w by omega])
  · refine Res.num_congr (eq_ofBits ((Nat.div_le_self ..).trans_lt ha) fun i hi => ?_)
    rw [Nat.testBit_div_two_pow]
    by_cases inside : i + n < w
    · simp [inside]
    · simp [inside, top (i + n) (by omega)]
/-- An arithmetic shift, its distance capped at the width, repeats the top bit. -/
theorem sarW_eq_ofBits (hw : 0 < w) : sarW w a n = { v := ofBits w fun i => a.testBit (min (i + n) (w - 1)) } := by
  have shifted : (sext w a / 2 ^ min n w % 2 ^ w).toNat = ((BitVec.ofNat w a).sshiftRight (min n w)).toNat := by
    rw [sext_eq_toInt hw, ← natCast_two_pow, ← natCast_two_pow, ← Int.shiftRight_eq_div_pow, ← BitVec.toInt_sshiftRight]
    generalize (BitVec.ofNat w a).sshiftRight (min n w) = x
    rw [← BitVec.toNat_ofInt, BitVec.ofInt_toInt]
  refine Res.num_congr ?_
  rw [shifted]
  refine eq_ofBits (BitVec.isLt _) fun i hi => ?_
  rw [BitVec.testBit_toNat, BitVec.getLsbD_sshiftRight, BitVec.msb_eq_getLsbD_last]
  simp only [BitVec.getLsbD_ofNat]
  by_cases inside : min n w + i < w
  · have e : min n w + i = min (i + n) (w - 1) := by omega
    simp [hi, e, show min (i + n) (w - 1) < w by omega]
  · have e : w - 1 = min (i + n) (w - 1) := by omega
    simp [hi, inside, ← e, hw]
theorem rotlW_eq_ofBits (hw : 0 < w) (ha : a < 2 ^ w) : rotlW w a n = { v := ofBits w fun i => a.testBit ((i + (w - n % w)) % w) } := by
  have below : n % w < w := Nat.mod_lt _ hw
  unfold rotlW wrap
  dsimp only
  generalize n % w = k at below
  have low : a / 2 ^ (w - k) < 2 ^ k := Nat.div_lt_of_lt_mul (by rwa [← Nat.pow_add, Nat.sub_add_cancel below.le])
  refine Res.num_congr (eq_ofBits (Nat.mod_lt _ (Nat.two_pow_pos w)) fun i hi => ?_)
  rw [Nat.testBit_mod_two_pow, Nat.mul_comm, Nat.testBit_two_pow_mul_add _ low]
  split
  · next inLow => rw [Nat.testBit_div_two_pow, Nat.mod_eq_of_lt (by omega)]; simp [hi]
  · next inHigh =>
    have wraps : (i + (w - k)) % w = i - k := by rw [show i + (w - k) = i - k + w by omega, Nat.add_mod_right, Nat.mod_eq_of_lt (by omega)]
    simp [hi, wraps]

/-! ## Counting bits (Table 10-4) -/

theorem popcW_eq_count : popcW w a = { v := (List.range w).countP fun i => a.testBit i } := Res.num_congr List.countP_eq_length_filter.symm

/-- The indices before the first at which a predicate fails, where it fails at all. -/
theorem length_takeWhile_range {p : Nat → Bool} {k : Nat} (fits : k ≤ w) (before : ∀ i < k, p i = true) (fails : k < w → p k = false) :
    ((List.range w).takeWhile p).length = k := by
  have first : (List.range w).findIdx (fun i => !p i) = k := by
    rcases fits.lt_or_eq with inside | rfl
    · rw [List.findIdx_eq (by simpa using inside)]
      simpa [fails inside] using before
    · simpa [List.findIdx_eq_length_of_false] using List.findIdx_eq_length_of_false (xs := List.range k) (p := fun i => !p i) (by simpa using before)
  rw [List.takeWhile_eq_take_findIdx_not, first, List.length_take, List.length_range, min_eq_left fits]

theorem clzW_eq_length (ha : a < 2 ^ w) : clzW w a = { v := ((List.range w).takeWhile fun i => !a.testBit (w - 1 - i)).length } := by
  refine Res.num_congr (Eq.symm ?_)
  rcases eq_or_ne a 0 with rfl | pos
  · exact length_takeWhile_range le_rfl (fun i _ => by simp) fun h => absurd h (lt_irrefl w)
  · rw [if_neg pos]
    have top : a.log2 < w := (Nat.log2_lt pos).mpr ha
    refine length_takeWhile_range (by omega) (fun i hi => ?_) fun _ => ?_
    · have above : a < 2 ^ (w - 1 - i) := (Nat.log2_lt pos).mp (by omega)
      simp [Nat.testBit_lt_two_pow above]
    · rw [show w - 1 - (w - 1 - a.log2) = a.log2 by omega, Nat.testBit_log2 pos]
      rfl
theorem ctzW_eq_length : ctzW w a = { v := ((List.range w).takeWhile fun i => !a.testBit i).length } := by
  refine Res.num_congr (Eq.symm ?_)
  cases found : (List.range w).find? fun i => a.testBit i with
  | none =>
    have clear := List.find?_eq_none.mp found
    exact length_takeWhile_range le_rfl (by simpa using clear) fun h => absurd h (lt_irrefl w)
  | some k =>
    obtain ⟨here, inside, before⟩ := List.find?_range_eq_some.mp found
    exact length_takeWhile_range (List.mem_range.mp inside).le before fun _ => by simp [here]
theorem brevW_eq_ofBits : brevW w a = { v := ofBits w fun i => a.testBit (w - 1 - i) } := by
  have term : ∀ i, (if a.testBit (w - 1 - i) then 2 ^ i else 0) = (a.testBit (w - 1 - i)).toNat * 2 ^ i := fun i => by
    cases a.testBit (w - 1 - i) <;> simp
  refine Res.num_congr ?_
  rw [ofBits, List.sum_eq_foldl_nat, List.foldl_map]
  simp only [term]

end

/-! ## Fields and permutations (R225) -/

section
variable {a b d : Nat}

theorem ofBits_congr {w : Nat} {f g : Nat → Bool} (same : ∀ i < w, f i = g i) : ofBits w f = ofBits w g :=
  eq_ofBits (ofBits_lt w f) fun i hi => by simp [testBit_ofBits, hi, same i hi]

theorem funsR_eq_ofBits (m : Bool) :
    funsR m d a b = { v := ofBits 32 fun i => (d * 2 ^ 32 + a).testBit (if m then i + b % 32 else i + 32 - b % 32) } := by
  unfold funsR wrap
  dsimp only
  generalize d * 2 ^ 32 + a = x
  have below : b % 32 < 32 := Nat.mod_lt _ (by decide)
  cases m
  · refine Res.num_congr (eq_ofBits (Nat.mod_lt _ (by decide)) fun i hi => ?_)
    rw [Nat.testBit_mod_two_pow, Nat.testBit_div_two_pow, Nat.testBit_mul_two_pow]
    simp [hi, show b % 32 ≤ i + 32 by omega]
  · refine Res.num_congr (eq_ofBits (Nat.mod_lt _ (by decide)) fun i hi => ?_)
    rw [Nat.testBit_mod_two_pow, Nat.testBit_div_two_pow]
    simp [hi]

/-- A field of `l` bits, extended by its top bit to 32 bits. -/
theorem wrapI_sext_eq_ofBits {l : Nat} (hl : 0 < l) (f : Nat) :
    wrapI 32 (sext l f) = { v := ofBits 32 fun i => if i < l then f.testBit i else f.testBit (l - 1) } := by
  have extended : (sext l f % 2 ^ 32).toNat = ((BitVec.ofNat l f).signExtend 32).toNat := by
    rw [sext_eq_toInt hl, ← natCast_two_pow, ← BitVec.toNat_ofInt]
    rfl
  refine Res.num_congr ?_
  rw [extended]
  refine eq_ofBits (BitVec.isLt _) fun i hi => ?_
  rw [BitVec.testBit_toNat, BitVec.getLsbD_signExtend, BitVec.msb_eq_getLsbD_last]
  simp only [BitVec.getLsbD_ofNat, hi, decide_true, Bool.true_and]
  split
  · next inside => simp [inside]
  · simp [hl]
theorem bfxR_eq_ofBits (m : Bool) :
    bfxR m a b =
      let pos := b % 256
      let len := b / 256 % 256
      let l := min (pos + len) 32 - pos
      if len = 0 ∨ 31 < pos then { v := 0 } else { v := ofBits 32 fun i => if i < l then a.testBit (pos + i) else m && a.testBit (pos + l - 1) } := by
  unfold bfxR
  extract_lets pos len l
  by_cases none_ : len = 0 ∨ 31 < pos
  · rw [if_pos none_, if_pos (by simpa using none_)]
  · rw [if_neg none_, if_neg (by simpa using none_)]
    have some_ : 0 < l := by omega
    have field : ∀ i, (a / 2 ^ pos % 2 ^ l).testBit i = (decide (i < l) && a.testBit (pos + i)) := fun i => by
      rw [Nat.testBit_mod_two_pow, Nat.testBit_div_two_pow, Nat.add_comm]
    cases m
    · refine Res.num_congr (eq_ofBits ?_ fun i _ => ?_)
      · exact (Nat.mod_lt _ (Nat.two_pow_pos l)).trans_le (Nat.pow_le_pow_right (by decide) (by omega))
      · rw [field]
        by_cases inside : i < l <;> simp [inside]
    · refine (wrapI_sext_eq_ofBits some_ _).trans (Res.num_congr (ofBits_congr fun i _ => ?_))
      rw [field, field]
      by_cases inside : i < l
      · simp [inside]
      · simp [inside, some_, Nat.add_sub_assoc (Nat.one_le_of_lt some_)]
theorem bfiR_eq_ofBits (hd : d < 2 ^ 32) :
    bfiR d a b =
      let pos := b % 256
      let len := b / 256 % 256
      { v := ofBits 32 fun i => if pos ≤ i ∧ i < pos + len then a.testBit (i - pos) else d.testBit i } := by
  unfold bfiR
  extract_lets pos len l
  split
  · next beyond => exact Res.num_congr (eq_ofBits hd fun i hi => by rw [if_neg (by omega)])
  · next inside =>
    refine Res.num_congr ((ofBits_field hd (by omega)).symm.trans (ofBits_congr fun i hi => ?_))
    simp only [show i < pos + l ↔ i < pos + len by omega]

/-- A number put together from bytes. -/
theorem foldl_bytes_eq_ofBits {y : Nat → Nat} (hy : ∀ i, y i < 256) (n : Nat) :
    (List.range n).foldl (fun r i => r + y i * 2 ^ (8 * i)) 0 = ofBits (8 * n) fun i => (y (i / 8)).testBit (i % 8) := by
  induction n with
  | zero => rfl
  | succ n ih =>
    rw [List.range_succ, List.foldl_append, ih, List.foldl_cons, List.foldl_nil]
    have low := ofBits_lt (8 * n) fun i => (y (i / 8)).testBit (i % 8)
    have high : y n < 2 ^ 8 := hy n
    rw [Nat.add_comm, Nat.mul_comm (y n)]
    refine eq_ofBits ?_ fun i hi => ?_
    · rw [Nat.mul_succ, Nat.pow_add]
      nlinarith
    · rw [Nat.testBit_two_pow_mul_add _ low]
      split
      · next below => simp [testBit_ofBits, below]
      · next top => rw [show i / 8 = n by omega, show i % 8 = i - 8 * n by omega]
/-- The sign of a byte is its bit 7. -/
theorem testBit_seven_of_byte {y : Nat} (hy : y < 256) : y.testBit 7 = decide (128 ≤ y) := by
  rw [Nat.testBit_eq_decide_div_mod_eq, decide_eq_decide]
  omega
theorem permbR_eq_ofBits :
    permbR d a b =
      let x := d * 2 ^ 32 + a
      { v := ofBits 32 fun i =>
          let sel := b / 2 ^ (4 * (i / 8)) % 8
          if b.testBit (4 * (i / 8) + 3) then x.testBit (8 * sel + 7) else x.testBit (8 * sel + i % 8) } := by
  unfold permbR
  extract_lets x
  have bits : ∀ k j, j < 8 → (x / 2 ^ (8 * k) % 256).testBit j = x.testBit (8 * k + j) := fun k j hj => by
    rw [show 256 = 2 ^ 8 from rfl, Nat.testBit_mod_two_pow, Nat.testBit_div_two_pow, Nat.add_comm]
    simp [hj]
  have byte : ∀ k, x / 2 ^ (8 * k) % 256 < 256 := fun k => Nat.mod_lt _ (by decide)
  refine Res.num_congr ((foldl_bytes_eq_ofBits (fun i => ?_) 4).trans (ofBits_congr fun i _ => ?_))
  · have := byte (b / 2 ^ (4 * i) % 8)
    split
    · split <;> decide
    · exact this
  · have inByte : i % 8 < 8 := Nat.mod_lt _ (by decide)
    dsimp only
    generalize b / 2 ^ (4 * (i / 8)) % 8 = k
    split
    · rw [← bits k 7 (by decide), testBit_seven_of_byte (byte k)]
      split
      · next negative => exact ((Nat.testBit_two_pow_sub_one 8 (i % 8)).trans (decide_eq_true inByte)).trans (decide_eq_true negative).symm
      · next positive => exact (Nat.zero_testBit _).trans (decide_eq_false positive).symm
    · exact bits k _ inByte

end

/-! ## Conditions (Table 10-5) -/

theorem toNat_eq_ite (b : Bool) : b.toNat = if b then 1 else 0 := by cases b <;> rfl
/-- The result of a comparison: whether it holds, with its flags. -/
theorem condition_result (r : Bool × Nat) : ({ v := r.1.toNat, fl := r.2 } : Res) = { v := if r.1 then 1 else 0, fl := r.2 } := by rw [toNat_eq_ite]
theorem icond_eq_holds {w a b : Nat} (uns : Bool) (c : Cmp) (ha : a < 2 ^ w) (hb : b < 2 ^ w) :
    icond w uns c a b = holds c (asInt w uns a) (asInt w uns b) := by
  unfold icond
  rw [num_eq_asInt uns ha, num_eq_asInt uns hb]
  cases c <;> rfl

/-! ## The statements -/

section
variable {w : Nat} {e : Ext} (hw : w = 32 ∨ w = 64) (he : e = .zero ∨ e = .sign) {readsD long fflags : Bool}
include hw he

theorem numSpec_two : NumSpec { d := pR w, a := pS w e, b := pS w e, readsD := readsD, fflags := fflags } := ⟨numPos_pR hw, numPos_pS hw he, numPos_pS hw he⟩
theorem numSpec_one : NumSpec { d := pR w, a := pS w e, fflags := fflags } := ⟨numPos_pR hw, numPos_pS hw he, numPos_pU⟩
/-- The second source counts bits, in 32 bits of its own. -/
theorem numSpec_shift : NumSpec { d := pR w, a := pS w e, b := pS, fflags := fflags } := ⟨numPos_pR hw, numPos_pS hw he, numPos_pS (.inl rfl) (.inl rfl)⟩

end

/-- Settles O1: the result of each instruction, bit by bit or as a number, is that of the lemma about it. -/
theorem integerResults : Obligations.IntegerResults := by
  unfold Obligations.IntegerResults
  refine ⟨?iadd, ?isub, ?imul, ?imulh, ?imad, ?imin, ?imax, ?iabs, ?ineg, ?and, ?or, ?xor, ?andn, ?not, ?shl, ?shr, ?sar, ?rotl, ?popc, ?clz, ?ctz, ?brev⟩
  case iadd => exact fun m o => alu_same (fun s => (rfl : _ = execIadd m o s)) fun _ _ _ _ => wrap_eq_word _
  case isub => exact fun m o => alu_fits (fun s => (rfl : _ = execIsub m o s)) (numSpec_two (wd_cases m) (.inr rfl)) fun _ _ _ _ _ _ hb => subW_eq_word hb
  case imul => exact fun m o => alu_same (fun s => (rfl : _ = execImul m o s)) fun _ _ _ _ => wrap_eq_word _
  case imulh => exact fun m o => alu_fits (fun s => (rfl : _ = execImulh m o s)) (numSpec_two (wd_cases m.b64) (sg_cases m.uns)) fun _ _ _ _ _ ha hb => mulHi_eq_word m.uns ha hb
  case imad => exact fun m o => alu_same (fun s => (rfl : _ = execImad m o s)) fun _ _ _ _ => wrap_eq_word _
  case imin => exact fun m o => alu_fits (fun s => (rfl : _ = execImin m o s)) (numSpec_two (wd_cases m.b64) (sg_cases m.uns)) fun _ _ _ _ _ ha hb => minW_eq_word m.uns ha hb
  case imax => exact fun m o => alu_fits (fun s => (rfl : _ = execImax m o s)) (numSpec_two (wd_cases m.b64) (sg_cases m.uns)) fun _ _ _ _ _ ha hb => maxW_eq_word m.uns ha hb
  case iabs => exact fun m o => alu_fits (fun s => (rfl : _ = execIabs m o s)) (numSpec_one (wd_cases m) (.inr rfl)) fun _ _ _ _ _ ha _ => absW_eq_word ha
  case ineg =>
    exact fun m o => alu_fits (fun s => (rfl : _ = execIneg m o s)) (numSpec_one (wd_cases m) (.inr rfl)) fun _ _ _ _ _ ha _ =>
      (subW_eq_word ha).trans (congrArg (word _) (zero_sub _))
  case and => exact fun m o => alu_fits (fun s => (rfl : _ = execAnd m o s)) (numSpec_two (wd_cases m) (.inl rfl)) fun _ _ _ _ _ ha _ => Res.num_congr (and_eq_ofBits ha)
  case or => exact fun m o => alu_fits (fun s => (rfl : _ = execOr m o s)) (numSpec_two (wd_cases m) (.inl rfl)) fun _ _ _ _ _ ha hb => Res.num_congr (or_eq_ofBits ha hb)
  case xor => exact fun m o => alu_fits (fun s => (rfl : _ = execXor m o s)) (numSpec_two (wd_cases m) (.inl rfl)) fun _ _ _ _ _ ha hb => Res.num_congr (xor_eq_ofBits ha hb)
  case andn => exact fun m o => alu_fits (fun s => (rfl : _ = execAndn m o s)) (numSpec_two (wd_cases m) (.inl rfl)) fun _ _ _ _ _ ha hb => Res.num_congr (andn_eq_ofBits ha hb)
  case not => exact fun m o => alu_fits (fun s => (rfl : _ = execNot m o s)) (numSpec_one (wd_cases m) (.inl rfl)) fun _ _ _ _ _ ha _ => Res.num_congr (not_eq_ofBits ha)
  case shl => exact fun m o => alu_same (fun s => (rfl : _ = execShl m o s)) fun _ _ _ _ => shlW_eq_ofBits
  case shr => exact fun m o => alu_fits (fun s => (rfl : _ = execShr m o s)) (numSpec_shift (wd_cases m) (.inl rfl)) fun _ _ _ _ _ ha _ => shrW_eq_ofBits ha
  case sar => exact fun m o => alu_same (fun s => (rfl : _ = execSar m o s)) fun _ _ _ _ => sarW_eq_ofBits (wd_pos m)
  case rotl => exact fun m o => alu_fits (fun s => (rfl : _ = execRotl m o s)) (numSpec_shift (wd_cases m) (.inl rfl)) fun _ _ _ _ _ ha _ => rotlW_eq_ofBits (wd_pos m) ha
  case popc => exact fun m o => alu_same (fun s => (rfl : _ = execPopc m o s)) fun _ _ _ _ => popcW_eq_count
  case clz => exact fun m o => alu_fits (fun s => (rfl : _ = execClz m o s)) ⟨numPos_pR (.inl rfl), numPos_pS (wd_cases m) (.inl rfl), numPos_pU⟩ fun _ _ _ _ _ ha _ => clzW_eq_length ha
  case ctz => exact fun m o => alu_same (fun s => (rfl : _ = execCtz m o s)) fun _ _ _ _ => ctzW_eq_length
  case brev => exact fun m o => alu_same (fun s => (rfl : _ = execBrev m o s)) fun _ _ _ _ => brevW_eq_ofBits

theorem bitFieldResults : BitFieldResults := by
  refine ⟨?funs, ?bfx, ?bfi, ?permb⟩
  case funs => exact fun m o => alu_same (fun s => (rfl : _ = execFuns m o s)) fun _ _ _ _ => funsR_eq_ofBits m
  case bfx => exact fun m o => alu_same (fun s => (rfl : _ = execBfx m o s)) fun _ _ _ _ => bfxR_eq_ofBits m
  case bfi => exact fun o => alu_fits (fun s => (rfl : _ = execBfi o s)) (numSpec_two (.inl rfl) (.inl rfl)) fun _ _ _ _ hd _ _ => bfiR_eq_ofBits hd
  case permb => exact fun o => alu_same (fun s => (rfl : _ = execPermb o s)) fun _ _ _ _ => permbR_eq_ofBits

theorem carryAndSelect : CarryAndSelect := by
  refine ⟨?iaddc, ?isel⟩
  case iaddc =>
    intro m o s gid p
    rw [show exec (.iaddc m o) s = execIaddc m o s from rfl, execIaddc]
    refine issue_next p.1 ?_
    rw [start_ok p]
    simp only [toNat_eq_ite]
    rfl
  case isel =>
    intro m o s gid p
    rw [show exec (.isel m o) s = execIsel m o s from rfl, execIsel, delivered, putResults, List.foldl_map]
    refine issue_next p.1 ?_
    rw [start_ok p]
    refine congrArg (fun g => Except.ok (s.setGrp gid g)) (List.foldl_ext _ _ _ fun g t _ => ?_)
    dsimp only
    rw [ite_self, Group.flag_zero]
    split <;> rfl

/-- Settles O2: the fields bit by bit, the carry and the selection as the two instructions are defined. -/
theorem bitsAndCarries : Obligations.BitsAndCarries := by
  unfold Obligations.BitsAndCarries
  exact ⟨bitFieldResults, carryAndSelect⟩

/-- Settles O3: conditions compare the numbers that the operands stand for; the moves and `LEA` are as they are defined. -/
theorem compareAndMove : Obligations.CompareAndMove := by
  unfold Obligations.CompareAndMove
  refine ⟨?icmp, ?setpInt, ?setpFloat, ?mov, ?movi, ?lea⟩
  case icmp =>
    exact fun m o => alu_fits (fun s => (rfl : _ = execIcmp m o s)) (numSpec_two (wd_cases m.b64) (sg_cases m.uns)) fun _ _ _ _ _ ha hb =>
      congrArg (fun c : Bool => ({ v := if c then 2 ^ wd m.b64 - 1 else 0 } : Res)) (icond_eq_holds m.uns m.cmp ha hb)
  case setpInt =>
    rintro ⟨cls, cmp, uns, b64⟩ o rfl
    have sources := numPos_pS (wd_cases b64) (sg_cases uns)
    exact alu_fits (fun s => (rfl : _ = execSetp _ o s)) ⟨⟨.inl rfl, .inl rfl⟩, sources, sources⟩ fun _ _ _ _ _ ha hb =>
      Res.num_congr ((toNat_eq_ite _).trans (congrArg (fun c : Bool => if c then 1 else 0) (icond_eq_holds uns cmp ha hb)))
  case setpFloat =>
    rintro ⟨cls, cmp, uns, b64⟩ o float
    refine alu_same (fun s => (rfl : _ = execSetp _ o s)) fun _ _ a b => ?_
    cases cls with
    | int => exact absurd rfl float
    | f32 => exact condition_result _
    | f64 => exact condition_result _
  case mov => exact fun m o => alu_same (fun s => (rfl : _ = execMov m o s)) fun _ _ _ _ => rfl
  case movi => exact fun m o => alu_same (fun s => (rfl : _ = execMovi m o s)) fun _ _ _ _ => rfl
  case lea =>
    refine fun m o => alu_same (fun s => (rfl : _ = execLea m o s)) fun _ _ a b => (wrap_eq_word _).trans (congrArg (word _) ?_)
    push_cast
    rfl

end Sys2Proof.Machine
end

section
/-! SUPPORT. What the floating-point, conversion and log instructions and the special functions come to (R195, R198, R220, R228 to R241), and the proofs of the statements on
them. That an SFU instruction captures its operands at issue and its result arrives by a step of its own is the model's choice (log entry 22). -/

namespace Sys2Proof.Machine

open Decode Safety Claims

/-! ## The class of an FP32 value (R230) -/

theorem fclassR_eq {a : Nat} (ha : a < 2 ^ 32) :
    fclassR a =
      let neg := a.testBit 31
      let e := slice a 23 8
      let m := slice a 0 23
      { v :=
          if e = 255 ∧ m.testBit 22 then 2 ^ 9 else if e = 255 ∧ m ≠ 0 then 2 ^ 8 else if e = 255 ∧ !neg then 2 ^ 7 else if e = 255 then 2 ^ 0
          else if e ≠ 0 ∧ !neg then 2 ^ 6 else if e ≠ 0 then 2 ^ 1
          else if m ≠ 0 ∧ !neg then 2 ^ 5 else if m ≠ 0 then 2 ^ 2 else if !neg then 2 ^ 4 else 2 ^ 3 } := by
  have sign : a.testBit 31 = decide (a / 2 ^ 31 = 1) := by
    rw [Nat.testBit_eq_decide_div_mod_eq, decide_eq_decide]
    omega
  have quiet : (a % 2 ^ 23).testBit 22 = decide (a % 2 ^ 23 / 2 ^ 22 = 1) := by
    rw [Nat.testBit_eq_decide_div_mod_eq, decide_eq_decide]
    omega
  have fields : slice a 23 8 = a / 2 ^ 23 % 256 ∧ slice a 0 23 = a % 2 ^ 23 := by simp [slice]
  simp only [fclassR, fields, sign, quiet]
  refine Res.num_congr ?_
  generalize a / 2 ^ 31 = sg
  generalize a / 2 ^ 23 % 256 = e
  generalize a % 2 ^ 23 = m
  by_cases top : e = 255
  · by_cases isInf : m = 0
    · by_cases negative : sg = 1 <;> simp [top, isInf, negative]
    · by_cases isQuiet : m / 2 ^ 22 = 1 <;> simp [top, isInf, isQuiet, -Nat.reducePow]
  · by_cases low : e = 0
    · by_cases isZero : m = 0 <;> by_cases negative : sg = 1 <;> simp [low, isZero, negative]
    · by_cases negative : sg = 1 <;> simp [top, low, negative]

/-! ## The sum of a value and its negative (R229) -/

/-- A nonzero dyadic magnitude is one nonzero fraction, whatever the sign. -/
theorem dyadic_eq_fin {m : Nat} (hm : m ≠ 0) (e : Int) : ∃ n d, n ≠ 0 ∧ ∀ neg, dyadic neg m e = .fin neg n d := by
  by_cases up : 0 ≤ e
  · exact ⟨m * 2 ^ e.toNat, 1, Nat.mul_ne_zero hm (Nat.two_pow_pos _).ne', fun _ => if_pos up⟩
  · exact ⟨m, 2 ^ (-e).toNat, hm, fun _ => if_neg up⟩

/-- The parameters of FP32 (Table 9-6). -/
def f32Par : FPar := ⟨8, 23, 127, .ieee⟩
theorem decElem_f32 (v : Nat) : decElem .f32 v = decFloat f32Par v := rfl

/-- A finite FP32 value is a dyadic number, whose magnitude is zero for the two zeros alone. -/
theorem decFloat_f32_finite {v : Nat} (finite : v / 2 ^ 23 % 2 ^ 8 ≠ 255) :
    decFloat f32Par v = dyadic (v / 2 ^ 31 % 2 = 1)
      (if v / 2 ^ 23 % 2 ^ 8 = 0 then v % 2 ^ 23 else 2 ^ 23 + v % 2 ^ 23) (if v / 2 ^ 23 % 2 ^ 8 = 0 then 1 - 127 - 23 else (v / 2 ^ 23 % 2 ^ 8 : Nat) - 127 - 23) := by
  have noTop : ¬ v / 2 ^ 23 % 2 ^ 8 = 2 ^ 8 - 1 := finite
  simp only [decFloat, f32Par, noTop]
  by_cases subnormal : v / 2 ^ 23 % 2 ^ 8 = 0
  · simp [subnormal, -Nat.reducePow]
    rfl
  · simp [subnormal, -Nat.reducePow]
    rfl

/-- A finite FP32 code that is no zero, and the code with the other sign: one magnitude, two signs. -/
theorem decElem_f32_signs {x : Nat} (hx : x < 2 ^ 31) (finite : slice x 23 8 ≠ 255) (nonzero : x ≠ 0) :
    ∃ n d, n ≠ 0 ∧ decElem .f32 x = .fin false n d ∧ decElem .f32 (x + 2 ^ 31) = .fin true n d := by
  have exponent : (x + 2 ^ 31) / 2 ^ 23 % 2 ^ 8 = x / 2 ^ 23 % 2 ^ 8 := by omega
  have fraction : (x + 2 ^ 31) % 2 ^ 23 = x % 2 ^ 23 := by omega
  have positive : ¬ x / 2 ^ 31 % 2 = 1 := by omega
  have negative : (x + 2 ^ 31) / 2 ^ 31 % 2 = 1 := by omega
  have magnitude : (if x / 2 ^ 23 % 2 ^ 8 = 0 then x % 2 ^ 23 else 2 ^ 23 + x % 2 ^ 23) ≠ 0 := by split <;> omega
  obtain ⟨n, d, hn, signs⟩ := dyadic_eq_fin magnitude (if x / 2 ^ 23 % 2 ^ 8 = 0 then 1 - 127 - 23 else (x / 2 ^ 23 % 2 ^ 8 : Nat) - 127 - 23)
  refine ⟨n, d, hn, ?_, ?_⟩
  · rw [decElem_f32, decFloat_f32_finite finite, signs, decide_eq_false positive]
  · rw [decElem_f32, decFloat_f32_finite (exponent ▸ finite), exponent, fraction, signs, decide_eq_true negative]

/-- The exact sum of a nonzero fraction and its negative is a zero whose sign the rounding mode gives, … -/
theorem addX_opposite (rm : RM) {n : Nat} (d : Nat) (hn : n ≠ 0) (s : Bool) : addX rm (.fin s n d) (.fin (!s) n d) = some (.fin (rm = .rd) 0 1) := by
  have cancels : signedNum s n * d + signedNum (!s) n * d = 0 := by cases s <;> simp [signedNum]
  simp only [addX, cancels, if_true]
  simp [hn]
/-- … and it is delivered as that zero, without a flag. -/
theorem deliver_f32_zero (c : Deliver) (neg : Bool) (d : Nat) : deliver .f32 c (.fin neg 0 d) = (neg.toNat * 2 ^ 31, 0) := by
  simp [deliver, elemOf, fpar, encMag]
theorem farith_add_opposite (rm : RM) (sat s : Bool) {a b n d : Nat} (hn : n ≠ 0) (ha : decElem .f32 a = .fin s n d) (hb : decElem .f32 b = .fin (!s) n d) :
    farith .f32 .add rm sat a b 0 = (if rm = .rd then 0x80000000 else 0, 0) := by
  unfold farith
  rw [ha, hb]
  simp only [addX_opposite rm d hn, deliver_f32_zero]
  cases rm <;> rfl

theorem zeroSumSign : ZeroSumSign := by
  intro rm sat x hx finite nonzero
  obtain ⟨n, d, hn, pos, neg⟩ := decElem_f32_signs hx finite nonzero
  exact ⟨farith_add_opposite rm sat false hn pos neg, farith_add_opposite rm sat true hn neg pos⟩

/-! ## Floating-point results (R228 to R230) -/

theorem floatEffects : FloatEffects := by
  refine ⟨?fadd, ?fsub, ?fmul, ?ffma, ?ffms, ?fnma, ?fmin, ?fmax, ?fcmp, ?fclass, ?frnd, ?fscale, ?fexpo, ?dadd, ?dmul, ?dfma, ?dcmp, ?hadd2, ?hmul2, ?hfma2, ?hmin2, ?hmax2⟩
  case fadd => exact fun m o => alu_is (fun s => (rfl : _ = execFadd m o s)) rfl
  case fsub => exact fun m o => alu_is (fun s => (rfl : _ = execFsub m o s)) rfl
  case fmul => exact fun m o => alu_is (fun s => (rfl : _ = execFmul m o s)) rfl
  case ffma => exact fun m o => alu_is (fun s => (rfl : _ = execFfma m o s)) rfl
  case ffms => exact fun m o => alu_is (fun s => (rfl : _ = execFfms m o s)) rfl
  case fnma => exact fun m o => alu_is (fun s => (rfl : _ = execFnma m o s)) rfl
  case fmin => exact fun o => alu_is (fun s => (rfl : _ = execFmin o s)) rfl
  case fmax => exact fun o => alu_is (fun s => (rfl : _ = execFmax o s)) rfl
  case fcmp => exact fun m o => alu_same (fun s => (rfl : _ = execFcmp m o s)) fun _ _ _ _ => condition_result _
  case fclass => exact fun o => alu_is (fun s => (rfl : _ = execFclass o s)) rfl
  case frnd => exact fun m o => alu_is (fun s => (rfl : _ = execFrnd m o s)) rfl
  case fscale => exact fun m o => alu_is (fun s => (rfl : _ = execFscale m o s)) rfl
  case fexpo => exact fun o => alu_is (fun s => (rfl : _ = execFexpo o s)) rfl
  case dadd => exact fun m o => alu_is (fun s => (rfl : _ = execDadd m o s)) rfl
  case dmul => exact fun m o => alu_is (fun s => (rfl : _ = execDmul m o s)) rfl
  case dfma => exact fun m o => alu_is (fun s => (rfl : _ = execDfma m o s)) rfl
  case dcmp => exact fun m o => alu_same (fun s => (rfl : _ = execDcmp m o s)) fun _ _ _ _ => condition_result _
  case hadd2 => exact fun m o => alu_is (fun s => (rfl : _ = execHadd2 m o s)) rfl
  case hmul2 => exact fun m o => alu_is (fun s => (rfl : _ = execHmul2 m o s)) rfl
  case hfma2 => exact fun m o => alu_is (fun s => (rfl : _ = execHfma2 m o s)) rfl
  case hmin2 => exact fun m o => alu_is (fun s => (rfl : _ = execHmin2 m o s)) rfl
  case hmax2 => exact fun m o => alu_is (fun s => (rfl : _ = execHmax2 m o s)) rfl

theorem fclassOneBit : FclassOneBit := fun o => alu_agrees (fun s => (rfl : _ = execFclass o s)) fun _ _ _ => fclassR_eq (readOp_f32_v_lt ..)

/-- Settles O5: each instruction computes its effect, the class is the rule's, and opposite values cancel. -/
theorem floatResults : Obligations.FloatResults := by
  unfold Obligations.FloatResults
  exact ⟨floatEffects, fclassOneBit, zeroSumSign⟩

/-! ## Conversions and format tags (R231 to R238) -/

theorem exec_unpk2 {o : Args} {s : State} {gid : Nat} (h : s.issuer = some gid)
    (p : Passes (issOf s gid) o.hdr (reads (issOf s gid) (.unpk2 o) o (actingOf s gid o))
      (dstEmpty (issOf s gid) (actingOf s gid o) (if o.hdr.u then 128 else 64) o.d.x)) :
    exec (.unpk2 o) s = .next (delivered s gid o (if o.hdr.u then 128 else 64) ((actingOf s gid o).map fun t =>
      let a := (srcsOf s gid (.unpk2 o) o t).2.1
      (t, { a with v := slice a.v 0 16 + a.v / 2 ^ 16 * 2 ^ (if o.hdr.u then 64 else 32), tag2 := a.tag }, 0))) := by
  rw [show exec (.unpk2 o) s = execUnpk2 o s from rfl, execUnpk2]
  refine issue_next h ?_
  extract_lets w ts
  rw [show runChecks (issOf s gid) o.hdr (reads (issOf s gid) (.unpk2 o) o ts) (dstEmpty (issOf s gid) ts w o.d.x) = none from runChecks_none p]
  have half : w / 2 = if o.hdr.u then 64 else 32 := by
    simp only [w]
    split <;> rfl
  have low : ∀ x, slice x 0 16 = x % 65536 := fun x => by simp [slice]
  simp only [half, low]
  rfl
theorem exec_fmtset {o : Args} {s : State} {gid : Nat} (p : Issues s gid (.fmtset o) o) :
    exec (.fmtset o) s = .next ((s.setGrp gid ((actingOf s gid o).foldl (fun g t =>
      setTag g t o.d.x ((srcsOf s gid (.fmtset o) o t).2.1.v % 32)) (s.grp gid))).retire gid o.hdr false false) := by
  rw [show exec (.fmtset o) s = execFmtset o s from rfl, execFmtset]
  refine issue_next p.1 ?_
  rw [start_ok p]
  rfl
theorem exec_fmtget {o : Args} {s : State} {gid : Nat} (p : Issues s gid (.fmtget o) o) :
    exec (.fmtget o) s = .next (delivered s gid o 32 ((actingOf s gid o).map fun t => (t, { v := (srcsOf s gid (.fmtget o) o t).2.1.tag }, 0))) := by
  rw [show exec (.fmtget o) s = execFmtget o s from rfl, execFmtget]
  refine issue_next p.1 ?_
  rw [start_ok p]
  rfl

/-- Settles O6: each instruction computes its result, or comes to what the lemma about it says. -/
theorem convertResults : Obligations.ConvertResults := by
  unfold Obligations.ConvertResults
  refine ⟨?f2i, ?i2f, ?pack2, ?unpk2, ?scle, ?fmtset, ?fmtget, ?lmul, ?ladd⟩
  case f2i => exact fun m o toInt => alu_same (fun s => (rfl : _ = execCvti m o s)) fun _ _ _ _ => if_pos toInt
  case i2f => exact fun m o toFloat => alu_same (fun s => (rfl : _ = execCvti m o s)) fun _ _ _ _ => if_neg (ne_true_of_eq_false toFloat)
  case pack2 => exact fun o => alu_same (fun s => (rfl : _ = execPack2 o s)) fun _ _ _ _ => by simp [slice]
  case unpk2 => exact fun _ _ _ => exec_unpk2
  case scle => exact fun m o => alu_is (fun s => (rfl : _ = execScle m o s)) rfl
  case fmtset =>
    intro o s gid p
    rw [exec_fmtset p]
    refine congrArg (fun g => Host.Outcome.next ((s.setGrp gid g).retire gid o.hdr false false)) (List.foldl_ext _ _ _ fun g t _ => ?_)
    unfold setTag
    cases o.d.x <;> rfl
  case fmtget => exact fun _ _ _ => exec_fmtget
  case lmul => exact fun m o => alu_is (fun s => (rfl : _ = execLmul m o s)) rfl
  case ladd => exact fun m o => alu_is (fun s => (rfl : _ = execLadd m o s)) rfl

/-! ## Conversions by a tag (R232, R237, R239) -/

theorem cvtTags_none {m : Mods.Cvt} {a : Opd} {as : List (Nat × Val)} {fm : Nat → Fmt} (named : ∀ x ∈ as, x.2.st = .pois ∨ cvtFmt m a x.2 = .ok (fm x.1)) :
    cvtTags m a as = none := by
  refine List.findSome?_eq_none_iff.mpr fun x hx => ?_
  rcases named x hx with pois | ok
  · exact if_pos pois
  · rw [ok]
    exact ite_self _
theorem cvtResults : CvtResults := by
  intro m o s gid fm h c as bOf p named
  rw [show exec (.cvt m o) s = execCvt m o s from rfl, execCvt]
  refine issue_next h ?_
  extract_lets i ts xs bs
  rw [show cvtTags m o.a.x xs = none from cvtTags_none named,
    show runChecks (issOf s gid) o.hdr [⟨2, o.a.ea, .data none, xs⟩, ⟨3, o.b.ea, .data none, bs⟩] (dstEmpty (issOf s gid) ts (fmtWidth m.dst) o.d.x) = none from
      runChecks_none p]
  refine congrArg (fun rs => Except.ok (s.setGrp gid (putResults (s.blk (s.grp gid).blk).tents (s.grp gid) (fmtWidth m.dst) o.d.x rs)))
    (List.map_congr_left fun x hx => ?_)
  by_cases pois : x.2.st = .pois
  · rw [if_pos pois, if_pos pois]
  · rw [if_neg pois, if_neg pois, (named x hx).resolve_left pois]
    rfl

theorem lcvtFmt_some {tag : Nat} {f : Fmt} (low : 16 ≤ tag) (high : tag ≤ 18) (names : fmtOf tag = some f) : lcvtFmt tag = some f :=
  (if_pos (by simp [low, high])).trans names
theorem lcvtTags_none {m : Mods.Lcvt} {o : Args} {s : State} {gid : Nat} {sf : Nat → Fmt}
    (named : ∀ t ∈ actingOf s gid o, let a := (srcsOf s gid (.lcvt m o) o t).2.1; a.st = .pois ∨ (16 ≤ a.tag ∧ a.tag ≤ 18 ∧ fmtOf a.tag = some (sf t))) :
    lcvtTags (issOf s gid) (.lcvt m o) o = none := by
  refine List.findSome?_eq_none_iff.mpr fun t ht => if_neg ?_
  rw [Bool.and_eq_true, decide_eq_true_iff, Option.isNone_iff_eq_none]
  rintro ⟨sound, nameless⟩
  obtain ⟨low, high, names⟩ := (named t ht).resolve_left sound
  exact Option.some_ne_none _ ((lcvtFmt_some low high names).symm.trans nameless)
theorem lcvtResults : LcvtResults := by
  intro m o s gid sf p named
  rw [show exec (.lcvt m o) s = execLcvt m o s from rfl, execLcvt, aluTags]
  refine issue_next p.1 ?_
  rw [lcvtTags_none named, start_ok p]
  refine congrArg (fun rs => Except.ok (s.setGrp gid (putResults (s.blk (s.grp gid).blk).tents (s.grp gid) 32 o.d.x rs))) (List.map_congr_left fun t ht => ?_)
  have source := named t ht
  unfold srcsOf at source ⊢
  dsimp only at source ⊢
  generalize srcs (issOf s gid) (.lcvt m o) o t = x at source ⊢
  by_cases pois : x.2.1.st = .pois
  · rw [if_pos pois]
    cases lcvtFmt x.2.1.tag with
    | none => rfl
    | some f =>
      dsimp only
      rw [if_pos pois]
  · obtain ⟨low, high, names⟩ := source.resolve_left pois
    rw [if_neg pois, lcvtFmt_some low high names]
    dsimp only
    rw [if_neg pois]
    rfl

/-- Settles O7: no acting thread's tag is refused, so each converts its own source. -/
theorem formatConversions : Obligations.FormatConversions := by
  unfold Obligations.FormatConversions
  exact ⟨cvtResults, lcvtResults⟩

/-! ## Special functions (R220, R240, R241) -/

theorem sfu_of_issue {i : Instr} {o : Args} {f : Nat → Nat → Nat × Nat} (runs : ∀ s, exec i s = sfuIssue i o s f) : Claims.Sfu i o (spec i).d.width f := by
  intro s gid d p dest acts
  rw [runs, sfuIssue]
  refine issue_next p.1 ?_
  rw [start_ok p, dest]
  exact if_neg acts
theorem sfuIssues : SfuIssues :=
  ⟨fun o => sfu_of_issue fun s => (rfl : _ = execFrcp o s), fun o => sfu_of_issue fun s => (rfl : _ = execFrsq o s),
    fun o => sfu_of_issue fun s => (rfl : _ = execFsqrt o s), fun o => sfu_of_issue fun s => (rfl : _ = execFex2 o s),
    fun o => sfu_of_issue fun s => (rfl : _ = execFlg2 o s), fun o => sfu_of_issue fun s => (rfl : _ = execFsin o s),
    fun o => sfu_of_issue fun s => (rfl : _ = execFcos o s), fun o => sfu_of_issue fun s => (rfl : _ = execFtwid o s),
    fun o => sfu_of_issue fun s => (rfl : _ = execFtanh o s), fun o => sfu_of_issue fun s => (rfl : _ = execFsigm o s)⟩
theorem sfuArrives : SfuArrives := by
  intro s id x here
  rw [show exec (.sfuResult id) s = execSfuResult id s from rfl, execSfuResult, here]
  exact (apply_ite Host.Outcome.next _ _ _).symm

/-- Settles O8: one issue for the ten functions, and the arrival of their results. -/
theorem specialFunctions : Obligations.SpecialFunctions := by
  unfold Obligations.SpecialFunctions
  exact ⟨sfuIssues, sfuArrives⟩

end Sys2Proof.Machine
end

section
/-! SUPPORT. What the group-data instructions come to (R198, R219, R242 to R247), and the proofs of the statements on them. That every B is checked before the registers that it names
is deduced (log entry 20); that `SRD` takes the register as it stands at issue is the model's choice (log entry 121). -/

namespace Sys2Proof.Machine

open Decode Safety Claims

/-! ## Exchange (R243) -/

theorem xchFrom_eq_xchSource (m : XMode) (n t b : Nat) : xchFrom m n t b = xchSource m n t b := by
  unfold xchFrom xchSource
  extract_lets k
  simp only [Bool.and_eq_true, decide_eq_true_eq]
  rfl

/-- Where no thread's index is EMPTY, the check of the indices finds nothing. -/
theorem checkEmpty_single {c : Iss} {n : Nat} {ea : Bool} {r : Role} {xs : List (Nat × Val)} (full : ∀ x ∈ xs, x.2.st ≠ .empty) :
    checkEmpty c [⟨n, ea, r, xs⟩] = none :=
  checkEmpty_none (List.forall_mem_singleton.mpr full)

theorem exec_xch {m : Mods.Xch} {o : Args} {s : State} {gid w : Nat} {a b : Nat → Val} (h : s.issuer = some gid) (width : w = wd m.b64)
    (indices : b = fun t => readOp (issOf s gid) t (spec (.xch m o)).b o.b.x o.b.x)
    (sources : a = fun t => regAt (s.grp gid) (xchSource m.mode (s.grp gid).ext0 t (b t).v) o.a.x w) (full : ∀ t ∈ actingOf s gid o, (b t).st ≠ .empty)
    (p : Passes (issOf s gid) o.hdr [⟨2, o.a.ea, .data none, (actingOf s gid o).map fun t => (t, a t)⟩] (dstEmpty (issOf s gid) (actingOf s gid o) w o.d.x)) :
    exec (.xch m o) s = .next (delivered s gid o w ((actingOf s gid o).map fun t => (t, { a t with st := (a t).st.join (b t).st }, 0))) := by
  rw [show exec (.xch m o) s = execXch m o s from rfl, execXch]
  subst width
  refine issue_next h ?_
  extract_lets i w ts bs as
  have read : bs = ts.map fun t => (t, b t) := by rw [indices]
  have chosen : as = ts.map fun t => (t, a t) := by
    simp only [as, read, sources, List.map_map, xchFrom_eq_xchSource]
    rfl
  rw [checkEmpty_single (by rw [read]; exact List.forall_mem_map.mpr full), chosen, read, List.zip_map', List.map_map,
    show runChecks (issOf s gid) o.hdr [⟨2, o.a.ea, .data none, ts.map fun t => (t, a t)⟩] (dstEmpty (issOf s gid) ts w o.d.x) = none from runChecks_none p]
  rfl
theorem exec_bcst {m : Bool} {o : Args} {s : State} {gid w : Nat} {a b : Val} (h : s.issuer = some gid) (width : w = wd m)
    (index : b = readOp (issOf s gid) 0 (spec (.bcst m o)).b o.b.x o.b.x)
    (source : a = if b.v % 32 < (s.grp gid).ext0 then regAt (s.grp gid) (b.v % 32) o.a.x w else {}) (full : actingOf s gid o ≠ [] → b.st ≠ .empty)
    (p : Passes (issOf s gid) o.hdr [⟨2, o.a.ea, .data none, (actingOf s gid o).map fun t => (t, a)⟩] (dstEmpty (issOf s gid) (actingOf s gid o) w o.d.x)) :
    exec (.bcst m o) s = .next (delivered s gid o w ((actingOf s gid o).map fun t => (t, { a with st := a.st.join b.st }, 0))) := by
  rw [show exec (.bcst m o) s = execBcst m o s from rfl, execBcst]
  subst width index source
  refine issue_next h ?_
  extract_lets i w ts b k a bs
  rw [show checkEmpty (issOf s gid) [⟨3, o.b.ea, .data none, bs⟩] = none from
      checkEmpty_single (List.forall_mem_map.mpr fun t ht => full (List.ne_nil_of_mem ht)),
    show runChecks (issOf s gid) o.hdr [⟨2, o.a.ea, .data none, ts.map fun t => (t, a)⟩] (dstEmpty (issOf s gid) ts w o.d.x) = none from runChecks_none p]
  rfl

/-- Settles O10: no index is EMPTY, and the registers that they name pass the checks. -/
theorem exchangeResults : Obligations.ExchangeResults := by
  unfold Obligations.ExchangeResults
  exact ⟨fun _ _ _ _ h full p => exec_xch h rfl rfl rfl full p, fun _ _ _ _ h full p => exec_bcst h rfl rfl rfl full p⟩

/-! ## Votes (R244) -/

/-- A sum taken term by term from the left. -/
theorem foldl_add_eq_sum {α : Type} (f : α → Nat) (xs : List α) : xs.foldl (fun n x => n + f x) 0 = (xs.map f).sum := by
  rw [List.sum_eq_foldl_nat, List.foldl_map]

theorem voteR_eq (m : VMode) (ts : List Nat) (p : Nat → Bool) :
    voteR m (ts.map fun t => (t, p t)) = match m with
      | .ballot => (ts.map fun t => if p t then 2 ^ t else 0).sum
      | .any => if ts.any p then 1 else 0
      | .all => if ts.all p then 1 else 0
      | .uni => if ts.all p || ts.all fun t => !p t then 1 else 0 := by
  unfold voteR
  cases m with
  | ballot =>
    rw [← foldl_add_eq_sum, List.foldl_map]
    refine List.foldl_ext _ _ _ fun n t _ => ?_
    by_cases true_ : p t <;> simp [true_]
  | any => simp only [List.any_map, Function.comp_def, toNat_eq_ite]
  | all => simp only [List.all_map, Function.comp_def, toNat_eq_ite]
  | uni => simp only [List.all_map, List.any_map, Function.comp_def, toNat_eq_ite, List.not_any_eq_all_not]

/-! ## Combinations in index order (R245) -/

theorem zip_map_self {α β : Type} (xs : List α) (f : α → β) : xs.zip (xs.map f) = xs.map fun x => (x, f x) := by
  have both := List.zip_map' (l := xs) (f := id) (g := f)
  rwa [List.map_id] at both
/-- What a combination has come to after some values, from a first number and state on. -/
def sumFrom (op : GOp) (ty : GTy) (v : Nat) (st : RState) (xs : List Val) : Val :=
  { v := xs.foldl (fun acc y => (gopStep op ty acc y.v).1) v, tag := gTag ty, tag2 := gTag ty, st := xs.foldl (fun st y => st.join y.st) st }
theorem prefixOf_cons (op : GOp) (ty : GTy) (x : Val) (xs : List Val) : prefixOf op ty (x :: xs) = sumFrom op ty x.v x.st xs := rfl
/-- A step of a combination as the value that it delivers. -/
def combined (ty : GTy) (x : Nat × Nat × RState × Nat) : Val := { v := x.2.1, tag := gTag ty, tag2 := gTag ty, st := x.2.2.1 }

theorem map_scanSums (op : GOp) (ty : GTy) (v : Nat) (st : RState) (xs : List (Nat × Val)) :
    (scanSums op ty v st xs).map (combined ty) = (List.range xs.length).map fun k => sumFrom op ty v st ((xs.map Prod.snd).take (k + 1)) := by
  induction xs generalizing v st with
  | nil => rfl
  | cons x xs ih =>
    rw [List.length_cons, List.range_succ_eq_map, List.map_cons, List.map_map, scanSums, List.map_cons, ih]
    rfl
/-- The steps of a combination deliver the prefixes. -/
theorem map_combine (op : GOp) (ty : GTy) (xs : List (Nat × Val)) :
    (combine op ty xs).map (combined ty) = (List.range xs.length).map fun k => prefixOf op ty ((xs.map Prod.snd).take (k + 1)) := by
  cases xs with
  | nil => rfl
  | cons x xs =>
    rw [List.length_cons, List.range_succ_eq_map, List.map_cons, List.map_map, combine, List.map_cons, map_scanSums]
    rfl
/-- The last step delivers the whole. -/
theorem combine_last (op : GOp) (ty : GTy) {xs : List (Nat × Val)} (nonempty : xs ≠ []) :
    ∃ z, (combine op ty xs).getLast? = some z ∧ combined ty z = prefixOf op ty (xs.map Prod.snd) := by
  have steps := congrArg List.getLast? (map_combine op ty xs)
  have count : xs.length ≠ 0 := by simpa using nonempty
  rw [List.getLast?_map, List.getLast?_map, List.getLast?_range, if_neg count, Option.map_some, Nat.sub_add_cancel (Nat.one_le_iff_ne_zero.mpr count),
    List.take_of_length_le (List.length_map ..).le] at steps
  exact Option.map_eq_some_iff.mp steps

theorem exec_gred {m : Mods.Gred} {o : Args} {s : State} {gid : Nat} {vals : List Val} (p : Issues s gid (.gred m o) o) (acts : actingOf s gid o ≠ [])
    (read : vals = (actingOf s gid o).map fun t => (srcsOf s gid (.gred m o) o t).2.1) :
    exec (.gred m o) s = .next ((s.setGrp gid ((putResults (s.blk (s.grp gid).blk).tents (s.grp gid) 32 o.d.x
      ((actingOf s gid o).map fun t => (t, prefixOf m.op m.ty vals, 0))).flag
        (stepFlags (combine m.op m.ty ((actingOf s gid o).zip vals))))).retire gid o.hdr false false) := by
  rw [show exec (.gred m o) s = execGred m o s from rfl, execGred]
  refine issue_next p.1 ?_
  rw [start_ok p]
  dsimp -zeta only
  extract_lets xs
  have pairs : (actingOf s gid o).zip vals = (actingOf s gid o).map fun t => (t, (srcsOf s gid (.gred m o) o t).2.1) := by
    rw [read, zip_map_self]
  obtain ⟨z, last, whole⟩ := combine_last m.op m.ty (xs := (actingOf s gid o).zip vals) (by rw [pairs]; simpa using acts)
  rw [List.map_snd_zip (by rw [read, List.length_map])] at whole
  have steps : xs = combine m.op m.ty ((actingOf s gid o).zip vals) := by rw [pairs]; rfl
  rw [steps, last, ← whole]
  rfl
/-- What each thread receives of the prefixes: the one before it under `.excl`, the first the identity, and else its own. -/
theorem zip_prefixes (op : GOp) (ty : GTy) (excl : Bool) {ts : List Nat} {vals : List Val} (each : vals.length = ts.length) :
    (ts.zip (if excl then prefixOf op ty [] :: (combine op ty (ts.zip vals)).map (combined ty) else (combine op ty (ts.zip vals)).map (combined ty))) =
      ts.zipIdx.map fun x => (x.1, prefixOf op ty (vals.take (if excl then x.2 else x.2 + 1))) := by
  rw [map_combine, List.map_snd_zip each.le, List.length_zip, each, min_self]
  cases excl
  · refine List.ext_getElem (by simp) fun i _ _ => ?_
    simp
  · refine List.ext_getElem (by simp) fun i _ _ => ?_
    cases i <;> simp

theorem exec_gscn {m : Mods.Gscn} {o : Args} {s : State} {gid : Nat} {vals : List Val} (p : Issues s gid (.gscn m o) o)
    (read : vals = (actingOf s gid o).map fun t => (srcsOf s gid (.gscn m o) o t).2.1) :
    exec (.gscn m o) s = .next ((s.setGrp gid ((putResults (s.blk (s.grp gid).blk).tents (s.grp gid) 32 o.d.x
      ((actingOf s gid o).zipIdx.map fun x => (x.1, prefixOf m.op m.ty (vals.take (if m.excl then x.2 else x.2 + 1)), 0))).flag
        (stepFlags (combine m.op m.ty ((actingOf s gid o).zip vals))))).retire gid o.hdr false false) := by
  rw [show exec (.gscn m o) s = execGscn m o s from rfl, execGscn]
  refine issue_next p.1 ?_
  rw [start_ok p]
  dsimp -zeta only
  extract_lets xs sums received
  have pairs : (actingOf s gid o).zip vals = (actingOf s gid o).map fun t => (t, (srcsOf s gid (.gscn m o) o t).2.1) := by
    rw [read, zip_map_self]
  have steps : xs = combine m.op m.ty ((actingOf s gid o).zip vals) := by rw [pairs]; rfl
  have prefixes := zip_prefixes m.op m.ty m.excl (vals := vals) (ts := actingOf s gid o) (by rw [read, List.length_map])
  rw [← steps] at prefixes ⊢
  rw [show (actingOf s gid o).zip received = _ from prefixes, List.map_map]
  rfl

/-! ## Predicates of a thread as bits (R246) -/

theorem movpPreds_eq (s : State) (gid : Nat) (u : Bool) (t : Nat) :
    movpPreds (issOf s gid) u t = (List.range (if u then 8 else 15)).map fun i => if u then (s.grp gid).upred i else (s.grp gid).pred t i := by
  cases u <;> rfl
/-- A list of bits, the first the least significant, is a number. -/
theorem foldr_bits_eq_ofBits (f : Nat → Bool) (n : Nat) : ((List.range n).map f).foldr (fun b x => 2 * x + b.toNat) 0 = ofBits n f := by
  induction n generalizing f with
  | zero => rfl
  | succ n ih =>
    rw [List.range_succ_eq_map, List.map_cons, List.map_map, List.foldr_cons, ih]
    rw [← Nat.bit_val]
    refine Nat.eq_of_testBit_eq fun i => ?_
    cases i with
    | zero => simp only [Nat.testBit_bit_zero, testBit_ofBits, Nat.zero_lt_succ, decide_true, Bool.true_and]
    | succ i => simp only [Nat.testBit_bit_succ, testBit_ofBits, Nat.add_lt_add_iff_right, Function.comp_apply]

theorem exec_movpPack {o : Args} {s : State} {gid : Nat} (p : Issues s gid (.movpPack o) o) :
    exec (.movpPack o) s = .next (delivered s gid o 32 ((actingOf s gid o).map fun t =>
      let p (i : Nat) : PReg := if o.hdr.u then (s.grp gid).upred i else (s.grp gid).pred t i
      let n := if o.hdr.u then 8 else 15
      (t, { v := ofBits n fun i => (p i).v, st := (List.range n).foldl (fun st i => st.join (p i).st) .full }, 0))) := by
  rw [show exec (.movpPack o) s = execMovpPack o s from rfl, execMovpPack]
  refine issue_next p.1 ?_
  rw [start_ok p]
  refine congrArg (fun rs => Except.ok (s.setGrp gid (putResults (s.blk (s.grp gid).blk).tents (s.grp gid) 32 o.d.x rs))) (List.map_congr_left fun t _ => ?_)
  simp only [movpPreds_eq, ← foldr_bits_eq_ofBits, List.foldr_map, List.foldl_map]

/-- Settles O11: votes, combinations and predicates in the order of the threads. -/
theorem groupDataResults : Obligations.GroupDataResults := by
  unfold Obligations.GroupDataResults
  refine ⟨?vote, ?elect, ?gred, ?gscn, ?pack, ?unpk⟩
  case vote =>
    intro m o s gid p
    rw [show exec (.vote m o) s = execVote m o s from rfl, execVote]
    refine issue_next p.1 ?_
    rw [start_ok p]
    simp only [List.map_map, Function.comp_def, voteR_eq, List.foldl_map]
    cases m <;> rfl
  case elect =>
    intro o s gid p
    rw [show exec (.elect o) s = execElect o s from rfl, execElect]
    refine issue_next p.1 ?_
    rw [start_ok p]
    simp only [toNat_eq_ite, decide_eq_true_eq]
    rfl
  case gred => exact fun _ _ _ _ p acts => exec_gred p acts rfl
  case gscn => exact fun _ _ _ _ p => exec_gscn p rfl
  case pack => exact fun _ _ _ => exec_movpPack
  case unpk =>
    intro o s gid p
    rw [show exec (.movpUnpk o) s = execMovpUnpk o s from rfl, execMovpUnpk]
    refine issue_next p.1 ?_
    rw [start_ok p]
    rfl

/-! ## Siblings (R198, R247) -/

section
variable {i : Instr} {o : Args} {s : State} {gid r k : Nat}

theorem siblingReg_ok (found : sibling (issOf s gid) (srcsOf s gid i o 0).2.1.v = some k) (inside : r < (s.grp k).allot) :
    siblingReg (issOf s gid) i o r = .ok k := by
  rw [siblingReg, show sibling (issOf s gid) (srcs (issOf s gid) i o 0).2.1.v = some k from found]
  exact if_pos inside
theorem sibEmpty_false {g : Group} {ts : List Nat} (full : ∀ t ∈ ts, t < g.ext0 → (g.treg t r).st ≠ .empty) : sibEmpty g r ts = false := by
  rw [sibEmpty, List.any_eq_false]
  intro t ht
  simpa using full t ht
theorem sibEmpty_true {g : Group} {ts : List Nat} {t : Nat} (acts : t ∈ ts) (within : t < g.ext0) (empty : (g.treg t r).st = .empty) : sibEmpty g r ts = true :=
  List.any_eq_true.mpr ⟨t, acts, by simp [within, empty]⟩

end

section
variable {m : BitVec 7} {o : Args} {s : State} {gid k : Nat}

theorem exec_srd {d : Dest} (p : Issues s gid (.srd m o) o) (acts : actingOf s gid o ≠ []) (ready : SiblingReady s gid (.srd m o) o m.toNat k)
    (dest : destOf 32 o.d.x = some d) :
    exec (.srd m o) s = .next (State.retire
      { (s.setGrp gid ((actingOf s gid o).foldl (fun g t => emptyOp g t 32 o.d.x) (s.grp gid))) with
        nextId := s.nextId + 1
        ops := FMap.insert s.ops s.nextId (.srd
          { gid := gid, dst := d, vals := (actingOf s gid o).map fun t => (t, if t < (s.grp k).ext0 then (s.grp k).treg t m.toNat else {}) }) }
      gid o.hdr false false) := by
  obtain ⟨found, inside, full⟩ := ready
  rw [show exec (.srd m o) s = execSrd m o s from rfl, execSrd]
  refine issue_next p.1 ?_
  rw [start_ok p]
  refine (if_neg acts).trans ?_
  rw [siblingReg_ok found inside]
  refine (if_neg (ne_true_of_eq_false (sibEmpty_false full))).trans ?_
  rw [dest]
  rfl
theorem exec_srd_waits {t : Nat} (p : Issues s gid (.srd m o) o) (found : sibling (issOf s gid) (srcsOf s gid (.srd m o) o 0).2.1.v = some k)
    (inside : m.toNat < (s.grp k).allot) (acts : t ∈ actingOf s gid o) (within : t < (s.grp k).ext0) (empty : ((s.grp k).treg t m.toNat).st = .empty) :
    exec (.srd m o) s = .next ((s.stick gid 0).endRun gid) := by
  rw [show exec (.srd m o) s = execSrd m o s from rfl, execSrd]
  refine issue_stop (x := .wait s) p.1 ?_
  rw [start_ok p]
  refine (if_neg (List.ne_nil_of_mem acts)).trans ?_
  rw [siblingReg_ok found inside]
  exact if_pos (sibEmpty_true acts within empty)
theorem exec_swr (p : Issues s gid (.swr m o) o) (acts : actingOf s gid o ≠ []) (ready : SiblingReady s gid (.swr m o) o m.toNat k) :
    exec (.swr m o) s = .next ((s.setGrp k ((actingOf s gid o).foldl (fun g t =>
      if t < (s.grp k).ext0 then g.writeT t m.toNat (srcsOf s gid (.swr m o) o t).2.2 32 else g) (s.grp k))).retire gid o.hdr false false) := by
  obtain ⟨found, inside, full⟩ := ready
  rw [show exec (.swr m o) s = execSwr m o s from rfl, execSwr]
  refine issue_next p.1 ?_
  rw [start_ok p]
  refine (if_neg acts).trans ?_
  rw [siblingReg_ok found inside]
  exact if_neg (ne_true_of_eq_false (sibEmpty_false full))

end

/-- Settles O12: a read and its arrival, the wait for the sibling's register, and a write. -/
theorem siblingAccess : Obligations.SiblingAccess := by
  unfold Obligations.SiblingAccess
  refine ⟨?reads, ?arrives, ?waits, ?writes⟩
  case reads => exact fun _ _ _ _ _ _ p acts ready dest => exec_srd p acts ready dest
  case arrives =>
    intro s id e x here
    rw [show exec (.loadReturn ⟨id, e⟩) s = .next (s.loadReturn id e) from rfl, State.loadReturn, here]
    rfl
  case waits => exact fun _ _ _ _ _ _ p found inside acts within empty => exec_srd_waits p found inside acts within empty
  case writes => exact fun _ _ _ _ _ p acts ready => exec_swr p acts ready

end Sys2Proof.Machine
end

section
/-! SUPPORT. What the control instructions come to (R32, R33, R248 to R253), and the proofs of the statements on them. -/

namespace Sys2Proof.Machine

open Decode Safety Claims

/-! ## Branches (R249) -/

section
variable {s : State} {gid : Nat} {o : Args} {m : BMode} {b : Bool}

/-- A branch is taken, is not taken, or diverges, as the threads whose guard holds decide. -/
theorem taken_eq (m : BMode) :
    taken (issOf s gid) o.hdr.u m (actingOf s gid o) = match decides s gid o m with
      | some b => .ok b
      | none => .error (.trap { cause := .divergent }) := by
  unfold taken decides branches
  rw [show (issOf s gid).g = s.grp gid from rfl]
  generalize actingOf s gid o = ts
  have noThread : ts ≠ [] ↔ ts.length ≠ 0 := by simp
  have thread : ts = [] ↔ ts.length = 0 := by simp
  simp only [noThread, thread]
  cases o.hdr.u
  · cases m with
    | any => rfl
    | all => rfl
    | uni => dsimp only [Bool.false_eq_true, if_false]; split_ifs <;> rfl
  · rfl

theorem taken_some (decided : decides s gid o m = some b) : taken (issOf s gid) o.hdr.u m (actingOf s gid o) = .ok b := by
  rw [taken_eq, decided]
theorem taken_none (diverges : decides s gid o m = none) :
    taken (issOf s gid) o.hdr.u m (actingOf s gid o) = .error (.trap { cause := .divergent }) := by
  rw [taken_eq, diverges]

theorem target_eq_away (disp : Nat) : target (issOf s gid) disp = away s gid disp := by
  refine BitVec.eq_of_toNat_eq ?_
  simp [target, away, issOf]

theorem exec_bra (p : Issues s gid (.bra m o) o) (decided : decides s gid o m = some b) :
    exec (.bra m o) s = .next (jumped s gid o false { s.grp gid with
      pc := if b then away s gid (groupA s gid (.bra m o) o).v else nextPc s gid }) := by
  rw [show exec (.bra m o) s = execBra m o s from rfl, execBra]
  refine issue_next p.1 ?_
  rw [start_ok p]
  dsimp only
  rw [taken_some decided, target_eq_away]
  cases b <;> rfl

theorem exec_call (p : Issues s gid (.call m o) o) (decided : decides s gid o m = some b) :
    exec (.call m o) s = .next (jumped s gid o false (if b then
        { writeOp (s.grp gid) 0 32 o.d.x { v := (nextPc s gid).toNat } with pc := away s gid (groupA s gid (.call m o) o).v }
      else { s.grp gid with pc := nextPc s gid })) := by
  rw [show exec (.call m o) s = execCall m o s from rfl, execCall]
  refine issue_next p.1 ?_
  rw [start_ok p]
  dsimp only
  rw [taken_some decided]
  cases b
  · rfl
  · dsimp only
    rw [target_eq_away]
    rfl

theorem exec_ret (p : Issues s gid (.ret o) o) (decided : decides s gid o .uni = some b) :
    exec (.ret o) s = .next (jumped s gid o false { s.grp gid with
      pc := if b then BitVec.ofNat 32 (groupA s gid (.ret o) { o with b := o.a }).v else nextPc s gid }) := by
  rw [show exec (.ret o) s = execRet o s from rfl, execRet]
  refine issue_next p.1 ?_
  rw [start_ok p]
  dsimp only
  rw [taken_some decided]
  cases b <;> rfl

theorem exec_bra_divergent (p : Issues s gid (.bra m o) o) (diverges : decides s gid o m = none) :
    exec (.bra m o) s = .next (s.takeTrap gid { cause := .divergent }) := by
  rw [show exec (.bra m o) s = execBra m o s from rfl, execBra]
  refine issue_stop (x := .trap { cause := .divergent }) p.1 ?_
  rw [start_ok p]
  dsimp only
  rw [taken_none diverges]

theorem exec_call_divergent (p : Issues s gid (.call m o) o) (diverges : decides s gid o m = none) :
    exec (.call m o) s = .next (s.takeTrap gid { cause := .divergent }) := by
  rw [show exec (.call m o) s = execCall m o s from rfl, execCall]
  refine issue_stop (x := .trap { cause := .divergent }) p.1 ?_
  rw [start_ok p]
  dsimp only
  rw [taken_none diverges]

theorem exec_ret_divergent (p : Issues s gid (.ret o) o) (diverges : decides s gid o .uni = none) :
    exec (.ret o) s = .next (s.takeTrap gid { cause := .divergent }) := by
  rw [show exec (.ret o) s = execRet o s from rfl, execRet]
  refine issue_stop (x := .trap { cause := .divergent }) p.1 ?_
  rw [start_ok p]
  dsimp only
  rw [taken_none diverges]

/-- `BRAI` takes its target from the first acting thread. -/
theorem exec_brai_taken {tgt : W32} (p : Issues s gid (.brai o) o) (decided : decides s gid o .uni = some true) (acts : actingOf s gid o ≠ [])
    (same : ∀ t ∈ actingOf s gid o, (srcsOf s gid (.brai o) o t).2.2.v = (srcsOf s gid (.brai o) o ((actingOf s gid o).headD 0)).2.2.v)
    (goal : tgt = BitVec.ofNat 32 ((srcsOf s gid (.brai o) o ((actingOf s gid o).headD 0)).2.1.v +
      (srcsOf s gid (.brai o) o ((actingOf s gid o).headD 0)).2.2.v)) :
    exec (.brai o) s = .next (jumped s gid o false { s.grp gid with pc := tgt }) := by
  rw [show exec (.brai o) s = execBrai o s from rfl, execBrai]
  refine issue_next p.1 ?_
  rw [start_ok p]
  dsimp only
  rw [taken_some decided]
  dsimp only
  generalize actingOf s gid o = ts at acts same goal
  cases ts with
  | nil => exact absurd rfl acts
  | cons t rest =>
    have noOther : (rest.any fun t' => decide ((srcs (issOf s gid) (.brai o) o t').2.2.v ≠ (srcs (issOf s gid) (.brai o) o t).2.2.v)) = false :=
      List.any_eq_false.mpr fun t' mem => by
        rw [decide_eq_true_iff, not_not]
        exact same t' (List.mem_cons_of_mem t mem)
    rw [goal]
    dsimp only
    rw [noOther]
    rfl

theorem exec_brai_not_taken (p : Issues s gid (.brai o) o)
    (decided : decides s gid o .uni = some false ∨ (decides s gid o .uni = some true ∧ actingOf s gid o = [])) :
    exec (.brai o) s = .next (jumped s gid o false { s.grp gid with pc := nextPc s gid }) := by
  rw [show exec (.brai o) s = execBrai o s from rfl, execBrai]
  refine issue_next p.1 ?_
  rw [start_ok p]
  dsimp only
  obtain no | ⟨yes, none_⟩ := decided
  · rw [taken_some no]; rfl
  · rw [taken_some yes, none_]; rfl

/-- Where B differs among the acting threads, some thread differs from the first. -/
theorem exec_brai_differs {t t' : Nat} (p : Issues s gid (.brai o) o) (decided : decides s gid o .uni = some true)
    (acts : t ∈ actingOf s gid o) (acts' : t' ∈ actingOf s gid o)
    (differ : (srcsOf s gid (.brai o) o t).2.2.v ≠ (srcsOf s gid (.brai o) o t').2.2.v) :
    exec (.brai o) s = .next (s.takeTrap gid { cause := .divergent }) := by
  rw [show exec (.brai o) s = execBrai o s from rfl, execBrai]
  refine issue_stop (x := .trap { cause := .divergent }) p.1 ?_
  rw [start_ok p]
  dsimp only
  rw [taken_some decided]
  dsimp only
  generalize actingOf s gid o = ts at acts acts'
  cases ts with
  | nil => exact absurd acts List.not_mem_nil
  | cons t0 rest =>
    have someOther : (rest.any fun u => decide ((srcs (issOf s gid) (.brai o) o u).2.2.v ≠ (srcs (issOf s gid) (.brai o) o t0).2.2.v)) = true := by
      by_contra noOther
      have like (u : Nat) (mem : u ∈ t0 :: rest) : (srcsOf s gid (.brai o) o u).2.2.v = (srcsOf s gid (.brai o) o t0).2.2.v := by
        obtain rfl | later := List.mem_cons.mp mem
        · rfl
        · exact not_not.mp fun other => List.any_eq_false.mp (Bool.eq_false_of_not_eq_true noOther) u later (decide_eq_true other)
      exact differ ((like t acts).trans (like t' acts').symm)
    dsimp only
    rw [someOther]
    rfl

theorem exec_brai_divergent (p : Issues s gid (.brai o) o) (diverges : decides s gid o .uni = none) :
    exec (.brai o) s = .next (s.takeTrap gid { cause := .divergent }) := by
  rw [show exec (.brai o) s = execBrai o s from rfl, execBrai]
  refine issue_stop (x := .trap { cause := .divergent }) p.1 ?_
  rw [start_ok p]
  dsimp only
  rw [taken_none diverges]

end

/-- Settles O13, from what the guard decides and, for `BRAI`, the first acting thread. -/
theorem branches : Obligations.Branches :=
  ⟨⟨fun _ _ _ _ _ => exec_bra, fun _ _ _ _ _ => exec_call, fun _ _ _ _ => exec_ret,
      fun _ _ _ _ => exec_bra_divergent, fun _ _ _ _ => exec_call_divergent, fun _ _ _ => exec_ret_divergent⟩,
    ⟨fun _ _ _ _ => exec_brai_taken, fun _ _ _ => exec_brai_not_taken, fun _ _ _ _ _ => exec_brai_differs, fun _ _ _ => exec_brai_divergent⟩⟩

/-! ## The mask stack (R250, R251) -/

section
variable {s : State} {gid : Nat} {o : Args}

/-- The sum of the powers of two of the chosen threads among the first `n` has exactly their bits. -/
theorem foldl_bits_eq_ofBits (n : Nat) (act pred : Nat → Bool) :
    (((List.range n).filter act).foldl (fun m t => if pred t then m + 2 ^ t else m) 0) = ofBits n fun t => act t && pred t := by
  induction n with
  | zero => rfl
  | succ n ih =>
    rw [List.range_succ, List.filter_append, List.foldl_append, ih, ofBits_succ]
    cases here : act n <;> cases holds : pred n <;> simp [here, holds, Nat.add_comm]

/-- The model's predicate mask is the one that the rule names. -/
theorem predMask_eq {p : BitVec 32} (isMask : IsPredMask s gid o p) : predMask (issOf s gid) o.a.x = p := by
  refine BitVec.eq_of_getLsbD_eq fun t inMask => ?_
  have bits : predMask (issOf s gid) o.a.x = BitVec.ofNat 32 (ofBits (s.grp gid).ext0 fun t => (s.grp gid).act.getLsbD t && predA s gid o t) :=
    congrArg _ (foldl_bits_eq_ofBits _ _ _)
  rw [bits, isMask, BitVec.getLsbD_ofNat, testBit_ofBits, ← Bool.and_assoc, ← Bool.and_assoc, decide_eq_true inMask, Bool.true_and]
  simp only [activeThreads, List.mem_filter, List.mem_range, Bool.decide_and, Bool.decide_eq_true]

/-- A control instruction of the mask stack that is to issue, where its effect is a state. -/
theorem maskOp_next {i : Instr} {f : Iss → Except Stop State} {g : Group} (p : Issues s gid i o)
    (e : f (issOf s gid) = .ok (s.setGrp gid g)) : maskOp i o s f = .next (jumped s gid o false g) := by
  rw [maskOp]
  refine issue_next p.1 ?_
  rw [start_ok p]
  exact e

/-- The same where it meets the trap "mask stack". -/
theorem maskOp_trap {i : Instr} {f : Iss → Except Stop State} {d : Nat} (p : Issues s gid i o)
    (e : f (issOf s gid) = .error (maskTrap d)) : maskOp i o s f = .next (s.takeTrap gid { cause := .maskStack, detail := d }) := by
  rw [maskOp]
  refine issue_stop (x := maskTrap d) p.1 ?_
  rw [start_ok p]
  exact e

theorem exec_ifp {p : BitVec 32} (i : Issues s gid (.ifp o) o) (isMask : IsPredMask s gid o p) (room : (s.grp gid).stack.length < 16) :
    exec (.ifp o) s = .next (jumped s gid o false { s.grp gid with
      pc := nextPc s gid, act := (s.grp gid).act &&& p
      stack := ⟨.ifThen, (s.grp gid).act, (s.grp gid).act &&& p, away s gid (groupB s gid (.ifp o) o).v, 0⟩ :: (s.grp gid).stack }) := by
  rw [show exec (.ifp o) s = execIfp o s from rfl, execIfp]
  refine maskOp_next i ?_
  dsimp only
  rw [if_neg (show ¬ 16 ≤ (issOf s gid).g.stack.length from room.not_ge), predMask_eq isMask, target_eq_away]
  rfl

theorem exec_ifp_full (i : Issues s gid (.ifp o) o) (full : 16 ≤ (s.grp gid).stack.length) :
    exec (.ifp o) s = .next (s.takeTrap gid { cause := .maskStack, detail := 1 }) := by
  rw [show exec (.ifp o) s = execIfp o s from rfl, execIfp]
  refine maskOp_trap i ?_
  dsimp only
  rw [if_pos (show 16 ≤ (issOf s gid).g.stack.length from full)]

section
variable {e : MEntry} {rest : List MEntry}

theorem exec_elsp (i : Issues s gid (.elsp o) o) (top : (s.grp gid).stack = e :: rest) (isIf : e.kind = .ifThen) :
    exec (.elsp o) s = .next (jumped s gid o false { s.grp gid with
      pc := nextPc s gid, act := e.m &&& ~~~e.t
      stack := { e with kind := .ifElse, res := away s gid (groupB s gid (.elsp o) o).v } :: rest }) := by
  rw [show exec (.elsp o) s = execElsp o s from rfl, execElsp]
  refine maskOp_next i ?_
  dsimp only
  rw [show (issOf s gid).g.stack = e :: rest from top]
  dsimp only
  rw [if_pos isIf, target_eq_away]
  rfl

theorem exec_elsp_misplaced (i : Issues s gid (.elsp o) o) (noIf : ∀ e ∈ (s.grp gid).stack.head?, e.kind ≠ .ifThen) :
    exec (.elsp o) s = .next (s.takeTrap gid { cause := .maskStack, detail := 2 }) := by
  rw [show exec (.elsp o) s = execElsp o s from rfl, execElsp]
  refine maskOp_trap i ?_
  dsimp only
  cases top : (issOf s gid).g.stack with
  | nil => rfl
  | cons e rest => exact if_neg (noIf e (congrArg List.head? top))

theorem exec_endp (i : Issues s gid (.endp o) o) (top : (s.grp gid).stack = e :: rest) (isIf : e.kind ≠ .loop) :
    exec (.endp o) s = .next (jumped s gid o false { s.grp gid with pc := nextPc s gid, act := e.m, stack := rest }) := by
  rw [show exec (.endp o) s = execEndp o s from rfl, execEndp]
  refine maskOp_next i ?_
  dsimp only
  rw [show (issOf s gid).g.stack = e :: rest from top]
  exact if_neg isIf

theorem exec_endp_misplaced (i : Issues s gid (.endp o) o) (noIf : ∀ e ∈ (s.grp gid).stack.head?, e.kind = .loop) :
    exec (.endp o) s = .next (s.takeTrap gid { cause := .maskStack, detail := 2 }) := by
  rw [show exec (.endp o) s = execEndp o s from rfl, execEndp]
  refine maskOp_trap i ?_
  dsimp only
  cases top : (issOf s gid).g.stack with
  | nil => rfl
  | cons e rest => exact if_pos (noIf e (congrArg List.head? top))

theorem exec_loopb (i : Issues s gid (.loopb o) o) (room : (s.grp gid).stack.length < 16) :
    exec (.loopb o) s = .next (jumped s gid o false { s.grp gid with
      pc := nextPc s gid
      stack := ⟨.loop, (s.grp gid).act, 0, away s gid (groupB s gid (.loopb o) o).v, nextPc s gid⟩ :: (s.grp gid).stack }) := by
  rw [show exec (.loopb o) s = execLoopb o s from rfl, execLoopb]
  refine maskOp_next i ?_
  dsimp only
  rw [if_neg (show ¬ 16 ≤ (issOf s gid).g.stack.length from room.not_ge), target_eq_away]
  rfl

/-- Threads that leave a loop leave the IF entries above its entry. -/
theorem leaveLoop_append (x : BitVec 32) (cont : Bool) (ifs : List MEntry) (isLoop : e.kind = .loop) (noLoop : ∀ y ∈ ifs, y.kind ≠ .loop) :
    leaveLoop x cont (ifs ++ e :: rest) =
      some ((ifs.map fun y => { y with m := y.m &&& ~~~x, t := y.t &&& ~~~x }) ++ (if cont then { e with t := e.t ||| x } else e) :: rest) := by
  induction ifs with
  | nil => exact if_pos isLoop
  | cons y ifs ih =>
    obtain ⟨here, above⟩ := List.forall_mem_cons.mp noLoop
    rw [List.cons_append, leaveLoop, if_neg here, ih above]
    rfl

variable {p : BitVec 32} {ifs : List MEntry}

theorem exec_brkp (i : Issues s gid (.brkp o) o) (isMask : IsPredMask s gid o p) (stack : (s.grp gid).stack = ifs ++ e :: rest)
    (isLoop : e.kind = .loop) (noLoop : ∀ x ∈ ifs, x.kind ≠ .loop) :
    exec (.brkp o) s = .next (jumped s gid o false { s.grp gid with
      pc := nextPc s gid, act := (s.grp gid).act &&& ~~~((s.grp gid).act &&& p)
      stack := (ifs.map fun x => { x with m := x.m &&& ~~~((s.grp gid).act &&& p), t := x.t &&& ~~~((s.grp gid).act &&& p) }) ++ e :: rest }) := by
  rw [show exec (.brkp o) s = execBrkp o s from rfl, execBrkp]
  refine maskOp_next i ?_
  dsimp only
  rw [predMask_eq isMask, show (issOf s gid).g.stack = ifs ++ e :: rest from stack, leaveLoop_append _ false ifs isLoop noLoop]
  rfl

theorem exec_contp (i : Issues s gid (.contp o) o) (isMask : IsPredMask s gid o p) (stack : (s.grp gid).stack = ifs ++ e :: rest)
    (isLoop : e.kind = .loop) (noLoop : ∀ x ∈ ifs, x.kind ≠ .loop) :
    exec (.contp o) s = .next (jumped s gid o false { s.grp gid with
      pc := nextPc s gid, act := (s.grp gid).act &&& ~~~((s.grp gid).act &&& p)
      stack := (ifs.map fun x => { x with m := x.m &&& ~~~((s.grp gid).act &&& p), t := x.t &&& ~~~((s.grp gid).act &&& p) }) ++
        { e with t := e.t ||| ((s.grp gid).act &&& p) } :: rest }) := by
  rw [show exec (.contp o) s = execContp o s from rfl, execContp]
  refine maskOp_next i ?_
  dsimp only
  rw [predMask_eq isMask, show (issOf s gid).g.stack = ifs ++ e :: rest from stack, leaveLoop_append _ true ifs isLoop noLoop]
  rfl

/-- `LOOPE` goes round while some thread stays. -/
theorem exec_loope (i : Issues s gid (.loope o) o) (isMask : IsPredMask s gid o p) (top : (s.grp gid).stack = e :: rest) (isLoop : e.kind = .loop) :
    exec (.loope o) s = .next (jumped s gid o false (
      if ((s.grp gid).act &&& p) ||| e.t = 0 then { s.grp gid with pc := nextPc s gid, act := e.m, stack := rest }
      else { s.grp gid with pc := e.body, act := ((s.grp gid).act &&& p) ||| e.t, stack := { e with t := 0 } :: rest })) := by
  rw [show exec (.loope o) s = execLoope o s from rfl, execLoope]
  refine maskOp_next i ?_
  dsimp only
  rw [predMask_eq isMask, show (issOf s gid).g.stack = e :: rest from top]
  dsimp only
  rw [if_neg (not_not.mpr isLoop), ite_not]
  by_cases stay : ((s.grp gid).act &&& p) ||| e.t = 0
  · rw [if_pos stay]
    exact if_pos stay
  · rw [if_neg stay]
    exact if_neg stay

end

end

/-- Settles O14, from the branches of each instruction and what `leaveLoop` does to the entries above the loop's. -/
theorem maskStack : Obligations.MaskStack :=
  ⟨⟨fun _ _ _ _ => exec_ifp, fun _ _ _ _ _ => exec_elsp, fun _ _ _ _ _ => exec_endp,
      fun _ _ _ => exec_ifp_full, fun _ _ _ => exec_elsp_misplaced, fun _ _ _ => exec_endp_misplaced⟩,
    ⟨fun _ _ _ => exec_loopb, fun _ _ _ _ _ _ _ => exec_brkp, fun _ _ _ _ _ _ _ => exec_contp, fun _ _ _ _ _ _ => exec_loope⟩⟩

/-! ## The end of a group and regions (R252, R253) -/

section
variable {s : State} {gid : Nat} {o : Args}

/-- EXIT where no thread acts. -/
theorem exec_exit_idle (p : Issues s gid (.exit o) o) (idle : actingOf s gid o = []) : exec (.exit o) s = .next (s.retire gid o.hdr false true) := by
  rw [show exec (.exit o) s = execExit o s from rfl, execExit]
  refine issue_next p.1 ?_
  rw [start_ok p]
  exact if_pos idle

/-- A uniform EXIT ends its group. -/
theorem exec_exit_uniform (p : Issues s gid (.exit o) o) (acts : actingOf s gid o ≠ []) (uniform : o.hdr.u = true) :
    exec (.exit o) s = .next ((s.endGroup gid).retire gid o.hdr false true) := by
  rw [show exec (.exit o) s = execExit o s from rfl, execExit]
  refine issue_next p.1 ?_
  rw [start_ok p]
  dsimp only
  rw [if_neg acts]
  exact if_pos uniform

/-- The mask of some threads has exactly their bits. -/
theorem getLsbD_maskOf (ts : List Nat) (t : Nat) : (maskOf ts).getLsbD t = decide (t < 32 ∧ t ∈ ts) := by
  have bits (m : Nat) : (ts.foldl (fun m t => m ||| 2 ^ t) m).testBit t = (m.testBit t || decide (t ∈ ts)) := by
    induction ts generalizing m with
    | nil => simp
    | cons u ts ih => rw [List.foldl_cons, ih, Nat.testBit_or, Nat.testBit_two_pow]; simp [Bool.or_assoc, eq_comm]
  rw [maskOf, BitVec.getLsbD_ofNat, bits, Nat.zero_testBit, Bool.false_or, Bool.decide_and]

theorem maskOf_eq {ts : List Nat} {e : BitVec 32} (bits : ∀ t, e.getLsbD t = decide (t < 32 ∧ t ∈ ts)) : maskOf ts = e :=
  BitVec.eq_of_getLsbD_eq fun t _ => (getLsbD_maskOf ts t).trans (bits t).symm

/-- A group has no thread in any mask, as the model tests it. -/
theorem noThread_iff (act : BitVec 32) (stack : List MEntry) :
    (decide (act = 0) && stack.all fun x => decide (x.m = 0) && decide (x.t = 0)) = true ↔ act = 0 ∧ ∀ x ∈ stack, x.m = 0 ∧ x.t = 0 := by
  simp only [Bool.and_eq_true, decide_eq_true_iff, List.all_eq_true]

/-- EXIT takes its threads out of every mask; a group left with no thread in any of them has ended. -/
theorem exec_exit {e : BitVec 32} (p : Issues s gid (.exit o) o) (acts : actingOf s gid o ≠ []) (plain : o.hdr.u = false)
    (bits : ∀ t, e.getLsbD t = decide (t < 32 ∧ t ∈ actingOf s gid o)) :
    exec (.exit o) s = .next (
      let g : Group := { s.grp gid with
        act := (s.grp gid).act &&& ~~~e, stack := (s.grp gid).stack.map fun x => { x with m := x.m &&& ~~~e, t := x.t &&& ~~~e } }
      (if g.act = 0 ∧ ∀ x ∈ g.stack, x.m = 0 ∧ x.t = 0 then s.endGroup gid else s.setGrp gid g).retire gid o.hdr false true) := by
  rw [show exec (.exit o) s = execExit o s from rfl, execExit]
  refine issue_next p.1 ?_
  rw [start_ok p]
  dsimp only
  rw [if_neg acts, plain, if_neg Bool.false_ne_true, maskOf_eq bits]
  simp only [noThread_iff, show (issOf s gid).g = s.grp gid from rfl]
  split_ifs <;> rfl

theorem exec_nop (p : Issues s gid (.nop o) o) : exec (.nop o) s = .next (s.retire gid o.hdr false false) := by
  rw [show exec (.nop o) s = execNop o s from rfl, execNop]
  refine issue_next p.1 ?_
  rw [start_ok p]
  rfl

theorem exec_regn (p : Issues s gid (.regn o) o) :
    exec (.regn o) s = .next ((if actingOf s gid o = [] then s else s.setGrp gid { s.grp gid with
      ent := (s.grp gid).ent + 1, rgn := some ⟨nextPc s gid, (s.grp gid).act, (s.grp gid).stack⟩ }).retire gid o.hdr false false) := by
  rw [show exec (.regn o) s = execRegn o s from rfl, execRegn]
  refine issue_next p.1 ?_
  rw [start_ok p]
  dsimp only
  by_cases idle : actingOf s gid o = []
  · rw [if_pos idle, if_pos idle]
    rfl
  · rw [if_neg idle, if_neg idle]
    rfl

theorem exec_yield (p : Issues s gid (.yield o) o) :
    exec (.yield o) s =
      .next ((if actingOf s gid o = [] then s else s.setGrp gid { s.grp gid with yielded := true }).retire gid o.hdr false true) := by
  rw [show exec (.yield o) s = execYield o s from rfl, execYield]
  refine issue_next p.1 ?_
  rw [start_ok p]
  dsimp only
  by_cases idle : actingOf s gid o = []
  · rw [if_pos idle, if_pos idle]
    rfl
  · rw [if_neg idle, if_neg idle]
    rfl

end

/-- Settles O15, from the branches of each instruction and the bits of the mask of the acting threads. -/
theorem endAndRegion : Obligations.EndAndRegion :=
  ⟨fun _ _ _ => exec_exit_idle, fun _ _ _ => exec_exit_uniform, fun _ _ _ _ => exec_exit, fun _ _ _ => exec_nop,
    fun _ _ _ => exec_regn, fun _ _ _ => exec_yield⟩

end Sys2Proof.Machine
end

section
/-! SUPPORT. Why the statement on register frames fails: the last instruction of a group (R33, R250, R252). -/

namespace Sys2Proof.Machine

open Decode Safety Claims

/-- The sum of w2 and w4 into w1 with the U bit: it acts once for its group, whatever the mask. -/
def uniformSumArgs : Args := ⟨{ u := true }, ⟨.w 1, false⟩, ⟨.w 2, false⟩, ⟨.w 4, false⟩⟩

theorem uniformSum_issues : Issues endingState 0 (.iadd false uniformSumArgs) uniformSumArgs := by
  unfold Issues Passes Taken
  decide +kernel

/-- `endingState` holds a group whose mask and mask stack are empty: it has ended after its sum, and the hang count of its context has started again in this
cycle (R250, R252). -/
theorem uniformSum_ends : ∃ t, exec (.iadd false uniformSumArgs) endingState = .next t ∧ t.ctxs ≠ endingState.ctxs := by
  have ends : (match exec (.iadd false uniformSumArgs) endingState with | .next t => decide (t.ctxs ≠ endingState.ctxs) | _ => false) = true := by
    decide +kernel
  split at ends
  · next t runs => exact ⟨t, runs, of_decide_eq_true ends⟩
  · cases ends

/-- Refutes O56: nothing in its premises keeps a uniform instruction from being the last one of its group, whose mask is empty: the end of the group then
changes its context. -/
theorem not_registerFrames : ¬ Obligations.RegisterFrames := by
  unfold Obligations.RegisterFrames
  intro frames
  obtain ⟨t, runs, changed⟩ := uniformSum_ends
  obtain ⟨-, -, -, same, -⟩ := frames (.iadd false uniformSumArgs) uniformSumArgs endingState 0 t rfl (.inl rfl) uniformSum_issues runs
  exact changed same

end Sys2Proof.Machine
end

section
/-! SUPPORT. What the instructions that give the matrix engine work come to at issue (R163, R203, R254, R258, R259, R261, R265, R270, R273, R275), and the proof of the statement on
them. Which requests the rate buckets count is deduced (log entry 131). -/

namespace Sys2Proof.Machine

open Decode Safety Claims

/-! ## What holds an engine operation at issue (R163, R203, R259, R261, R312) -/

theorem bf_eq_slice {w : Nat} (x : BitVec w) (lo n : Nat) : bf x lo n = slice x.toNat lo n := by rw [bf, Nat.shiftRight_eq_div_pow, slice]

section
variable {s : State} {gid field k : Nat} {i : Instr} {o : Args}

theorem groupIssues_acts (p : GroupIssues s gid i o field k) : ¬ (actingOf s gid o).isEmpty = true := by
  obtain ⟨-, acts, -⟩ := p
  exact isEmpty_actingOf acts

/-- The checks of a matrix instruction that passes them give its acting threads. -/
theorem tileStart_ok (p : GroupIssues s gid i o field k) : tileStart (issOf s gid) i o field k = .ok (actingOf s gid o) := by
  obtain ⟨-, -, passes⟩ := p
  unfold tileStart
  simp only [← actingOf.eq_1, runChecks_none passes]

theorem wAbove_issOf (x : Opd) (j : Nat) : wAbove (issOf s gid) x j = above s gid x j := rfl

theorem not_opLimit (few : s.openOps gid < 16) (count : (s.grp gid).mma < 255) : ¬ (issOf s gid).opLimit = true := by
  have below : ¬ 16 ≤ s.openOps gid := Nat.not_le.mpr few
  have counted : counterFull (s.grp gid).mma = false := counterFull_eq_false count
  simp [Iss.opLimit, issOf, below, counted]

theorem not_opHeld (room : EngineRoom s gid) : ¬ ((issOf s gid).opLimit || (issOf s gid).bucketsFull || s.acquiring gid) = true := by
  obtain ⟨few, count, buckets, free⟩ := room
  have bucketsFree : (issOf s gid).bucketsFull = false := decide_eq_false (Nat.not_le.mpr buckets)
  simp [not_opLimit few count, bucketsFree, free]

theorem writeHeld_none {p : W64} (ok : WriteOk s gid p) (room : EngineRoom s gid) : (issOf s gid).writeHeld p = none := by
  have past : ¬ (!privateSpace p && (s.blk (s.grp gid).blk).rl) = true := by
    obtain isPrivate | committed := ok
    · simp [isPrivate]
    · simp [committed]
  exact (if_neg past).trans (if_neg (not_opHeld room))

/-- Scale rows are an operand of a format that has blocks (R265). -/
theorem scaleOperand_ok {blocks : Bool} {p : W64} {rb rows st : Nat} {loc : Option Nat} (given : blocks = true → OperandOk s gid p .read rb rows st 1 0 loc)
    (absent : blocks = false → loc = none) :
    ∃ r : Int × Int, (if blocks then opRange (issOf s gid) p .read rb rows st 1 0 else .ok (none, 0, -1)) = .ok (loc, r.1, r.2) ∧
      opPromise (issOf s gid) p r = .ok () := by
  cases blocks with
  | true => exact given rfl
  | false => exact ⟨(0, -1), by rw [absent rfl]; rfl, rfl⟩

end

/-! ## Multiplications (R265, R266, R272) -/

theorem getD_map_range {f : Nat → W64} {j n : Nat} (h : j < n) : (((List.range n).map f)[j]?).getD 0 = f j := by
  rw [List.getElem?_map, List.getElem?_range h]
  rfl

/-- The operation of a multiplication of K elements whose descriptor is `d`. -/
def mulOp (dist : Bool) (m : Mods.Mma) (K : Nat) (d : List W64) : MOp := if dist then .dist m K d else .mma m K d

section
variable {s : State} {gid : Nat} {i : Instr} {o : Args} {m : Mods.Mma} {dist : Bool}

/-- A multiplication that passes its checks is queued, … -/
theorem mulIssue_ok {t : Tile} {l : Nat → Option Nat} (ok : MulOk s gid i o m t l) :
    mulIssue (issOf s gid) i o m dist = .ok ((issOf s gid).enqueue s (mulOp dist m ((srcsOf s gid i o 0).2.2.v % 2 ^ 32) ((List.range 5).map (above s gid o.a.x)))
      (tileNo o.d.x) t ((List.range 4).map l) (above s gid o.a.x 0)) := by
  obtain ⟨p, bound, kind, mode, chunk, block, ⟨a, rowsA, promiseA⟩, ⟨b, rowsB, promiseB⟩, scales, noScales, room⟩ := ok
  obtain ⟨x, scaleA, promiseX⟩ := scaleOperand_ok (fun h => (scales h).1) fun h => (noScales h).1
  obtain ⟨y, scaleB, promiseY⟩ := scaleOperand_ok (fun h => (scales h).2) fun h => (noScales h).2
  have fits : ¬ (decide (t.pair ≠ m.pair) || decide (t.mode ≠ mmaMode m)) = true := by simp [kind, mode, mmaMode]
  have shape : ¬ (decide ((srcsOf s gid i o 0).2.2.v % 2 ^ 32 % chunkOf m.fmt ≠ 0) ||
      (isBlock m.fmt && decide ((srcsOf s gid i o 0).2.2.v % 2 ^ 32 % blockSize m.fmt ≠ 0))) = true := by
    simpa [chunk, -Nat.reducePow] using block
  have prompt : firstStop (fun z : W64 × Int × Int => opPromise (issOf s gid) z.1 z.2)
      [(above s gid o.a.x 0, a), (above s gid o.a.x 1, b), (above s gid o.a.x 3, x), (above s gid o.a.x 4, y)] = .ok () :=
    firstStop_ok (by simp [promiseA, promiseB, promiseX, promiseY])
  rw [mulIssue, tileStart_ok p]
  refine (if_neg (groupIssues_acts p)).trans ?_
  rw [show (issOf s gid).g.tileAt (tileNo o.d.x) = some t from bound]
  refine (if_neg fits).trans ((if_neg shape).trans ?_)
  rw [← bf_eq_slice] at rowsA rowsB
  simp (disch := decide) only [wAbove_issOf, getD_map_range, rowBytes, ← srcsOf.eq_1, rowsA, rowsB, scaleA, scaleB]
  rw [prompt]
  exact if_neg (not_opHeld room)

variable (p : GroupIssues s gid i o 2 (if isBlock m.fmt then 5 else 3))
include p

/-- … one whose tile is unbound, or of another kind or mode, traps, … -/
theorem mulIssue_tileMode (misfit : ∀ t, TileAt s gid o.d.x t → t.pair ≠ m.pair ∨ t.mode ≠ mmaMode m) : mulIssue (issOf s gid) i o m dist = .error tileTrap := by
  rw [mulIssue, tileStart_ok p]
  refine (if_neg (groupIssues_acts p)).trans ?_
  cases bound : (issOf s gid).g.tileAt (tileNo o.d.x) with
  | none => rfl
  | some t => exact if_pos (by simpa using misfit t bound)

/-- … and so does one whose K is no multiple of the chunk. -/
theorem mulIssue_shape {t : Tile} (bound : TileAt s gid o.d.x t) (kind : t.pair = m.pair) (mode : t.mode = mmaMode m)
    (ragged : (srcsOf s gid i o 0).2.2.v % 2 ^ 32 % chunkOf m.fmt ≠ 0) : mulIssue (issOf s gid) i o m dist = .error (.trap { cause := .matrixShape }) := by
  have fits : ¬ (decide (t.pair ≠ m.pair) || decide (t.mode ≠ mmaMode m)) = true := by simp [kind, mode]
  rw [mulIssue, tileStart_ok p]
  refine (if_neg (groupIssues_acts p)).trans ?_
  rw [show (issOf s gid).g.tileAt (tileNo o.d.x) = some t from bound]
  exact (if_neg fits).trans (if_pos (by rw [Bool.or_eq_true]; exact .inl (decide_eq_true ragged)))

end

theorem exec_mma (m : Mods.Mma) (o : Args) (s : State) : exec (.mma m o) s = issue o s false false fun c => mulIssue c (.mma m o) o m false := rfl
theorem exec_mdist (m : Mods.Mma) (o : Args) (s : State) : exec (.mdist m o) s = issue o s false false fun c => mulIssue c (.mdist m o) o m true := rfl

theorem multiplyIssues : MultiplyIssues := by
  refine ⟨?mma, ?mdist, ?tileMode, ?shape⟩
  case mma =>
    intro m o s gid t l ok
    have ⟨⟨issuer, _⟩, _⟩ := ok
    rw [exec_mma, issue_next issuer (mulIssue_ok ok)]
    rfl
  case mdist =>
    intro m o s gid t l ok
    have ⟨⟨issuer, _⟩, _⟩ := ok
    rw [exec_mdist, issue_next issuer (mulIssue_ok ok)]
    rfl
  case tileMode =>
    intro m o s gid p misfit
    rw [exec_mma, issue_stop p.1 (mulIssue_tileMode p misfit)]
    rfl
  case shape =>
    intro m o s gid t p bound kind mode ragged
    rw [exec_mma, issue_stop p.1 (mulIssue_shape p bound kind mode ragged)]
    rfl

/-! ## Stores, drains and rankings (R261, R270, R273, R275) -/

section
variable {s : State} {gid : Nat} {o : Args} {t : Tile} {loc : Option Nat} {p rs : W64}

theorem exec_mstt (q : GroupIssues s gid (.mstt o) o 2 2) (bound : TileAt s gid o.d.x t) (room : EngineRoom s gid)
    (pointer : p = above s gid o.a.x 0) (strides : rs = above s gid o.a.x 1)
    (rows : OperandOk s gid p .write (imageRow t.mode t.cols) 64 (slice rs.toNat 0 32) (imagePlanes t.mode) (slice rs.toNat 32 32) loc) (ok : WriteOk s gid p) :
    exec (.mstt o) s = .next (queued s s gid o (.stt p rs) (tileNo o.d.x) t [loc] p) := by
  obtain ⟨r, range, promise⟩ := rows
  rw [show exec (.mstt o) s = execMstt o s from rfl, execMstt]
  refine issue_next q.1 ?_
  rw [tileStart_ok q]
  refine (if_neg (groupIssues_acts q)).trans ?_
  rw [show (issOf s gid).g.tileAt (tileNo o.d.x) = some t from bound]
  simp only [wAbove_issOf, ← pointer, ← strides, bf_eq_slice, range, promise, writeHeld_none ok room]
  rfl

theorem exec_mdrn {m : Mods.Drn} (q : GroupIssues s gid (.mdrn m o) o 2 2) (bound : TileAt s gid o.d.x t) (mode : m.mode = .diff ∨ t.mode = .welt)
    (room : EngineRoom s gid) (pointer : p = above s gid o.a.x 0) (strides : rs = above s gid o.a.x 1)
    (rows : OperandOk s gid p .write (t.cols * elemBits m.dst / 8) 64 (slice rs.toNat 0 32) (if m.mode = .pn then 2 else 1) (slice rs.toNat 32 32) loc)
    (ok : WriteOk s gid p) :
    exec (.mdrn m o) s = .next (queued s s gid o (.drn m p rs (FMap.getD (s.grp gid).ag (tileNo o.b.x) 0)) (tileNo o.d.x) t [loc] p) := by
  obtain ⟨r, range, promise⟩ := rows
  have drains : ¬ (decide (m.mode ≠ .diff) && decide (t.mode ≠ .welt)) = true := by simpa [or_iff_not_imp_left] using mode
  rw [show exec (.mdrn m o) s = execMdrn m o s from rfl, execMdrn]
  refine issue_next q.1 ?_
  rw [tileStart_ok q]
  refine (if_neg (groupIssues_acts q)).trans ?_
  rw [show (issOf s gid).g.tileAt (tileNo o.d.x) = some t from bound]
  refine (if_neg drains).trans ?_
  simp only [wAbove_issOf, ← pointer, ← strides, bf_eq_slice, range, promise, writeHeld_none ok room]
  rfl

/-- A tile that is unbound, or has one plane, drains in mode `.diff` alone. -/
theorem exec_mdrn_tileMode {m : Mods.Drn} (q : GroupIssues s gid (.mdrn m o) o 2 2) (misfit : ∀ t, TileAt s gid o.d.x t → m.mode ≠ .diff ∧ t.mode ≠ .welt) :
    exec (.mdrn m o) s = .next (s.takeTrap gid { cause := .tileMode }) := by
  rw [show exec (.mdrn m o) s = execMdrn m o s from rfl, execMdrn]
  refine issue_stop (x := tileTrap) q.1 ?_
  rw [tileStart_ok q]
  refine (if_neg (groupIssues_acts q)).trans ?_
  cases bound : (issOf s gid).g.tileAt (tileNo o.d.x) with
  | none => rfl
  | some t => exact if_pos (by simpa using misfit t bound)

theorem exec_mtopkMem {m : Mods.TopkMem} (q : GroupIssues s gid (.mtopkMem m o) o 3 2) (bound : TileAt s gid o.a.x t) (ranks : t.mode ≠ .welt)
    (room : EngineRoom s gid) (pointer : p = above s gid o.b.x 0) (strides : rs = above s gid o.b.x 1)
    (rows : OperandOk s gid p .write (16 + (if m.val then 4 * (m.k1.toNat + 1) else 0)) 64 (slice rs.toNat 0 32) 1 0 loc) (ok : WriteOk s gid p) :
    exec (.mtopkMem m o) s = .next (queued s s gid o (.topkMem m p rs) (tileNo o.a.x) t [loc] p) := by
  obtain ⟨r, range, promise⟩ := rows
  rw [show exec (.mtopkMem m o) s = execMtopkMem m o s from rfl, execMtopkMem]
  refine issue_next q.1 ?_
  rw [tileStart_ok q]
  refine (if_neg (groupIssues_acts q)).trans ?_
  rw [show (issOf s gid).g.tileAt (tileNo o.a.x) = some t from bound]
  refine (if_neg ranks).trans ?_
  simp only [wAbove_issOf, ← pointer, ← strides, bf_eq_slice, range, promise, writeHeld_none ok room]
  rfl

/-- The register form reads no register, and waits for those that it writes. -/
theorem exec_mtopkReg {m : Mods.TopkReg} {d : Fin 128} {n : Nat} (issuer : s.issuer = some gid) (acts : actingOf s gid o ≠ []) (dest : o.d.x = .t d)
    (bound : TileAt s gid o.a.x t) (ranks : t.mode ≠ .welt) (few : s.openOps gid < 16) (count : (s.grp gid).mma < 255)
    (regs : n = (m.k1.toNat + 4) / 4 + (if m.val then m.k1.toNat + 1 else 0)) (passes : Passes (issOf s gid) o.hdr [] false)
    (full : ∀ t ∈ actingOf s gid o, ∀ j < n, ((s.grp gid).treg t (d.val + j)).st ≠ .empty) :
    exec (.mtopkReg m o) s = .next ((((issOf s gid).enqueue s (.topkReg m d.val (actingOf s gid o)) (tileNo o.a.x) t [] 0).onGrp gid fun g =>
      (actingOf s gid o).foldl (fun g t => (List.range n).foldl (fun g j => g.setT t (d.val + j) { g.treg t (d.val + j) with st := .empty }) g) g).retire
        gid o.hdr false false) := by
  have free : ((actingOf s gid o).any fun t => (List.range n).any fun j => decide (((s.grp gid).treg t (d.val + j)).st = .empty)) = false := by
    simpa using full
  rw [show exec (.mtopkReg m o) s = execMtopkReg m o s from rfl, execMtopkReg]
  refine issue_next issuer ?_
  rw [dest, ← regs, ← actingOf.eq_1]
  extract_lets n d ts busy
  rw [show runChecks (issOf s gid) o.hdr [] busy = none from runChecks_none (by rwa [show busy = false from free])]
  refine (if_neg (isEmpty_actingOf acts)).trans ?_
  rw [show (issOf s gid).g.tileAt (tileNo o.a.x) = some t from bound]
  exact (if_neg ranks).trans (if_neg (not_opLimit few count))

end

theorem drainIssues : DrainIssues := by
  refine ⟨?store, ?drain, ?rankMem, ?rankReg, ?tileMode⟩
  case store => exact fun o s gid t loc q bound room rows ok => exec_mstt q bound room rfl rfl rows ok
  case drain => exact fun m o s gid t loc q bound mode room rows ok => exec_mdrn q bound mode room rfl rfl rows ok
  case rankMem => exact fun m o s gid t loc q bound ranks room rows ok => exec_mtopkMem q bound ranks room rfl rfl rows ok
  case rankReg => exact fun m o s gid t d issuer acts dest bound ranks few count passes full => exec_mtopkReg issuer acts dest bound ranks few count rfl passes full
  case tileMode => exact fun m o s gid q misfit => exec_mdrn_tileMode q misfit

/-- Settles O27: each clause is a branch of its instruction. -/
theorem engineWork : Obligations.EngineWork := by
  unfold Obligations.EngineWork
  exact ⟨multiplyIssues, drainIssues⟩

end Sys2Proof.Machine
end

section
/-! SUPPORT. What the instructions that name tiles, hold agreement registers and close batches come to (R254, R262, R269, R273 to R277), and the proof of the statement on them.
That the reserved bits of an agreement register stay zero (log entry 49) and that a failed operation is reported once (log entry 48) are deduced. -/

namespace Sys2Proof.Machine

open Decode Safety Claims

/-! ## Names of tiles (R254, R274, R275) -/

section
variable {s : State} {gid n : Nat} {m : TMode}

theorem bindOne_bound {g : Group} {t : Tile} (here : FMap.find? s.groups gid = some g) (bound : FMap.find? g.tiles n = some t) :
    (issOf s gid).bindOne n m = some (s.onGrp gid fun g => { g with tiles := FMap.insert g.tiles n { t with mode := m } }, { t with mode := m }) := by
  have grp : s.grp gid = g := by rw [State.grp, FMap.getD, here]; rfl
  rw [Iss.bindOne, show (issOf s gid).g.tileAt n = some t from (congrArg (·.tileAt n) grp).trans bound]
  rfl

/-- The lowest free slot of a core. -/
theorem State.freeSlot_eq {u k : Nat} (inside : k < 8) (free : FMap.find? (s.core u).slots k = none) (lowest : ∀ j, j < k → FMap.find? (s.core u).slots j ≠ none) :
    s.freeSlot u = some k := by
  refine List.find?_range_eq_some.mpr ⟨by rw [free]; rfl, List.mem_range.mpr inside, fun j below => ?_⟩
  simpa [Option.isSome_iff_ne_none] using lowest j below

theorem bindOne_free {k : Nat} (unbound : FMap.find? (s.grp gid).tiles n = none) (slot : s.freeSlot (unitOfGid gid) = some k) :
    (issOf s gid).bindOne n m = some ((s.setPlane (unitOfGid gid) k { own := gid }).onGrp gid fun g => { g with tiles := FMap.insert g.tiles n ⟨m, false, k, 0⟩ },
      ⟨m, false, k, 0⟩) := by
  rw [Iss.bindOne, show (issOf s gid).g.tileAt n = none from unbound, show (issOf s gid).s.freeSlot (unitOfGid (issOf s gid).gid) = some k from slot]
  rfl

variable {s' : State} {o : Args} {t : Tile}

theorem exec_mzero (q : Issues s gid (.mzero m o) o) (acts : actingOf s gid o ≠ []) (few : s.openOps gid < 16) (count : (s.grp gid).mma < 255)
    (bind : (issOf s gid).bindOne (tileNo o.d.x) m = some (s', t)) : exec (.mzero m o) s = .next (queued s s' gid o (.zero m) (tileNo o.d.x) t [] 0) := by
  rw [show exec (.mzero m o) s = execMzero m o s from rfl, execMzero]
  refine issue_next q.1 ?_
  rw [start_ok q]
  refine (if_neg (isEmpty_actingOf acts)).trans ((if_neg (not_opLimit few count)).trans ?_)
  rw [bind]

theorem exec_mldt {p rs : W64} {cols : Nat} {loc : Option Nat} (q : GroupIssues s gid (.mldt m o) o 2 2) (room : EngineRoom s gid)
    (pointer : p = above s gid o.a.x 0) (strides : rs = above s gid o.a.x 1) (width : cols = (issOf s gid).loadCols (tileNo o.d.x))
    (rows : OperandOk s gid p .read (imageRow m cols) 64 (slice rs.toNat 0 32) (imagePlanes m) (slice rs.toNat 32 32) loc)
    (bind : (issOf s gid).bindOne (tileNo o.d.x) m = some (s', t)) :
    exec (.mldt m o) s = .next (queued s s' gid o (.ldt m p rs) (tileNo o.d.x) t [loc] p) := by
  obtain ⟨r, range, promise⟩ := rows
  rw [show exec (.mldt m o) s = execMldt m o s from rfl, execMldt]
  refine issue_next q.1 ?_
  rw [tileStart_ok q]
  refine (if_neg (groupIssues_acts q)).trans ?_
  simp only [wAbove_issOf, ← pointer, ← strides, ← width, bf_eq_slice, range, promise]
  refine (if_neg (not_opHeld room)).trans ?_
  rw [bind]

/-- The state in which a name has been given up for a pair tile (R274). -/
def unboundTile (s : State) (gid n : Nat) : State :=
  match FMap.find? (s.grp gid).tiles n with
  | some t => (s.releaseSlots (unitOfGid gid) t).onGrp gid fun g => { g with tiles := FMap.erase g.tiles n }
  | none => s

theorem exec_mpair {k j : Nat} (q : Issues s gid (.mpair m o) o) (acts : actingOf s gid o ≠ []) (even : unitOfGid gid % 2 = 0) (few : s.openOps gid < 16)
    (count : (s.grp gid).mma < 255) (own : (unboundTile s gid (tileNo o.d.x)).freeSlot (unitOfGid gid) = some k)
    (other : (unboundTile s gid (tileNo o.d.x)).freeSlot (unitOfGid gid + 1) = some j) :
    exec (.mpair m o) s = .next (queued s ((((unboundTile s gid (tileNo o.d.x)).setPlane (unitOfGid gid) k { own := gid }).setPlane (unitOfGid gid + 1) j
      { own := gid }).onGrp gid fun g => { g with tiles := FMap.insert g.tiles (tileNo o.d.x) ⟨m, true, k, j⟩ })
      gid o (.pair m) (tileNo o.d.x) ⟨m, true, k, j⟩ [] 0) := by
  have leads : ¬ unitOfGid gid % 2 = 1 := by omega
  rw [show exec (.mpair m o) s = execMpair m o s from rfl, execMpair]
  refine issue_next q.1 ?_
  rw [start_ok q]
  refine (if_neg (isEmpty_actingOf acts)).trans ((if_neg leads).trans ((if_neg (not_opLimit few count)).trans ?_))
  extract_lets s1
  rw [show s1 = unboundTile s gid (tileNo o.d.x) from rfl, show State.freeSlot _ (unitOfGid (issOf s gid).gid) = _ from own,
    show State.freeSlot _ (unitOfGid (issOf s gid).gid + 1) = _ from other]
  rfl

theorem exec_mpair_odd (q : Issues s gid (.mpair m o) o) (acts : actingOf s gid o ≠ []) (odd : unitOfGid gid % 2 = 1) :
    exec (.mpair m o) s = .next (s.takeTrap gid { cause := .pair }) := by
  rw [show exec (.mpair m o) s = execMpair m o s from rfl, execMpair]
  refine issue_stop (x := .trap { cause := .pair }) q.1 ?_
  rw [start_ok q]
  exact (if_neg (isEmpty_actingOf acts)).trans (if_pos odd)

theorem exec_mfree {all : Bool} (q : Issues s gid (.mfree all o) o) (acts : actingOf s gid o ≠ []) :
    exec (.mfree all o) s = .next (((((s.grp gid).tiles.filter fun x => all || decide (x.1 = tileNo o.d.x)).foldl
      (fun s' x => s'.releaseSlots (unitOfGid gid) x.2) s).onGrp gid fun g =>
        { g with tiles := FMap.keep g.tiles fun k _ => !(all || decide (k = tileNo o.d.x)) }).retire gid o.hdr false false) := by
  rw [show exec (.mfree all o) s = execMfree all o s from rfl, execMfree]
  refine issue_next q.1 ?_
  rw [start_ok q]
  exact if_neg (isEmpty_actingOf acts)

end

theorem tileNames : TileNames := by
  refine ⟨?zero, ?load, ?pair, ?odd, ?free, ?bound, ?unbound⟩
  case zero => exact fun m o s gid s' t q acts few count bind => exec_mzero q acts few count bind
  case load => exact fun m o s gid s' t loc q room rows bind => exec_mldt q room rfl rfl rfl rows bind
  case pair => exact fun m o s gid k j q acts even few count own other => exec_mpair q acts even few count own other
  case odd => exact fun m o s gid q acts odd => exec_mpair_odd q acts odd
  case free => exact fun all o s gid q acts => exec_mfree q acts
  case bound => exact fun s gid n m g t here bound => bindOne_bound here bound
  case unbound => exact fun s gid n m k unbound inside free lowest => bindOne_free unbound (State.freeSlot_eq inside free lowest)

/-! ## Agreement registers and `%prog` (R269, R276) -/

/-- The fraction of a dyadic number: whether it is zero, and whether it exceeds 1. -/
theorem dyadic_fraction (m : Nat) (e : Int) :
    ∃ n d, (∀ neg, dyadic neg m e = .fin neg n d) ∧ (n = 0 ↔ m = 0) ∧ (d < n ↔ 2 ^ (-e).toNat < m * 2 ^ e.toNat) := by
  by_cases up : 0 ≤ e
  · refine ⟨m * 2 ^ e.toNat, 1, fun _ => if_pos up, by simp, ?_⟩
    rw [Int.toNat_of_nonpos (Int.neg_nonpos_of_nonneg up), pow_zero]
  · refine ⟨m, 2 ^ (-e).toNat, fun _ => if_neg up, Iff.rfl, ?_⟩
    rw [Int.toNat_of_nonpos (not_le.mp up).le, pow_zero, Nat.mul_one]

/-- A normal FP32 number exceeds 1 where its exponent and fraction, read as one number, exceed those of 1. -/
theorem normal_exceeds_one {x f : Nat} (normal : x ≠ 0) (hf : f < 2 ^ 23) :
    2 ^ (-((x : Int) - 127 - 23)).toNat < (2 ^ 23 + f) * 2 ^ ((x : Int) - 127 - 23).toNat ↔ 0x3F800000 < x * 2 ^ 23 + f := by
  rcases Nat.lt_or_ge x 150 with small | large
  · have down : (-((x : Int) - 127 - 23)).toNat = 150 - x := by omega
    have up : ((x : Int) - 127 - 23).toNat = 0 := by omega
    rw [down, up, pow_zero, Nat.mul_one]
    rcases Nat.lt_trichotomy x 127 with below | rfl | beyond
    · have : 2 ^ 24 ≤ 2 ^ (150 - x) := Nat.pow_le_pow_right (by decide) (by omega)
      omega
    · omega
    · have : 2 ^ (150 - x) ≤ 2 ^ 22 := Nat.pow_le_pow_right (by decide) (by omega)
      omega
  · have down : (-((x : Int) - 127 - 23)).toNat = 0 := by omega
    have grows : 2 ^ 23 + f ≤ (2 ^ 23 + f) * 2 ^ ((x : Int) - 127 - 23).toNat := Nat.le_mul_of_pos_right _ (Nat.two_pow_pos _)
    rw [down, pow_zero]
    omega

/-- A finite FP32 code as a fraction: its sign, whether it is zero, and whether it exceeds 1. -/
theorem decElem_f32_fraction {T : Nat} (finite : slice T 23 8 ≠ 255) :
    ∃ n d, decElem .f32 T = .fin (T.testBit 31) n d ∧ (n = 0 ↔ T % 2 ^ 31 = 0) ∧ (d < n ↔ 0x3F800000 < T % 2 ^ 31) := by
  have parts : T % 2 ^ 31 = T / 2 ^ 23 % 2 ^ 8 * 2 ^ 23 + T % 2 ^ 23 := by omega
  have small : T % 2 ^ 23 < 2 ^ 23 := Nat.mod_lt _ (by decide)
  rw [decElem_f32, decFloat_f32_finite finite, Nat.testBit_eq_decide_div_mod_eq, parts]
  generalize T / 2 ^ 23 % 2 ^ 8 = x at *
  generalize T % 2 ^ 23 = f at *
  by_cases subnormal : x = 0
  · obtain ⟨n, d, value, zero, exceeds⟩ := dyadic_fraction f (1 - 127 - 23)
    refine ⟨n, d, ?_, ?_, ?_⟩
    · rw [if_pos subnormal, if_pos subnormal, value]
    · rw [zero]
      omega
    · have tiny : ¬ 2 ^ 149 < f := by omega
      rw [exceeds]
      exact iff_of_false (by simpa using tiny) (by omega)
  · obtain ⟨n, d, value, zero, exceeds⟩ := dyadic_fraction (2 ^ 23 + f) ((x : Int) - 127 - 23)
    refine ⟨n, d, ?_, ?_, ?_⟩
    · rw [if_neg subnormal, if_neg subnormal, value]
    · rw [zero]
      omega
    · rw [exceeds, normal_exceeds_one subnormal small]

/-- A code of the top exponent is an infinity or a NaN. -/
theorem decElem_f32_top {T : Nat} (top : slice T 23 8 = 255) :
    ∃ sig, decElem .f32 T = if slice T 0 23 = 0 then .inf (T.testBit 31) else .nan sig := by
  have exponent : T / 2 ^ 23 % 2 ^ 8 = 255 := top
  have special : decElem .f32 T = if T % 2 ^ 23 = 0 then .inf (decide (T / 2 ^ 31 % 2 = 1)) else .nan (decide (T % 2 ^ 23 / 2 ^ 22 = 0)) :=
    if_pos ((Bool.and_eq_true _ _).mpr ⟨rfl, decide_eq_true exponent⟩)
  exact ⟨_, by rw [special, slice, pow_zero, Nat.div_one, Nat.testBit_eq_decide_div_mod_eq]⟩

theorem lt_of_testBit_top {T n : Nat} (hT : T < 2 ^ (n + 1)) (clear : T.testBit n = false) : T < 2 ^ n := by
  rw [Nat.testBit_eq_decide_div_mod_eq, decide_eq_false_iff_not] at clear
  have : T / 2 ^ n < 2 := Nat.div_lt_of_lt_mul (by rwa [← pow_succ])
  exact (Nat.div_lt_one_iff (Nat.two_pow_pos n)).mp (by omega)

/-- The value that `MAGR` holds, and its flag: a NaN counts as 1, anything else is brought into [0, 1]. -/
theorem agValue_eq (a : Nat) :
    agValue a =
      let T := slice a 0 32
      (BitVec.ofNat 64 (slice a 32 17 * 2 ^ 32 + if slice T 23 8 = 255 ∧ slice T 0 23 ≠ 0 then 0x3F800000 else if T.testBit 31 then 0
        else if 0x3F800000 < T then 0x3F800000 else T), if slice T 23 8 = 255 ∧ slice T 0 23 ≠ 0 then flInvalid else 0) := by
  have low : slice a 0 32 = a % 2 ^ 32 := by rw [slice, pow_zero, Nat.div_one]
  have small : a % 2 ^ 32 < 2 ^ 32 := Nat.mod_lt _ (by decide)
  rw [agValue, ← slice, low]
  generalize a % 2 ^ 32 = T at *
  have positive (clear : T.testBit 31 = false) : T % 2 ^ 31 = T := Nat.mod_eq_of_lt (lt_of_testBit_top small clear)
  by_cases top : slice T 23 8 = 255
  · obtain ⟨sig, value⟩ := decElem_f32_top top
    by_cases infinite : slice T 0 23 = 0
    · cases sign : T.testBit 31 with
      | true => simp [value, top, infinite, sign]
      | false =>
        have above : 0x3F800000 < T := by
          rw [slice] at top
          omega
        simp [value, top, infinite, sign, above]
    · simp [value, top, infinite]
  · obtain ⟨n, d, value, zero, exceeds⟩ := decElem_f32_fraction top
    cases sign : T.testBit 31 with
    | true => simp [value, top, sign]
    | false =>
      rw [positive sign] at zero exceeds
      have held : (if n = 0 then 0 else if d < n then 0x3F800000 else T) = if 0x3F800000 < T then 0x3F800000 else T := by
        simp only [zero, exceeds]
        split_ifs <;> omega
      simp [value, top, sign, held]

section
variable {s : State} {gid : Nat} {o : Args}

theorem exec_magr {v : W64 × Nat} (q : Issues s gid (.magr o) o) (acts : actingOf s gid o ≠ []) (held : agValue (srcsOf s gid (.magr o) o 0).2.1.v = v) :
    exec (.magr o) s = .next ((s.setGrp gid ({ s.grp gid with ag := FMap.put (s.grp gid).ag (tileNo o.d.x) v.1 0 }.flag v.2)).retire gid o.hdr false false) := by
  subst held
  rw [show exec (.magr o) s = execMagr o s from rfl, execMagr]
  refine issue_next q.1 ?_
  rw [start_ok q]
  exact if_neg (isEmpty_actingOf acts)

theorem exec_magrGet (q : Issues s gid (.magrGet o) o) (acts : actingOf s gid o ≠ []) :
    exec (.magrGet o) s = .next ((s.setGrp gid (writeOp (s.grp gid) 0 64 o.d.x
      { v := (FMap.getD (s.grp gid).ag (tileNo o.a.x) 0).toNat })).retire gid o.hdr false false) := by
  rw [show exec (.magrGet o) s = execMagrGet o s from rfl, execMagrGet]
  refine issue_next q.1 ?_
  rw [start_ok q]
  exact if_neg (isEmpty_actingOf acts)

theorem exec_mprog (q : Issues s gid (.mprog o) o) (acts : actingOf s gid o ≠ []) (idle : s.openOps gid = 0) :
    exec (.mprog o) s =
      .next ((s.setGrp gid { s.grp gid with prog := BitVec.ofNat 32 (srcsOf s gid (.mprog o) o 0).2.1.v }).retire gid o.hdr false false) := by
  rw [show exec (.mprog o) s = execMprog o s from rfl, execMprog]
  refine issue_next q.1 ?_
  rw [start_ok q]
  exact (if_neg (isEmpty_actingOf acts)).trans (if_neg (not_not_intro idle))

end

theorem agreementRegisters : AgreementRegisters := by
  refine ⟨?set, ?get, ?prog⟩
  case set =>
    intro o s gid q acts
    rw [exec_magr q acts (agValue_eq _)]
  case get => exact fun o s gid q acts => exec_magrGet q acts
  case prog => exact fun o s gid q acts idle => exec_mprog q acts idle

/-! ## Batches (R262, R277) -/

section
variable {s : State} {gid n : Nat} {o : Args}

theorem exec_mbatch (q : Issues s gid (.mbatch o) o) (acts : actingOf s gid o ≠ [])
    (room : ((s.grp gid).closed.filter fun b => s.incomplete b.2).length < 16) (number : n = if 65535 ≤ (s.grp gid).batch then 1 else (s.grp gid).batch + 1) :
    exec (.mbatch o) s = .next ((s.setGrp gid (writeOp { s.grp gid with
      batch := n, openB := []
      closed := ((s.grp gid).closed.filter fun b => decide (b.1 ≠ n) && b.2.any fun k => (FMap.find? s.eops k).isSome) ++ [(n, (s.grp gid).openB)] }
        0 32 o.d.x { v := n })).retire gid o.hdr false false) := by
  subst number
  rw [show exec (.mbatch o) s = execMbatch o s from rfl, execMbatch]
  refine issue_next q.1 ?_
  rw [start_ok q]
  exact (if_neg (isEmpty_actingOf acts)).trans (if_neg (Nat.not_le.mpr room))

variable {b : Nat × List Nat} (q : Issues s gid (.mwait o) o)
include q

/-- `MWAIT` where no closed batch has the number, … -/
theorem exec_mwait_none (absent : ∀ b ∈ (s.grp gid).closed, b.1 ≠ (srcsOf s gid (.mwait o) o 0).2.1.v) :
    exec (.mwait o) s = .next (s.retire gid o.hdr false false) := by
  have unknown : (s.grp gid).closed.find? (fun b => b.1 = (srcsOf s gid (.mwait o) o 0).2.1.v) = none := by simpa using absent
  rw [show exec (.mwait o) s = execMwait o s from rfl, execMwait]
  refine issueOr_next q.1 ?_
  rw [start_ok q]
  dsimp only
  split_ifs
  · rfl
  · rw [← srcsOf.eq_1, show (issOf s gid).g.closed.find? _ = none from unknown]
    rfl

variable (acts : actingOf s gid o ≠ []) (batch : (s.grp gid).closed.find? (fun b => b.1 = (srcsOf s gid (.mwait o) o 0).2.1.v) = some b)
include acts batch

/-- … where every operation of its batch is complete and none has failed, … -/
theorem exec_mwait_complete (sound : ∀ x ∈ s.eops, x.1 ∈ b.2 → x.2.failed = none) (complete : s.incomplete b.2 = false) :
    exec (.mwait o) s = .next (((s.covered gid fun x => x.mma && b.2.contains x.key).onGrp gid fun g =>
      { g with closed := g.closed.filter fun x => x.1 ≠ b.1 }).retire gid o.hdr false false) := by
  have noneFailed : List.find? (fun x : Nat × EOp => b.2.contains x.1 && x.2.failed.isSome) s.eops = none := by
    simpa using sound
  rw [show exec (.mwait o) s = execMwait o s from rfl, execMwait]
  refine issueOr_next q.1 ?_
  rw [start_ok q]
  refine (if_neg (isEmpty_actingOf acts)).trans ?_
  rw [← srcsOf.eq_1, show (issOf s gid).g.closed.find? _ = some b from batch]
  dsimp only
  rw [show List.find? _ (issOf s gid).s.eops = none from noneFailed]
  exact if_neg (ne_true_of_eq_false complete)

/-- … and where one has failed. -/
theorem exec_mwait_failed {k : Nat} {e : EOp} {rest : List (Nat × EOp)}
    (failed : s.eops.filter (fun x => b.2.contains x.1 && x.2.failed.isSome) = (k, e) :: rest) (done : e.done = true) :
    exec (.mwait o) s = .next (s.reportOp gid k e) := by
  have first : List.find? (fun x : Nat × EOp => b.2.contains x.1 && x.2.failed.isSome) s.eops = some (k, e) := by
    rw [← List.head?_filter, failed]
    rfl
  rw [show exec (.mwait o) s = execMwait o s from rfl, execMwait]
  refine issueOr_other q.1 ?_
  rw [start_ok q]
  refine (if_neg (isEmpty_actingOf acts)).trans ?_
  rw [← srcsOf.eq_1, show (issOf s gid).g.closed.find? _ = some b from batch]
  dsimp only
  rw [show List.find? _ (issOf s gid).s.eops = some (k, e) from first]
  exact if_pos done

end

theorem batches : Batches := by
  refine ⟨?close, ?absent, ?complete, ?failed⟩
  case close => exact fun o s gid q acts room => exec_mbatch q acts room rfl
  case absent => exact fun o s gid q absent => exec_mwait_none q absent
  case complete => exact fun o s gid b q acts batch sound complete => exec_mwait_complete q acts batch sound complete
  case failed => exact fun o s gid b k e rest q acts batch failed done => exec_mwait_failed q acts batch failed done

/-- Settles O28: each clause is a branch of its instruction, or what a name is bound to. -/
theorem engineControl : Obligations.EngineControl := by
  unfold Obligations.EngineControl
  exact ⟨tileNames, agreementRegisters, batches⟩

end Sys2Proof.Machine
end

section
/-! SUPPORT. What the steps of the matrix engine and of the copy engine do, a lemma for each case (R163 to R165, R259, R266, R270, R275, R277, R278), and the proof of the statement
on them. How a copy is cut into pieces is the model's choice (log entry 47); what a load pipe waits for (log entry 120) and what becomes of a request that is refused or
discarded (log entry 60) are deduced. -/

namespace Sys2Proof.Machine

open Claims

/-! ## The events of the engines -/

section
variable {s t : State} {k i first n : Nat}

theorem leads_mmaChunk : Leads (.mmaChunk k) s t ↔ s.mmaChunk k = t := leads_iff_of_exec rfl
theorem leads_engineOpComplete : Leads (.engineOpComplete k i) s t ↔ s.engineStep k i = t := leads_iff_of_exec rfl
theorem leads_copyComplete : Leads (.copyComplete k first n) s t ↔ s.copyStep k first n = t := leads_iff_of_exec rfl

end

/-! ## The chunks of a multiplication (R259, R266, R276, R277) -/

section
variable {s : State} {k K : Nat} {e : EOp} {m : Mods.Mma} {dist : Bool} {d : List W64}

/-- The array's multiplication takes its next chunk. -/
theorem State.mmaChunk_multiplies (phase : TilePhase s k e) (mul : e.op = if dist = true then .dist m K d else .mma m K d) :
    s.mmaChunk k = s.mulChunk k e m dist K d := by
  obtain ⟨⟨here, -, live⟩, inTile, heads, goes⟩ := phase
  have acts : ¬ (e.tileDone || e.cancelled || !s.heads k e || s.opStops k e) = true := by simp [live, inTile, heads, goes]
  rw [State.mmaChunk, here]
  refine (if_neg acts).trans ?_
  rw [mul]
  cases dist <;> rfl

/-- One that would begin off its chunk, or past K, fails, … -/
theorem State.mulChunk_misplaced (fresh : e.begun = false) (bad : (s.grp e.gid).prog.toNat % chunkOf m.fmt ≠ 0 ∨ K < (s.grp e.gid).prog.toNat) :
    s.mulChunk k e m dist K d = s.opFail k e 0 := if_pos (by simpa [fresh] using bad)

variable (placed : e.begun = true ∨ ((s.grp e.gid).prog.toNat % chunkOf m.fmt = 0 ∧ (s.grp e.gid).prog.toNat ≤ K))
include placed

theorem mulChunk_placed : ¬ (!e.begun && (decide ((s.grp e.gid).prog.toNat % chunkOf m.fmt ≠ 0) || decide (K < (s.grp e.gid).prog.toNat))) = true := by
  obtain begun | ⟨aligned, within⟩ := placed
  · simp [begun]
  · simp [aligned, within]

/-- … one that has reached K ends with `%prog` 0, … -/
theorem State.mulChunk_ends (reached : K ≤ (s.grp e.gid).prog.toNat) :
    s.mulChunk k e m dist K d = (s.onGrp e.gid fun g => { g with prog := 0 }).tilePhaseEnd k e := (if_neg (mulChunk_placed placed)).trans (if_pos reached)

variable (before : (s.grp e.gid).prog.toNat < K)
include before

/-- … and any other reads its operands: one of their reads is refused, … -/
theorem State.mulChunk_refused {r : BitVec 256} (reads : s.pipes k e (chunkPipes e m K (s.grp e.gid).prog.toNat d) = .failed r) :
    s.mulChunk k e m dist K d = s.opFail k { e with begun := true } r := by
  refine (if_neg (mulChunk_placed placed)).trans ((if_neg (Nat.not_le.mpr before)).trans ?_)
  rw [chunkPipes] at reads
  dsimp only
  rw [reads]

/-- … or some are on their way, … -/
theorem State.mulChunk_waits {t : State} (reads : s.pipes k e (chunkPipes e m K (s.grp e.gid).prog.toNat d) = .wait t) :
    s.mulChunk k e m dist K d = t.setOp k { e with begun := true } := by
  refine (if_neg (mulChunk_placed placed)).trans ((if_neg (Nat.not_le.mpr before)).trans ?_)
  rw [chunkPipes] at reads
  dsimp only
  rw [reads]

/-- … or all have come, and every element takes its sum. -/
theorem State.mulChunk_adds {bs : List (List (Byte × Bool))} {r : State × Nat × Nat} {e' : EOp} {pos' : Nat}
    (reads : s.pipes k e (chunkPipes e m K (s.grp e.gid).prog.toNat d) = .all bs) (sums : r = chunked s e m dist bs)
    (op : e' = { e with begun := true, flags := e.flags ||| BitVec.ofNat 32 r.2.2 }) (next : pos' = (s.grp e.gid).prog.toNat + chunkOf m.fmt) :
    s.mulChunk k e m dist K d = if K ≤ pos' then ((r.1.dropEop k).onGrp e.gid fun g => { g with prog := 0 }).tilePhaseEnd k e'
      else ((r.1.dropEop k).onGrp e.gid fun g => { g with prog := BitVec.ofNat 32 pos' }).setOp k e' := by
  subst op next sums
  refine (if_neg (mulChunk_placed placed)).trans ((if_neg (Nat.not_le.mpr before)).trans ?_)
  rw [chunkPipes] at reads
  dsimp only
  rw [reads]
  rfl

end

/-! ## The steps of an operation (R259, R270, R275, R277, R278) -/

section
variable {s : State} {k i : Nat} {e : EOp}

theorem State.engineStep_tilePhase (phase : TilePhase s k e) : s.engineStep k i = s.tilePhase k e := by
  obtain ⟨⟨here, undone, live⟩, inTile, heads, goes⟩ := phase
  simp [State.engineStep, here, undone, live, inTile, heads, goes]

theorem State.tilePhase_clears {m : TMode} (op : e.op = .zero m ∨ e.op = .pair m) :
    s.tilePhase k e = ((e.bind.homes e.unit).foldl
      (fun s h => s.setPlane h.1 h.2 { own := (s.plane h.1 h.2).own, rel := (s.plane h.1 h.2).rel }) s).tilePhaseEnd k e := by
  rw [State.tilePhase]
  obtain op | op := op
  · rw [op]
  · rw [op]

theorem State.tilePhase_stores {p rs : W64} (op : e.op = .stt p rs) :
    s.tilePhase k e = s.tilePhaseEnd k { e with
      pz := s.tilePz e.bind e.unit, writes := rowWrites p rs ((e.locs.head?).getD none) (s.imageRows e.bind e.unit) } := by
  rw [State.tilePhase, op]

theorem State.tilePhase_drains {m : Mods.Drn} {p rs ag : W64} (op : e.op = .drn m p rs ag) :
    s.tilePhase k e = s.tilePhaseEnd k { e with
      pz := s.tilePz e.bind e.unit, flags := e.flags ||| BitVec.ofNat 32 (s.drainRows m e.bind e.unit ag).2
      writes := rowWrites p rs ((e.locs.head?).getD none) (s.drainRows m e.bind e.unit ag).1 } := by
  rw [State.tilePhase, op]

/-- A cancelled operation completes with no effect. -/
theorem State.engineStep_cancelled (here : FMap.find? s.eops k = some e) (undone : e.done = false) (cancelled : e.cancelled = true) (heads : s.heads k e = true) :
    s.engineStep k i = (s.tilePhaseEnd k e).opComplete k { e with tileDone := true } := by
  simp [State.engineStep, here, undone, cancelled, heads]

theorem State.eopReq_of_eopReqs_nil (quiet : s.eopReqs k = []) : s.eopReq k i = none := by
  refine List.find?_eq_none.mpr fun x hx asked => List.filter_eq_nil_iff.mp quiet x hx ?_
  rw [of_decide_eq_true asked]
  exact decide_eq_true rfl

section
variable (op : EngineOp s k e) (past : e.tileDone = true)
include op past

/-- An operation in its memory phase turns to the write under way that the step names, … -/
theorem State.engineStep_asked {id : Nat} {q : Req} (asked : s.eopReq k i = some (id, q)) : s.engineStep k i = s.opWritten k e q := by
  obtain ⟨here, undone, live⟩ := op
  simp [State.engineStep, here, undone, live, past, asked]

/-- … else begins another write, … -/
theorem State.engineStep_writes (free : s.eopReq k i = none) (more : e.writes ≠ []) : s.engineStep k i = s.opWrite k e (i % e.writes.length) := by
  obtain ⟨here, undone, live⟩ := op
  simp [State.engineStep, here, undone, live, past, free, more]

/-- … or completes. -/
theorem State.engineStep_completes (written : e.writes = []) (quiet : s.eopReqs k = []) : s.engineStep k i = s.opComplete k e := by
  obtain ⟨here, undone, live⟩ := op
  simp [State.engineStep, here, undone, live, past, written, quiet, State.eopReq_of_eopReqs_nil quiet]

end

section
variable {j : Nat} {p : W64} {bs : List Byte} {s1 : State} {xs : List (Byte × Bool)} (left : s1 = s.setOp k { e with writes := e.writes.eraseIdx j })
  (marked : xs = bs.map fun b => (b, e.pz))
include left marked

/-- A write of SRAM is written there, … -/
theorem State.opWrite_local {a : Nat} (write : e.writes[j]? = some (p, some a, bs)) : s.opWrite k e j = s1.localPut (a + bf p 0 32) xs := by
  subst left marked
  rw [State.opWrite, write]

/-- … any other is requested. -/
theorem State.opWrite_requested (write : e.writes[j]? = some (p, none, bs)) :
    s.opWrite k e j = s1.newReq (engineReq (.eop k s.nextId) .write e.org p xs.length (storeOf xs) e.unit) := by
  subst left marked
  rw [State.opWrite, write]
  rfl

end

theorem State.opWritten_refused {q : Req} {r : BitVec 256} (failed : s.famFailed q.fam = some r) : s.opWritten k e q = s.opFail k e r := by
  rw [State.opWritten, failed]
theorem State.opWritten_early {q : Req} (sound : s.famFailed q.fam = none) (early : s.famPast q.fam = false) : s.opWritten k e q = s := by
  rw [State.opWritten, sound]
  exact if_neg (ne_true_of_eq_false early)

/-- A failed operation stays until it is reported; any other is gone. -/
theorem State.opComplete_eq {s1 : State} (counted : s1 = s.onGrp e.gid fun g => { g with fflags := g.fflags ||| e.flags, mma := g.mma - 1 }) :
    s.opComplete k e = if e.failed.isSome ∧ isDead e.gid = false then s1.setOp k { e with done := true } else { s1 with eops := FMap.erase s1.eops k } := by
  subst counted
  simp only [State.opComplete, Bool.and_eq_true, Bool.not_eq_true']

end

/-! ## The pieces of a copy (R163 to R165) -/

section
variable {s : State} {k first n : Nat} {c : Copy} {q : Req}

/-- A copy begins a piece for which no request is under way, … -/
theorem State.copyStep_takes (at_ : CopyAt s k c first) (some_ : c.piece first n ≠ 0) (turn : s.copyTurn c = true) :
    s.copyStep k first n = s.copyTake k c first (c.piece first n) := by
  obtain ⟨here, undone, quiet⟩ := at_
  have unasked : List.find? (fun x : Nat × Req => x.2.client = Client.copy k first) s.reqs = none := by simpa using quiet
  simp [State.copyStep, here, undone, unasked, some_, turn]

/-- … and turns to the request of one under way. -/
theorem State.copyStep_asked (asks : CopyAsks s k c first q) : s.copyStep k first n = s.copyTurnOf k c first q := by
  obtain ⟨here, undone, asked⟩ := asks
  obtain ⟨x, found, rfl⟩ := Option.map_eq_some_iff.mp asked
  simp [State.copyStep, here, undone, found]

theorem State.copyTurnOf_refused {r : BitVec 256} (failed : s.famFailed q.fam = some r) : s.copyTurnOf k c first q = s.copyFail k c r := by
  rw [State.copyTurnOf, failed]

variable (sound : s.famFailed q.fam = none)
include sound

theorem State.copyTurnOf_read {bs : List (Byte × Bool)} (kind : q.kind = .read) (brought : s.brought q.fam = some bs) :
    s.copyTurnOf k c first q = (s.dropFam q.fam).copyPut k c first bs := by
  have reads : ¬ q.kind = .write := by rw [kind]; exact AKind.noConfusion
  rw [State.copyTurnOf, sound]
  refine (if_neg reads).trans ?_
  rw [brought]

theorem State.copyTurnOf_written {len : Nat} (kind : q.kind = .write) (past : s.famPast q.fam = true)
    (bytes : len = (s.famParts q.fam).foldl (fun n x => n + x.2.len) 0) :
    s.copyTurnOf k c first q =
      ((s.l1Drops c.unit c.ctx (ptrBy c.dst (c.offs first).2) len).famLeave q.fam (some ⟨c.gid, false, c.num, k⟩) c.ctx c.blk c.unit).copyMoved k c := by
  subst bytes
  rw [State.copyTurnOf, sound]
  exact (if_pos kind).trans (if_pos past)

end

/-! ## The statement -/

/-- Settles O39, event by event: each clause is the case of its engine's step in the lemmas above. -/
theorem engineEvents : Obligations.EngineEvents := by
  unfold Obligations.EngineEvents
  simp only [leads_mmaChunk, leads_engineOpComplete, leads_copyComplete]
  refine ⟨?multiply, ?clear, ?store, ?drain, ?write, ?complete, ?written, ?cancelled, ?take, ?moved⟩
  case multiply =>
    intro s k e m dist K d phase mul
    rw [State.mmaChunk_multiplies phase mul]
    exact ⟨State.mulChunk_misplaced, fun placed => ⟨State.mulChunk_ends placed, fun before => ⟨fun _ => State.mulChunk_refused placed before,
      fun _ => State.mulChunk_waits placed before, fun _ reads => State.mulChunk_adds placed before reads rfl rfl rfl⟩⟩⟩
  case clear =>
    intro s k e i m phase op
    rw [State.engineStep_tilePhase phase, State.tilePhase_clears op]
  case store =>
    intro s k e i p rs phase op
    rw [State.engineStep_tilePhase phase, State.tilePhase_stores op]
    rfl
  case drain =>
    intro s k e i m p rs ag phase op
    rw [State.engineStep_tilePhase phase, State.tilePhase_drains op]
    rfl
  case write =>
    intro s k e i p l bs op past free write
    have more : e.writes ≠ [] := by rintro none; simp [none] at write
    rw [State.engineStep_writes op past free more]
    cases l with
    | some a => exact State.opWrite_local rfl rfl write
    | none => exact State.opWrite_requested rfl rfl write
  case complete =>
    intro s k e i op past written quiet
    rw [State.engineStep_completes op past written quiet, State.opComplete_eq rfl]
  case written =>
    intro s k e i id q op past asked
    rw [State.engineStep_asked op past asked]
    exact ⟨fun r => State.opWritten_refused, State.opWritten_early⟩
  case cancelled => exact fun s k e i => State.engineStep_cancelled
  case take =>
    intro s k c first n at_ some_ turn
    rw [State.copyStep_takes at_ some_ turn]
    rfl
  case moved =>
    intro s k c first n q asks
    rw [State.copyStep_asked asks]
    exact ⟨fun r => State.copyTurnOf_refused,
      fun bs sound kind brought => State.copyTurnOf_read sound kind brought,
      fun sound kind past => State.copyTurnOf_written sound kind past rfl⟩

end Sys2Proof.Machine
end

section
/-! SUPPORT. What LAUNCH, MBXRD, MBXFWD and PENNANT come to, a lemma for each status or wait (R295, R297 to R300), and the proof of the statement on them. That the registers of a
packet are checked before the commit is deduced (log entry 78), and so is the unit of a cluster's capacity (log entry 77); that PENNANT without U is a word is the model's choice
(log entry 129). -/

namespace Sys2Proof.Machine

open Decode Safety Claims

/-! ## What the cobbler's instructions share (R295) -/

section
variable {s : State} {gid : Nat} {o : Args}

/-- An instruction over the eight registers of a packet issues as those of the matrix engine do. -/
theorem packetStart_ok {i : Instr} (p : GroupIssues s gid i o 2 8) : packetStart (issOf s gid) i o = .ok (actingOf s gid o) := by
  rw [packetStart, tileStart_ok p]

/-- A cobbler passes the check of privilege. -/
theorem not_privileged_stop (cobbler : (s.grp gid).cob = true) : ¬ (!(issOf s gid).g.cob) = true := by simp [issOf, cobbler]

/-- What LAUNCH and MBXFWD are: past its checks a cobbler's instruction delivers the status of `body` to D. -/
def packetOp (i : Instr) (o : Args) (s : State) (body : Iss → Except Stop (State × Nat)) : Host.Outcome State Fault Refusal :=
  issue o s false true fun c =>
    match packetStart c i o with
    | .error x => .error x
    | .ok [] => .ok c.s
    | .ok _ =>
      if !c.g.cob then .error launchPrivilege else
      match body c with
      | .error x => .error x
      | .ok x => .ok (c.status x.1 o.d.x x.2)

section
variable {i : Instr} {body : Iss → Except Stop (State × Nat)} (p : GroupIssues s gid i o 2 8)
include p

theorem packetOp_privilege (plain : (s.grp gid).cob = false) : packetOp i o s body = .next (s.takeTrap gid { cause := .launchPrivilege }) := by
  obtain ⟨turn, acts, -⟩ := id p
  obtain ⟨t, ts, threads⟩ := List.exists_cons_of_ne_nil acts
  have noCobbler : (!(issOf s gid).g.cob) = true := by simp [issOf, plain]
  refine issue_stop (x := launchPrivilege) turn ?_
  rw [packetStart_ok p, threads]
  exact if_pos noCobbler

theorem packetOp_status {s' : State} {n : Nat} (cobbler : (s.grp gid).cob = true) (status : body (issOf s gid) = .ok (s', n)) :
    packetOp i o s body = .next ((withStatus s' gid o.d.x n).retire gid o.hdr false true) := by
  obtain ⟨turn, acts, -⟩ := id p
  obtain ⟨t, ts, threads⟩ := List.exists_cons_of_ne_nil acts
  refine issue_next turn ?_
  rw [packetStart_ok p, threads]
  refine (if_neg (not_privileged_stop cobbler)).trans ?_
  rw [status]
  rfl

end

variable {m : Bool}

theorem exec_launch_privilege (p : GroupIssues s gid (.launch m o) o 2 8) (plain : (s.grp gid).cob = false) :
    exec (.launch m o) s = .next (s.takeTrap gid { cause := .launchPrivilege }) := packetOp_privilege p plain

variable {s' : State} {n : Nat} (cobbler : (s.grp gid).cob = true)
include cobbler

theorem exec_launch_status (p : GroupIssues s gid (.launch m o) o 2 8)
    (status : launchBody (issOf s gid) m (packetAt s gid o.a.x) (srcsOf s gid (.launch m o) o 0).2.2.v = .ok (s', n)) :
    exec (.launch m o) s = .next ((withStatus s' gid o.d.x n).retire gid o.hdr false true) := packetOp_status p cobbler status

theorem exec_mbxfwd_status (p : GroupIssues s gid (.mbxfwd m o) o 2 8)
    (status : forwardBody (issOf s gid) m (packetAt s gid o.a.x) (srcsOf s gid (.mbxfwd m o) o 0).2.2.v = .ok (s', n)) :
    exec (.mbxfwd m o) s = .next ((withStatus s' gid o.d.x n).retire gid o.hdr false true) := packetOp_status p cobbler status

end

/-! ## LAUNCH (R298) -/

section
variable {s : State} {gid b : Nat} {m : Bool} {p : List W64}

theorem launchBody_dead (dead : (s.commit (s.grp gid).blk).liveRec (pktLid p) (s.blk (s.grp gid).blk).part = none) :
    launchBody (issOf s gid) m p b = .ok (s.commit (s.grp gid).blk, 3) := by
  rw [launchBody]
  simp only [issOf, dead]

section
variable {r : LRec} (live : (s.commit (s.grp gid).blk).liveRec (pktLid p) (s.blk (s.grp gid).blk).part = some r)
include live

theorem launchBody_pastLast (past : r.t ≤ pktFirst p) : launchBody (issOf s gid) m p b = .ok (s.commit (s.grp gid).blk, 4) := by
  rw [launchBody]
  simp only [issOf, live, if_pos past]

variable (set : pktFirst p < r.t)
include set

theorem launchBody_noCluster (hidden : (s.commit (s.grp gid).blk).launchCluster (dieAt gid) b = none) :
    launchBody (issOf s gid) m p b = .ok (s.commit (s.grp gid).blk, 5) := by
  rw [dieAt] at hidden
  rw [launchBody]
  simp only [issOf, live, if_neg (Nat.not_le.mpr set), hidden]

variable {cl : Nat} (cluster : (s.commit (s.grp gid).blk).launchCluster (dieAt gid) b = some cl) {could : Bool}
  (fits : could = if b = 16 then ((s.commit (s.grp gid).blk).visibleOn (dieAt gid)).any fun x => (s.commit (s.grp gid).blk).everFits x r.hdr r.gpb r.bps
    else (s.commit (s.grp gid).blk).everFits cl r.hdr r.gpb r.bps)
include cluster fits

theorem launchBody_tooLarge (never : could = false) : launchBody (issOf s gid) m p b = .ok (s.commit (s.grp gid).blk, 6) := by
  subst fits
  rw [dieAt] at cluster never
  rw [launchBody]
  simp only [issOf, live, if_neg (Nat.not_le.mpr set), cluster, never, Bool.not_false, if_true]

variable (ever : could = true)
include ever

theorem launchBody_full (full : (s.commit (s.grp gid).blk).placement cl r.hdr r.gpb r.bps (fun _ => false) = none) :
    launchBody (issOf s gid) true p b = .ok (s.commit (s.grp gid).blk, 1) := by
  subst fits
  rw [dieAt] at cluster ever
  rw [launchBody]
  simp only [issOf, live, if_neg (Nat.not_le.mpr set), cluster, ever, Bool.not_true, Bool.false_eq_true, if_false, full, if_true]

/-- A set that passes every check is started on its placement, once the writes are performed. -/
theorem launchBody_starts {pl : List (Nat × Nat)} {s2 : State} (room : (s.commit (s.grp gid).blk).placement cl r.hdr r.gpb r.bps (fun _ => false) = some pl)
    (performed : (s.commit (s.grp gid).blk).released gid .mod = true)
    (started : s2 = ((s.commit (s.grp gid).blk).noRestart (s.grp gid).blk).launchSet (pktLid p) r (pktFirst p) pl) :
    launchBody (issOf s gid) m p b = .ok ({ s2 with recs := FMap.modify s2.recs (pktLid p) fun r => { r with launched := r.launched + 1 } }, 0) := by
  subst fits started
  rw [dieAt] at cluster ever
  rw [launchBody]
  simp only [issOf, live, if_neg (Nat.not_le.mpr set), cluster, ever, Bool.not_true, Bool.false_eq_true, if_false, room, performed]

end

end

theorem launchResults : LaunchResults := by
  refine ⟨fun m o s gid q plain => exec_launch_privilege q plain, fun m o s gid q cobbler => ?_⟩
  refine ⟨fun dead => exec_launch_status cobbler q (launchBody_dead dead), fun r live => ⟨?past, ?hidden, ?placed⟩⟩
  case past => exact fun past => exec_launch_status cobbler q (launchBody_pastLast live past)
  case hidden => exact fun set hidden => exec_launch_status cobbler q (launchBody_noCluster live set hidden)
  case placed =>
    intro cl set cluster could
    refine ⟨?never, ?full, ?starts⟩
    case never => exact fun never => exec_launch_status cobbler q (launchBody_tooLarge live set cluster rfl never)
    case full =>
      rintro ever full rfl
      exact exec_launch_status cobbler q (launchBody_full live set cluster rfl ever full)
    case starts => exact fun pl ever room performed => exec_launch_status cobbler q (launchBody_starts live set cluster rfl ever room performed rfl)

/-! ## MBXRD (R297) -/

section
variable {s : State} {gid : Nat} {m : Bool} {o : Args}

/-- MBXRD of a cobbler, from what it finds in the mailbox of its die. -/
theorem exec_mbxrd {s' : State} (q : Issues s gid (.mbxrd m o) o) (acts : actingOf s gid o ≠ []) (ready : packetEmpty (s.grp gid) o.d.x = false)
    (cobbler : (s.grp gid).cob = true)
    (found : s' = match FMap.getD s.boxes (dieAt gid) [] with
      | p :: rest => (({ s with boxes := FMap.put s.boxes (dieAt gid) rest [] } : State).onGrp gid fun g => putPacket g o.d.x p).pass gid
      | [] => if m then (s.onGrp gid fun g => putPacket g o.d.x (List.replicate 8 0)).pass gid
              else s.onGrp gid fun g => { g with wait := .mailbox, since := s.now }) :
    exec (.mbxrd m o) s = .next (s'.retire gid o.hdr true true) := by
  subst found
  obtain ⟨t, ts, threads⟩ := List.exists_cons_of_ne_nil acts
  rw [show exec (.mbxrd m o) s = execMbxrd m o s from rfl, execMbxrd]
  refine issue_next q.1 ?_
  rw [start_ok q, threads]
  refine (if_neg (ne_true_of_eq_false ready)).trans ((if_neg (not_privileged_stop cobbler)).trans ?_)
  change (match FMap.getD s.boxes (dieAt gid) [] with | p :: rest => _ | [] => _) = _
  cases FMap.getD s.boxes (dieAt gid) [] with
  | cons p rest => rfl
  | nil => cases m <;> rfl

end

/-! ## MBXFWD (R299) -/

section
variable {s : State} {gid b : Nat} {m : Bool} {p : List W64}

theorem forwardBody_outside (outside : b ∉ (s.commit (s.grp gid).blk).partDies (s.blk (s.grp gid).blk).part) :
    forwardBody (issOf s gid) m p b = .ok (s.commit (s.grp gid).blk, 2) := if_pos (by simpa [issOf] using outside)

section
variable (inside : b ∈ (s.commit (s.grp gid).blk).partDies (s.blk (s.grp gid).blk).part)
include inside

/-- A die of the partition passes the first check. -/
theorem not_outside : ¬ (!(((issOf s gid).s.commit (issOf s gid).g.blk).partDies (issOf s gid).b.part).contains b) = true := by simpa [issOf] using inside

theorem forwardBody_dead (dead : (s.commit (s.grp gid).blk).liveRec (pktLid p) (s.blk (s.grp gid).blk).part = none) :
    forwardBody (issOf s gid) m p b = .ok (s.commit (s.grp gid).blk, 3) :=
  (if_neg (not_outside inside)).trans (if_pos (Option.isNone_iff_eq_none.mpr dead))

variable (live : (s.commit (s.grp gid).blk).liveRec (pktLid p) (s.blk (s.grp gid).blk).part ≠ none)
include live

theorem forwardBody_full (full : (s.commit (s.grp gid).blk).boxFree b = 0) : forwardBody (issOf s gid) true p b = .ok (s.commit (s.grp gid).blk, 1) :=
  (if_neg (not_outside inside)).trans ((if_neg (mt Option.isNone_iff_eq_none.mp live)).trans (if_pos full))

theorem forwardBody_delivers (room : (s.commit (s.grp gid).blk).boxFree b ≠ 0) :
    forwardBody (issOf s gid) m p b = .ok (((s.commit (s.grp gid).blk).noRestart (s.grp gid).blk).toBox b p, 0) :=
  (if_neg (not_outside inside)).trans ((if_neg (mt Option.isNone_iff_eq_none.mp live)).trans (if_neg room))

end

end

/-! ## PENNANT (R300) -/

section
variable {s : State} {gid : Nat} {o : Args} (q : Issues s gid (.pennant o) o) (acts : actingOf s gid o ≠ [])
include q acts

theorem exec_pennant (performed : (s.commit (s.grp gid).blk).released gid .mod = true) :
    exec (.pennant o) s =
      .next ((((s.commit (s.grp gid).blk).noRestart (s.grp gid).blk).passGroup (s.grp gid).blk (s.grp gid).num).retire gid o.hdr false false) := by
  obtain ⟨t, ts, threads⟩ := List.exists_cons_of_ne_nil acts
  rw [show exec (.pennant o) s = execPennant o s from rfl, execPennant]
  refine issue_next q.1 ?_
  rw [start_ok q, threads]
  exact if_pos performed

theorem exec_pennant_waits (awaited : (s.commit (s.grp gid).blk).released gid .mod = false) :
    exec (.pennant o) s = .next (((s.commit (s.grp gid).blk).stick gid 0).endRun gid) := by
  obtain ⟨t, ts, threads⟩ := List.exists_cons_of_ne_nil acts
  rw [show exec (.pennant o) s = execPennant o s from rfl, execPennant]
  refine issue_stop (x := .wait (s.commit (s.grp gid).blk)) q.1 ?_
  rw [start_ok q, threads]
  exact if_neg (ne_true_of_eq_false awaited)

end

theorem mailboxAndPennant : MailboxAndPennant := by
  refine ⟨?read, ?forward, ?passes, ?waits⟩
  case read => exact fun m o s gid q acts ready cobbler => exec_mbxrd q acts ready cobbler rfl
  case forward =>
    intro m o s gid q cobbler
    refine ⟨?outside, ?dead, ?full, ?delivers⟩
    case outside => exact fun outside => exec_mbxfwd_status cobbler q (forwardBody_outside outside)
    case dead => exact fun inside dead => exec_mbxfwd_status cobbler q (forwardBody_dead inside dead)
    case full =>
      rintro inside live full rfl
      exact exec_mbxfwd_status cobbler q (forwardBody_full inside live full)
    case delivers => exact fun inside live room => exec_mbxfwd_status cobbler q (forwardBody_delivers inside live room)
  case passes => exact fun o s gid q acts performed => exec_pennant q acts performed
  case waits => exact fun o s gid q acts awaited => exec_pennant_waits q acts awaited

/-- Settles O30: each clause is a status that the checks of its instruction come to, or what the instruction finds. -/
theorem launching : Obligations.Launching := by
  unfold Obligations.Launching
  exact ⟨launchResults, mailboxAndPennant⟩

end Sys2Proof.Machine
end

section
/-! SUPPORT. What the front end's events and those of launch queues do, a lemma for each case (R291 to R293, R305, R379), and the proof of the statement on them. When a queue's
count is judged (log entry 123) and that a doorbell comes from outside (log entry 108) are the model's choices; how the front end reads a ring (log entry 79) is deduced. -/

namespace Sys2Proof.Machine

open Safety Claims

/-! ## A queue as the front end observes it (R305, R308) -/

section
variable {s : State} {q : Nat}

/-- To bring a queue's count up to date is to write what the front end has of the queue once it has observed it. -/
theorem State.queueTurn_eq : s.queueTurn q = s.setQueue q (observed s q) := by
  rw [State.queueTurn, observed]
  cases s.readWix (s.queue q) with
  | ok w => simp only [decide_eq_true_eq]
  | error => rfl

theorem State.agePeriod_eq : s.agePeriod = 1000 * max 1 s.regs.aget := rfl

/-! ## FRONT_END_DELIVER (R292, R293, R379) -/

/-- The front end reaches the head of a queue whose turn it is. -/
theorem front_reaches_head {h : Head} (turn : QueueTurn s q h) :
    s.delivers q = true ∧ (s.setQueue q (observed s q)).nextQueue = some q ∧ (s.setQueue q (observed s q)).headOf q = h := by
  obtain ⟨running, going, next, head⟩ := turn
  exact ⟨by simp [State.delivers, running, going], next, head⟩

/-- A queue whose context is stopped delivers nothing, … -/
theorem State.frontEnd_stopped (stopped : (s.ctx (s.queue q).ctx).vst ≠ .run ∨ (s.ctx (s.queue q).ctx).stopping = true) : s.frontEnd q = s := by
  refine if_pos ?_
  simpa [State.delivers, Classical.or_iff_not_imp_left] using stopped

section
variable {pkt : List W64}

/-- … and of a queue whose turn it is the front end takes what it finds at the head: it delivers a packet, … -/
theorem State.frontEnd_deliver {hd : Header} {die lid : Nat} (turn : QueueTurn s q (.deliver pkt hd die lid)) :
    s.frontEnd q = (s.setQueue q (observed s q)).deliver q pkt hd die lid := by
  obtain ⟨delivers, next, head⟩ := front_reaches_head turn
  simp [State.frontEnd, delivers, State.queueTurn_eq, next, head]

/-- … leaves the record of one that fails a check, … -/
theorem State.frontEnd_bad {st : Nat} {s1 : State} (turn : QueueTurn s q (.bad pkt st)) (seen : s1 = s.setQueue q (observed s q)) :
    s.frontEnd q = (s1.writeRecord (s1.queue q).ctx (pw pkt 2) (doneRecord 0 st false false false)).advance q := by
  subst seen
  obtain ⟨delivers, next, head⟩ := front_reaches_head turn
  simp [State.frontEnd, delivers, State.queueTurn_eq, next, head]

/-- … ends a queue whose ring is in error, … -/
theorem State.frontEnd_ring (turn : QueueTurn s q .ring) : s.frontEnd q = (s.setQueue q (observed s q)).ringError q := by
  obtain ⟨delivers, next, head⟩ := front_reaches_head turn
  simp [State.frontEnd, delivers, State.queueTurn_eq, next, head]

/-- … and holds or ends one on whose ring a read is refused. -/
theorem State.frontEnd_refused {p : W64} {r : Refuse} {s1 : State} {o : Origin} (turn : QueueTurn s q (.refused p r)) (seen : s1 = s.setQueue q (observed s q))
    (read : o = { ptr := p, guidon := s1.ringGuidon (s1.queue q), unit := 1785 }) :
    s.frontEnd q = if r.reason = .absent ∨ r.reason = .gate then
        (s1.setQueue q { s1.queue q with held := some (o, .read, r) }).report o .read r (some (ringWho q))
      else (s1.setQueue q { s1.queue q with err := true, en := false, counts := false }).post dstPlog (faultRec o .read r) 0 false none := by
  subst seen read
  obtain ⟨delivers, next, head⟩ := front_reaches_head turn
  simp [State.frontEnd, delivers, State.queueTurn_eq, next, head]

end

/-! ## Ageing, EN and SIZE (R291, R292, R305) -/

/-- A queue rises by one level once its count has passed AGET (R305). -/
theorem State.ageQueue_eq {s1 : State} (seen : s1 = s.setQueue q (observed s q)) :
    s.ageQueue q = if (s1.queue q).counts = true ∧ 1000 * max 1 s1.regs.aget ≤ (s1.queue q).starve then
      s1.setQueue q { s1.queue q with age := min 7 ((s1.queue q).age + 1), starve := (s1.queue q).starve - 1000 * max 1 s1.regs.aget } else s1 := by
  subst seen
  simp only [State.ageQueue, State.queueTurn_eq, State.agePeriod_eq, Bool.and_eq_true, decide_eq_true_eq]

/-- A write of EN clears ERR, and one that enables a queue of a size outside 2 to 16 is a ring error (R291, R292). -/
theorem State.setEnable_eq {en : Bool} {s1 s2 : State} (written : s1 = s.setQueue q { s.queue q with en := en, err := false })
    (seen : s2 = s1.setQueue q (observed s1 q)) :
    s.setEnable q en = if en = true ∧ ((s.queue q).size < 2 ∨ 16 < (s.queue q).size) then s2.ringError q else s2 := by
  rw [State.setEnable, State.queueTurn_eq, ← written, ← seen]
  simp only [Bool.and_eq_true, Bool.or_eq_true, decide_eq_true_eq]

/-- A write of SIZE keeps four bits; below 2 under EN = 1 it is a ring error (R292). -/
theorem State.setSize_eq {n : Nat} {s1 : State} (written : s1 = s.setQueue q { s.queue q with size := n % 16 }) :
    s.setSize q n = if (s.queue q).en = true ∧ n % 16 < 2 then s1.ringError q else s1 := by
  rw [State.setSize, ← written]
  simp only [Bool.and_eq_true, decide_eq_true_eq]

end

/-! ## The statement -/

/-- Settles O41, event by event: each clause is a case of its event, of which the observed queue is the common part. -/
theorem frontEndEvents : Obligations.FrontEndEvents := by
  unfold Obligations.FrontEndEvents
  refine ⟨?deliver, ?bad, ?ring, ?refused, ?stopped, ?doorbell, ?ageing, ?enable, ?size⟩
  case deliver => exact fun s q pkt h die lid turn => congrArg Host.Outcome.next (State.frontEnd_deliver turn)
  case bad => exact fun s q pkt st turn => congrArg Host.Outcome.next (State.frontEnd_bad turn rfl)
  case ring => exact fun s q turn => congrArg Host.Outcome.next (State.frontEnd_ring turn)
  case refused => exact fun s q p r turn => congrArg Host.Outcome.next (State.frontEnd_refused turn rfl rfl)
  case stopped => exact fun s q stopped => congrArg Host.Outcome.next (State.frontEnd_stopped stopped)
  case doorbell => exact fun s q wix => congrArg Host.Outcome.next State.queueTurn_eq
  case ageing => exact fun s q => congrArg Host.Outcome.next (State.ageQueue_eq rfl)
  case enable => exact fun s q en => congrArg Host.Outcome.next (State.setEnable_eq rfl rfl)
  case size => exact fun s q n => congrArg Host.Outcome.next (State.setSize_eq rfl)

end Sys2Proof.Machine
end

section
/-! SUPPORT. What the completion of a launch, the choice of a run and the ageing of groups come to, a lemma for each case (R300 to R304, R306, R308), and the proof of the
statement on them. How often a completion that awaits its confirmation drops the L1s (log entry 83) and where a group that has yielded stands (log entry 25) are deduced; that a
lane's turn takes the treatments of its core on is the model's choice (log entry 1). -/

namespace Sys2Proof.Machine

open Safety Claims

/-! ## LAUNCH_COMPLETE (R302) -/

section
variable {s s1 : State} {lid : Nat} {r : LRec} (counted : s1 = s.countSilent lid) (here : FMap.find? s1.recs lid = some r)
include counted here

theorem State.complete_early (early : s1.launchOver lid r = false) : s.complete lid = s1 := by
  subst counted
  simp only [State.complete, here, early, Bool.not_false, if_true]

/-- A launch that is over leaves its pennant and drops the L1s; once it is confirmed, or needs no confirmation, it leaves its record, its interrupt and
its LID. -/
theorem State.complete_over {s2 s3 s4 : State} {v : W64} (ended : s1.launchOver lid r = true)
    (passed : s2 = (if r.pennant = true then s1 else s1.doPennant lid r).l1DropAll) (record : v = doneRecord lid 0 r.suspect true true)
    (recorded : s3 = s2.writeRecord r.ctx (pw r.pkt 2) v)
    (cleared : s4 = (if bt (pw r.pkt 6) 39 = true then s3.postEvent r.ctx 1 0 v.toNat (pw r.pkt 2).toNat r.q else s3).clearLaunch lid) :
    s.complete lid = if bt (pw r.pkt 6) 38 = true ∧ r.cores ≠ [] then s2
      else State.queueTurn { s4.setQueue r.q { s4.queue r.q with open_ := (s4.queue r.q).open_.filter fun l => l ≠ lid } with
        recs := FMap.erase s4.recs lid, fins := FMap.insert s4.fins lid (pw r.pkt 2, v, r.ctx) } r.q := by
  subst counted passed record recorded cleared
  have confirmed : (bt (pw r.pkt 6) 38 && !r.cores.isEmpty) = true ↔ bt (pw r.pkt 6) 38 = true ∧ r.cores ≠ [] := by simp
  simp only [State.complete, here, ended, Bool.not_true, Bool.false_eq_true, if_false, confirmed]

end

/-! ## The best of some groups (R304) -/

section
variable {better : Nat × Group → Nat × Group → Bool} {xs : List (Nat × Group)}

theorem foldl_better_mem (m : Nat × Group) : xs.foldl (fun m y => if better y m then y else m) m ∈ m :: xs := by
  induction xs generalizing m with
  | nil => exact List.mem_singleton_self m
  | cons x xs ih =>
    rw [List.foldl_cons]
    split
    · exact List.mem_cons_of_mem m (ih x)
    · obtain same | later := List.mem_cons.mp (ih m)
      · exact List.mem_cons.mpr (.inl same)
      · exact List.mem_cons_of_mem m (List.mem_cons_of_mem x later)

variable {rank : Nat × Group → Nat} (rises : ∀ a b, better a b = true → rank b ≤ rank a) (stays : ∀ a b, better a b = false → rank a ≤ rank b)
include rises stays

theorem rank_le_foldl_better (m : Nat × Group) : ∀ x ∈ m :: xs, rank x ≤ rank (xs.foldl (fun m y => if better y m then y else m) m) := by
  induction xs generalizing m with
  | nil => exact fun x hx => by rw [List.mem_singleton.mp hx]; exact le_rfl
  | cons y ys ih =>
    have step : rank m ≤ rank (if better y m then y else m) ∧ rank y ≤ rank (if better y m then y else m) := by
      cases h : better y m with
      | true => exact ⟨rises y m h, le_rfl⟩
      | false => exact ⟨le_rfl, stays y m h⟩
    obtain ⟨keeps, takes⟩ := step
    rw [List.foldl_cons]
    intro x hx
    obtain rfl | rfl | later := by simpa only [List.mem_cons] using hx
    · exact keeps.trans (ih _ _ List.mem_cons_self)
    · exact takes.trans (ih _ _ List.mem_cons_self)
    · exact ih _ x (List.mem_cons_of_mem _ later)

/-- Where the preferred of two groups never ranks lower, the best of some groups is one of them of the highest rank. -/
theorem bestOf_ranks_highest {y : Nat × Group} (best : bestOf better xs = some y) : y ∈ xs ∧ ∀ x ∈ xs, rank x ≤ rank y := by
  cases xs with
  | nil => cases best
  | cons m xs =>
    obtain rfl := Option.some.inj best
    exact ⟨foldl_better_mem m, rank_le_foldl_better rises stays m⟩

end

/-- The choice in priority mode is a group of the highest lane priority. -/
theorem State.pickPrio_highest {s : State} {xs : List (Nat × Group)} {y : Nat × Group} (pick : s.pickPrio xs = some y) :
    y ∈ xs ∧ ∀ x ∈ xs, s.lanePrio x.2 ≤ s.lanePrio y.2 := by
  refine bestOf_ranks_highest (rank := fun x => s.lanePrio x.2) (fun a b preferred => ?_) (fun a b other => ?_) pick
  · simp only [Bool.or_eq_true, Bool.and_eq_true, decide_eq_true_eq] at preferred
    obtain above | ⟨equal, -⟩ := preferred
    · exact above.le
    · exact equal.ge
  · simp only [Bool.or_eq_false_iff, decide_eq_false_iff_not] at other
    obtain ⟨notAbove, -⟩ := other
    exact not_lt.mp notAbove

/-! ## RUN_SELECT (R303, R304, R308) -/

section
variable {s : State} {key : Nat}

theorem State.laneTurn_eq (onCore : key / 32 < offCore) : s.laneTurn key = (s.select key).settleUnit (key / 32) := if_neg (Nat.not_le.mpr onCore)

/-- A lane with no ready group idles. -/
theorem State.select_idle (idle : s.readyOn key = []) : s.select key = s := by
  rw [State.select, idle]
  exact ite_self s

section
variable {x y : Nat × Group} {xs : List (Nat × Group)} (empty : (FMap.getD s.lanes key {}).slot = none) (ready : s.readyOn key = x :: xs)
include empty ready

theorem State.select_priority (priority : s.rotates key (s.blk x.2.blk).part = false) (pick : s.pickPrio (x :: xs) = some y) :
    s.select key = s.beginRun key y.1 (FMap.getD s.lanes key {}) := by
  simp only [State.select, empty, ready, priority, pick, Bool.false_eq_true, if_false]

theorem State.select_rotation {c : Nat × Nat} (rotation : s.rotates key (s.blk x.2.blk).part = true)
    (context : c = s.nextCtx (FMap.getD s.lanes key {}) ((x :: xs).map fun y => (s.blk y.2.blk).ctx))
    (pick : bestOf earlier ((x :: xs).filter fun y => (s.blk y.2.blk).ctx = c.1) = some y) :
    s.select key = s.beginRun key y.1 { FMap.getD s.lanes key {} with rctx := c.1, runs := c.2 } := by
  subst context
  simp only [State.select, empty, ready, rotation, pick, Bool.false_eq_true, if_false, if_true]

end

end

/-! ## GROUP_AGEING (R306, R308) -/

section
variable {s : State} {gid : Nat} {g : Group} (here : FMap.find? s.groups gid = some g)

/-- The count of a ready group off its lane runs on in priority mode. -/
theorem State.ages_eq_true (off : OffLane s gid g) (ready : s.isReady g = true)
    (priority : s.rotates (laneKey (s.blk g.blk) g (unitOfGid gid)) (s.blk g.blk).part = false) : s.ages gid g = true := by
  rw [State.ages, ready, priority]
  cases lane : FMap.find? s.lanes (laneKey (s.blk g.blk) g (unitOfGid gid)) with
  | none => rfl
  | some l => simp [off l lane]

theorem State.ages_eq_false (still : s.isReady g = false ∨ s.rotates (laneKey (s.blk g.blk) g (unitOfGid gid)) (s.blk g.blk).part = true) : s.ages gid g = false := by
  obtain unready | rotation := still
  · simp [State.ages, unready]
  · simp [State.ages, rotation]

include here

theorem State.ageGroup_still (still : s.ages gid g = false) : s.ageGroup gid = s := by
  simp [State.ageGroup, here, still]

theorem State.ageGroup_runs {n : Nat} (runs : s.ages gid g = true) (count : n = g.aged + (s.now - g.readyAt)) :
    s.ageGroup gid = if 1000 * max 1 s.regs.aget ≤ n then
      s.setGrp gid { g with raise := min 7 (g.raise + 1), aged := n - 1000 * max 1 s.regs.aget, readyAt := s.now } else s := by
  have reached : s.ageCount gid g = n := by rw [State.ageCount, runs, count]; rfl
  simp only [State.ageGroup, here, runs, reached, State.agePeriod_eq, Bool.true_and, decide_eq_true_eq]

end

/-! ## The statement -/

/-- Settles O42, event by event: each clause is a case of its event in the lemmas above. -/
theorem launchEvents : Obligations.LaunchEvents := by
  unfold Obligations.LaunchEvents
  refine ⟨?ended, ?early, ?priority, ?rotation, ?idle, ?highest, ?ages, ?still⟩
  case ended => exact fun s lid r here ended => congrArg Host.Outcome.next (State.complete_over rfl here ended rfl rfl rfl rfl)
  case early => exact fun s lid r here early => congrArg Host.Outcome.next (State.complete_early rfl here early)
  case priority =>
    intro s key x xs y empty onCore ready priority pick
    rw [show exec (.runSelect key) s = .next (s.laneTurn key) from rfl, State.laneTurn_eq onCore, State.select_priority empty ready priority pick]
    rfl
  case rotation =>
    intro s key x xs y empty onCore ready rotation c pick
    rw [show exec (.runSelect key) s = .next (s.laneTurn key) from rfl, State.laneTurn_eq onCore, State.select_rotation empty ready rotation rfl pick]
    rfl
  case idle =>
    intro s key idle onCore
    rw [show exec (.runSelect key) s = .next (s.laneTurn key) from rfl, State.laneTurn_eq onCore, State.select_idle idle]
  case highest => exact fun s xs y pick => State.pickPrio_highest pick
  case ages => exact fun s gid g here off ready priority => congrArg Host.Outcome.next (State.ageGroup_runs here (State.ages_eq_true off ready priority) rfl)
  case still => exact fun s gid g here still => congrArg Host.Outcome.next (State.ageGroup_still here (State.ages_eq_false still))

end Sys2Proof.Machine
end
section

/-! SUPPORT for O55: memory stays canonical. One lemma for each function of the model that answers a state: it keeps the canonical form, because
it leaves memory as it is, writes it by `writeN`, `writeMask` or `filter`, or calls functions that keep it. -/

namespace Sys2Proof.Machine
open Sys2Proof Sys2Proof.Decode

/-- The canonical form of memory: addresses strictly rising, no byte equal to what an unlisted address reads as. -/
def CanonMem (m : Memory) : Prop := m.wf = true

/-- What stops an instruction carries a state, where it carries one, with memory in canonical form. -/
def Stop.Canon : Stop → Prop
  | .wait s | .hang s _ => CanonMem s.mem
  | .trap _ | .drop => True

/-- An answer satisfies `p` where it is a result, and `q` where it is an error. -/
def Ends {ε α : Type} (q : ε → Prop) (p : α → Prop) : Except ε α → Prop
  | .ok a => p a
  | .error e => q e

/-- A value that is there satisfies `p`. -/
def OptAll {α : Type} (p : α → Prop) (o : Option α) : Prop := ∀ a, o = some a → p a

/-- An outcome that is a next state has memory in canonical form. -/
def CanonOut (r : Host.Outcome State Fault Refusal) : Prop := ∀ t, r = .next t → CanonMem t.mem

/-- What an operation's reads have come to carries a state with memory in canonical form. -/
def Pipes.Canon : Pipes → Prop
  | .wait s => CanonMem s.mem
  | .all _ | .failed _ => True

/-- What `WAITC` meets carries a state with memory in canonical form. -/
def Met.Canon : Met → Prop
  | .failed _ s => CanonMem s.mem
  | .clear | .busy => True

/-- What a fetch comes to carries a state with memory in canonical form. -/
def Fetched.Canon : Fetched → Prop
  | .exec _ s | .done s => CanonMem s.mem

/-! ### The writes of memory -/

theorem CanonMem.writeN {m : Memory} {a bs} (h : CanonMem m) : CanonMem (m.writeN a bs) := Memory.wf_writeN bs a h
theorem CanonMem.writeMask {m : Memory} {a bs} (h : CanonMem m) : CanonMem (m.writeMask a bs) := Memory.wf_writeMask bs a h
theorem CanonMem.filter {m : Memory} {p} (h : CanonMem m) : CanonMem (m.filter p) := Memory.wf_filter p h

/-! ### Choices and folds of states -/

theorem CanonMem.ite {c : Prop} [Decidable c] {a b : State} (ha : CanonMem a.mem) (hb : CanonMem b.mem) : CanonMem (if c then a else b).mem := by
  split <;> assumption
theorem CanonMem.iteFst {α : Type} {c : Prop} [Decidable c] {a b : State × α} (ha : CanonMem a.1.mem) (hb : CanonMem b.1.mem) :
    CanonMem (if c then a else b).1.mem := by
  split <;> assumption
theorem CanonMem.foldl {α : Type} {f : State → α → State} {s : State} {l : List α} (hf : ∀ s x, CanonMem s.mem → CanonMem (f s x).mem) (h : CanonMem s.mem) :
    CanonMem (l.foldl f s).mem :=
  l.foldlRecOn f (motive := fun s => CanonMem s.mem) h fun s hs x _ => hf s x hs
theorem CanonMem.foldlFst {α β : Type} {f : State × β → α → State × β} {s : State × β} {l : List α}
    (hf : ∀ s x, CanonMem s.1.mem → CanonMem (f s x).1.mem) (h : CanonMem s.1.mem) : CanonMem (l.foldl f s).1.mem :=
  l.foldlRecOn f (motive := fun s => CanonMem s.1.mem) h fun s hs x _ => hf s x hs

/-! ### What stops an instruction -/

theorem Stop.Canon.trap {t} : (Stop.trap t).Canon := True.intro
theorem Stop.Canon.drop : Stop.drop.Canon := True.intro
theorem Stop.Canon.wait {s} (h : CanonMem s.mem) : (Stop.wait s).Canon := h
theorem Stop.Canon.hang {s k} (h : CanonMem s.mem) : (Stop.hang s k).Canon := h
theorem Stop.Canon.ite {c : Prop} [Decidable c] {a b : Stop} (ha : a.Canon) (hb : b.Canon) : (if c then a else b).Canon := by
  split <;> assumption

/-! ### Answers that are errors or results -/

section
variable {ε α β : Type} {q : ε → Prop} {p : α → Prop} {p' : β → Prop}

theorem Ends.ok {a : α} (h : p a) : Ends q p (.ok a) := h
theorem Ends.error {e : ε} (h : q e) : Ends q p (.error e) := h
theorem Ends.ite {c : Prop} [Decidable c] {a b : Except ε α} (ha : Ends q p a) (hb : Ends q p b) : Ends q p (if c then a else b) := by
  split <;> assumption
theorem Ends.foldl {γ : Type} {f : Except ε α → γ → Except ε α} {r : Except ε α} {l : List γ} (hf : ∀ r x, Ends q p r → Ends q p (f r x)) (h : Ends q p r) :
    Ends q p (l.foldl f r) :=
  l.foldlRecOn f (motive := Ends q p) h fun r hr x _ => hf r x hr
theorem Ends.stop {r : Except Stop α} {x} (e : r = .error x) (h : Ends Stop.Canon p r) : x.Canon := by
  subst e
  exact h
theorem Ends.state {r : Except ε State} {s} (e : r = .ok s) (h : Ends q (CanonMem ·.mem) r) : CanonMem s.mem := by
  subst e
  exact h
theorem Ends.pair {r : Except ε (State × α)} {x} (e : r = .ok x) (h : Ends q (CanonMem ·.1.mem) r) : CanonMem x.1.mem := by
  subst e
  exact h
/-- A result within a result. -/
theorem Ends.okState {r : Except Stop (Except State State)} {s} (e : r = .ok (.ok s)) (h : Ends Stop.Canon (Ends (CanonMem ·.mem) (CanonMem ·.mem)) r) :
    CanonMem s.mem := by
  subst e
  exact h
/-- A state of its own in which an instruction ends. -/
theorem Ends.ownState {r : Except Stop (Except State α)} {s} {p : α → Prop} (e : r = .ok (.error s)) (h : Ends Stop.Canon (Ends (CanonMem ·.mem) p) r) :
    CanonMem s.mem := by
  subst e
  exact h
theorem Ends.okFst {r : Except Stop (Except State (State × α))} {x} (e : r = .ok (.ok x)) (h : Ends Stop.Canon (Ends (CanonMem ·.mem) (CanonMem ·.1.mem)) r) :
    CanonMem x.1.mem := by
  subst e
  exact h
theorem Ends.waits {r : Except Stop α} {s} (e : r = .error (.wait s)) (h : Ends Stop.Canon p r) : CanonMem s.mem := by
  subst e
  exact h
theorem Ends.fst {r : Except ε (State × α)} {s x} (e : r = .ok (s, x)) (h : Ends q (CanonMem ·.1.mem) r) : CanonMem s.mem := by
  subst e
  exact h
end

/-! ### Values that may be there -/

section
variable {α β : Type} {p : α → Prop} {p' : β → Prop}

theorem OptAll.none : OptAll p none := nofun
theorem OptAll.some {a : α} (h : p a) : OptAll p (some a) := by
  rintro b ⟨⟩
  exact h
theorem OptAll.ite {c : Prop} [Decidable c] {a b : Option α} (ha : OptAll p a) (hb : OptAll p b) : OptAll p (if c then a else b) := by
  split <;> assumption
theorem OptAll.map {f : α → β} {o : Option α} (hf : ∀ a, p a → p' (f a)) (h : OptAll p o) : OptAll p' (o.map f) := by
  cases o with
  | none => exact .none
  | some a => exact .some (hf a (h a rfl))
theorem OptAll.foldl {γ : Type} {f : Option α → γ → Option α} {o : Option α} {l : List γ} (hf : ∀ o x, OptAll p o → OptAll p (f o x)) (h : OptAll p o) :
    OptAll p (l.foldl f o) :=
  l.foldlRecOn f (motive := OptAll p) h fun o ho x _ => hf o x ho
theorem OptAll.findSome {f : β → Option α} {l : List β} (hf : ∀ x, OptAll p (f x)) : OptAll p (l.findSome? f) := by
  intro a h
  obtain ⟨_, x, _, _, e, _⟩ := List.findSome?_eq_some_iff.1 h
  exact hf x a e
theorem OptAll.state {o : Option State} {s} (e : o = Option.some s) (h : OptAll (CanonMem ·.mem) o) : CanonMem s.mem := h s e
theorem OptAll.fst {o : Option (State × α)} {s x} (e : o = Option.some (s, x)) (h : OptAll (CanonMem ·.1.mem) o) : CanonMem s.mem := h _ e
theorem OptAll.stop {o : Option Stop} {x} (e : o = Option.some x) (h : OptAll Stop.Canon o) : x.Canon := h x e
theorem CanonMem.getD {o : Option State} {s : State} (h : OptAll (CanonMem ·.mem) o) (hs : CanonMem s.mem) : CanonMem (o.getD s).mem := by
  cases o with
  | none => exact hs
  | some t => exact h t rfl

end

/-! ### Outcomes and the other answers -/

theorem CanonOut.next {s : State} (h : CanonMem s.mem) : CanonOut (.next s) := by
  rintro t ⟨⟩
  exact h
theorem CanonOut.refused {r} : CanonOut (.refused r) := fun _ h => Host.Outcome.noConfusion rfl rfl rfl (heq_of_eq h)
theorem Pipes.Canon.all {bs} : (Pipes.all bs).Canon := True.intro
theorem Pipes.Canon.failed {r} : (Pipes.failed r).Canon := True.intro
theorem Pipes.Canon.wait {s} (h : CanonMem s.mem) : (Pipes.wait s).Canon := h
theorem Pipes.Canon.ite {c : Prop} [Decidable c] {a b : Pipes} (ha : a.Canon) (hb : b.Canon) : (if c then a else b).Canon := by
  split <;> assumption
theorem Pipes.state {r : Pipes} {s} (e : r = .wait s) (h : r.Canon) : CanonMem s.mem := by
  subst e
  exact h
theorem Met.Canon.clear : Met.clear.Canon := True.intro
theorem Met.Canon.busy : Met.busy.Canon := True.intro
theorem Met.Canon.failed {t s} (h : CanonMem s.mem) : (Met.failed t s).Canon := h
theorem Met.Canon.ite {c : Prop} [Decidable c] {a b : Met} (ha : a.Canon) (hb : b.Canon) : (if c then a else b).Canon := by
  split <;> assumption
theorem Met.state {r : Met} {t s} (e : r = .failed t s) (h : r.Canon) : CanonMem s.mem := by
  subst e
  exact h
theorem Fetched.Canon.exec {i s} (h : CanonMem s.mem) : (Fetched.exec i s).Canon := h
theorem Fetched.Canon.done {s} (h : CanonMem s.mem) : (Fetched.done s).Canon := h
theorem Fetched.Canon.ite {c : Prop} [Decidable c] {a b : Fetched} (ha : a.Canon) (hb : b.Canon) : (if c then a else b).Canon := by
  split <;> assumption

section
variable {s : State} {c : Iss}

/-! ### Mem -/

theorem CanonMem.poison {a} (h : CanonMem s.mem) : CanonMem (s.poison a).mem := .writeN h
theorem CanonMem.applyBytes {a bs} (h : CanonMem s.mem) : CanonMem (s.applyBytes a bs).mem := .writeMask h
theorem CanonMem.applyAll {a bs} (h : CanonMem s.mem) : CanonMem (s.applyAll a bs).mem := .applyBytes h
theorem CanonMem.zeroBytes {a n} (h : CanonMem s.mem) : CanonMem (s.zeroBytes a n).mem := .filter h

/-! ### Labels -/

theorem CanonMem.setTab {key e} (h : CanonMem s.mem) : CanonMem (s.setTab key e).mem := h
theorem CanonMem.loseTab {key} (h : CanonMem s.mem) : CanonMem (s.loseTab key).mem := h
theorem CanonMem.countUp {key} (h : CanonMem s.mem) : CanonMem (s.countUp key).mem := h
theorem CanonMem.countDown {keys} (h : CanonMem s.mem) : CanonMem (s.countDown keys).mem := h

/-! ### Operands -/

theorem CanonMem.setGrp {gid g} (h : CanonMem s.mem) : CanonMem (s.setGrp gid g).mem := h
theorem CanonMem.setBlk {k b} (h : CanonMem s.mem) : CanonMem (s.setBlk k b).mem := h
theorem CanonMem.setCtx {c x} (h : CanonMem s.mem) : CanonMem (s.setCtx c x).mem := h
theorem CanonMem.onGrp {gid f} (h : CanonMem s.mem) : CanonMem (s.onGrp gid f).mem := h
theorem CanonMem.onBlk {k f} (h : CanonMem s.mem) : CanonMem (s.onBlk k f).mem := h
theorem CanonMem.onCore {u f} (h : CanonMem s.mem) : CanonMem (s.onCore u f).mem := h

/-! ### L2 -/

theorem CanonMem.touch {keys} (h : CanonMem s.mem) : CanonMem (s.touch keys).mem := h
theorem CanonMem.useLine {t} (h : CanonMem s.mem) : CanonMem (s.useLine t).mem := h
theorem CanonMem.lineApply {t slice g bs} (h : CanonMem s.mem) : CanonMem (s.lineApply t slice g bs).mem := h
theorem CanonMem.poisonLine {t secs} (h : CanonMem s.mem) : CanonMem (s.poisonLine t secs).mem := h
theorem CanonMem.writeBack {t inv} (h : CanonMem s.mem) : CanonMem (s.writeBack t inv).mem := by
  unfold State.writeBack
  split
  · exact h
  · exact .ite (.ite h h) h
theorem CanonMem.lineDrop {t} (h : CanonMem s.mem) : CanonMem (s.lineDrop t).mem := h
theorem CanonMem.l1DropAll (h : CanonMem s.mem) : CanonMem s.l1DropAll.mem := h
theorem CanonMem.l1DropCtx {u ctx} (h : CanonMem s.mem) : CanonMem (s.l1DropCtx u ctx).mem := h
theorem CanonMem.send {peer vc body rel} (h : CanonMem s.mem) : CanonMem (s.send peer vc body rel).mem := h
theorem CanonMem.newReq {q} (h : CanonMem s.mem) : CanonMem (s.newReq q).mem := h
theorem CanonMem.setReq {id q} (h : CanonMem s.mem) : CanonMem (s.setReq id q).mem := h
theorem CanonMem.arrive {id q st} (h : CanonMem s.mem) : CanonMem (s.arrive id q st).mem := h
theorem CanonMem.onReq {id f} (h : CanonMem s.mem) (hff : ∀ y0, CanonMem (f y0).mem) : CanonMem (s.onReq id f).mem := by
  unfold State.onReq
  split
  · exact hff _
  · exact h
theorem CanonMem.uncount {id q} (h : CanonMem s.mem) : CanonMem (s.uncount id q).mem := .ite (.countDown h) (.countDown <| .countDown h)
theorem CanonMem.dropReq {id} (h : CanonMem s.mem) : CanonMem (s.dropReq id).mem := by
  unfold State.dropReq
  split
  · exact .uncount h
  · exact h
theorem CanonMem.performed {id q} (h : CanonMem s.mem) : CanonMem (s.performed id q).mem := .setReq <| .uncount h
theorem CanonMem.dropFam {fam} (h : CanonMem s.mem) : CanonMem (s.dropFam fam).mem := .foldl (fun _ _ h1 => .dropReq h1) h
theorem CanonMem.applyTargets {g xs} (h : CanonMem s.mem) : CanonMem (s.applyTargets g xs).mem :=
  .foldl (fun _ _ h1 => .touch <| .applyBytes h1) (.foldl (fun _ _ h1 => .lineApply h1) h)
theorem CanonMem.posted {g ptr bs} (h : CanonMem s.mem) : CanonMem (s.posted g ptr bs).mem := h
theorem Ends.wrN {g ptr bs} (h : CanonMem s.mem) : Ends (fun _ => True) (CanonMem ·.mem) (s.wrN g ptr bs) := by
  unfold State.wrN
  split
  · exact .error trivial
  split
  · exact .ok <| .applyTargets h
  · exact .ok <| .posted h
  · exact .error trivial

/-! ### Post -/

theorem CanonMem.poke {g p n v} (h : CanonMem s.mem) : CanonMem (s.poke g p n v).mem := by
  unfold State.poke
  split
  next s' he => exact Ends.state he (.wrN h)
  · exact h
theorem CanonMem.putEntry {dst rec_ type wait} (h : CanonMem s.mem) : CanonMem (s.putEntry dst rec_ type wait).mem := by
  unfold State.putEntry
  refine .poke ?_
  extract_lets
  split
  next s' he => exact Ends.state he (.wrN h)
  · exact h
theorem CanonMem.msixTo {c v} (h : CanonMem s.mem) : CanonMem (s.msixTo c v).mem := by
  unfold State.msixTo
  extract_lets
  split
  · exact h
  · exact h
  · exact .setCtx h
theorem CanonMem.irqTo {n} (h : CanonMem s.mem) : CanonMem (s.irqTo n).mem := by
  unfold State.irqTo
  split
  · exact .setGrp h
  · exact .onCore h
theorem CanonMem.postEvent {c type v w1 w2 w3} (h : CanonMem s.mem) : CanonMem (s.postEvent c type v w1 w2 w3).mem := by
  unfold State.postEvent
  refine .ite (.msixTo h) (.ite (.poke h) (.ite (.msixTo <| .poke h) (.msixTo <| .poke ?_)))
  extract_lets
  split
  next s' he => exact Ends.state he (.wrN h)
  · exact h
theorem CanonMem.queueFull {dst} (h : CanonMem s.mem) : CanonMem (s.queueFull dst).mem :=
  .ite h (.ite (.postEvent <| .poke <| .poke h) (.irqTo <| .poke <| .poke h))
theorem CanonMem.post {dst rec_ type wait who} (h : CanonMem s.mem) : CanonMem (s.post dst rec_ type wait who).mem := by
  unfold State.post
  refine .ite (.queueFull h) ?_
  extract_lets
  split
  · exact .putEntry h
  · exact .putEntry h
theorem CanonMem.postCopy {dst rec_ type} (h : CanonMem s.mem) : CanonMem (s.postCopy dst rec_ type).mem := .ite (.putEntry h) (.ite h (.poke h))
theorem CanonMem.notice {kind about} (h : CanonMem s.mem) : CanonMem (s.notice kind about).mem := .post h
theorem CanonMem.virtualError {type ctx ptr lid} (h : CanonMem s.mem) : CanonMem (s.virtualError type ctx ptr lid).mem := by
  unfold State.virtualError
  refine .ite h (.ite (.poke h) (.poke ?_))
  extract_lets
  split
  next s' he => exact Ends.state he (.wrN h)
  · exact h
theorem CanonMem.service {reason unit} (h : CanonMem s.mem) : CanonMem (s.service reason unit).mem := h
theorem CanonMem.report {o k r who} (h : CanonMem s.mem) : CanonMem (s.report o k r who).mem :=
  .ite (.post h) (.postCopy <| .ite (.post h) (.ite (.post h) (.post h)))
theorem CanonMem.loadDesc {c} (h : CanonMem s.mem) : CanonMem (s.loadDesc c).mem := by
  unfold State.loadDesc
  refine .ite h ?_
  extract_lets
  split
  · exact h
  · exact .setCtx h
theorem CanonMem.storeDesc {c} (h : CanonMem s.mem) : CanonMem (s.storeDesc c).mem := .ite h (.poke h)

/-! ### Ops -/

theorem CanonMem.freeLane {key slot} (h : CanonMem s.mem) : CanonMem (s.freeLane key slot).mem := by
  unfold State.freeLane
  split
  · exact .ite h h
  · exact h
theorem CanonMem.endRun {gid} (h : CanonMem s.mem) : CanonMem (s.endRun gid).mem := .freeLane <| .setGrp h
theorem CanonMem.commit {k} (h : CanonMem s.mem) : CanonMem (s.commit k).mem := h
theorem CanonMem.noRestart {k} (h : CanonMem s.mem) : CanonMem (s.noRestart k).mem := h
theorem CanonMem.takeTrap {gid t} (h : CanonMem s.mem) : CanonMem (s.takeTrap gid t).mem :=
  .ite (.post <| .post <| .endRun <| .setGrp h) (.endRun <| .setGrp <| .writeN h)
theorem CanonMem.dueTrap {gid t} (h : CanonMem s.mem) : CanonMem (s.dueTrap gid t).mem := h
theorem CanonMem.dropOps {gid} (h : CanonMem s.mem) : CanonMem (s.dropOps gid).mem := .foldl (fun _ _ h1 => .dropReq h1) h
theorem CanonMem.regid {old new} (h : CanonMem s.mem) : CanonMem (s.regid old new).mem := h
theorem CanonMem.bury {gid} (h : CanonMem s.mem) : CanonMem (s.bury gid).mem := h
theorem CanonMem.sweepSlots (h : CanonMem s.mem) : CanonMem s.sweepSlots.mem := h
theorem CanonMem.releaseTiles {gid} (h : CanonMem s.mem) : CanonMem (s.releaseTiles gid).mem := h
theorem CanonMem.hangAgain {c} (h : CanonMem s.mem) : CanonMem (s.hangAgain c).mem := h
theorem CanonMem.endGroup {gid} (h : CanonMem s.mem) : CanonMem (s.endGroup gid).mem := by
  unfold State.endGroup
  extract_lets g b s1 d s2 s3 name s4 s5 s6
  have h1 : CanonMem s1.mem := .freeLane <| .hangAgain h
  have hd : CanonMem d.mem := .dropOps h1
  have h2 : CanonMem s2.mem := hd
  have h5 : CanonMem s5.mem := .onBlk <| .bury <| .releaseTiles h2
  have h6 : CanonMem s6.mem := by
    unfold s6
    split <;> exact h5
  exact .ite (.commit h6) h6
theorem CanonMem.clearBlock {k} (h : CanonMem s.mem) : CanonMem (s.clearBlock k).mem :=
  .foldl (fun _ _ h1 => .bury h1) (.foldl (fun _ _ h1 => .dropReq h1) (.foldl (fun _ _ h1 => .dropOps <| .freeLane h1) (.hangAgain h)))
theorem CanonMem.requeue {k b} (h : CanonMem s.mem) : CanonMem (s.requeue k b).mem := h
theorem CanonMem.dropBlock {k} (h : CanonMem s.mem) : CanonMem (s.dropBlock k).mem :=
  .ite (.virtualError <| .notice <| .clearBlock h) (.virtualError <| .foldl (fun _ _ h1 => .dueTrap <| .onGrp h1) h)
theorem OptAll.checkEmpty {rs} (h : CanonMem c.s.mem) : OptAll Stop.Canon (checkEmpty c rs) := by
  unfold Machine.checkEmpty
  split
  · exact .none
  refine .ite ?_ (.some <| .wait h)
  split
  · exact .some .trap
  · exact .none
theorem OptAll.checkTags {rs} : OptAll Stop.Canon (checkTags rs) := by
  unfold Machine.checkTags
  split
  · exact .none
  split
  · exact .some .trap
  · exact .none
theorem OptAll.checkTent {hd rs} (h : CanonMem c.s.mem) : OptAll Stop.Canon (checkTent c hd rs) := by
  unfold Machine.checkTent
  exact .ite (.some <| .wait h) .none
theorem Stop.Canon.consume {thread} : (consume c thread).Canon := by
  unfold Machine.consume
  exact .ite .drop .trap
theorem OptAll.checkPois {hd rs} : OptAll Stop.Canon (checkPois c hd rs) := by
  unfold Machine.checkPois
  dsimp only
  split
  · exact .none
  · exact .some .consume
theorem OptAll.runChecks {hd rs dst own} (h : CanonMem c.s.mem) (hown : OptAll Stop.Canon own) : OptAll Stop.Canon (runChecks c hd rs dst own) := by
  unfold Machine.runChecks
  split
  next x he => exact .some <| OptAll.stop he (.checkEmpty h)
  refine .ite (.some <| .wait h) ?_
  split
  next x he => exact .some <| OptAll.stop he .checkTags
  split
  next x => exact .some <| OptAll.stop rfl hown
  split
  next x he => exact .some <| OptAll.stop he (.checkTent h)
  · exact .checkPois
theorem Ends.start {i o own} (h : CanonMem c.s.mem) (hown : OptAll Stop.Canon own) : Ends Stop.Canon (fun _ => True) (start c i o own) := by
  unfold Machine.start
  extract_lets
  split
  next x he => exact .error <| OptAll.stop he (.runChecks h hown)
  · exact .ok trivial
theorem CanonMem.retire {gid hd jumps ends} (h : CanonMem s.mem) : CanonMem (s.retire gid hd jumps ends).mem := by
  unfold State.retire
  split
  · exact h
  refine .ite ?_ (.ite (.endRun <| .setGrp h) (.setGrp h))
  extract_lets
  split
  · exact .endGroup h
  · exact .ite (.endRun <| .setGrp h) (.setGrp h)
theorem CanonMem.pass {gid} (h : CanonMem s.mem) : CanonMem (s.pass gid).mem := h
theorem CanonMem.stick {gid kind} (h : CanonMem s.mem) : CanonMem (s.stick gid kind).mem := h
theorem CanonMem.stopped {gid x} (h : CanonMem s.mem) (hx : x.Canon) : CanonMem (s.stopped gid x).mem := by
  unfold State.stopped
  split
  · exact .takeTrap h
  · exact .endRun <| .stick hx
  · exact .endRun <| .stick hx
  · exact .dropBlock <| .endRun h
theorem CanonOut.issueOr {o jumps ends f} (h : CanonMem s.mem)
    (hf : ∀ c : Iss, CanonMem c.s.mem → Ends Stop.Canon (Ends (CanonMem ·.mem) (CanonMem ·.mem)) (f c)) : CanonOut (issueOr o s jumps ends f) := by
  unfold Machine.issueOr
  split
  · exact .refused
  extract_lets
  split
  next t e => exact .next <| .retire <| Ends.okState e (hf _ h)
  next t e => exact .next <| Ends.ownState e (hf _ h)
  next x e => exact .next <| .stopped h <| Ends.stop e (hf _ h)
theorem CanonOut.issue {o jumps ends f} (h : CanonMem s.mem) (hff : ∀ y0, CanonMem y0.s.mem → Ends Stop.Canon (CanonMem ·.mem) (f y0)) : CanonOut (issue o s
    jumps ends f) := by
  unfold Machine.issue
  split
  · exact .refused
  extract_lets
  split
  next s' he => exact .next <| .retire <| Ends.state he (hff _ h)
  next x he => exact .next <| .stopped h (Ends.stop he (hff _ h))
theorem CanonMem.addOp {o} (h : CanonMem s.mem) : CanonMem (s.addOp o).mem := h
theorem CanonOut.aluTags {i o own f} (h : CanonMem s.mem) (hfown : ∀ y0, CanonMem y0.s.mem → OptAll Stop.Canon (own y0)) : CanonOut (aluTags i o s own f) :=
    by
  unfold Machine.aluTags
  refine .issue h (fun _ h1 => ?_)
  split
  next x he => exact .error <| Ends.stop he (.start h1 (hfown _ h1))
  · exact .ok <| .setGrp h1
theorem CanonOut.alu {i o f} (h : CanonMem s.mem) : CanonOut (alu i o s f) := by
  unfold Machine.alu
  exact .aluTags h (fun _ h1 => .none)
theorem Ends.firstStopOf {α : Type} {f : α → Except Stop Unit} {xs : List α} (hf : ∀ x ∈ xs, Ends Stop.Canon (fun _ => True) (f x)) :
    Ends Stop.Canon (fun _ => True) (firstStop f xs) := by
  induction xs with
  | nil => exact .ok trivial
  | cons x xs ih =>
    unfold Machine.firstStop
    split
    · exact ih fun y hy => hf y (List.mem_cons_of_mem x hy)
    next e he => exact .error <| Ends.stop he (hf x List.mem_cons_self)
theorem Ends.firstStop {α : Type} {f : α → Except Stop Unit} {xs : List α} (hf : ∀ x, Ends Stop.Canon (fun _ => True) (f x)) :
    Ends Stop.Canon (fun _ => True) (firstStop f xs) := .firstStopOf fun x _ => hf x
theorem CanonOut.aluTrap {i o f} (h : CanonMem s.mem)
    (hf : ∀ (c : Iss) t d a b, Ends Stop.Canon (fun _ => True) (f c t d a b)) : CanonOut (aluTrap i o s f) := by
  unfold Machine.aluTrap
  refine .issue h fun c h1 => ?_
  split
  next x e => exact .error <| Ends.stop e (.start h1 .none)
  extract_lets
  split
  next x e =>
    refine .error <| Ends.stop e <| .firstStopOf fun r hr => ?_
    obtain ⟨t, _, rfl⟩ := List.mem_map.1 hr
    split
    · exact .ok trivial
    next y e => exact .error <| Ends.stop e (hf ..)
  · exact .ok h1

/-! ### Access -/

theorem Ends.checkAccess {t p n k al} : Ends Stop.Canon (fun _ => True) (checkAccess c t p n k al) := by
  unfold Machine.checkAccess
  refine .ite ?_ ?_
  · split
    · exact .ok trivial
    · exact .error .trap
  · split
    · exact .error .trap
    · exact .ite (.error .trap) (.ok trivial)
theorem Ends.latePromise {t p n} : Ends Stop.Canon (fun _ => True) (latePromise c t p n) := by
  unfold Machine.latePromise
  split
  · exact .ok trivial
  · exact .error .trap
theorem OptAll.localGate {write} (h : CanonMem c.s.mem) : OptAll Stop.Canon (localGate c write) := by
  unfold Machine.localGate
  exact .ite (.some <| .wait h) .none
theorem OptAll.accessGate {write} (h : CanonMem c.s.mem) : OptAll Stop.Canon (accessGate c write) := by
  unfold Machine.accessGate
  exact .ite (.some <| .wait h) (.localGate h)
theorem OptAll.loadWaits {p n} (h : CanonMem c.s.mem) : OptAll Stop.Canon (loadWaits c p n) := by
  unfold Machine.loadWaits
  exact .ite (.some <| .wait h) (.ite (.some <| .wait <| .commit h) (.ite (.some <| .wait h) .none))
theorem OptAll.localWaits {a n} (h : CanonMem c.s.mem) : OptAll Stop.Canon (localWaits c a n) := by
  unfold Machine.localWaits
  exact .ite (.some <| .wait <| .commit h) .none
theorem CanonMem.issueLoad {d w ty ca gth x} (hs : CanonMem s.mem) : CanonMem (issueLoad c d w ty ca gth s x).mem := .ite hs (.newReq hs)
theorem CanonMem.vector {gid n} (h : CanonMem s.mem) : CanonMem (s.vector gid n).1.mem := h
theorem CanonMem.issueLocal {d w ty tag org t bytes pois tent acq ws loc} (h : CanonMem s.mem) : CanonMem (issueLocal c d w ty tag org t bytes pois tent acq
    ws loc s).mem :=
  h
theorem CanonMem.putSector {base loc at_ bs tent src rel} (hs : CanonMem s.mem) : CanonMem (putSector c base loc at_ bs tent src rel s).mem := by
  unfold Machine.putSector
  refine .ite hs ?_
  extract_lets
  split
  · split
    · exact hs
    · exact hs
  · exact hs
theorem CanonMem.appendLog {w} (h : CanonMem s.mem) : CanonMem (s.appendLog w).mem := h
theorem OptAll.letIn {label f} {o : Option State} (hf : ∀ t : State, CanonMem t.mem → CanonMem (f t).mem) (h : OptAll (CanonMem ·.mem) o) :
    OptAll (CanonMem ·.mem) (letIn c label f o) := by
  cases o with
  | none => exact .none
  | some t => exact .ite (.some <| hf t (h t rfl)) .none
theorem OptAll.putLabel {p bytes tent src rel s} (_ : CanonMem c.s.mem) (hs : OptAll (CanonMem ·.mem) s) : OptAll (CanonMem ·.mem) (putLabel c p bytes tent
    src rel s) := by
  unfold Machine.putLabel
  exact .foldl (fun _ _ h1 => .ite h1 (.letIn (fun _ h2 => .ite h2 (.putSector h2)) h1)) (.map (fun _ h1 => h1) hs)
theorem CanonMem.l1Store {unit ctx p} (h : CanonMem s.mem) : CanonMem (s.l1Store unit ctx p).mem := by
  unfold State.l1Store
  split
  · exact .ite (.onCore h) h
  · exact h
theorem CanonMem.l1StoreN {unit ctx p n} (h : CanonMem s.mem) : CanonMem (s.l1StoreN unit ctx p n).mem := .l1Store <| .l1Store h
theorem CanonMem.writeLocal {a bs} (h : CanonMem s.mem) : CanonMem (s.writeLocal a bs).mem := .foldl (fun _ _ h1 => .notice h1) (.applyBytes h)
theorem OptAll.putStore {rel s x} (h : CanonMem c.s.mem) (hs : OptAll (CanonMem ·.mem) s) : OptAll (CanonMem ·.mem) (putStore c rel s x) := by
  unfold Machine.putStore
  extract_lets
  split
  · exact .map (fun _ h1 => .l1StoreN h1) (.putLabel h hs)
  · exact .ite (.map (fun _ h1 => .writeLocal h1) hs) (.letIn (fun _ h1 => .putSector h1) hs)
  · exact hs
theorem Ends.fits {after} {before : State} (hbefore : CanonMem before.mem) (hafter : OptAll (CanonMem ·.mem) after) : Ends Stop.Canon (CanonMem ·.mem) (fits c
    before after) := by
  unfold Machine.fits
  split
  · exact .error <| .wait hbefore
  next after => exact .ite (.error <| .wait hbefore) (.ok <| OptAll.state rfl hafter)
theorem Ends.release {sc targets} (h : CanonMem c.s.mem) : Ends Stop.Canon (CanonMem ·.mem) (release c sc targets) := by
  unfold Machine.release
  exact .ite (.ok <| .commit h) (.error <| .wait <| .commit h)
theorem CanonMem.atomAt {a op ty vals} (h : CanonMem s.mem) : CanonMem (s.atomAt a op ty vals).1.mem := by
  unfold State.atomAt
  exact .iteFst h (.applyAll h)

/-! ### Memory -/

theorem CanonMem.loadOne {d w ty ca gth x} (hs : CanonMem s.mem) : CanonMem (loadOne c d w ty ca gth s x).mem := by
  unfold Machine.loadOne
  split
  · exact .issueLocal hs
  next x he => exact .issueLoad hs
theorem Ends.loadChecks {n xs} (h : CanonMem c.s.mem) : Ends Stop.Canon (fun _ => True) (loadChecks c n xs) := by
  unfold Machine.loadChecks
  split
  next e he =>
    refine .error <| Ends.stop he (.firstStop <| fun _ => ?_)
    split
    · exact .ok trivial
    next e he => exact .error <| Ends.stop he .checkAccess
  split
  next e he => exact .error <| Ends.stop he (.firstStop <| fun _ => .latePromise)
  refine .firstStop <| fun _ => ?_
  split
  · refine .ite (.ok trivial) ?_
    split
    next e he => exact .error <| OptAll.stop he (.localWaits h)
    · exact .ok trivial
  next x he =>
    split
    next e he => exact .error <| OptAll.stop he (.loadWaits h)
    · exact .ok trivial
theorem Ends.loadAll {d w ty ca xs} (h : CanonMem c.s.mem) : Ends Stop.Canon (CanonMem ·.mem) (loadAll c d w ty ca xs) := by
  unfold Machine.loadAll
  refine .ite (.ok h) ?_
  split
  next e he => exact .error <| OptAll.stop he (.accessGate h)
  split
  next e he => exact .error <| Ends.stop he (.loadChecks h)
  · exact .ok <| .foldl (fun _ _ h1 => .loadOne h1) h
theorem CanonOut.execLd {m o} (h : CanonMem s.mem) : CanonOut (execLd m o s) := by
  unfold Machine.execLd
  refine .issue h (fun _ h1 => ?_)
  split
  next x he => exact .error <| Ends.stop he (.start h1 .none)
  · exact .loadAll h1
theorem Ends.elements {n k al xs} : Ends Stop.Canon (fun _ => True) (elements c n k al xs) := by
  unfold Machine.elements
  split
  next e he => exact .error <| Ends.stop he (.firstStop <| fun _ => .ite (.error .trap) (.ite (.error .trap) (.ok trivial)))
  · exact .ok trivial
theorem CanonOut.execLdv {m o} (h : CanonMem s.mem) : CanonOut (execLdv m o s) := by
  unfold Machine.execLdv
  refine .issue h (fun _ h1 => ?_)
  split
  next x he => exact .error <| Ends.stop he (.start h1 .none)
  refine .ite (.ok h1) ?_
  split
  next e he => exact .error <| OptAll.stop he (.accessGate h1)
  extract_lets
  split
  next e he => exact .error <| Ends.stop he .elements
  split
  next e he => exact .error <| Ends.stop he (.loadChecks h1)
  · exact .ite (.error <| .wait h1) (.ok <| .foldl (fun _ _ h2 => .loadOne h2) (.vector h1))
theorem Ends.placeStores {n gth xs} : Ends Stop.Canon (fun _ => True) (placeStores c n gth xs) := by
  unfold Machine.placeStores
  split
  next e he =>
    refine .error <| Ends.stop he (.firstStop <| fun _ => ?_)
    split
    · exact .ok trivial
    next e he => exact .error <| Ends.stop he .checkAccess
  · exact .ok trivial
/-- A release that an instruction may have. -/
theorem Ends.maybeRelease {rel : Option Scope} {ps : List W64} (h : CanonMem c.s.mem) :
    Ends Stop.Canon (CanonMem ·.mem) (match rel with | some sc => Machine.release c sc ps | none => .ok c.s) := by
  split
  · exact .release h
  · exact .ok h
theorem Ends.storeAll {n rel gth xs} {before : State} (h : CanonMem c.s.mem) (hbefore : CanonMem before.mem) : Ends Stop.Canon (CanonMem ·.mem) (storeAll c n
    rel gth before xs) := by
  unfold Machine.storeAll
  refine .ite (.ok hbefore) ?_
  split
  next e he => exact .error <| OptAll.stop he (.accessGate h)
  split
  next e he => exact .error <| Ends.stop he (.firstStop <| fun _ => .latePromise)
  refine .ite (.error <| .wait h) ?_
  split
  next e he => exact .error <| Ends.stop he (p := (CanonMem ·.mem)) (.maybeRelease h)
  · exact .fits h (.foldl (fun _ _ h1 => .putStore h h1) (.some <| .ite hbefore hbefore))
theorem CanonOut.execSt {m o} (h : CanonMem s.mem) : CanonOut (execSt m o s) := by
  unfold Machine.execSt
  refine .issue h (fun _ h1 => ?_)
  split
  next x he => exact .error <| Ends.stop he (.start h1 .none)
  extract_lets
  split
  next e he => exact .error <| Ends.stop he .placeStores
  · exact .storeAll h1 h1
theorem CanonOut.execStv {m o} (h : CanonMem s.mem) : CanonOut (execStv m o s) := by
  unfold Machine.execStv
  refine .issue h fun c h1 => ?_
  split
  next x he => exact .error <| Ends.stop he (.start h1 .none)
  refine .ite (.ok h1) ?_
  extract_lets
  split
  next e he => exact .error <| Ends.stop he .elements
  refine .ite (.error <| .wait h1) ?_
  extract_lets xs v
  split
  next e he => exact .error <| Ends.stop he (.storeAll h1 h1)
  next t he =>
    have ht : CanonMem t.mem := Ends.state he (.storeAll h1 h1)
    exact .ok ht
theorem OptAll.putAtomLoc {op ty opId rel gth s x} (_ : CanonMem c.s.mem) (hs : OptAll (CanonMem ·.mem) s) : OptAll (CanonMem ·.mem) (putAtomLoc c op ty opId
    rel gth s x) := by
  unfold Machine.putAtomLoc
  split
  · exact hs
  extract_lets
  split
  · refine .ite (.map (fun _ h1 => ?_) hs) (.letIn (fun _ h1 => h1) hs)
    extract_lets
    split
    · exact .atomAt h1
    · exact .ite (.virtualError <| .notice <| .atomAt h1) (.atomAt h1)
  · exact .letIn (fun _ h1 => .ite (.l1StoreN h1) (.l1StoreN h1)) hs
theorem Ends.placeAtoms {n xs} : Ends Stop.Canon (fun _ => True) (placeAtoms c n xs) := by
  unfold Machine.placeAtoms
  split
  next e he =>
    refine .error <| Ends.stop he (.firstStop <| fun _ => ?_)
    split
    · exact .ok trivial
    next e he => exact .error <| Ends.stop he .checkAccess
  · exact .ok trivial
theorem Ends.atomWaits {n red xs} (h : CanonMem c.s.mem) : Ends Stop.Canon (fun _ => True) (atomWaits c n red xs) := by
  unfold Machine.atomWaits
  split
  next e he => exact .error <| OptAll.stop he (.accessGate h)
  split
  next e he => exact .error <| Ends.stop he (.firstStop <| fun _ => .latePromise)
  · exact .ite (.error <| .wait h) (.ok trivial)
theorem Ends.atomAll {op ty ord sc d w vec xs} (h : CanonMem c.s.mem) : Ends Stop.Canon (CanonMem ·.mem) (atomAll c op ty ord sc d w vec xs) := by
  unfold Machine.atomAll
  refine .ite (.ok h) ?_
  split
  next e he => exact .error <| Ends.stop he (.atomWaits h)
  extract_lets rel out groups
  split
  next e he => exact .error <| Ends.stop he (p := (CanonMem ·.mem)) (.maybeRelease h)
  next s0 he =>
    refine .ite (.error <| .wait h) ?_
    extract_lets s1 s2 k gth s3
    have h0 : CanonMem s0.mem := Ends.state he (.maybeRelease h)
    have h1 : CanonMem s1.mem := .ite (.noRestart h0) h0
    have h2 : CanonMem s2.mem := .ite (.commit h1) h1
    split
    · exact .fits h (.foldl (fun _ _ h3 => .putAtomLoc h h3) (.some h2))
    extract_lets s4 a s5 s6
    clear_value gth
    have h3 : CanonMem s3.mem := h2
    have h4 : CanonMem s4.mem := .onGrp h3
    have h5 : CanonMem s5.mem := h4
    have h6 : CanonMem s6.mem := by
      unfold s6
      split <;> exact h5
    exact .fits h (.foldl (fun _ _ h7 => .putAtomLoc h h7) (.some h6))
theorem CanonOut.execAtom {m o} (h : CanonMem s.mem) : CanonOut (execAtom m o s) := by
  unfold Machine.execAtom
  refine .issue h (fun _ h1 => ?_)
  split
  next x he => exact .error <| Ends.stop he (.start h1 .none)
  extract_lets
  split
  next e he => exact .error <| Ends.stop he (.ite .elements (.ok trivial))
  split
  next e he => exact .error <| Ends.stop he .placeAtoms
  · exact .atomAll h1
theorem CanonOut.execRed {m o} (h : CanonMem s.mem) : CanonOut (execRed m o s) := by
  unfold Machine.execRed
  refine .issue h (fun _ h1 => ?_)
  split
  next x he => exact .error <| Ends.stop he (.start h1 .none)
  split
  next e he => exact .error <| Ends.stop he .placeAtoms
  · exact .atomAll h1
theorem CanonMem.endCont {gid} (h : CanonMem s.mem) : CanonMem (s.endCont gid).mem := h
theorem Ends.await (hs : CanonMem s.mem) : Ends Stop.Canon (CanonMem ·.mem) (c.await s) := by
  unfold Iss.await
  exact .error <| .wait <| .onGrp hs
theorem CanonOut.execFence {m o} (h : CanonMem s.mem) : CanonOut (execFence m o s) := by
  unfold Machine.execFence
  refine .issue h (fun _ h1 => ?_)
  split
  next x he => exact .error <| Ends.stop he (.start h1 .none)
  · exact .ite (.ok h1) (.ite (.await <| .ite (.commit h1) h1) (.ite (.await <| .ite (.commit h1) h1) (.ok <| .endCont <| .ite (.onCore <| .ite (.commit h1)
      h1) (.ite (.commit h1) h1))))
theorem CanonOut.execCommit {vfy o} (h : CanonMem s.mem) : CanonOut (execCommit vfy o s) := by
  unfold Machine.execCommit
  refine .issue h (fun _ h1 => ?_)
  split
  next x he => exact .error <| Ends.stop he (.start h1 .none)
  · exact .ite (.ok h1) (.ite (.error <| .wait h1) (.ok <| .commit h1))
theorem CanonOut.execPref {l1 o} (h : CanonMem s.mem) : CanonOut (execPref l1 o s) := by
  unfold Machine.execPref
  refine .issue h (fun _ h1 => ?_)
  split
  next x he => exact .error <| Ends.stop he (.start h1 .none)
  · exact .ok <| .foldl (fun _ _ h2 => .ite h2 (.newReq h2)) h1
theorem Ends.rangeCheck {p len} : Ends Stop.Canon (fun _ => True) (rangeCheck c p len) := by
  unfold Machine.rangeCheck
  exact .ite (.error .trap) (.ite (.error .trap) (.ok trivial))
theorem CanonOut.execIcinv {m o} (h : CanonMem s.mem) : CanonOut (execIcinv m o s) := by
  unfold Machine.execIcinv
  refine .issue h (fun _ h1 => ?_)
  split
  next x he => exact .error <| Ends.stop he (.start h1 .none)
  refine .ite (.ok h1) ?_
  extract_lets
  split
  next e he => exact .error <| Ends.stop he (.ite (.ok trivial) .rangeCheck)
  · exact .ite (.await h1) (.ok <| .endCont h1)
theorem CanonMem.l1Range {sc u st i off len} (h : CanonMem s.mem) : CanonMem (s.l1Range sc u st i off len).mem := h
theorem CanonMem.l1All {sc u ctx} (h : CanonMem s.mem) : CanonMem (s.l1All sc u ctx).mem := h
theorem Stop.Canon.beginRange {p len op} (h : CanonMem c.s.mem) : (beginRange c p len op).Canon := by
  unfold Machine.beginRange
  exact .wait <| .onGrp <| .newReq h
theorem CanonOut.execWbr {inv o} (h : CanonMem s.mem) : CanonOut (execWbr inv o s) := by
  unfold Machine.execWbr
  refine .issue h (fun _ h1 => ?_)
  split
  next x he => exact .error <| Ends.stop he (.start h1 .none)
  refine .ite (.ok h1) ?_
  extract_lets
  split
  · exact .ite (.error <| .wait h1) (.ok <| .endCont h1)
  · split
    · refine .ite (.await h1) ?_
      split
      next e he => exact .error <| Ends.stop he .rangeCheck
      · exact .ite (.ok <| .endCont h1) (.error <| .beginRange h1)
    · exact .error <| .wait h1
    · exact .ok <| .endCont <| .dropReq h1
    · exact .ite (.error <| .wait h1) (.error <| .wait <| .onGrp <| .foldl (fun _ _ h2 => .writeBack h2) (.dropReq h1))
  refine .ite (.await h1) ?_
  split
  next e he => exact .error <| Ends.stop he .rangeCheck
  · exact .ite (.ok <| .endCont h1) (.error <| .beginRange h1)
theorem CanonOut.execInvl1 {m o} (h : CanonMem s.mem) : CanonOut (execInvl1 m o s) := by
  unfold Machine.execInvl1
  refine .issue h fun c h1 => ?_
  split
  next x he => exact .error <| Ends.stop he (.start h1 .none)
  refine .ite (.ok h1) (.ite (.ok <| .l1All h1) ?_)
  extract_lets p len first
  have hfirst : Ends Stop.Canon (CanonMem ·.mem) first := by
    unfold first
    split
    next e he => exact .error <| Ends.stop he .rangeCheck
    · exact .ite (.ok h1) (.error <| .beginRange h1)
  split
  · split
    · exact hfirst
    · exact .error <| .wait h1
    · exact .ok <| .dropReq h1
    · exact .ok <| .dropReq h1
  · exact hfirst

/-! ### Path -/

theorem CanonMem.tellMapped {type pa} (h : CanonMem s.mem) : CanonMem (s.tellMapped type pa).mem :=
  .foldl (fun _ _ h1 => .foldl (fun _ _ h2 => .virtualError h2) h1) h
theorem CanonMem.newPoison {pa} (h : CanonMem s.mem) : CanonMem (s.newPoison pa).mem := .ite h (.tellMapped <| .notice <| .poison h)
theorem CanonMem.eccRead {pa lost} (h : CanonMem s.mem) : CanonMem (s.eccRead pa lost).mem := by
  unfold State.eccRead
  split
  · exact h
  · exact .newPoison h
  · exact h
theorem CanonMem.readTab {key e} (h : CanonMem s.mem) : CanonMem (s.readTab key e).1.mem := .ite (.notice <| .loseTab h) h
theorem CanonMem.sramRead {a e} (h : CanonMem s.mem) : CanonMem (s.sramRead a e).mem := .ite (.notice <| .poison h) h
theorem CanonMem.setBucket {b x} (h : CanonMem s.mem) : CanonMem (s.setBucket b x).mem := .ite h h
theorem CanonMem.tickBucket {b} (h : CanonMem s.mem) : CanonMem (s.tickBucket b).mem := .setBucket h
theorem CanonMem.elementDone {v} (h : CanonMem s.mem) : CanonMem (s.elementDone v).mem := by
  unfold State.elementDone
  split
  · exact .ite h h
  · exact h
theorem CanonMem.sequenced {c} (h : CanonMem s.mem) : CanonMem (s.sequenced c).mem := by
  unfold State.sequenced
  split
  · split
    · exact .ite (.foldl (fun _ _ h1 => .elementDone h1) h) h
    · exact h
  · exact h
theorem CanonMem.depart {id q m lvl} (h : CanonMem s.mem) : CanonMem (s.depart id q m lvl).mem :=
  .ite (.ite (.sequenced <| .foldl (fun _ _ h1 => .setReq h1) (.setReq <| .ite (.send h) h)) (.foldl (fun _ _ h1 => .setReq h1) (.setReq <| .ite (.send h)
    h))) (.arrive h)
theorem CanonMem.writeDone {w} (h : CanonMem s.mem) : CanonMem (s.writeDone w).mem := by
  unfold State.writeDone
  split
  · exact h
  · exact .ite (.foldl (fun _ _ h1 => .elementDone h1) h) (.l1StoreN <| .foldl (fun _ _ h1 => .elementDone h1) h)
theorem CanonMem.writePart {w} (h : CanonMem s.mem) : CanonMem (s.writePart w).mem := by
  unfold State.writePart
  split
  · exact h
  · exact .ite (.writeDone h) h
theorem CanonMem.atomResult {op loc vals pois tent} (h : CanonMem s.mem) : CanonMem (s.atomResult op loc vals pois tent).mem := h
theorem CanonMem.backCheck {id} (h : CanonMem s.mem) : CanonMem (s.backCheck id).mem := by
  unfold State.backCheck
  split
  · exact h
  refine .ite h ?_
  extract_lets
  split
  · exact h
  · exact .ite (.lineDrop h) h
theorem CanonMem.backRow {id} (h : CanonMem s.mem) : CanonMem (s.backRow id).mem := .backCheck h
theorem CanonMem.finish {id q vals pois} (h : CanonMem s.mem) : CanonMem (s.finish id q vals pois).mem := by
  unfold State.finish
  split
  · extract_lets
    split
    · exact .send <| .ite (.setReq <| .uncount h) (.dropReq h)
    · exact .send <| .ite (.setReq <| .uncount h) (.dropReq h)
  · extract_lets
    split
    · exact .writePart <| .atomResult <| .dropReq h
    · exact .ite (.writePart <| .virtualError <| .notice <| .dropReq h) (.writePart <| .dropReq h)
    · exact .writePart <| .dropReq h
  · exact .performed h
  · exact .performed h
  · exact .performed h
  · exact .performed h
  · exact .backRow <| .dropReq h
  · exact .setReq <| .uncount h
  · exact .dropReq h
theorem CanonMem.holdRefused {id q r told} (h : CanonMem s.mem) : CanonMem (s.holdRefused id q r told).mem := .setReq <| .uncount h
theorem CanonMem.refuseForeign {q src seq r} (h : CanonMem s.mem) : CanonMem (s.refuseForeign q src seq r).mem := .send <| .post <| .ite h h
theorem CanonMem.refuse {id q r} (h : CanonMem s.mem) : CanonMem (s.refuse id q r).mem := by
  unfold State.refuse
  split
  · exact .dropReq h
  extract_lets
  split
  · exact .refuseForeign <| .dropReq <| .ite (.service h) h
  · exact .ite (.report <| .holdRefused <| .ite (.service h) h) (.holdRefused <| .ite (.service h) h)
  · exact .report <| .holdRefused <| .ite (.service h) h
  · exact .report <| .holdRefused <| .ite (.service h) h
  · exact .report <| .holdRefused <| .ite (.service h) h
  · exact .report <| .holdRefused <| .ite (.service h) h
  · exact .ite (.holdRefused <| .ite (.service h) h) (.service <| .ite (.dropReq <| .ite (.service h) h) (.post <| .dropReq <| .ite (.service h) h))
  · exact .backRow <| .notice <| .dropReq <| .ite (.service h) h
  · exact .dropReq <| .ite (.service h) h
  · exact .report <| .dropReq <| .ite (.service h) h
  · exact .report <| .holdRefused <| .ite (.service h) h
theorem CanonMem.setCached {k l} (h : CanonMem s.mem) : CanonMem (s.setCached k l).mem := by
  unfold State.setCached
  split
  · exact .onCore h
  · exact h
  · exact h
theorem CanonMem.ctxEntry {k ctx o e} (h : CanonMem s.mem) : CanonMem (s.ctxEntry k ctx o e).1.mem := by
  unfold State.ctxEntry
  extract_lets l r
  split
  · exact .setCached h
  have hr : CanonMem r.1.mem := .readTab h
  split
  · exact .iteFst (.setCached hr) hr
  · exact hr
theorem CanonMem.holdAt {id q lvl key} (h : CanonMem s.mem) : CanonMem (s.holdAt id q lvl key).mem := h
theorem CanonMem.contextLookup {id e} (h : CanonMem s.mem) : CanonMem (s.contextLookup id e).mem := by
  unfold State.contextLookup
  refine .onReq h (fun _ => .ite h ?_)
  extract_lets
  split
  · exact .refuse <| .ctxEntry h
  split
  · exact .refuse <| .ctxEntry h
  · exact .holdAt <| .ctxEntry h
  · exact .setReq <| .countUp <| .ctxEntry h
  · exact .ite (.setReq <| .countUp <| .ctxEntry h) (.ite (.depart <| .countUp <| .ctxEntry h) (.arrive <| .tickBucket <| .countUp <| .ctxEntry h))
  · exact h
theorem CanonMem.portLookup {id e} (h : CanonMem s.mem) : CanonMem (s.portLookup id e).mem := by
  unfold State.portLookup
  refine .onReq h (fun _ => .ite h ?_)
  extract_lets
  split
  · exact .refuse <| .readTab h
  · exact .holdAt <| .readTab h
  · exact .setReq <| .countUp <| .readTab h
  · exact .ite (.setReq <| .countUp <| .readTab h) (.depart <| .countUp <| .readTab h)
  · exact .readTab h
theorem CanonMem.chipEntry {m e} (h : CanonMem s.mem) : CanonMem (s.chipEntry m e).1.mem := by
  unfold State.chipEntry
  extract_lets l r
  split
  · exact h
  have hr : CanonMem r.1.mem := .readTab h
  split
  · exact .iteFst hr hr
  · exact hr
theorem CanonMem.onePart {x} (h : CanonMem s.mem) : CanonMem (s.onePart x).mem := by
  unfold State.onePart
  split
  · exact h
  · exact h
  · exact h
theorem CanonMem.splitReq {id q n} (h : CanonMem s.mem) : CanonMem (s.splitReq id q n).mem := by
  unfold State.splitReq
  extract_lets
  split
  · exact .onePart <| .setReq <| .setReq h
  · exact .setReq h
  · exact .setReq h
theorem CanonMem.issueTo {id q} (h : CanonMem s.mem) : CanonMem (s.issueTo id q).mem := by
  unfold State.issueTo
  refine .ite (.arrive h) ?_
  extract_lets
  split
  · exact .refuse h
  · refine .ite (.arrive h) ?_
    split
    · exact .arrive h
    · exact .ite (.arrive h) (.ite (.refuse h) (.ite (.refuse h) (.depart h)))
  · exact .arrive h
theorem CanonMem.chipLookup {id e} (h : CanonMem s.mem) : CanonMem (s.chipLookup id e).mem := by
  unfold State.chipLookup
  refine .onReq h (fun _ => .ite h ?_)
  extract_lets
  split
  · exact .refuse <| .chipEntry h
  split
  · exact .refuse <| .chipEntry h
  · exact .holdAt <| .chipEntry h
  · exact .ite (.setReq <| .countUp <| .chipEntry h) (.depart <| .countUp <| .chipEntry h)
  · exact .ite (.splitReq <| .chipEntry h) (.ite (.issueTo <| .countUp <| .chipEntry h) (.arrive <| .tickBucket <| .countUp <| .chipEntry h))
  · exact h
theorem CanonMem.bucketRelease {id} (h : CanonMem s.mem) : CanonMem (s.bucketRelease id).mem := by
  unfold State.bucketRelease
  refine .onReq h (fun _ => ?_)
  split
  · refine .ite h (.ite ?_ (.ite ?_ (.setBucket h)))
    · extract_lets
      split
      · exact .depart h
      · exact .issueTo h
    · extract_lets
      split
      · exact .depart <| .setBucket h
      · exact .issueTo <| .setBucket h
  · exact .ite (.depart h) h
  · exact h
theorem CanonMem.fillLine {t slice b pa} (h : CanonMem s.mem) : CanonMem (s.fillLine t slice b pa).mem := h
theorem CanonMem.l1Install {u ctx t} (h : CanonMem s.mem) : CanonMem (s.l1Install u ctx t).mem := by
  unfold State.l1Install
  split
  · exact h
  · exact .onCore h
theorem CanonMem.taken {id q t bs} (h : CanonMem s.mem) : CanonMem (s.taken id q t bs).mem := h
theorem CanonMem.serveLine {id q t b} (h : CanonMem s.mem) : CanonMem (s.serveLine id q t b).mem :=
  .ite (.dropReq h) (.taken <| .useLine <| .ite (.l1Install h) h)
theorem CanonMem.pageTurn {st i off e} (h : CanonMem s.mem) : CanonMem (s.pageTurn st i off e).mem := .ite h (.ite h (.eccRead h))
theorem CanonMem.discarded {q n} (h : CanonMem s.mem) : CanonMem (s.discarded q n).mem := .ite h (.virtualError <| .notice h)
theorem CanonMem.applied {id q t} (h : CanonMem s.mem) : CanonMem (s.applied id q t).mem := .setReq <| .uncount h
theorem CanonMem.putMarked {q a m ps} (h : CanonMem s.mem) : CanonMem (s.putMarked q a m ps).mem :=
  .discarded <| .foldl (fun _ _ h1 => .poison h1) (.applyBytes h)
theorem CanonMem.atomStep {id q a op ty vals} (h : CanonMem s.mem) : CanonMem (s.atomStep id q a op ty vals).mem :=
  .ite (.finish h) (.ite (.finish <| .applyBytes h) (.setReq <| .applyBytes h))
theorem CanonMem.stackServe {id q pa e} (h : CanonMem s.mem) : CanonMem (s.stackServe id q pa e).mem := by
  unfold State.stackServe
  split
  · extract_lets
    split
    · exact .dropReq <| .putMarked h
    · exact .applied <| .putMarked h
  · exact .atomStep <| .eccRead h
  · extract_lets
    split
    · exact .send <| .dropReq <| .ite h (.eccRead h)
    · exact .dropReq <| .ite h (.eccRead h)
  · exact .taken <| .eccRead h
theorem CanonMem.granted {id q t slice tg} (h : CanonMem s.mem) : CanonMem (s.granted id q t slice tg).mem := h
theorem CanonMem.stackTurn {id q e st i off tg} (h : CanonMem s.mem) : CanonMem (s.stackTurn id q e st i off tg).mem := by
  unfold State.stackTurn
  extract_lets
  split
  · exact .refuse <| .pageTurn <| .readTab h
  · exact .holdAt <| .pageTurn <| .readTab h
  · exact .ite (.setReq <| .countUp <| .pageTurn <| .readTab h) (.depart <| .countUp <| .pageTurn <| .readTab h)
  · split
    · exact .ite h (.ite (.granted <| .pageTurn <| .readTab h) (.serveLine <| .fillLine <| .eccRead <| .pageTurn <| .readTab h))
    · exact .stackServe <| .pageTurn <| .readTab h
    · exact h
  · exact h
theorem CanonMem.stackLookup {id e} (h : CanonMem s.mem) : CanonMem (s.stackLookup id e).mem := by
  unfold State.stackLookup
  refine .onReq h (fun _ => ?_)
  split
  · exact .ite (.stackTurn h) h
  · exact .ite (.stackTurn h) h
  · exact h
theorem CanonMem.grantRequest {id e} (h : CanonMem s.mem) : CanonMem (s.grantRequest id e).mem := by
  unfold State.grantRequest
  refine .onReq h (fun _ => ?_)
  split
  · exact .ite (.stackTurn h) h
  · exact h
theorem CanonMem.storeDone {id q t} (h : CanonMem s.mem) : CanonMem (s.storeDone id q t).mem := .ite (.finish h) (.applied h)
theorem CanonMem.writeApply {id} (h : CanonMem s.mem) : CanonMem (s.writeApply id).mem := by
  unfold State.writeApply
  refine .onReq h (fun _ => ?_)
  split
  · exact .ite (.storeDone <| .discarded <| .poisonLine <| .lineApply h) h
  · exact .storeDone <| .touch <| .putMarked h
  · exact h
theorem CanonMem.homeAtomic {id} (h : CanonMem s.mem) : CanonMem (s.homeAtomic id).mem := by
  unfold State.homeAtomic
  refine .onReq h (fun _ => ?_)
  split
  · exact .ite (.ite (.finish h) (.ite (.finish <| .lineApply h) (.setReq <| .lineApply h))) h
  · exact .touch <| .atomStep h
  · exact h
theorem CanonMem.toOwn {id q m i off stamp pay k} (h : CanonMem s.mem) : CanonMem (s.toOwn id q m i off stamp pay k).mem := h
theorem CanonMem.multicast {id q set i off pay} (h : CanonMem s.mem) : CanonMem (s.multicast id q set i off pay).mem :=
  .foldl (fun _ _ h1 => .onReq (.newReq h1) (fun _ => .depart h1)) h
theorem CanonMem.replicaSeq {id} (h : CanonMem s.mem) : CanonMem (s.replicaSeq id).mem := by
  unfold State.replicaSeq
  refine .onReq h (fun _ => ?_)
  split
  · refine .ite (.depart h) (.ite h ?_)
    extract_lets
    split
    · exact .refuse h
    refine .ite (.refuse h) ?_
    split
    · exact .arrive <| .multicast <| .toOwn h
    · exact .arrive <| .toOwn h
    · exact h
  · exact h
theorem CanonMem.allApplied {id q} (h : CanonMem s.mem) : CanonMem (s.allApplied id q).mem :=
  .finish <| .foldl (fun _ _ h1 => .send h1) (.foldl (fun _ _ h1 => .dropReq h1) h)
theorem CanonMem.memberTurn {id q told} (h : CanonMem s.mem) : CanonMem (s.memberTurn id q told).mem := by
  unfold State.memberTurn
  refine .ite (.ite (.allApplied h) h) ?_
  extract_lets
  split
  · split
    · exact .refuse <| .dropReq h
    · exact .ite h (.ite (.finish <| .dropReq h) (.arrive <| .multicast h))
  · exact h
theorem CanonMem.writeAck {id} (h : CanonMem s.mem) : CanonMem (s.writeAck id).mem := by
  unfold State.writeAck
  refine .onReq h (fun _ => ?_)
  split
  · exact .memberTurn h
  · exact .ite (.finish h) h
  · exact h
theorem CanonMem.rowApply {pa m ps} (h : CanonMem s.mem) : CanonMem (s.rowApply pa m ps).mem :=
  .foldl (fun _ _ h1 => .tellMapped <| .notice h1) (.foldl (fun _ _ h1 => .poison h1) (.applyBytes h))
theorem CanonMem.rowPast {id k away} (h : CanonMem s.mem) : CanonMem (s.rowPast id k away).mem := h
theorem CanonMem.rowTurn {id w k} (h : CanonMem s.mem) : CanonMem (s.rowTurn id w k).mem := by
  unfold State.rowTurn
  refine .ite (.rowPast h) ?_
  extract_lets
  split
  · exact .rowPast <| .rowApply h
  · exact .onReq (.newReq <| .rowPast <| .foldl (fun _ _ h1 => .countUp h1) h) (fun _ => .depart <| .newReq <| .rowPast <| .foldl (fun _ _ h1 => .countUp h1)
      h)
  · exact h
  · exact .rowPast <| .notice h
theorem CanonMem.l2WriteBack {evict id} (h : CanonMem s.mem) : CanonMem (s.l2WriteBack evict id).mem := by
  unfold State.l2WriteBack
  refine .ite ?_ ?_
  · split
    · exact .ite (.writeBack h) h
    · exact h
  · split
    · exact h
    · exact .ite h (.backCheck <| .foldl (fun _ _ h1 => .rowTurn h1) h)
theorem CanonMem.lookAgain {id e} (h : CanonMem s.mem) : CanonMem (s.lookAgain id e).mem := by
  unfold State.lookAgain
  refine .onReq h (fun _ => ?_)
  split
  · exact .contextLookup h
  · exact .portLookup h
  · exact .chipLookup h
  · exact .ite (.grantRequest h) (.stackLookup h)
  · exact .stackLookup h
  · exact h
theorem CanonMem.gatedReread {id} (h : CanonMem s.mem) : CanonMem (s.gatedReread id).mem := by
  unfold State.gatedReread
  refine .onReq h (fun _ => ?_)
  split
  · exact .ite (.lookAgain <| .setReq h) h
  · exact h
theorem CanonMem.gateTimeout {id} (h : CanonMem s.mem) : CanonMem (s.gateTimeout id).mem := by
  unfold State.gateTimeout
  refine .onReq h (fun _ => ?_)
  split
  · exact .ite (.refuse h) h
  · exact h
theorem CanonMem.domainReplay {id} (h : CanonMem s.mem) : CanonMem (s.domainReplay id).mem := by
  unfold State.domainReplay
  refine .onReq h (fun _ => ?_)
  split
  · exact .ite (.issueTo <| .countDown h) h
  · exact h
theorem CanonMem.deliverLoad {id o} (h : CanonMem s.mem) : CanonMem (s.deliverLoad id o).mem := by
  unfold State.deliverLoad
  extract_lets
  split
  · exact .elementDone <| .onGrp h
  · exact .onGrp h
theorem CanonMem.serve {id e} (h : CanonMem s.mem) : CanonMem (s.serve id e).mem := by
  unfold State.serve
  refine .onReq h (fun _ => .ite h ?_)
  split
  · exact .ite (.serveLine h) h
  · exact .taken <| .sramRead h
  · exact h
theorem CanonMem.loadDone {id o e} (h : CanonMem s.mem) : CanonMem (s.loadDone id o e).mem := by
  unfold State.loadDone
  split
  · exact .deliverLoad <| .sramRead h
  · exact .deliverLoad h
theorem CanonMem.rangeTurn {id q src seq op} (h : CanonMem s.mem) : CanonMem (s.rangeTurn id q src seq op).mem := by
  unfold State.rangeTurn
  extract_lets
  split
  · exact .ite h (.send <| .dropReq h)
  · exact .ite (.send <| .dropReq <| .l1Range h) (.ite h (.setReq <| .foldl (fun _ _ h1 => .writeBack h1) h))
  · exact .send <| .dropReq h
  · exact h
theorem CanonMem.siblingArrive {id o} (h : CanonMem s.mem) : CanonMem (s.siblingArrive id o).mem := h
theorem CanonMem.loadReturn {id e} (h : CanonMem s.mem) : CanonMem (s.loadReturn id e).mem := by
  unfold State.loadReturn
  split
  · exact .siblingArrive h
  · exact .ite (.loadDone h) h
  refine .onReq (.serve h) (fun _ => ?_)
  extract_lets
  split
  · exact .rangeTurn <| .serve h
  · exact .ite (.send <| .dropReq <| .serve h) (.serve h)
  · refine .ite (.serve h) ?_
    split
    · exact .ite (.serve h) (.ite (.deliverLoad <| .dropReq <| .serve h) (.dropReq <| .serve h))
    · exact .dropReq <| .serve h
  · exact .ite (.dropReq <| .serve h) (.serve h)
  · exact .serve h
theorem CanonMem.atomReturn {id} (h : CanonMem s.mem) : CanonMem (s.atomReturn id).mem := by
  unfold State.atomReturn
  split
  · split
    · exact h
    refine .ite ?_ h
    extract_lets
    split
    · exact .elementDone <| .onGrp h
    · exact .onGrp <| .onGrp h
  · exact h
theorem CanonMem.icacheFill {id} (h : CanonMem s.mem) : CanonMem (s.icacheFill id).mem := by
  unfold State.icacheFill
  refine .onReq h (fun _ => ?_)
  split
  · extract_lets
    split
    · exact .onCore <| .dropFam <| .foldl (fun _ _ h1 => .serve h1) h
    · exact .foldl (fun _ _ h1 => .serve h1) h
  · exact h
theorem CanonMem.launchWr {id w replay} (h : CanonMem s.mem) : CanonMem (s.launchWr id w replay).mem := by
  unfold State.launchWr
  split
  · exact h
  extract_lets
  split
  · exact .newReq h
  · exact .newReq h
  split
  · exact .newReq h
  · exact h
theorem CanonMem.queueNew {w d src} (h : CanonMem s.mem) : CanonMem (s.queueNew w d src).mem := .ite (.onCore h) h
theorem CanonMem.queuePiece {w b d x} (h : CanonMem s.mem) : CanonMem (s.queuePiece w b d x).mem := by
  unfold State.queuePiece
  extract_lets own src base last fresh
  refine .ite h ?_
  have hf : CanonMem fresh.mem := .queueNew h
  clear_value last fresh
  split
  · split
    · exact .ite h hf
    · exact hf
  · exact hf
theorem CanonMem.morePieces {src ps} (h : CanonMem s.mem) : CanonMem (s.morePieces src ps).mem := by
  unfold State.morePieces
  refine .foldl (fun _ _ h1 => ?_) h
  split
  · exact h1
  · exact h1
theorem CanonMem.enqueue {id w} (h : CanonMem s.mem) : CanonMem (s.enqueue id w).mem := by
  unfold State.enqueue
  extract_lets
  split
  · exact .foldl (fun _ _ h1 => .queuePiece h1) (.morePieces h)
  · exact .queueNew h
theorem CanonMem.applyLocal {id w a} (h : CanonMem s.mem) : CanonMem (s.applyLocal id w a).mem := by
  unfold State.applyLocal
  split
  · exact .writeDone <| .writeLocal h
  · exact .writeDone <| .ite (.virtualError <| .notice <| .atomAt h) (.atomAt h)
  split
  · exact .writeDone <| .atomResult <| .atomAt h
  · exact .writeDone h
theorem CanonMem.joinLog {id w} (h : CanonMem s.mem) : CanonMem (s.joinLog id w).mem := by
  unfold State.joinLog
  extract_lets
  split
  · exact .foldl (fun _ _ h1 => .ite (.appendLog h1) (.foldl (fun _ _ h2 => .elementDone h2) h1)) (.ite (.ite h h) (.foldl (fun _ _ h1 => .elementDone h1)
      (.ite h h)))
  · exact .appendLog h
  · exact h
theorem CanonMem.bufferDrain {id} (h : CanonMem s.mem) : CanonMem (s.bufferDrain id).mem := by
  unfold State.bufferDrain
  split
  · exact h
  refine .ite h ?_
  split
  · exact .applyLocal h
  · exact .ite (.ite h (.ite (.ite h (.joinLog h)) (.launchWr h))) (.ite h (.enqueue h))
theorem CanonMem.wcqDrain {id} (h : CanonMem s.mem) : CanonMem (s.wcqDrain id).mem := by
  unfold State.wcqDrain
  split
  · exact h
  · exact .ite (.ite (.launchWr h) h) (.ite h (.ite h (.ite h (.ite (.launchWr h) (.ite h (.joinLog h))))))
theorem CanonMem.logEnter {id} (h : CanonMem s.mem) : CanonMem (s.logEnter id).mem := by
  unfold State.logEnter
  refine .onReq h (fun _ => ?_)
  split
  · split
    · exact .dropReq h
    · exact .ite h (.dropReq h)
  · split
    · exact .dropReq h
    · exact .ite (.report <| .dropReq h) (.ite h (.foldl (fun _ _ h1 => .report h1) (.writePart <| .dropReq h)))
  · exact h

/-! ### Copy -/

theorem Ends.copyPtr {p k r empty} : Ends Stop.Canon (fun _ => True) (copyPtr c p k r empty) := by
  unfold Machine.copyPtr
  refine .ite (.ite (.error .trap) (.ite (.ok trivial) (.ite (.error .trap) ?_))) (.ite (.error .trap) (.ite (.error .trap) (.ok trivial)))
  extract_lets
  split
  · exact .error .trap
  · exact .error .trap
  · exact .ok trivial
  · exact .error .trap
theorem Ends.copyIssue {d dst src x} (h : CanonMem c.s.mem) : Ends Stop.Canon (CanonMem ·.mem) (copyIssue c d dst src x) := by
  unfold Machine.copyIssue
  extract_lets
  split
  next e he => exact .error <| Ends.stop he .copyPtr
  split
  next e he => exact .error <| Ends.stop he (.ite (.ok trivial) .copyPtr)
  · exact .ite (.error <| .wait h) (.ite (.error <| .wait <| .ite h (.commit h)) (.ok <| .ite (.ite h (.commit h)) (.ite h (.commit h))))
theorem Ends.copyStart {i o} (h : CanonMem c.s.mem) : Ends Stop.Canon (fun _ => True) (copyStart c i o) := by
  unfold Machine.copyStart
  extract_lets
  split
  next x he => exact .error <| OptAll.stop he (.runChecks h .none)
  · exact .ok trivial
theorem CanonOut.execCpy {o} (h : CanonMem s.mem) : CanonOut (execCpy o s) := by
  unfold Machine.execCpy
  refine .issue h (fun _ h1 => ?_)
  split
  next x he => exact .error <| Ends.stop he (.copyStart h1)
  · exact .ite (.ok h1) (.copyIssue h1)
theorem CanonOut.execCpys {o} (h : CanonMem s.mem) : CanonOut (execCpys o s) := by
  unfold Machine.execCpys
  refine .issue h (fun _ h1 => ?_)
  split
  next x he => exact .error <| Ends.stop he (.copyStart h1)
  refine .ite (.ok h1) ?_
  extract_lets
  split
  · exact .error .trap
  · exact .copyIssue h1
theorem CanonMem.wake {gid} (h : CanonMem s.mem) : CanonMem (s.wake gid).mem := h
theorem CanonMem.park {w} (h : CanonMem s.mem) : CanonMem (c.park s w).mem := h
theorem CanonOut.execSleept {rel o} (h : CanonMem s.mem) : CanonOut (execSleept rel o s) := by
  unfold Machine.execSleept
  refine .issue h (fun _ h1 => ?_)
  split
  next x he => exact .error <| Ends.stop he (.start h1 .none)
  · exact .ite (.ok <| .setGrp h1) (.ok <| .park h1)
theorem CanonOut.execSleepWake {gid} (h : CanonMem s.mem) : CanonOut (execSleepWake gid s) := by
  unfold Machine.execSleepWake
  refine .next ?_
  split
  · split
    · exact .ite (.wake h) h
    · exact h
  · exact h
theorem CanonMem.engineSent {id q m cv ctx blk unit} (h : CanonMem s.mem) : CanonMem (s.engineSent id q m cv ctx blk unit).mem := h
theorem CanonMem.famLeave {fam cv ctx blk unit} (h : CanonMem s.mem) : CanonMem (s.famLeave fam cv ctx blk unit).mem := by
  unfold State.famLeave
  refine .foldl (fun _ _ h1 => ?_) h
  split
  · exact .engineSent h1
  · exact .dropReq h1
theorem CanonMem.l1Drops {unit ctx p n} (h : CanonMem s.mem) : CanonMem (s.l1Drops unit ctx p n).mem := .foldl (fun _ _ h1 => .l1Store h1) h
theorem CanonMem.covered {gid p} (h : CanonMem s.mem) : CanonMem (s.covered gid p).mem := h
theorem CanonMem.localPut {a bs} (h : CanonMem s.mem) : CanonMem (s.localPut a bs).mem := .foldl (fun _ _ h1 => .poison h1) (.writeLocal h)
theorem CanonMem.copyEnd {k c} (h : CanonMem s.mem) : CanonMem (s.copyEnd k c).mem := .ite h h
theorem CanonMem.copyFail {k c rec_} (h : CanonMem s.mem) : CanonMem (s.copyFail k c rec_).mem := .copyEnd <| .foldl (fun _ _ h1 => .dropReq h1) h
theorem CanonMem.copyMoved {k c} (h : CanonMem s.mem) : CanonMem (s.copyMoved k c).mem := .ite (.copyEnd h) h
theorem CanonMem.copyPut {k c first bs} (h : CanonMem s.mem) : CanonMem (s.copyPut k c first bs).mem := by
  unfold State.copyPut
  extract_lets
  split
  · exact .copyMoved <| .localPut h
  · exact .newReq h
theorem CanonMem.copyTake {k c first n} (h : CanonMem s.mem) : CanonMem (s.copyTake k c first n).mem := by
  unfold State.copyTake
  refine .ite (.copyPut h) ?_
  extract_lets
  split
  · exact .copyPut h
  · exact .newReq h
theorem CanonMem.copyTurnOf {k c first q} (h : CanonMem s.mem) : CanonMem (s.copyTurnOf k c first q).mem := by
  unfold State.copyTurnOf
  split
  · exact .copyFail h
  refine .ite (.ite (.copyMoved <| .famLeave <| .l1Drops h) h) ?_
  split
  · exact .copyPut <| .dropFam h
  · exact h
theorem CanonMem.copyStep {k first n} (h : CanonMem s.mem) : CanonMem (s.copyStep k first n).mem := by
  unfold State.copyStep
  split
  · exact h
  refine .ite h ?_
  split
  · exact .copyTurnOf h
  · exact .ite h (.copyTake h)

/-! ### Convert -/

theorem OptAll.cvtTags {m a as} : OptAll Stop.Canon (cvtTags m a as) := by
  unfold Machine.cvtTags
  refine .findSome fun x => .ite .none ?_
  split
  · exact .none
  · exact .some .trap
theorem CanonOut.execCvt {m o} (h : CanonMem s.mem) : CanonOut (execCvt m o s) := by
  unfold Machine.execCvt
  refine .issue h (fun _ h1 => ?_)
  extract_lets
  split
  next x he => exact .error <| OptAll.stop he (.runChecks h1 .cvtTags)
  · exact .ok <| .setGrp h1
theorem CanonOut.execUnpk2 {o} (h : CanonMem s.mem) : CanonOut (execUnpk2 o s) := by
  unfold Machine.execUnpk2
  refine .issue h (fun _ h1 => ?_)
  extract_lets
  split
  next x he => exact .error <| OptAll.stop he (.runChecks h1 .none)
  · exact .ok <| .setGrp h1
theorem CanonOut.execFmtset {o} (h : CanonMem s.mem) : CanonOut (execFmtset o s) := by
  unfold Machine.execFmtset
  refine .issue h (fun _ h1 => ?_)
  split
  next x he => exact .error <| Ends.stop he (.start h1 .none)
  · exact .ok <| .setGrp h1
theorem CanonOut.execFmtget {o} (h : CanonMem s.mem) : CanonOut (execFmtget o s) := by
  unfold Machine.execFmtget
  refine .issue h (fun _ h1 => ?_)
  split
  next x he => exact .error <| Ends.stop he (.start h1 .none)
  · exact .ok <| .setGrp h1

/-! ### LogI -/

theorem OptAll.lcvtTags {i o} : OptAll Stop.Canon (lcvtTags c i o) := by
  unfold Machine.lcvtTags
  exact .findSome fun t => .ite (.some .trap) .none

/-! ### Engine -/

theorem CanonMem.setPlane {u k p} (h : CanonMem s.mem) : CanonMem (s.setPlane u k p).mem := h
theorem CanonMem.dropEop {k} (h : CanonMem s.mem) : CanonMem (s.dropEop k).mem := .foldl (fun _ _ h1 => .dropReq h1) h
theorem CanonMem.pipeAsk {k e i r} (h : CanonMem s.mem) : CanonMem (s.pipeAsk k e i r).mem := by
  unfold State.pipeAsk
  refine .ite h ?_
  split
  · exact h
  · exact .newReq h
theorem Pipes.Canon.pipes {k e rs} (h : CanonMem s.mem) : (s.pipes k e rs).Canon := by
  unfold State.pipes
  split
  · exact .failed
  · exact .ite .all (.wait <| .foldl (fun _ _ h1 => .pipeAsk h1) h)

/-! ### Matrix -/

theorem Ends.tileStart {i o field k} (h : CanonMem c.s.mem) : Ends Stop.Canon (fun _ => True) (tileStart c i o field k) := by
  unfold Machine.tileStart
  extract_lets
  split
  next x he => exact .error <| OptAll.stop he (.runChecks h .none)
  · exact .ok trivial
theorem CanonMem.issEnqueue {op tile bind locs ptr} (hs : CanonMem s.mem) : CanonMem (c.enqueue s op tile bind locs ptr).mem := by
  unfold Iss.enqueue
  dsimp only
  split <;> exact hs
theorem Ends.opRange {p k rb rows st planes ps} : Ends Stop.Canon (fun _ => True) (opRange c p k rb rows st planes ps) := by
  unfold Machine.opRange
  extract_lets
  split
  next e he => exact .error <| Ends.stop he .copyPtr
  · exact .ok trivial
theorem Ends.opPromise {p r} : Ends Stop.Canon (fun _ => True) (opPromise c p r) := by
  unfold Machine.opPromise
  exact .ite (.ok trivial) .latePromise
theorem Ends.mulIssue {i o m dist} (h : CanonMem c.s.mem) : Ends Stop.Canon (CanonMem ·.mem) (mulIssue c i o m dist) := by
  unfold Machine.mulIssue
  split
  next x he => exact .error <| Ends.stop he (.tileStart h)
  refine .ite (.ok h) ?_
  split
  · exact .error .trap
  extract_lets k d w
  refine .ite (.error .trap) (.ite (.error .trap) ?_)
  split
  · split
    next e he => exact .error <| Ends.stop he (.firstStop <| fun _ => .opPromise)
    · exact .ite (.error <| .wait h) (.ok <| .issEnqueue h)
  next he => exact .error <| Ends.stop he .opRange
  next he _ => exact .error <| Ends.stop he .opRange
  next he _ _ => exact .error <| Ends.stop he (.ite .opRange (.ok trivial))
  next he _ _ _ => exact .error <| Ends.stop he (.ite .opRange (.ok trivial))
theorem OptAll.writeHeld {p} (h : CanonMem c.s.mem) : OptAll Stop.Canon (c.writeHeld p) := by
  unfold Iss.writeHeld
  exact .ite (.some <| .hang h) (.ite (.some <| .wait h) .none)
theorem CanonOut.execMtopkReg {m o} (h : CanonMem s.mem) : CanonOut (execMtopkReg m o s) := by
  unfold Machine.execMtopkReg
  refine .issue h (fun _ h1 => ?_)
  extract_lets
  split
  next x he => exact .error <| OptAll.stop he (.runChecks h1 .none)
  refine .ite (.ok h1) ?_
  split
  · exact .error .trap
  · exact .ite (.error .trap) (.ite (.error <| .wait h1) (.ok <| .onGrp <| .issEnqueue h1))
theorem CanonOut.execMtopkMem {m o} (h : CanonMem s.mem) : CanonOut (execMtopkMem m o s) := by
  unfold Machine.execMtopkMem
  refine .issue h (fun _ h1 => ?_)
  split
  next x he => exact .error <| Ends.stop he (.tileStart h1)
  refine .ite (.ok h1) ?_
  split
  · exact .error .trap
  refine .ite (.error .trap) ?_
  extract_lets
  split
  next e he => exact .error <| Ends.stop he .opRange
  split
  next e he => exact .error <| Ends.stop he .opPromise
  split
  next x he => exact .error <| OptAll.stop he (.writeHeld h1)
  · exact .ok <| .issEnqueue h1
theorem OptAll.bindOne {n mode} (h : CanonMem c.s.mem) : OptAll (CanonMem ·.1.mem) (c.bindOne n mode) := by
  unfold Iss.bindOne
  split
  · exact .some <| .onGrp h
  split
  · exact .none
  · exact .some <| .onGrp <| .setPlane h
theorem CanonOut.execMzero {m o} (h : CanonMem s.mem) : CanonOut (execMzero m o s) := by
  unfold Machine.execMzero
  refine .issue h (fun _ h1 => ?_)
  split
  next x he => exact .error <| Ends.stop he (.start h1 .none)
  refine .ite (.ok h1) (.ite (.error <| .wait h1) ?_)
  split
  · exact .error <| .wait h1
  next s _ he => exact .ok <| .issEnqueue <| OptAll.fst he (.bindOne h1)
theorem CanonOut.execMldt {m o} (h : CanonMem s.mem) : CanonOut (execMldt m o s) := by
  unfold Machine.execMldt
  refine .issue h (fun _ h1 => ?_)
  split
  next x he => exact .error <| Ends.stop he (.tileStart h1)
  refine .ite (.ok h1) ?_
  extract_lets
  split
  next e he => exact .error <| Ends.stop he .opRange
  split
  next e he => exact .error <| Ends.stop he .opPromise
  refine .ite (.error <| .wait h1) ?_
  split
  · exact .error <| .wait h1
  next s _ he => exact .ok <| .issEnqueue <| OptAll.fst he (.bindOne h1)
theorem CanonOut.execMstt {o} (h : CanonMem s.mem) : CanonOut (execMstt o s) := by
  unfold Machine.execMstt
  refine .issue h (fun _ h1 => ?_)
  split
  next x he => exact .error <| Ends.stop he (.tileStart h1)
  refine .ite (.ok h1) ?_
  split
  · exact .error .trap
  extract_lets
  split
  next e he => exact .error <| Ends.stop he .opRange
  split
  next e he => exact .error <| Ends.stop he .opPromise
  split
  next x he => exact .error <| OptAll.stop he (.writeHeld h1)
  · exact .ok <| .issEnqueue h1
theorem CanonOut.execMdrn {m o} (h : CanonMem s.mem) : CanonOut (execMdrn m o s) := by
  unfold Machine.execMdrn
  refine .issue h (fun _ h1 => ?_)
  split
  next x he => exact .error <| Ends.stop he (.tileStart h1)
  refine .ite (.ok h1) ?_
  split
  · exact .error .trap
  refine .ite (.error .trap) ?_
  extract_lets
  split
  next e he => exact .error <| Ends.stop he .opRange
  split
  next e he => exact .error <| Ends.stop he .opPromise
  split
  next x he => exact .error <| OptAll.stop he (.writeHeld h1)
  · exact .ok <| .issEnqueue h1
theorem CanonMem.releaseSlots {u t} (h : CanonMem s.mem) : CanonMem (s.releaseSlots u t).mem := .sweepSlots <| .foldl (fun _ _ h1 => .onCore h1) h
theorem CanonOut.execMpair {m o} (h : CanonMem s.mem) : CanonOut (execMpair m o s) := by
  unfold Machine.execMpair
  refine .issue h fun c h1 => ?_
  split
  next x he => exact .error <| Ends.stop he (.start h1 .none)
  refine .ite (.ok h1) ?_
  extract_lets u n s1
  refine .ite (.error .trap) (.ite (.error <| .wait h1) ?_)
  have hs : CanonMem s1.mem := by
    unfold s1
    split
    · exact .releaseSlots h1
    · exact h1
  split
  · exact .ok <| .issEnqueue <| .onGrp <| .setPlane <| .setPlane hs
  · exact .error <| .wait hs
theorem CanonOut.execMfree {all o} (h : CanonMem s.mem) : CanonOut (execMfree all o s) := by
  unfold Machine.execMfree
  refine .issue h (fun _ h1 => ?_)
  split
  next x he => exact .error <| Ends.stop he (.start h1 .none)
  · exact .ite (.ok h1) (.ok <| .onGrp <| .foldl (fun _ _ h2 => .releaseSlots h2) h1)
theorem CanonOut.execMagr {o} (h : CanonMem s.mem) : CanonOut (execMagr o s) := by
  unfold Machine.execMagr
  refine .issue h (fun _ h1 => ?_)
  split
  next x he => exact .error <| Ends.stop he (.start h1 .none)
  · exact .ite (.ok h1) (.ok <| .setGrp h1)
theorem CanonOut.execMagrGet {o} (h : CanonMem s.mem) : CanonOut (execMagrGet o s) := by
  unfold Machine.execMagrGet
  refine .issue h (fun _ h1 => ?_)
  split
  next x he => exact .error <| Ends.stop he (.start h1 .none)
  · exact .ite (.ok h1) (.ok <| .setGrp h1)
theorem CanonOut.execMprog {o} (h : CanonMem s.mem) : CanonOut (execMprog o s) := by
  unfold Machine.execMprog
  refine .issue h (fun _ h1 => ?_)
  split
  next x he => exact .error <| Ends.stop he (.start h1 .none)
  · exact .ite (.ok h1) (.ite (.error <| .wait h1) (.ok <| .setGrp h1))
theorem CanonOut.execMbatch {o} (h : CanonMem s.mem) : CanonOut (execMbatch o s) := by
  unfold Machine.execMbatch
  refine .issue h (fun _ h1 => ?_)
  split
  next x he => exact .error <| Ends.stop he (.start h1 .none)
  · exact .ite (.ok h1) (.ite (.error <| .wait h1) (.ok <| .setGrp h1))
theorem CanonMem.reportOp {gid k e} (h : CanonMem s.mem) : CanonMem (s.reportOp gid k e).mem := .takeTrap h
theorem CanonOut.execMwait {o} (h : CanonMem s.mem) : CanonOut (execMwait o s) := by
  unfold Machine.execMwait
  refine .issueOr h (fun _ h1 => ?_)
  split
  next x he => exact .error <| Ends.stop he (.start h1 .none)
  refine .ite (.ok <| .ok h1) ?_
  split
  · exact .ok <| .ok h1
  split
  · exact .ite (.ok <| .error <| .reportOp h1) (.error <| .wait h1)
  · exact .ite (.error <| .wait h1) (.ok <| .ok <| .onGrp <| .covered h1)
theorem CanonMem.setOp {k e} (h : CanonMem s.mem) : CanonMem (s.setOp k e).mem := h
theorem CanonMem.tilePhaseEnd {k e} (h : CanonMem s.mem) : CanonMem (s.tilePhaseEnd k e).mem := h
theorem CanonMem.opFail {k e rec_} (h : CanonMem s.mem) : CanonMem (s.opFail k e rec_).mem := .tilePhaseEnd <| .dropEop h
theorem CanonMem.opComplete {k e} (h : CanonMem s.mem) : CanonMem (s.opComplete k e).mem := .ite (.setOp <| .onGrp h) h
theorem CanonMem.mulChunk {k e m dist K d} (h : CanonMem s.mem) : CanonMem (s.mulChunk k e m dist K d).mem := by
  unfold State.mulChunk
  refine .ite (.opFail h) (.ite (.tilePhaseEnd <| .onGrp h) ?_)
  extract_lets
  split
  · exact .opFail h
  next s he => exact .setOp <| Pipes.state he (.pipes h)
  · exact .ite (.tilePhaseEnd <| .onGrp <| .dropEop <| .foldlFst (fun _ _ h1 => .setPlane h1) h) (.setOp <| .onGrp <| .dropEop <| .foldlFst (fun _ _ h1 =>
      .setPlane h1) h)
theorem CanonMem.mmaChunk {k} (h : CanonMem s.mem) : CanonMem (s.mmaChunk k).mem := by
  unfold State.mmaChunk
  split
  · exact h
  refine .ite h ?_
  split
  · exact .mulChunk h
  · exact .mulChunk h
  · exact h
theorem CanonMem.rankRegs {e m d ts} (h : CanonMem s.mem) : CanonMem (s.rankRegs e m d ts).1.mem := .foldlFst (fun _ _ h1 => .onGrp h1) h
theorem CanonMem.loadImage {k e m p rs} (h : CanonMem s.mem) : CanonMem (s.loadImage k e m p rs).mem := by
  unfold State.loadImage
  extract_lets
  split
  · exact .opFail h
  next s he => exact .setOp <| Pipes.state he (.pipes h)
  · exact .tilePhaseEnd <| .dropEop <| .foldl (fun _ _ h1 => .setPlane h1) h
theorem CanonMem.tilePhase {k e} (h : CanonMem s.mem) : CanonMem (s.tilePhase k e).mem := by
  unfold State.tilePhase
  extract_lets
  split
  · exact h
  · exact h
  · exact .tilePhaseEnd <| .foldl (fun _ _ h1 => .setPlane h1) h
  · exact .tilePhaseEnd <| .foldl (fun _ _ h1 => .setPlane h1) h
  · exact .tilePhaseEnd <| .rankRegs h
  · exact .tilePhaseEnd h
  · exact .loadImage h
  · exact .tilePhaseEnd h
  · exact .tilePhaseEnd h
theorem CanonMem.opWrite {k e i} (h : CanonMem s.mem) : CanonMem (s.opWrite k e i).mem := by
  unfold State.opWrite
  split
  · exact h
  extract_lets
  split
  · exact .localPut <| .setOp h
  · exact .newReq <| .setOp h
theorem CanonMem.opWritten {k e q} (h : CanonMem s.mem) : CanonMem (s.opWritten k e q).mem := by
  unfold State.opWritten
  split
  · exact .opFail h
  · exact .ite (.famLeave <| .l1Drops h) h
theorem CanonMem.engineStep {k i} (h : CanonMem s.mem) : CanonMem (s.engineStep k i).mem := by
  unfold State.engineStep
  split
  · exact h
  refine .ite h (.ite (.ite (.opComplete <| .tilePhaseEnd h) h) (.ite (.ite (.tilePhase h) h) ?_))
  split
  · exact .opWritten h
  · exact .ite (.ite (.opComplete h) h) (.opWrite h)

/-! ### Sync -/

theorem Ends.barPlace {p} : Ends Stop.Canon (fun _ => True) (barPlace c p) := by
  unfold Machine.barPlace
  split
  · exact .ok trivial
  · exact .error .trap
  · exact .error .trap
theorem CanonMem.setBar {a cnt arr ph} (h : CanonMem s.mem) : CanonMem (s.setBar a cnt arr ph).mem := .applyAll h
theorem OptAll.barWaits {a} (h : CanonMem c.s.mem) : OptAll Stop.Canon (barWaits c a) := by
  unfold Machine.barWaits
  exact .ite (.some <| .wait <| .commit h) .none
theorem CanonOut.execBinit {m o} (h : CanonMem s.mem) : CanonOut (execBinit m o s) := by
  unfold Machine.execBinit
  refine .issue h (fun _ h1 => ?_)
  split
  next x he => exact .error <| Ends.stop he (.start h1 .none)
  refine .ite (.ok h1) ?_
  extract_lets
  split
  next x he => exact .error <| Ends.stop he .barPlace
  refine .ite (.error .trap) ?_
  split
  next x he => exact .error <| OptAll.stop he (.barWaits h1)
  · exact .ite (.ok h1) (.ok <| .setBar h1)
theorem Ends.barArrive {a n} (h : CanonMem s.mem) : Ends (fun _ => True) (CanonMem ·.1.mem) (s.barArrive a n) := by
  unfold State.barArrive
  exact .ite (.ok h) (.ite (.error trivial) (.ite (.error trivial) (.ite (.ok <| .setBar h) (.ok <| .setBar h))))
theorem Ends.arrival {i m o} (h : CanonMem c.s.mem) : Ends Stop.Canon (Ends (CanonMem ·.mem) (CanonMem ·.1.mem)) (arrival c i m o) := by
  unfold Machine.arrival
  obtain ⟨place, hplace⟩ : ∃ f, f = Machine.barPlace := ⟨_, rfl⟩
  rw [← hplace]
  split
  next x he => exact .error <| Ends.stop he (.start h .none)
  extract_lets v
  split
  next x he => exact .error <| Ends.stop he (hplace ▸ Ends.barPlace)
  split
  next x he => exact .error <| Ends.stop he (.release h)
  next t he =>
    have ht : CanonMem t.mem := Ends.state he (.release h)
    split
    · exact .ok <| .error <| .takeTrap ht
    next t' _ he' =>
      have ht' : CanonMem t'.mem := Ends.fst he' (.barArrive ht)
      exact .ok <| .ok <| CanonMem.onGrp <| .ite (.noRestart ht') ht'
theorem CanonOut.execArv {m o} (h : CanonMem s.mem) : CanonOut (execArv m o s) := by
  unfold Machine.execArv
  refine .issueOr h fun c h1 => .ite ?_ ?_
  · split
    next x e => exact .error <| Ends.stop e (.start h1 .none)
    · exact .ok <| .ok h1
  · split
    next x e => exact .error <| Ends.stop e (.arrival h1)
    next t e => exact .ok <| .error <| Ends.ownState e (.arrival h1)
    next x e => exact .ok <| .ok <| Ends.okFst e (.arrival h1)
theorem CanonMem.barPark {clu a p arw} (hs : CanonMem s.mem) : CanonMem (barPark c s clu a p arw).mem := .ite (.pass hs) (.park hs)
theorem CanonOut.execWtb {m o} (h : CanonMem s.mem) : CanonOut (execWtb m o s) := by
  unfold Machine.execWtb
  refine .issue h (fun _ h1 => ?_)
  split
  next x he => exact .error <| Ends.stop he (.start h1 .none)
  refine .ite (.ok <| .pass h1) ?_
  extract_lets
  split
  next x he => exact .error <| Ends.stop he .barPlace
  split
  next x he => exact .error <| OptAll.stop he (.barWaits h1)
  · exact .ok <| .barPark h1
theorem CanonOut.execArw {m o} (h : CanonMem s.mem) : CanonOut (execArw m o s) := by
  unfold Machine.execArw
  obtain ⟨place, hplace⟩ : ∃ f, f = Machine.barPlace := ⟨_, rfl⟩
  rw [← hplace]
  refine .issueOr h fun c h1 => ?_
  split
  · split
    next x e => exact .error <| Ends.stop e (hplace ▸ Ends.barPlace)
    · exact .ok <| .ok <| .barPark h1
  refine .ite ?_ ?_
  · split
    next x e => exact .error <| Ends.stop e (.start h1 .none)
    · exact .ok <| .ok <| .pass h1
  · split
    next x e => exact .error <| Ends.stop e (.arrival h1)
    next t e => exact .ok <| .error <| Ends.ownState e (.arrival h1)
    next t _ e => exact .ok <| .ok <| .barPark <| Ends.okFst e (.arrival h1)
    next t _ _ e =>
      have ht : CanonMem t.mem := Ends.okFst e (.arrival h1)
      exact .ok <| .ok <| .barPark <| .onGrp ht
theorem CanonMem.barWake {gid} (h : CanonMem s.mem) : CanonMem (s.barWake gid).mem := by
  unfold State.barWake
  split
  · exact .ite (.wake h) h
  · exact h
theorem CanonMem.watchEnd {id w v pois} (h : CanonMem s.mem) : CanonMem (s.watchEnd id w v pois).mem := h
theorem CanonMem.watchRead {id w key own late v pois} (h : CanonMem s.mem) : CanonMem (s.watchRead id w key own late v pois).mem := .ite (.watchEnd h) h
theorem CanonOut.execWatch {m o} (h : CanonMem s.mem) : CanonOut (execWatch m o s) := by
  unfold Machine.execWatch
  refine .issue h fun c h1 => ?_
  split
  next x he => exact .error <| Ends.stop he (.start h1 .none)
  refine .ite (.ok h1) ?_
  extract_lets v p n id w s1 s2
  split
  next x he => exact .error <| Ends.stop he .checkAccess
  split
  next x he => exact .error <| OptAll.stop he (.accessGate h1)
  have hs1 : CanonMem s1.mem := .park h1
  have h2 : CanonMem s2.mem := hs1
  split
  · exact .ok <| .watchRead h2
  · exact .ok <| .newReq h2
theorem CanonMem.watchReport {id} (h : CanonMem s.mem) : CanonMem (s.watchReport id).mem := by
  unfold State.watchReport
  split
  · exact h
  refine .ite h ?_
  split
  · exact .ite (.watchRead h) h
  split
  · extract_lets
    split
    · exact .serve h
    · exact .watchRead <| .dropFam <| .serve h
  · exact .ite (.newReq h) h

/-! ### Routing -/

theorem CanonMem.issueAsk {cls t n p} (h : CanonMem s.mem) : CanonMem (s.issueAsk c cls t n p).mem := .ite h (.newReq h)
theorem CanonMem.issueDrop {gid} (h : CanonMem s.mem) : CanonMem (s.issueDrop gid).mem := .foldl (fun _ _ h1 => .dropReq h1) h
theorem Ends.issueReadsAs {cls n ps} (h : CanonMem c.s.mem) : Ends Stop.Canon (fun _ => True) (issueReadsAs c cls n ps) := by
  unfold Machine.issueReadsAs
  extract_lets
  split
  next e he =>
    refine .error <| Ends.stop he (.firstStop <| fun _ => ?_)
    extract_lets
    split
    · exact .error .trap
    · exact .ok trivial
  · exact .ite (.ok trivial) (.error <| .wait <| .foldl (fun _ _ h1 => .ite (.issueAsk h1) h1) h)
theorem Ends.issueReads {n ps} (h : CanonMem c.s.mem) : Ends Stop.Canon (fun _ => True) (issueReads c n ps) := by
  unfold Machine.issueReads
  exact .issueReadsAs h
theorem Ends.boundLabel {t p k n} : Ends Stop.Canon (fun _ => True) (boundLabel c t p k n) := by
  unfold Machine.boundLabel
  exact .ite (.error .trap) (.ite (.error .trap) (.ok trivial))
theorem Ends.boundHere {p k n} : Ends Stop.Canon (fun _ => True) (boundHere c p k n) := by
  unfold Machine.boundHere
  split
  next e he => exact .error <| Ends.stop he .boundLabel
  · exact .ite (.error .trap) (.ok trivial)
theorem CanonMem.netBegin {gid what} (h : CanonMem s.mem) : CanonMem (s.netBegin gid what).1.mem := h
theorem CanonMem.netEnd {k fail} (h : CanonMem s.mem) : CanonMem (s.netEnd k fail).mem := by
  unfold State.netEnd
  split
  · exact h
  · exact .ite h h
theorem CanonMem.l1DropSpan {u g p n} (h : CanonMem s.mem) : CanonMem (s.l1DropSpan u g p n).mem := by
  unfold State.l1DropSpan
  split
  · exact .l1Range h
  · exact h
theorem CanonMem.dropClient {c} (h : CanonMem s.mem) : CanonMem (s.dropClient c).mem := .foldl (fun _ _ h1 => .dropReq h1) h
theorem Ends.mapFits {d xs} : Ends Stop.Canon (fun _ => True) (mapFits c d xs) := by
  unfold Machine.mapFits
  exact .firstStop <| fun _ => .boundLabel
theorem Ends.readMap {d xs} (h : CanonMem c.s.mem) : Ends Stop.Canon (fun _ => True) (readMap c d xs) := by
  unfold Machine.readMap
  split
  next e he => exact .error <| Ends.stop he .mapFits
  split
  next e he => exact .error <| Ends.stop he (.issueReads h)
  split
  · exact .error .consume
  · exact .ok trivial
theorem CanonMem.appendToken {key x} (h : CanonMem s.mem) : CanonMem (appendToken c key s x).mem := h
theorem Ends.rsendCheck {r xs} (h : CanonMem c.s.mem) : Ends Stop.Canon (fun _ => True) (rsendCheck c r xs) := by
  unfold Machine.rsendCheck
  refine .ite (.error .trap) ?_
  extract_lets
  split
  next x e => exact .error <| Ends.stop e (.readMap h)
  extract_lets
  refine .ite (.error .trap) ?_
  split
  next x e =>
    refine .error <| Ends.stop e <| .firstStopOf fun y hy => ?_
    obtain ⟨z, _, rfl⟩ := List.mem_map.1 hy
    split
    · exact .ok trivial
    next y e => exact .error <| Ends.stop e .copyPtr
  · exact .ok trivial
theorem CanonOut.execRsend {o} (h : CanonMem s.mem) : CanonOut (execRsend o s) := by
  unfold Machine.execRsend
  refine .issue h (fun _ h1 => ?_)
  split
  next x he => exact .error <| Ends.stop he (.tileStart h1)
  refine .ite (.ok h1) (.ite (.error <| .wait h1) (.ite (.error .trap) ?_))
  extract_lets
  split
  next x he => exact .error <| Ends.stop he (.rsendCheck h1)
  · exact .ite (.error <| .wait <| .commit h1) (.ite (.error <| .wait <| .commit h1) (.ok <| .foldl (fun _ _ h2 => .appendToken h2) (.issueDrop <| .noRestart
      <| .commit h1)))
theorem CanonMem.setTok {id k} (h : CanonMem s.mem) : CanonMem (s.setTok id k).mem := h
theorem CanonMem.dropTok {id} (h : CanonMem s.mem) : CanonMem (s.dropTok id).mem := h
theorem CanonMem.stamp {id k a} (h : CanonMem s.mem) : CanonMem (s.stamp id k a).mem := h
theorem CanonMem.tokGo {id k} (h : CanonMem s.mem) : CanonMem (s.tokGo id k).mem := .ite (.setTok h) (.foldl (fun _ _ h1 => .send h1) (.dropTok h))
theorem CanonMem.tokReturn {id k why} (h : CanonMem s.mem) : CanonMem (s.tokReturn id k why).mem := .ite (.setTok h) (.send <| .dropTok h)
theorem CanonMem.tokAck {k} (h : CanonMem s.mem) : CanonMem (s.tokAck k).mem := .ite h (.send h)
theorem CanonMem.tokRead {id} (h : CanonMem s.mem) : CanonMem (s.tokRead id).mem := by
  unfold State.tokRead
  split
  · exact h
  extract_lets
  split
  · exact .tokGo h
  refine .ite (.tokGo h) ?_
  split
  · exact .newReq h
  · exact h
  · exact .tokReturn <| .dropClient h
  · exact .tokGo <| .dropClient h
theorem CanonMem.listGo {k} (h : CanonMem s.mem) : CanonMem (s.listGo k).mem := .foldl (fun _ _ h1 => .tokRead <| .setTok h1) h
theorem CanonMem.sendDepart {id} (h : CanonMem s.mem) : CanonMem (s.sendDepart id).mem := by
  unfold State.sendDepart
  split
  · exact h
  split
  · exact .tokRead h
  · exact .ite (.listGo h) h
  · exact h
theorem CanonMem.setBuf {b x} (h : CanonMem s.mem) : CanonMem (s.setBuf b x).mem := h
theorem CanonMem.bufCheck {b} (h : CanonMem s.mem) : CanonMem (s.bufCheck b).mem := by
  unfold State.bufCheck
  split
  · exact h
  · exact .ite h (.ite (.netEnd <| .setBuf <| .l1DropSpan <| .l1DropSpan h) (.netEnd <| .setBuf <| .l1DropSpan <| .l1DropSpan h))
theorem CanonMem.tokWrite {id org p bs} (h : CanonMem s.mem) : CanonMem (s.tokWrite id org p bs).mem := h
theorem CanonMem.tokPlace {id} (h : CanonMem s.mem) : CanonMem (s.tokPlace id).mem := by
  unfold State.tokPlace
  split
  · exact h
  split
  · split
    · exact h
    extract_lets
    split
    · exact .ite (.tokWrite <| .setTok h) (.tokWrite h)
    · exact h
    · exact .bufCheck <| .tokReturn <| .setBuf <| .dropClient h
    · exact .ite (.bufCheck <| .tokAck <| .dropTok <| .setBuf <| .dropClient h) (.tokWrite <| .setTok <| .dropClient h)
  · exact h
theorem CanonMem.dispose {id k die} (h : CanonMem s.mem) : CanonMem (s.dispose id k die).mem := by
  unfold State.dispose
  extract_lets
  split
  · exact .ite (.stamp h) (.ite (.tokGo h) (.tokReturn h))
  · exact .ite (.tokReturn h) (.ite (.tokPlace <| .setTok <| .setBuf h) (.ite (.tokGo <| .ite (.setBuf h) h) (.tokReturn <| .ite (.setBuf h) h)))
theorem CanonMem.tokArrive {id} (h : CanonMem s.mem) : CanonMem (s.tokArrive id).mem := by
  unfold State.tokArrive
  split
  · exact h
  split
  · exact .ite h (.dispose h)
  · exact .tokPlace h
  · exact h
theorem CanonMem.flushCheck {key} (h : CanonMem s.mem) : CanonMem (s.flushCheck key).mem := by
  unfold State.flushCheck
  split
  · exact h
  split
  · exact h
  · exact .ite (.ite (.netEnd h) h) (.ite h (.ite (.netEnd <| .foldl (fun _ _ h1 => .ite h1 (.send h1)) h) (.foldl (fun _ _ h1 => .ite h1 (.send h1)) h)))
theorem CanonMem.disposed {key} (h : CanonMem s.mem) : CanonMem (s.disposed key).mem := .flushCheck h
theorem CanonMem.tokOver {id} (h : CanonMem s.mem) : CanonMem (s.tokOver id).mem := by
  unfold State.tokOver
  split
  · exact h
  extract_lets
  split
  · split
    · exact .tokWrite h
    · exact h
    · exact .disposed <| .dropTok <| .dropClient h
  · exact h
theorem CanonMem.tokBack {id} (h : CanonMem s.mem) : CanonMem (s.tokBack id).mem := by
  unfold State.tokBack
  split
  · exact h
  extract_lets
  split
  · exact .ite (.tokOver <| .setTok h) (.disposed <| .dropTok h)
  · exact .tokOver h
  · exact h
theorem CanonMem.tokAcked {id} (h : CanonMem s.mem) : CanonMem (s.tokAcked id).mem := by
  unfold State.tokAcked
  split
  · exact h
  · exact .ite h (.ite (.flushCheck h) (.disposed <| .dropTok h))
theorem CanonMem.countMark {b} (h : CanonMem s.mem) : CanonMem (s.countMark b).mem := by
  unfold State.countMark
  split
  · exact h
  · exact .bufCheck <| .setBuf h
theorem CanonMem.markArrive {id} (h : CanonMem s.mem) : CanonMem (s.markArrive id).mem := by
  unfold State.markArrive
  split
  · exact h
  split
  · refine .ite h ?_
    split
    · exact .countMark <| .tokAck <| .dropTok h
    · exact .tokAck <| .stamp h
  · exact h
theorem CanonMem.takeHeld {die ctx sess exp} (h : CanonMem s.mem) : CanonMem (s.takeHeld die ctx sess exp).mem := by
  unfold State.takeHeld
  refine .foldl (fun _ _ h1 => .ite ?_ ?_) h
  · extract_lets
    split
    · exact .countMark <| .dropTok h1
    · exact h1
  · extract_lets
    split
    · exact .dispose h1
    · exact h1
theorem CanonOut.execRpost {o} (h : CanonMem s.mem) : CanonOut (execRpost o s) := by
  unfold Machine.execRpost
  refine .issue h fun c h1 => ?_
  split
  next x he => exact .error <| Ends.stop he (.tileStart h1)
  refine .ite (.ok h1) ?_
  extract_lets d die cap ps e sess exp s1 x b src s2
  refine .ite (.error .trap) (.ite (.error .trap) ?_)
  split
  next x he => exact .error <| Ends.stop he .boundHere
  next x he _ => exact .error <| Ends.stop he .boundHere
  have hs : CanonMem s1.mem := .commit h1
  have hx : CanonMem x.1.mem := .netBegin <| .noRestart hs
  have h2 : CanonMem s2.mem := hx
  exact .ite (.error <| .wait hs) (.ok <| .takeHeld h2)
theorem CanonOut.execRflush {o} (h : CanonMem s.mem) : CanonOut (execRflush o s) := by
  unfold Machine.execRflush
  refine .issue h (fun _ h1 => ?_)
  split
  next x he => exact .error <| Ends.stop he (.tileStart h1)
  refine .ite (.ok h1) (.ite (.error <| .wait h1) (.ite (.error .trap) ?_))
  extract_lets
  split
  next x he => exact .error <| Ends.stop he (.readMap h1)
  · exact .ite (.error <| .wait h1) (.ok <| .flushCheck <| .foldl (fun _ _ h2 => .listGo h2) (.issueDrop h1))
theorem CanonOut.execRstat {m o} (h : CanonMem s.mem) : CanonOut (execRstat m o s) := by
  unfold Machine.execRstat
  refine .issue h (fun _ h1 => ?_)
  split
  next x he => exact .error <| Ends.stop he (.start h1 .none)
  · exact .ite (.ok h1) (.ok <| .setGrp h1)

/-! ### Collective -/

theorem CanonMem.setColl {k c} (h : CanonMem s.mem) : CanonMem (s.setColl k c).mem := h
theorem CanonMem.collSend {c j kind blk first vals} (h : CanonMem s.mem) : CanonMem (s.collSend c j kind blk first vals).mem := .ite h (.send h)
theorem CanonMem.collEnd {k c fail} (h : CanonMem s.mem) : CanonMem (s.collEnd k c fail).mem := .netEnd <| .foldl (fun _ _ h1 => .dropReq h1) h
theorem CanonMem.collFail {k c d} (h : CanonMem s.mem) : CanonMem (s.collFail k c d).mem := .collEnd <| .foldl (fun _ _ h1 => .collSend h1) h
theorem CanonMem.collDone {k} (h : CanonMem s.mem) : CanonMem (s.collDone k).mem := by
  unfold State.collDone
  split
  · exact h
  · exact .ite (.collEnd <| .l1DropSpan h) h
theorem CanonMem.collPart {k c} (h : CanonMem s.mem) : CanonMem (s.collPart k c).mem := by
  unfold State.collPart
  refine .ite (.setColl h) ?_
  extract_lets
  split
  · exact .newReq h
  · exact h
  · exact .collFail h
  · exact .collSend <| .setColl <| .dropClient h
theorem CanonMem.collGo {k} (h : CanonMem s.mem) : CanonMem (s.collGo k).mem := by
  unfold State.collGo
  split
  · exact h
  · exact .ite h (.ite (.collPart h) (.collDone h))
theorem CanonMem.collTake {id m k c} (h : CanonMem s.mem) : CanonMem (s.collTake id m k c).mem := by
  unfold State.collTake
  extract_lets taken acc c' s1 pieces vals n
  have ht : CanonMem taken.mem := h
  split
  · exact .ite ht (.collFail ht)
  · have h1 : CanonMem s1.mem := ht
    exact .ite h1 (.ite (.foldl (fun _ _ h2 => .foldl (fun _ _ h3 => .collSend h3) h2) h1) (.foldl (fun _ _ h2 => .collSend h2) h1))
  · split
    · exact .newReq h
    · exact h
    · exact .collFail h
    · exact .collDone <| .setColl <| .dropClient ht
  · exact .collEnd ht
theorem CanonMem.collStep {id} (h : CanonMem s.mem) : CanonMem (s.collStep id).mem := by
  unfold State.collStep
  refine .ite h ?_
  split
  · split
    · exact .collTake h
    · exact h
  · exact .collGo h
theorem Ends.readList {p g} (h : CanonMem c.s.mem) : Ends Stop.Canon (fun _ => True) (readList c p g) := by
  unfold Machine.readList
  split
  next e he => exact .error <| Ends.stop he .boundLabel
  split
  next e he => exact .error <| Ends.stop he (.issueReads h)
  · exact .ite (.error .consume) (.ok trivial)
theorem CanonOut.execColl {m o} (h : CanonMem s.mem) : CanonOut (execColl m o s) := by
  unfold Machine.execColl
  refine .issue h fun c h1 => ?_
  split
  next x he => exact .error <| Ends.stop he (.tileStart h1)
  refine .ite (.ok h1) ?_
  extract_lets d rank g tag n s1 x src
  refine .ite (.error .trap) ?_
  split
  next x he => exact .error <| Ends.stop he (.readList h1)
  refine .ite (.error .trap) (.ite (.error .trap) ?_)
  extract_lets k s2
  split
  next x he => exact .error <| Ends.stop he .boundHere
  next x he _ => exact .error <| Ends.stop he .boundHere
  have hs : CanonMem s1.mem := .commit h1
  have hx : CanonMem x.1.mem := .netBegin <| .issueDrop <| .noRestart hs
  have h2 : CanonMem s2.mem := hx
  exact .ite (.error <| .wait hs) (.ok <| .foldl (fun _ _ h3 => .collSend h3) h2)
theorem Met.Canon.metCopy {gid lim} (h : CanonMem s.mem) : (s.metCopy gid lim).Canon := by
  unfold State.metCopy
  split
  · exact .clear
  split
  · exact .failed h
  · exact .busy
theorem Met.Canon.metMatrix {gid lim} (h : CanonMem s.mem) : (s.metMatrix gid lim).Canon := by
  unfold State.metMatrix
  split
  · exact .clear
  · exact .ite (.failed h) .busy
theorem Met.Canon.metNet {gid lim} (h : CanonMem s.mem) : (s.metNet gid lim).Canon := by
  unfold State.metNet
  split
  · exact .clear
  split
  · exact .failed h
  · exact .busy
theorem Met.Canon.metOps {gid lim atm} : (s.metOps gid lim atm).Canon := by
  unfold State.metOps
  exact .ite .busy .clear
theorem Met.Canon.met {gid m n} (h : CanonMem s.mem) : (s.met gid m n).Canon := by
  unfold State.met
  extract_lets
  split
  · exact .metCopy h
  · exact .metMatrix h
  · exact .metOps
  · exact .metNet h
  · exact .metOps
theorem CanonOut.execWaitc {m o} (h : CanonMem s.mem) : CanonOut (execWaitc m o s) := by
  unfold Machine.execWaitc
  refine .issueOr h (fun _ h1 => ?_)
  split
  next x he => exact .error <| Ends.stop he (.start h1 .none)
  refine .ite (.ok <| .ok h1) ?_
  extract_lets
  split
  · exact .error <| .ite (.hang h1) (.wait h1)
  next _ s he => exact .ok <| .error <| .takeTrap <| Met.state he (.met h1)
  refine .ok <| .ok ?_
  split
  · exact .covered h1
  · exact .covered h1
  · exact h1

/-! ### Control -/

theorem CanonMem.goto {g pc} (h : CanonMem c.s.mem) : CanonMem (c.goto g pc).mem := h
theorem CanonMem.next {g} (h : CanonMem c.s.mem) : CanonMem (c.next g).mem := h
theorem Ends.taken {u m ts} : Ends Stop.Canon (fun _ => True) (taken c u m ts) := by
  unfold Machine.taken
  refine .ite (.ok trivial) ?_
  extract_lets
  split
  · exact .ok trivial
  · exact .ok trivial
  · exact .ite (.ok trivial) (.ite (.ok trivial) (.error .trap))
theorem CanonOut.execBra {m o} (h : CanonMem s.mem) : CanonOut (execBra m o s) := by
  unfold Machine.execBra
  refine .issue h (fun _ h1 => ?_)
  split
  next x he => exact .error <| Ends.stop he (.start h1 .none)
  split
  next e he => exact .error <| Ends.stop he .taken
  · exact .ok <| .ite (.goto h1) (.next h1)
theorem CanonOut.execBrai {o} (h : CanonMem s.mem) : CanonOut (execBrai o s) := by
  unfold Machine.execBrai
  refine .issue h (fun _ h1 => ?_)
  split
  next x he => exact .error <| Ends.stop he (.start h1 .none)
  split
  next e he => exact .error <| Ends.stop he .taken
  · exact .ok <| .next h1
  split
  · exact .ok <| .next h1
  · exact .ite (.error .trap) (.ok <| .goto h1)
theorem CanonOut.execCall {m o} (h : CanonMem s.mem) : CanonOut (execCall m o s) := by
  unfold Machine.execCall
  refine .issue h (fun _ h1 => ?_)
  split
  next x he => exact .error <| Ends.stop he (.start h1 .none)
  split
  next e he => exact .error <| Ends.stop he .taken
  · exact .ok <| .next h1
  · exact .ok <| .goto h1
theorem CanonOut.execRet {o} (h : CanonMem s.mem) : CanonOut (execRet o s) := by
  unfold Machine.execRet
  refine .issue h (fun _ h1 => ?_)
  split
  next x he => exact .error <| Ends.stop he (.start h1 .none)
  split
  next e he => exact .error <| Ends.stop he .taken
  · exact .ok <| .ite (.goto h1) (.next h1)
theorem CanonOut.maskOp {i o f} (h : CanonMem s.mem) (hff : ∀ y0, CanonMem y0.s.mem → Ends Stop.Canon (CanonMem ·.mem) (f y0)) : CanonOut (maskOp i o s f) :=
    by
  unfold Machine.maskOp
  refine .issue h (fun _ h1 => ?_)
  split
  next x he => exact .error <| Ends.stop he (.start h1 .none)
  · exact hff _ h1
theorem CanonOut.execIfp {o} (h : CanonMem s.mem) : CanonOut (execIfp o s) := by
  unfold Machine.execIfp
  exact .maskOp h (fun _ h1 => .ite (.error .trap) (.ok <| .next h1))
theorem CanonOut.execElsp {o} (h : CanonMem s.mem) : CanonOut (execElsp o s) := by
  unfold Machine.execElsp
  refine .maskOp h (fun _ h1 => ?_)
  split
  · exact .ite (.ok <| .next h1) (.error .trap)
  · exact .error .trap
theorem CanonOut.execEndp {o} (h : CanonMem s.mem) : CanonOut (execEndp o s) := by
  unfold Machine.execEndp
  refine .maskOp h (fun _ h1 => ?_)
  split
  · exact .ite (.error .trap) (.ok <| .next h1)
  · exact .error .trap
theorem CanonOut.execLoopb {o} (h : CanonMem s.mem) : CanonOut (execLoopb o s) := by
  unfold Machine.execLoopb
  exact .maskOp h (fun _ h1 => .ite (.error .trap) (.ok <| .next h1))
theorem CanonOut.execBrkp {o} (h : CanonMem s.mem) : CanonOut (execBrkp o s) := by
  unfold Machine.execBrkp
  refine .maskOp h (fun _ h1 => ?_)
  extract_lets
  split
  · exact .error .trap
  · exact .ok <| .next h1
theorem CanonOut.execContp {o} (h : CanonMem s.mem) : CanonOut (execContp o s) := by
  unfold Machine.execContp
  refine .maskOp h (fun _ h1 => ?_)
  extract_lets
  split
  · exact .error .trap
  · exact .ok <| .next h1
theorem CanonOut.execLoope {o} (h : CanonMem s.mem) : CanonOut (execLoope o s) := by
  unfold Machine.execLoope
  refine .maskOp h (fun _ h1 => ?_)
  split
  · exact .ite (.error .trap) (.ite (.ok <| .goto h1) (.ok <| .next h1))
  · exact .error .trap
theorem CanonOut.execExit {o} (h : CanonMem s.mem) : CanonOut (execExit o s) := by
  unfold Machine.execExit
  refine .issue h (fun _ h1 => ?_)
  split
  next x he => exact .error <| Ends.stop he (.start h1 .none)
  · exact .ite (.ok h1) (.ite (.ok <| .endGroup h1) (.ite (.ok <| .endGroup h1) (.ok <| .setGrp h1)))
theorem CanonOut.execNop {o} (h : CanonMem s.mem) : CanonOut (execNop o s) := by
  unfold Machine.execNop
  refine .issue h (fun _ h1 => ?_)
  split
  next x he => exact .error <| Ends.stop he (.start h1 .none)
  · exact .ok h1
theorem CanonOut.execRegn {o} (h : CanonMem s.mem) : CanonOut (execRegn o s) := by
  unfold Machine.execRegn
  refine .issue h (fun _ h1 => ?_)
  split
  next x he => exact .error <| Ends.stop he (.start h1 .none)
  · exact .ite (.ok h1) (.ok <| .setGrp h1)
theorem CanonOut.execYield {o} (h : CanonMem s.mem) : CanonOut (execYield o s) := by
  unfold Machine.execYield
  refine .issue h (fun _ h1 => ?_)
  split
  next x he => exact .error <| Ends.stop he (.start h1 .none)
  · exact .ite (.ok h1) (.ok <| .setGrp h1)

/-! ### Domain -/

theorem CanonMem.setDom {d x} (h : CanonMem s.mem) : CanonMem (s.setDom d x).mem := h
theorem CanonMem.domainGo {d} (h : CanonMem s.mem) : CanonMem (s.domainGo d).mem := .ite (.setDom h) (.ite (.setDom h) (.setDom h))
theorem CanonMem.domainWalk {d} (h : CanonMem s.mem) : CanonMem (s.domainWalk d).mem := .ite (.setDom h) h
theorem CanonMem.domainEnd {d} (h : CanonMem s.mem) : CanonMem (s.domainEnd d).mem := by
  unfold State.domainEnd
  refine .ite h (.ite (.foldl (fun _ _ h1 => ?_) h) (.foldl (fun _ _ h1 => .issueTo h1) (.setDom <| .foldl (fun _ _ h1 => ?_) h)))
  · extract_lets
    split
    · exact .ite (.writeBack h1) h1
    · exact h1
  · extract_lets
    split
    · exact .ite (.writeBack h1) h1
    · exact h1

/-! ### Fabric -/

theorem CanonMem.setPort {p x} (h : CanonMem s.mem) : CanonMem (s.setPort p x).mem := h
theorem CanonMem.setFlow {m f} (h : CanonMem s.mem) : CanonMem (s.setFlow m f).mem := h
theorem CanonMem.reachCheck (h : CanonMem s.mem) : CanonMem s.reachCheck.mem := h
theorem CanonMem.setSeal {m g} (h : CanonMem s.mem) : CanonMem (s.setSeal m g).mem := h
theorem CanonMem.push {m g} (h : CanonMem s.mem) : CanonMem (s.push m g).mem := by
  unfold State.push
  extract_lets
  split
  · exact .setSeal h
  · exact .setSeal h
theorem CanonMem.sealClose {m vc} (h : CanonMem s.mem) : CanonMem (s.sealClose m vc).mem := by
  unfold State.sealClose
  refine .ite h ?_
  extract_lets
  split
  · exact .push h
  split
  · exact .ite h (.push <| .setFlow h)
  · exact h
theorem CanonMem.clearTents {k} (h : CanonMem s.mem) : CanonMem (s.clearTents k).mem := h
theorem CanonMem.addPart {q} (h : CanonMem s.mem) : CanonMem (s.addPart q).mem := .ite h (.onePart <| .setReq h)
theorem CanonMem.carve {id q off n} (h : CanonMem s.mem) : CanonMem (s.carve id q off n).1.mem := .iteFst h (.addPart <| .addPart h)
theorem CanonMem.early {m key p} (h : CanonMem s.mem) : CanonMem (s.early m key p).mem := by
  unfold State.early
  obtain ⟨carve, hcarve⟩ : ∃ f, f = State.carve := ⟨_, rfl⟩
  rw [← hcarve]
  have hc {s : State} {id q off n} (h : CanonMem s.mem) : CanonMem (carve s id q off n).1.mem := by
    rw [hcarve]
    exact .carve h
  split
  · split
    · exact h
    split
    · exact h
    extract_lets b has n s1 x
    refine .ite h ?_
    have h1 : CanonMem s1.mem := .onBlk h
    have hx : CanonMem x.1.mem := hc h1
    split
    · split
      · exact .setReq <| .atomResult h1
      · exact h1
    · exact .setReq hx
  · exact h
theorem CanonMem.answeredBy {m name} (h : CanonMem s.mem) : CanonMem (s.answeredBy m name).mem := .ite h (.setFlow h)
theorem CanonMem.constFill {m q bs} (h : CanonMem s.mem) : CanonMem (s.constFill m q bs).mem := h
theorem CanonMem.bringLine {t slice b bs} (h : CanonMem s.mem) : CanonMem (s.bringLine t slice b bs).mem := h
theorem CanonMem.replyData {m name off bs} (h : CanonMem s.mem) : CanonMem (s.replyData m name off bs).mem := by
  unfold State.replyData
  obtain ⟨carve, hcarve⟩ : ∃ f, f = State.carve := ⟨_, rfl⟩
  rw [← hcarve]
  have hc {s : State} {id q off n} (h : CanonMem s.mem) : CanonMem (carve s id q off n).1.mem := by
    rw [hcarve]
    exact .carve h
  split
  · exact h
  extract_lets x s1 q
  have h1 : CanonMem s1.mem := hc h
  split
  · exact .ite (.granted <| .bringLine h1) (.taken h1)
  · exact .finish h1
  · split
    · exact .send <| .dropReq h1
    · exact .dropReq h1
  · exact .taken <| .ite (.constFill h1) h1
theorem CanonMem.replyAck {m name off len} (h : CanonMem s.mem) : CanonMem (s.replyAck m name off len).mem := by
  unfold State.replyAck
  split
  · exact h
  · exact .setReq <| .carve h
theorem CanonMem.replyRefusal {m name off len r} (h : CanonMem s.mem) : CanonMem (s.replyRefusal m name off len r).mem := by
  unfold State.replyRefusal
  split
  · exact h
  · exact .refuse <| .carve h
theorem CanonMem.heldBehind {m name} (h : CanonMem s.mem) : CanonMem (s.heldBehind m name).mem := by
  unfold State.heldBehind
  refine .foldl (fun _ _ h1 => ?_) h
  split
  · exact .setReq h1
  · exact .send <| .dropReq h1
  · exact .dropReq h1
theorem CanonMem.stampPast {home n} (h : CanonMem s.mem) : CanonMem (s.stampPast home n).mem := .foldl (fun _ _ h1 => .dropReq h1) h
theorem CanonMem.takeReqs {m name k lvl label fwd xs} (h : CanonMem s.mem) : CanonMem (s.takeReqs m name k lvl label fwd xs).mem :=
  .foldl (fun _ _ h1 => .newReq h1) h
theorem CanonMem.planeGone {m plane} (h : CanonMem s.mem) : CanonMem (s.planeGone m plane).mem := .reachCheck <| .foldl (fun _ _ h1 => .push h1) (.setFlow h)
theorem CanonMem.tokIn {k} (h : CanonMem s.mem) : CanonMem (s.tokIn k).mem := h
theorem CanonMem.tokBytes {k die first bs} (h : CanonMem s.mem) : CanonMem (s.tokBytes k die first bs).mem := by
  unfold State.tokBytes
  extract_lets
  split
  · split
    · exact .setTok <| .ite h (.tokIn h)
    · exact .ite h (.tokIn h)
  · exact .ite h (.tokIn h)
theorem CanonMem.applyPacket {m p} (h : CanonMem s.mem) : CanonMem (s.applyPacket m p).mem := by
  unfold State.applyPacket
  extract_lets
  split
  · exact .takeReqs <| .setFlow h
  · exact .answeredBy <| .replyData <| .setFlow h
  · exact .answeredBy <| .replyAck <| .setFlow h
  · exact .answeredBy <| .replyRefusal <| .setFlow h
  · exact .stampPast <| .setFlow h
  · exact .answeredBy <| .heldBehind <| .setFlow h
  · exact .tokBytes <| .setFlow h
  · exact .tokIn <| .setFlow h
  · exact .tokIn <| .setFlow h
  · exact .tokIn <| .setFlow h
  · exact .planeGone <| .setFlow h
  · exact .service <| .setFlow h
  · exact h
theorem CanonMem.releaseApply {m seq} (h : CanonMem s.mem) : CanonMem (s.releaseApply m seq).mem := by
  unfold State.releaseApply
  extract_lets
  split
  · exact h
  · exact .ite h (.ite (.send <| .setFlow <| .setFlow h) (.applyPacket <| .setFlow h))
theorem CanonMem.discard {port vc} (h : CanonMem s.mem) : CanonMem (s.discard port vc).mem := h
theorem CanonMem.ingress {port fec hd early body} (h : CanonMem s.mem) : CanonMem (s.ingress port fec hd early body).mem := by
  unfold State.ingress
  refine .ite h (.ite (.setPort <| .discard <| .setPort h) ?_)
  extract_lets
  split
  · exact .discard <| .setPort h
  · exact .ite (.early <| .setFlow <| .setPort <| .setPort h) (.setFlow <| .setPort <| .setPort h)
theorem CanonMem.freeSeal {g} (h : CanonMem s.mem) : CanonMem (s.freeSeal g).mem := h
theorem CanonMem.sealVerify {mine m id} (h : CanonMem s.mem) : CanonMem (s.sealVerify mine m id).mem := by
  unfold State.sealVerify
  refine .ite (.setFlow h) ?_
  extract_lets
  split
  · exact h
  · exact .foldl (fun _ _ h1 => .clearTents <| .onBlk h1) (.foldl (fun _ _ h1 => .ite h1 (.ite (.setFlow h1) (.applyPacket h1))) (.freeSeal <| .setFlow h))
theorem CanonMem.unTent {k g} (h : CanonMem s.mem) : CanonMem (s.unTent k g).mem := h
theorem CanonMem.failBlocks {g} (h : CanonMem s.mem) : CanonMem (s.failBlocks g).mem := .foldl (fun _ _ h1 => .dropBlock <| .onBlk <| .unTent h1) h
theorem CanonMem.askHoist {m} (h : CanonMem s.mem) : CanonMem (s.askHoist m).mem := .ite h (.send h)
theorem CanonMem.sealFail {mine m id} (h : CanonMem s.mem) : CanonMem (s.sealFail mine m id).mem := by
  unfold State.sealFail
  refine .ite ?_ ?_
  · extract_lets
    split
    · exact h
    · exact .ite (.reachCheck <| .setFlow h) (.push <| .setFlow h)
  · extract_lets
    split
    · exact h
    · exact .failBlocks <| .ite (.askHoist <| .service <| .setFlow <| .freeSeal <| .setPort h) (.setFlow <| .freeSeal <| .setPort h)
theorem CanonMem.leak {p} (h : CanonMem s.mem) : CanonMem (s.leak p).mem := .notice <| .setPort h
theorem CanonMem.audit {p sent freed} (h : CanonMem s.mem) : CanonMem (s.audit p sent freed).mem :=
  .ite (.leak <| .setPort <| .ite (.leak <| .setPort h) h) (.ite (.leak <| .setPort h) h)
theorem CanonMem.setLimits {p v} (h : CanonMem s.mem) : CanonMem (s.setLimits p v).mem := .ite (.setPort h) h
theorem CanonMem.quiesce {p} (h : CanonMem s.mem) : CanonMem (s.quiesce p).mem :=
  .service <| .reachCheck <| .foldl (fun _ _ h1 => .send h1) (.foldl (fun _ _ h1 => .foldl (fun _ _ h2 => .push h2) h1) (.setPort h))
theorem CanonMem.degrade {p lanes cap} (h : CanonMem s.mem) : CanonMem (s.degrade p lanes cap).mem :=
  .ite (.quiesce <| .setPort h) (.ite (.service <| .setPort h) (.setPort h))
theorem CanonMem.trained {p} (h : CanonMem s.mem) : CanonMem (s.trained p).mem := .ite (.reachCheck <| .setPort h) h
theorem CanonMem.assign {n} (h : CanonMem s.mem) : CanonMem (s.assign n).mem := .ite h h
theorem CanonMem.hoistEnd {st} (h : CanonMem s.mem) : CanonMem (s.hoistEnd st).mem := by
  unfold State.hoistEnd
  split
  · exact h
  extract_lets
  split
  · exact .wake <| .onGrp h
  · exact h
theorem CanonMem.spdm {m ok} (h : CanonMem s.mem) : CanonMem (s.spdm m ok).mem := by
  unfold State.spdm
  refine .ite (.setFlow h) ?_
  extract_lets
  split
  · exact .ite (.hoistEnd <| .service <| .setFlow h) (.service <| .setFlow h)
  · exact .service <| .setFlow h
theorem CanonMem.refuseHeld {mask} (h : CanonMem s.mem) : CanonMem (s.refuseHeld mask).mem := by
  unfold State.refuseHeld
  refine .foldl (fun _ _ h1 => .ite h1 (.setFlow <| .foldl (fun _ _ h2 => ?_) h1)) h
  extract_lets
  split
  · exact .send <| .setFlow h2
  · exact .setFlow h2
theorem CanonMem.hoistSwitch {mask secret gen leader} (h : CanonMem s.mem) : CanonMem (s.hoistSwitch mask secret gen leader).mem :=
  .reachCheck <| .foldl (fun _ _ h1 => .refuse h1) (.foldl (fun _ _ h1 => .foldl (fun _ _ h2 => .freeSeal h2) h1) (.foldl (fun _ _ h1 => .foldl (fun _ _ h2 =>
    .failBlocks h2) h1) h))
theorem CanonMem.barrier {mask secret gen leader} (h : CanonMem s.mem) : CanonMem (s.barrier mask secret gen leader).mem := by
  unfold State.barrier
  split
  · exact .ite h h
  · exact .ite (.refuseHeld h) (.ite (.refuseHeld h) (.hoistEnd <| .hoistSwitch <| .refuseHeld h))
theorem CanonMem.hoistLate {m} (h : CanonMem s.mem) : CanonMem (s.hoistLate m).mem := by
  unfold State.hoistLate
  split
  · exact .ite (.ite h (.service h)) h
  · exact h

/-! ### Image -/

theorem CanonMem.saveHeader {c} (h : CanonMem s.mem) : CanonMem (s.saveHeader c).mem := .poke <| .poke h
theorem OptAll.putImage {k secs trt inpl} (h : CanonMem s.mem) : OptAll (CanonMem ·.mem) (s.putImage k secs trt inpl) := by
  unfold State.putImage
  extract_lets b x body at_ n p s1 s2 s3
  refine .ite .none ?_
  have h1 : CanonMem s1.mem := by
    unfold s1
    split
    next s' he => exact Ends.state he (.wrN h)
    · exact h
  have h2 : CanonMem s2.mem := .setCtx h1
  have h3 : CanonMem s3.mem := h2
  exact .some <| .post <| .saveHeader h3
theorem CanonMem.freeImages {k} (h : CanonMem s.mem) : CanonMem (s.freeImages k).mem := .ite h (.saveHeader h)

/-! ### Sched -/

theorem CanonMem.beginRun {key gid l} (h : CanonMem s.mem) : CanonMem (s.beginRun key gid l).mem := h
theorem CanonMem.select {key} (h : CanonMem s.mem) : CanonMem (s.select key).mem := by
  unfold State.select
  refine .ite h ?_
  extract_lets
  split
  · exact h
  refine .ite ?_ ?_
  · extract_lets
    split
    · exact .beginRun h
    · exact h
  · split
    · exact .beginRun h
    · exact h
theorem CanonMem.ageTurn {p} (h : CanonMem s.mem) : CanonMem (s.ageTurn p).mem := h
theorem CanonMem.ageGroup {gid} (h : CanonMem s.mem) : CanonMem (s.ageGroup gid).mem := by
  unfold State.ageGroup
  split
  · exact h
  · exact .ite (.setGrp h) h

/-! ### Place -/

theorem CanonMem.noteLid {u l} (h : CanonMem s.mem) : CanonMem (s.noteLid u l).mem := by
  unfold State.noteLid
  split
  · exact h
  · exact .onCore h
theorem CanonMem.zeroBlock {b} (h : CanonMem s.mem) : CanonMem (s.zeroBlock b).mem := .zeroBytes h
theorem CanonMem.zeroCluster {n} (h : CanonMem s.mem) : CanonMem (s.zeroCluster n).mem := .ite h (.zeroBytes h)
theorem CanonMem.startBlock {k b u lam cob} (h : CanonMem s.mem) : CanonMem (s.startBlock k b u lam cob).mem := .l1DropCtx <| .noteLid h
theorem CanonMem.moveSlots {u u' gids} (h : CanonMem s.mem) : CanonMem (s.moveSlots u u' gids).1.mem := h
theorem CanonMem.moveOps {gid u' m m2} (h : CanonMem s.mem) : CanonMem (s.moveOps gid u' m m2).mem := .foldl (fun _ _ h1 => h1) h
theorem CanonMem.moveGroup {gid u' m m2} (h : CanonMem s.mem) : CanonMem (s.moveGroup gid u' m m2).mem := by
  unfold State.moveGroup
  split
  · exact h
  · exact .moveOps <| .regid <| .freeLane h
theorem CanonMem.moveGroups {gids u u'} (h : CanonMem s.mem) : CanonMem (s.moveGroups gids u u').mem :=
  .foldl (fun _ _ h1 => .moveGroup h1) (.moveSlots <| .moveSlots h)
theorem CanonMem.moveWrites {k u'} (h : CanonMem s.mem) : CanonMem (s.moveWrites k u').mem := h
theorem CanonMem.moveBlock {k u' lam} (h : CanonMem s.mem) : CanonMem (s.moveBlock k u' lam).mem :=
  .onBlk <| .moveWrites <| .foldl (fun _ _ h1 => .moveGroups h1) h
theorem CanonMem.settle {gid} (h : CanonMem s.mem) : CanonMem (s.settle gid).mem := .setGrp <| .foldl (fun _ _ h1 => .dropReq h1) h
theorem OptAll.doSave {k} (h : CanonMem s.mem) : OptAll (CanonMem ·.mem) (s.doSave k) := by
  unfold State.doSave
  exact .putImage <| .onBlk <| .moveBlock <| .foldl (fun _ _ h1 => .settle h1) h
theorem CanonMem.eraseBlock {k} (h : CanonMem s.mem) : CanonMem (s.eraseBlock k).mem := .zeroCluster <| .zeroBlock <| .freeImages <| .clearBlock h
theorem CanonMem.settleBlock {k} (h : CanonMem s.mem) : CanonMem (s.settleBlock k).mem := by
  unfold State.settleBlock
  split
  · exact h
  refine .ite h ?_
  split
  · exact .ite (.getD (.doSave h) h) h
  · exact .ite (.getD (.putImage h) h) h
  · exact .ite h (.requeue <| .zeroBlock <| .clearBlock h)
  · exact .ite h (.eraseBlock h)
  · exact h
theorem CanonMem.treat {ks t} (h : CanonMem s.mem) : CanonMem (s.treat ks t).mem := .foldl (fun _ _ h1 => .onBlk h1) (.ageTurn h)
theorem CanonMem.lateDiscards {k} (h : CanonMem s.mem) : CanonMem (s.lateDiscards k).mem :=
  .foldl (fun _ _ h1 => .ite (.foldl (fun _ _ h2 => .dueTrap h2) h1) h1) h
theorem CanonMem.tryRestore {k} (h : CanonMem s.mem) : CanonMem (s.tryRestore k).mem := by
  unfold State.tryRestore
  split
  · refine .ite h ?_
    extract_lets
    split
    · exact h
    · exact .ite (.startBlock <| .freeImages h) (.lateDiscards <| .l1DropCtx <| .noteLid <| .freeImages <| .onBlk <| .moveBlock <| .setBlk h)
  · exact h
theorem OptAll.resumeHere {k} (h : CanonMem s.mem) : OptAll (CanonMem ·.mem) (s.resumeHere k) := by
  unfold State.resumeHere
  exact .ite (.some <| .l1DropCtx <| .onBlk <| .freeImages <| .moveGroups h) .none
theorem CanonMem.resume {k} (h : CanonMem s.mem) : CanonMem (s.resume k).mem := by
  unfold State.resume
  split
  next s' he => exact OptAll.state he (.resumeHere h)
  · exact .ite (.getD (.doSave <| .treat h) (.treat h)) (.treat h)
theorem CanonMem.spillGroup {gid} (h : CanonMem s.mem) : CanonMem (s.spillGroup gid).mem := .ite (.getD (.putImage <| .moveGroups <| .settle h) h) h
theorem CanonMem.spillBytes {k} (h : CanonMem s.mem) : CanonMem (s.spillBytes k).mem := .getD (.putImage h) h
theorem CanonMem.claim {bytes id} (h : CanonMem s.mem) : CanonMem (s.claim bytes id).mem := by
  unfold State.claim
  refine .ite (.ite (.spillBytes h) h) ?_
  split
  · exact h
  · exact .ite (.spillGroup h) h
theorem CanonMem.preempt {c prio hd ngrp n} (h : CanonMem s.mem) : CanonMem (s.preempt c prio hd ngrp n).mem := by
  unfold State.preempt
  split
  · exact h
  · exact .foldl (fun _ _ h1 => .ite h1 (.treat h1)) h
theorem CanonMem.settleUnit {u} (h : CanonMem s.mem) : CanonMem (s.settleUnit u).mem :=
  .foldl (fun _ _ h1 => .ite (.tryRestore h1) h1) (.foldl (fun _ _ h1 => .ite (.settleBlock h1) h1) h)
theorem CanonMem.laneTurn {key} (h : CanonMem s.mem) : CanonMem (s.laneTurn key).mem := .ite h (.settleUnit <| .select h)
theorem CanonOut.execDrainTimeout {id} (h : CanonMem s.mem) : CanonOut (execDrainTimeout id s) := by
  unfold Machine.execDrainTimeout
  split
  · exact .next <| .ite (.treat h) h
  · exact .next h
theorem CanonMem.migrate {u} (h : CanonMem s.mem) : CanonMem (s.migrate u).mem := by
  unfold State.migrate
  refine .ite h (.ite (.settleUnit h) ?_)
  split
  · exact h
  · exact .treat <| .onBlk h

/-! ### Launch -/

theorem CanonMem.writeRecord {ctx done v} (h : CanonMem s.mem) : CanonMem (s.writeRecord ctx done v).mem := .ite (.poke h) h
theorem CanonMem.setQueue {q x} (h : CanonMem s.mem) : CanonMem (s.setQueue q x).mem := h
theorem CanonMem.queueTurn {q} (h : CanonMem s.mem) : CanonMem (s.queueTurn q).mem := h
theorem CanonMem.setPmode {v} (h : CanonMem s.mem) : CanonMem (s.setPmode v).mem := .foldl (fun _ _ h1 => .queueTurn h1) h
theorem CanonMem.ringError {q} (h : CanonMem s.mem) : CanonMem (s.ringError q).mem := .post <| .setQueue h
theorem CanonMem.advance {q} (h : CanonMem s.mem) : CanonMem (s.advance q).mem := h
theorem CanonMem.toBox {d p} (h : CanonMem s.mem) : CanonMem (s.toBox d p).mem := h
theorem CanonMem.deliver {q pkt hd die lid} (h : CanonMem s.mem) : CanonMem (s.deliver q pkt hd die lid).mem := h
theorem CanonMem.frontEnd {q} (h : CanonMem s.mem) : CanonMem (s.frontEnd q).mem := by
  unfold State.frontEnd
  refine .ite h (.ite (.queueTurn h) ?_)
  extract_lets
  split
  · exact .ringError <| .queueTurn h
  · exact .ite (.report <| .setQueue <| .queueTurn h) (.post <| .setQueue <| .queueTurn h)
  · exact .advance <| .writeRecord <| .queueTurn h
  · exact .deliver <| .queueTurn h
  · exact .queueTurn h
theorem CanonMem.ageQueue {q} (h : CanonMem s.mem) : CanonMem (s.ageQueue q).mem := .ite (.setQueue <| .queueTurn h) (.queueTurn h)
theorem CanonMem.setEnable {q en} (h : CanonMem s.mem) : CanonMem (s.setEnable q en).mem :=
  .ite (.ringError <| .queueTurn <| .setQueue h) (.queueTurn <| .setQueue h)
theorem CanonMem.setSize {q size} (h : CanonMem s.mem) : CanonMem (s.setSize q size).mem := .ite (.ringError <| .setQueue h) (.setQueue h)
theorem Ends.packetStart {i o} (h : CanonMem c.s.mem) : Ends Stop.Canon (fun _ => True) (packetStart c i o) := by
  unfold Machine.packetStart
  split
  next t e => exact .ite (.error <| .wait <| Ends.waits e (.tileStart h)) (.error <| .wait <| .commit <| Ends.waits e (.tileStart h))
  · exact .tileStart h
theorem CanonMem.launchSet {lid r set pl} (h : CanonMem s.mem) : CanonMem (s.launchSet lid r set pl).mem := .foldl (fun _ _ h1 => .startBlock h1) h
theorem Ends.launchBody {try_ p b} (h : CanonMem c.s.mem) : Ends Stop.Canon (CanonMem ·.1.mem) (launchBody c try_ p b) := by
  unfold Machine.launchBody
  extract_lets
  split
  · exact .ok <| .commit h
  refine .ite (.ok <| .commit h) ?_
  split
  · exact .ok <| .commit h
  refine .ite (.ok <| .commit h) ?_
  split
  · exact .ite (.ok <| .commit h) (.error <| .wait <| .ite (.onGrp <| .commit h) (.preempt <| .onGrp <| .commit h))
  · exact .ite (.error <| .wait <| .commit h) (.ok <| .launchSet <| .noRestart <| .commit h)
theorem CanonMem.status {d v} (h : CanonMem s.mem) : CanonMem (c.status s d v).mem := h
theorem CanonOut.execLaunch {m o} (h : CanonMem s.mem) : CanonOut (execLaunch m o s) := by
  unfold Machine.execLaunch
  refine .issue h (fun _ h1 => ?_)
  split
  next x he => exact .error <| Ends.stop he (.packetStart h1)
  · exact .ok h1
  refine .ite (.error .trap) ?_
  split
  next x he => exact .error <| Ends.stop he (.launchBody h1)
  next x he => exact .ok <| .status <| Ends.pair he (.launchBody h1)
theorem CanonOut.execMbxrd {m o} (h : CanonMem s.mem) : CanonOut (execMbxrd m o s) := by
  unfold Machine.execMbxrd
  refine .issue h (fun _ h1 => ?_)
  split
  next x he => exact .error <| Ends.stop he (.start h1 .none)
  · exact .ok <| .pass h1
  refine .ite (.error <| .wait h1) (.ite (.error .trap) ?_)
  extract_lets
  split
  · exact .ok <| .pass <| .onGrp h1
  · exact .ite (.ok <| .pass <| .onGrp h1) (.ok <| .park h1)
theorem Ends.forwardBody {try_ p b} (h : CanonMem c.s.mem) : Ends Stop.Canon (CanonMem ·.1.mem) (forwardBody c try_ p b) := by
  unfold Machine.forwardBody
  exact .ite (.ok <| .commit h) (.ite (.ok <| .commit h) (.ite (.ite (.ok <| .commit h) (.error <| .wait <| .commit h)) (.ok <| .toBox <| .noRestart <|
      .commit h)))
theorem CanonOut.execMbxfwd {m o} (h : CanonMem s.mem) : CanonOut (execMbxfwd m o s) := by
  unfold Machine.execMbxfwd
  refine .issue h (fun _ h1 => ?_)
  split
  next x he => exact .error <| Ends.stop he (.packetStart h1)
  · exact .ok h1
  refine .ite (.error .trap) ?_
  split
  next x he => exact .error <| Ends.stop he (.forwardBody h1)
  next x he => exact .ok <| .status <| Ends.pair he (.forwardBody h1)
theorem CanonMem.doPennant {lid r} (h : CanonMem s.mem) : CanonMem (s.doPennant lid r).mem := .queueTurn <| .writeRecord <| .l1DropAll h
theorem CanonMem.raisePennant {lid} (h : CanonMem s.mem) : CanonMem (s.raisePennant lid).mem := by
  unfold State.raisePennant
  split
  · exact h
  · exact .ite h (.doPennant h)
theorem CanonMem.passGroup {k num} (h : CanonMem s.mem) : CanonMem (s.passGroup k num).mem := by
  unfold State.passGroup
  refine .ite h ?_
  extract_lets
  split
  · exact .onBlk h
  · exact .raisePennant h
theorem CanonOut.execPennant {o} (h : CanonMem s.mem) : CanonOut (execPennant o s) := by
  unfold Machine.execPennant
  refine .issue h (fun _ h1 => ?_)
  split
  next x he => exact .error <| Ends.stop he (.start h1 .none)
  · exact .ok h1
  · exact .ite (.ok <| .passGroup <| .noRestart <| .commit h1) (.error <| .wait <| .commit h1)
theorem CanonMem.countSilent {lid} (h : CanonMem s.mem) : CanonMem (s.countSilent lid).mem := by
  unfold State.countSilent
  split
  · exact h
  · exact .raisePennant <| .foldl (fun _ _ h1 => .onBlk h1) h
theorem CanonMem.clearLaunch {lid} (h : CanonMem s.mem) : CanonMem (s.clearLaunch lid).mem := .foldl (fun _ _ h1 => .eraseBlock h1) h
theorem CanonMem.complete {lid} (h : CanonMem s.mem) : CanonMem (s.complete lid).mem := by
  unfold State.complete
  extract_lets
  split
  · exact .clearLaunch <| .countSilent h
  · exact .ite (.countSilent h) (.ite (.l1DropAll <| .ite (.countSilent h) (.doPennant <| .countSilent h)) (.queueTurn <| .clearLaunch <| .ite (.postEvent <|
      .writeRecord <| .l1DropAll <| .ite (.countSilent h) (.doPennant <| .countSilent h)) (.writeRecord <| .l1DropAll <| .ite (.countSilent h) (.doPennant <|
      .countSilent h))))

/-! ### Faults -/

theorem CanonMem.postNext {dst} (h : CanonMem s.mem) : CanonMem (s.postNext dst).mem := by
  unfold State.postNext
  split
  · exact h
  refine .ite h ?_
  extract_lets
  split
  · exact .poke <| .putEntry h
  · exact .poke <| .putEntry h
theorem CanonMem.ridxMoved {dst} (h : CanonMem s.mem) : CanonMem (s.ridxMoved dst).mem := .foldl (fun _ _ h1 => .postNext h1) h
theorem CanonMem.ovfClear {dst} (h : CanonMem s.mem) : CanonMem (s.ovfClear dst).mem := .ite h (.poke h)
theorem CanonMem.loseLoad {op} (h : CanonMem s.mem) : CanonMem (s.loseLoad op).mem := by
  unfold State.loseLoad
  split
  · extract_lets
    split
    · exact .elementDone <| .foldl (fun _ _ h1 => .dropReq h1) h
    · exact .foldl (fun _ _ h1 => .dropReq h1) h
  · exact h
theorem CanonMem.loseAtom {op} (h : CanonMem s.mem) : CanonMem (s.loseAtom op).mem := by
  unfold State.loseAtom
  split
  · extract_lets
    split
    · exact .elementDone h
    · exact .onGrp h
  · exact h
theorem CanonMem.loseWatch {w} (h : CanonMem s.mem) : CanonMem (s.loseWatch w).mem := by
  unfold State.loseWatch
  split
  · exact h
  · exact .ite (.wake <| .setGrp h) h
theorem CanonMem.replayReq {id q} (h : CanonMem s.mem) : CanonMem (s.replayReq id q).mem := h
theorem CanonMem.discardHeld {id q r} (h : CanonMem s.mem) : CanonMem (s.discardHeld id q r).mem := h
theorem CanonMem.answerReq {id q r replay} (h : CanonMem s.mem) : CanonMem (s.answerReq id q r replay).mem := by
  unfold State.answerReq
  refine .ite (.replayReq h) ?_
  split
  · exact .dueTrap <| .loseLoad h
  · split
    · exact .dueTrap <| .loseAtom <| .dropReq h
    · exact .dropReq h
  · exact .dueTrap <| .dropFam h
  · split
    · exact .dueTrap <| .pass <| .dropFam h
    · exact .dueTrap <| .dropFam h
  · exact .dueTrap <| .loseWatch <| .dropReq h
  · exact .discardHeld h
  · exact .discardHeld h
  · exact .discardHeld h
  · exact .discardHeld h
  · exact .dropReq h
  · exact .dropReq h
  · exact .dropReq h
  · exact .dropReq h
  · exact .dropReq h
  · exact .dropReq h
theorem CanonMem.answerWr {id w replay} (h : CanonMem s.mem) : CanonMem (s.answerWr id w replay).mem := .ite h (.ite h (.foldl (fun _ _ h1 => .dueTrap h1) h))
theorem CanonMem.answerTo {who replay} (h : CanonMem s.mem) : CanonMem (s.answerTo who replay).mem := by
  unfold State.answerTo
  refine .ite (.ite (.setQueue h) (.ringError h)) ?_
  split
  · split
    · exact .answerReq h
    · exact h
  split
  · exact .ite (.answerWr h) h
  · exact h
theorem CanonMem.faultResponse {dst} (h : CanonMem s.mem) : CanonMem (s.faultResponse dst).mem := by
  unfold State.faultResponse
  refine .ite h ?_
  extract_lets
  split
  · exact .ite (.answerTo <| .poke h) (.poke h)
  · exact .poke h
theorem CanonMem.writeGraph {x ctx} (h : CanonMem s.mem) : CanonMem (s.writeGraph ctx x).1.mem := by
  induction x generalizing s with
  | nil => exact h
  | cons g gs ih =>
    unfold State.writeGraph
    exact .iteFst (ih <| .putEntry h) (ih h)
theorem CanonMem.hangDetect {c} (h : CanonMem s.mem) : CanonMem (s.hangDetect c).mem := by
  unfold State.hangDetect
  extract_lets
  split
  · exact .ite h (.takeTrap <| .hangAgain <| .writeGraph h)
  · exact h
theorem CanonMem.loseReq {id m} (h : CanonMem s.mem) : CanonMem (s.loseReq id m).1.mem := by
  unfold State.loseReq
  split
  · exact h
  refine .iteFst h ?_
  split
  · exact .loseLoad h
  · split
    · exact .loseAtom <| .dropReq h
    · exact h
  · exact .dropFam h
  · exact .dropFam h
  · exact .dropReq h
  · split
    · exact .copyFail h
    · exact .dropReq h
  · split
    · exact .opFail h
    · exact .dropReq h
  · exact h
  · exact h
  · exact h
  · exact h
  · exact h
  · exact h
  · exact h
  · exact h
theorem CanonMem.loseWatches {m} (h : CanonMem s.mem) : CanonMem (s.loseWatches m).1.mem := .foldl (fun _ _ h1 => .dropReq h1) h
theorem CanonMem.loseRounds {m} (h : CanonMem s.mem) : CanonMem (s.loseRounds m).mem := by
  unfold State.loseRounds
  refine .foldl (fun _ _ h1 => ?_) h
  split
  · exact .netEnd h1
  · exact h1
theorem CanonMem.peerLost {gid m} (h : CanonMem s.mem) : CanonMem (s.peerLost gid m).mem := by
  unfold State.peerLost
  split
  · exact h
  · exact .ite (.dropBlock <| .virtualError h) (.dueTrap <| .virtualError h)
theorem CanonMem.deadline {m} (h : CanonMem s.mem) : CanonMem (s.deadline m).mem :=
  .ite h (.foldl (fun _ _ h1 => .peerLost h1) (.foldl (fun _ _ h1 => .collFail h1) (.loseRounds <| .loseWatches <| .foldlFst (fun _ _ h1 => .loseReq h1)
    (.setFlow h))))

/-! ### GroupData -/

theorem CanonOut.execXch {m o} (h : CanonMem s.mem) : CanonOut (execXch m o s) := by
  unfold Machine.execXch
  refine .issue h (fun _ h1 => ?_)
  extract_lets
  split
  next x he => exact .error <| OptAll.stop he (.checkEmpty h1)
  split
  next x he => exact .error <| OptAll.stop he (.runChecks h1 .none)
  · exact .ok <| .setGrp h1
theorem CanonOut.execBcst {m o} (h : CanonMem s.mem) : CanonOut (execBcst m o s) := by
  unfold Machine.execBcst
  refine .issue h (fun _ h1 => ?_)
  extract_lets
  split
  next x he => exact .error <| OptAll.stop he (.checkEmpty h1)
  split
  next x he => exact .error <| OptAll.stop he (.runChecks h1 .none)
  · exact .ok <| .setGrp h1
theorem CanonOut.execVote {m o} (h : CanonMem s.mem) : CanonOut (execVote m o s) := by
  unfold Machine.execVote
  refine .issue h (fun _ h1 => ?_)
  split
  next x he => exact .error <| Ends.stop he (.start h1 .none)
  · exact .ok <| .setGrp h1
theorem CanonOut.execGred {m o} (h : CanonMem s.mem) : CanonOut (execGred m o s) := by
  unfold Machine.execGred
  refine .issue h (fun _ h1 => ?_)
  split
  next x he => exact .error <| Ends.stop he (.start h1 .none)
  extract_lets
  split
  · exact .ok h1
  · exact .ok <| .setGrp h1
theorem CanonOut.execGscn {m o} (h : CanonMem s.mem) : CanonOut (execGscn m o s) := by
  unfold Machine.execGscn
  refine .issue h (fun _ h1 => ?_)
  split
  next x he => exact .error <| Ends.stop he (.start h1 .none)
  · exact .ok <| .setGrp h1
theorem CanonOut.execElect {o} (h : CanonMem s.mem) : CanonOut (execElect o s) := by
  unfold Machine.execElect
  refine .issue h (fun _ h1 => ?_)
  split
  next x he => exact .error <| Ends.stop he (.start h1 .none)
  · exact .ok <| .setGrp h1
theorem CanonOut.execMovpPack {o} (h : CanonMem s.mem) : CanonOut (execMovpPack o s) := by
  unfold Machine.execMovpPack
  refine .issue h (fun _ h1 => ?_)
  split
  next x he => exact .error <| Ends.stop he (.start h1 .none)
  · exact .ok <| .setGrp h1
theorem CanonOut.execMovpUnpk {o} (h : CanonMem s.mem) : CanonOut (execMovpUnpk o s) := by
  unfold Machine.execMovpUnpk
  refine .issue h (fun _ h1 => ?_)
  split
  next x he => exact .error <| Ends.stop he (.start h1 .none)
  · exact .ok <| .setGrp h1
theorem Ends.siblingReg {i o k} : Ends Stop.Canon (fun _ => True) (siblingReg c i o k) := by
  unfold Machine.siblingReg
  split
  · exact .ite (.ok trivial) (.error .trap)
  · exact .error .trap
theorem CanonOut.execSrd {m o} (h : CanonMem s.mem) : CanonOut (execSrd m o s) := by
  unfold Machine.execSrd
  refine .issue h (fun _ h1 => ?_)
  split
  next x he => exact .error <| Ends.stop he (.start h1 .none)
  refine .ite (.ok h1) ?_
  split
  next e he => exact .error <| Ends.stop he .siblingReg
  refine .ite (.error <| .wait h1) ?_
  extract_lets
  split
  · exact .ok h1
  · exact .ok <| .addOp <| .setGrp h1
theorem CanonOut.execSwr {m o} (h : CanonMem s.mem) : CanonOut (execSwr m o s) := by
  unfold Machine.execSwr
  refine .issue h (fun _ h1 => ?_)
  split
  next x he => exact .error <| Ends.stop he (.start h1 .none)
  refine .ite (.ok h1) ?_
  split
  next e he => exact .error <| Ends.stop he .siblingReg
  · exact .ite (.error <| .wait h1) (.ok <| .setGrp h1)

/-! ### Integer -/

theorem CanonOut.execIaddc {m o} (h : CanonMem s.mem) : CanonOut (execIaddc m o s) := by
  unfold Machine.execIaddc
  refine .issue h (fun _ h1 => ?_)
  split
  next x he => exact .error <| Ends.stop he (.start h1 .none)
  · exact .ok <| .setGrp h1
theorem CanonOut.execIsel {m o} (h : CanonMem s.mem) : CanonOut (execIsel m o s) := by
  unfold Machine.execIsel
  refine .issue h (fun _ h1 => ?_)
  split
  next x he => exact .error <| Ends.stop he (.start h1 .none)
  · exact .ok <| .setGrp h1

/-! ### Scan -/

theorem CanonMem.setPart {p x} (h : CanonMem s.mem) : CanonMem (s.setPart p x).mem := h
theorem CanonMem.topologyEvent {p w1 ovr} (h : CanonMem s.mem) : CanonMem (s.topologyEvent p w1 ovr).mem := .foldl (fun _ _ h1 => .postEvent h1) h
theorem CanonMem.nextPair {d} (h : CanonMem s.mem) : CanonMem (s.nextPair d).mem := h
theorem CanonMem.saveOff {us scan} (h : CanonMem s.mem) : CanonMem (s.saveOff us scan).mem := by
  unfold State.saveOff
  refine .foldl (fun _ _ h1 => .tryRestore h1) (.foldl (fun _ _ h1 => .settleBlock h1) (.foldl (fun _ _ h1 => ?_) h))
  extract_lets
  split
  · exact .onBlk <| .treat h1
  · exact .onBlk <| .treat h1
  · exact .onBlk <| .treat h1
  · exact h1
theorem CanonMem.scanPair {d} (h : CanonMem s.mem) : CanonMem (s.scanPair d).mem :=
  .ite h (.ite (.nextPair h) (.ite (.saveOff <| .foldl (fun _ _ h1 => .onCore h1) h) (.saveOff <| .foldl (fun _ _ h1 => .onCore h1) h)))
theorem CanonMem.scanPass {u} (h : CanonMem s.mem) : CanonMem (s.scanPass u).mem := h
theorem CanonMem.rewriteRec {l} (h : CanonMem s.mem) : CanonMem (s.rewriteRec l).mem := by
  unfold State.rewriteRec
  split
  · exact .writeRecord h
  · exact h
theorem CanonMem.suspect {u l} (h : CanonMem s.mem) : CanonMem (s.suspect u l).mem := by
  unfold State.suspect
  split
  · exact .ite h (.rewriteRec h)
  · exact .rewriteRec h
theorem CanonMem.retireCore {u} (h : CanonMem s.mem) : CanonMem (s.retireCore u).mem := by
  unfold State.retireCore
  refine .service <| .foldl (fun _ _ h1 => .virtualError h1) ?_
  extract_lets
  split
  · exact .foldl (fun _ _ h1 => .suspect h1) h
  · exact .topologyEvent <| .setPart <| .foldl (fun _ _ h1 => .suspect h1) h
theorem CanonMem.scanComplete {d ok0 ok1} (h : CanonMem s.mem) : CanonMem (s.scanComplete d ok0 ok1).mem := by
  unfold State.scanComplete
  split
  · exact h
  · exact .ite h (.ite (.nextPair <| .foldl (fun _ _ h1 => .ite h1 (.ite (.retireCore <| .saveOff h1) (.saveOff h1))) (.foldl (fun _ _ h1 => .ite h1 (.ite
      (.scanPass h1) (.onCore h1))) h)) (.foldl (fun _ _ h1 => .ite h1 (.ite (.retireCore <| .saveOff h1) (.saveOff h1))) (.foldl (fun _ _ h1 => .ite h1 (.ite
      (.scanPass h1) (.onCore h1))) h)))

/-! ### Tables -/

theorem CanonMem.tableWrite {t a e} (h : CanonMem s.mem) : CanonMem (s.tableWrite t a e).1.mem := by
  unfold State.tableWrite
  split
  · exact h
  split
  · exact .iteFst h h
  · exact .iteFst h (.ite h h)
theorem CanonOut.execLtwr {m o} (h : CanonMem s.mem) : CanonOut (execLtwr m o s) := by
  unfold Machine.execLtwr
  refine .issue h (fun _ h1 => ?_)
  split
  next x he => exact .error <| Ends.stop he (.tileStart h1)
  · exact .ok h1
  · exact .ok <| .status <| .tableWrite h1
theorem CanonMem.noteDrops {u keys} (h : CanonMem s.mem) : CanonMem (s.noteDrops u keys).mem := h
theorem CanonMem.linvCtx {u sc allc ctx lo hi} (h : CanonMem s.mem) : CanonMem (s.linvCtx u sc allc ctx lo hi).mem :=
  .ite (.noteDrops h) (.noteDrops <| .onCore h)
theorem CanonMem.linvChip {u sc lo hi} (h : CanonMem s.mem) : CanonMem (s.linvChip u sc lo hi).mem := .ite h (.noteDrops h)
theorem CanonOut.execLinv {m o} (h : CanonMem s.mem) : CanonOut (execLinv m o s) := by
  unfold Machine.execLinv
  refine .issue h (fun _ h1 => ?_)
  split
  next x he => exact .error <| Ends.stop he (.start h1 .none)
  · exact .ok h1
  · exact .ok <| .ite (.linvChip h1) (.linvCtx h1)
theorem CanonOut.execLsync {o} (h : CanonMem s.mem) : CanonOut (execLsync o s) := by
  unfold Machine.execLsync
  refine .issue h (fun _ h1 => ?_)
  split
  next x he => exact .error <| Ends.stop he (.start h1 .none)
  · exact .ok h1
  · exact .ite (.error <| .wait h1) (.ok <| .onCore h1)
theorem CanonMem.withEcache {x} (h : CanonMem s.mem) : CanonMem ({ s with ecache := x } : State).mem := h
theorem CanonMem.withHbm {x} (h : CanonMem s.mem) : CanonMem ({ s with hbm := x } : State).mem := h
theorem CanonMem.gateClose {u t a key} (h : CanonMem s.mem) : CanonMem (s.gateClose u t a key).mem := by
  unfold State.gateClose
  extract_lets e s1
  have h1 : CanonMem s1.mem := .setTab h
  clear_value s1
  split
  · exact .linvCtx h1
  · exact .withEcache h1
  · exact .withHbm h1
  · exact h1
theorem CanonMem.gateOpened {key} (h : CanonMem s.mem) : CanonMem (s.gateOpened key).mem := by
  unfold State.gateOpened
  exact .setTab h
theorem CanonOut.execGateClose {m o} (h : CanonMem s.mem) : CanonOut (execGateClose m o s) := by
  unfold Machine.execGateClose
  refine .issue h (fun _ h1 => ?_)
  split
  next x he => exact .error <| Ends.stop he (.start h1 .none)
  · exact .ok h1
  extract_lets
  split
  · exact .ite (.error <| .wait <| .onGrp h1) (.ok <| .status h1)
  split
  · exact .ok <| .status h1
  · exact .ite (.ok <| .status h1) (.ite (.error <| .wait <| .onGrp <| .gateClose h1) (.ok <| .status <| .gateClose h1))
theorem CanonOut.execGateOpen {m o} (h : CanonMem s.mem) : CanonOut (execGateOpen m o s) := by
  unfold Machine.execGateOpen
  refine .issue h (fun _ h1 => ?_)
  split
  next x he => exact .error <| Ends.stop he (.start h1 .none)
  · exact .ok h1
  split
  · exact .ok <| .status h1
  · exact .ite (.ok <| .status h1) (.ok <| .status <| .gateOpened h1)

/-! ### Trap -/

theorem CanonOut.execTrap {o} (h : CanonMem s.mem) : CanonOut (execTrap o s) := by
  unfold Machine.execTrap
  refine .issueOr h (fun _ h1 => ?_)
  split
  next x he => exact .error <| Ends.stop he (.start h1 .none)
  · exact .ok <| .ok h1
  · exact .ok <| .error <| .takeTrap h1
theorem CanonOut.execRett {m o} (h : CanonMem s.mem) : CanonOut (execRett m o s) := by
  unfold Machine.execRett
  refine .issue h (fun _ h1 => ?_)
  split
  next x he => exact .error <| Ends.stop he (.start h1 .none)
  · exact .ok <| .pass h1
  refine .ite (.error .trap) (.ite ?_ (.ok <| .setGrp h1))
  split
  · exact .error .trap
  · exact .ok <| .setGrp h1
theorem CanonMem.haltSys (hs : CanonMem s.mem) : CanonMem (haltSys c s).mem := .ite (.onCore hs) (.onGrp hs)
theorem CanonOut.execHalt {o} (h : CanonMem s.mem) : CanonOut (execHalt o s) := by
  unfold Machine.execHalt
  refine .issue h (fun _ h1 => ?_)
  split
  next x he => exact .error <| Ends.stop he (.start h1 .none)
  · exact .ok h1
  · exact .ite (.ok <| .haltSys <| .commit h1) (.ok <| .post <| .onGrp <| .commit h1)

/-! ### Super -/

theorem Ends.hoistBody {op m d} (h : CanonMem c.s.mem) : Ends Stop.Canon (CanonMem ·.mem) (hoistBody c op m d) := by
  unfold Machine.hoistBody
  split
  · exact .ok <| .pass <| .status h
  · exact .ite (.error <| .wait h) (.ok <| .park h)
theorem CanonOut.execHoistJoin {o} (h : CanonMem s.mem) : CanonOut (execHoistJoin o s) := by
  unfold Machine.execHoistJoin
  refine .issue h (fun _ h1 => ?_)
  split
  next x he => exact .error <| Ends.stop he (.start h1 .none)
  · exact .ok <| .pass h1
  · exact .hoistBody h1
theorem CanonOut.execHoistLeave {o} (h : CanonMem s.mem) : CanonOut (execHoistLeave o s) := by
  unfold Machine.execHoistLeave
  refine .issue h (fun _ h1 => ?_)
  split
  next x he => exact .error <| Ends.stop he (.start h1 .none)
  · exact .ok <| .pass h1
  · exact .hoistBody h1
theorem CanonOut.execHoistEvict {o} (h : CanonMem s.mem) : CanonOut (execHoistEvict o s) := by
  unfold Machine.execHoistEvict
  refine .issue h (fun _ h1 => ?_)
  split
  next x he => exact .error <| Ends.stop he (.start h1 .none)
  · exact .ok <| .pass h1
  · exact .hoistBody h1
theorem CanonOut.execHoistRekey {o} (h : CanonMem s.mem) : CanonOut (execHoistRekey o s) := by
  unfold Machine.execHoistRekey
  refine .issue h (fun _ h1 => ?_)
  split
  next x he => exact .error <| Ends.stop he (.start h1 .none)
  · exact .ok <| .pass h1
  · exact .hoistBody h1
theorem CanonMem.putRidx {q v} (hs : CanonMem s.mem) : CanonMem (putRidx c s q v).mem := by
  unfold Machine.putRidx
  extract_lets
  split
  · exact .applyTargets hs
  · exact hs
theorem CanonOut.execEqpop {m o} (h : CanonMem s.mem) : CanonOut (execEqpop m o s) := by
  unfold Machine.execEqpop
  refine .issue h (fun _ h1 => ?_)
  split
  next x he => exact .error <| Ends.stop he (.start h1 .none)
  · exact .ok h1
  refine .ite (.error <| .wait h1) ?_
  extract_lets
  split
  next x he => exact .error <| Ends.stop he (.issueReads h1)
  refine .ite (.ite (.error <| .wait <| .issueDrop h1) (.ok <| .onGrp <| .issueDrop h1)) ?_
  extract_lets
  split
  next x he => exact .error <| Ends.stop he (.issueReads h1)
  · exact .ok <| .onGrp <| .putRidx <| .issueDrop h1
theorem OptAll.startCobbler {c d} (h : CanonMem s.mem) : OptAll (CanonMem ·.mem) (s.startCobbler c d) := by
  unfold State.startCobbler
  extract_lets
  split
  · split
    · exact .some <| .startBlock h
    · exact .none
  · exact .none
theorem CanonMem.startCobblers {c dies} (h : CanonMem s.mem) : CanonMem (s.startCobblers c dies).mem := .foldl (fun _ _ h1 => .getD (.startCobbler h1) h1) h
theorem CanonMem.stopOn {hd c} (h : CanonMem s.mem) : CanonMem (s.stopOn hd c).mem :=
  .foldl (fun _ _ h1 => .ite (.eraseBlock h1) (.settleBlock h1)) (.foldl (fun _ _ h1 => .ite h1 (.treat h1)) h)
theorem Ends.pstopBody {hd i o} (h : CanonMem c.s.mem) : Ends Stop.Canon (CanonMem ·.mem) (pstopBody hd c i o) := by
  unfold Machine.pstopBody
  exact .ite (.ok <| .status h) (.ite (.ok <| .status h) (.ite (.ok <| .status <| .storeDesc <| .setCtx <| .stopOn <| .setCtx h) (.error <| .wait <| .onGrp <|
      .stopOn <| .setCtx h)))
theorem CanonOut.execPstopSave {o} (h : CanonMem s.mem) : CanonOut (execPstopSave o s) := by
  unfold Machine.execPstopSave
  refine .issue h (fun _ h1 => ?_)
  split
  next x he => exact .error <| Ends.stop he (.start h1 .none)
  · exact .ok h1
  · exact .pstopBody h1
theorem CanonOut.execPstopHalt {o} (h : CanonMem s.mem) : CanonOut (execPstopHalt o s) := by
  unfold Machine.execPstopHalt
  refine .issue h (fun _ h1 => ?_)
  split
  next x he => exact .error <| Ends.stop he (.start h1 .none)
  · exact .ok h1
  · exact .pstopBody h1
theorem CanonOut.execPstopPause {o} (h : CanonMem s.mem) : CanonOut (execPstopPause o s) := by
  unfold Machine.execPstopPause
  refine .issue h (fun _ h1 => ?_)
  split
  next x he => exact .error <| Ends.stop he (.start h1 .none)
  · exact .ok h1
  · exact .pstopBody h1
theorem CanonOut.execPstopReset {o} (h : CanonMem s.mem) : CanonOut (execPstopReset o s) := by
  unfold Machine.execPstopReset
  refine .issue h (fun _ h1 => ?_)
  split
  next x he => exact .error <| Ends.stop he (.start h1 .none)
  · exact .ok h1
  · exact .pstopBody h1
theorem CanonMem.purgeEvents {c} (h : CanonMem s.mem) : CanonMem (s.purgeEvents c).mem := .ite h (.poke <| .poke <| .foldl (fun _ _ h1 => .poke h1) h)
theorem CanonMem.startOn {k} (h : CanonMem s.mem) : CanonMem (s.startOn k).mem := .ite (.resume h) (.ite (.tryRestore h) h)
theorem CanonMem.releaseHalted {c} (h : CanonMem s.mem) : CanonMem (s.releaseHalted c).mem := h
theorem Ends.pstartBody {i o} (h : CanonMem c.s.mem) : Ends Stop.Canon (CanonMem ·.mem) (pstartBody c i o) := by
  unfold Machine.pstartBody
  exact .ite (.ok <| .status h) (.ite (.ok <| .status h) (.ite (.ok <| .status <| .storeDesc <| .setCtx <| .ite (.startCobblers <| .foldl (fun _ _ h1 =>
      .startOn h1) (.ite h (.releaseHalted <| .setCtx <| .purgeEvents <| .loadDesc <| .setCtx h))) (.foldl (fun _ _ h1 => .startOn h1) (.ite h (.releaseHalted
      <| .setCtx <| .purgeEvents <| .loadDesc <| .setCtx h)))) (.error <| .wait <| .onGrp <| .ite (.startCobblers <| .foldl (fun _ _ h1 => .startOn h1) (.ite
      h (.releaseHalted <| .setCtx <| .purgeEvents <| .loadDesc <| .setCtx h))) (.foldl (fun _ _ h1 => .startOn h1) (.ite h (.releaseHalted <| .setCtx <|
      .purgeEvents <| .loadDesc <| .setCtx h))))))
theorem CanonOut.execPstart {o} (h : CanonMem s.mem) : CanonOut (execPstart o s) := by
  unfold Machine.execPstart
  refine .issue h (fun _ h1 => ?_)
  split
  next x he => exact .error <| Ends.stop he (.start h1 .none)
  · exact .ok h1
  · exact .pstartBody h1

/-! ### Partition -/

theorem CanonMem.partitionGo {p} (h : CanonMem s.mem) : CanonMem (s.partitionGo p).mem := .ite (.setPart h) (.setPart h)
theorem CanonMem.closeLinks (h : CanonMem s.mem) : CanonMem s.closeLinks.mem := h
theorem CanonMem.forwardBox {p d} (h : CanonMem s.mem) : CanonMem (s.forwardBox p d).mem := by
  unfold State.forwardBox
  extract_lets
  split
  · exact h
  · exact .foldl (fun _ _ h1 => .toBox h1) h
theorem CanonMem.emptyDie {d} (h : CanonMem s.mem) : CanonMem (s.emptyDie d).mem :=
  .saveOff <| .foldl (fun _ _ h1 => .ite (.settleBlock <| .treat h1) (.eraseBlock h1)) h
theorem CanonMem.wipeStack {st} (h : CanonMem s.mem) : CanonMem (s.wipeStack st).mem := .zeroBytes h
theorem CanonMem.partitionEnd {p} (h : CanonMem s.mem) : CanonMem (s.partitionEnd p).mem :=
  .topologyEvent <| .setPart <| .foldl (fun _ _ h1 => .startCobblers h1) (.setPart <| .closeLinks <| .setPart h)
theorem CanonMem.partitionStep {p} (h : CanonMem s.mem) : CanonMem (s.partitionStep p).mem :=
  .ite h (.ite (.foldl (fun _ _ h1 => .emptyDie <| .forwardBox h1) h) (.partitionEnd <| .foldl (fun _ _ h1 => .wipeStack h1) (.foldl (fun _ _ h1 => .emptyDie
    <| .forwardBox h1) h)))

/-! ### Reloc -/

theorem CanonMem.setBase {st k} (h : CanonMem s.mem) : CanonMem (s.setBase st k).mem := h
theorem CanonMem.countMove {st key} (h : CanonMem s.mem) : CanonMem (s.countMove st key).mem := by
  unfold State.countMove
  refine .ite h (.ite (.ite (.notice <| .setBase h) (.setBase h)) ?_)
  extract_lets
  split
  · exact .ite (.notice <| .setBase h) (.setBase h)
  · exact .setBase h
theorem CanonMem.pinOver {st key} (h : CanonMem s.mem) : CanonMem (s.pinOver st key).mem := by
  unfold State.pinOver
  split
  · split
    · exact .ite (.setBase h) h
    · exact h
  · exact h
theorem CanonOut.execReloc {o} (h : CanonMem s.mem) : CanonOut (execReloc o s) := by
  unfold Machine.execReloc
  refine .issue h (fun _ h1 => ?_)
  split
  next x he => exact .error <| Ends.stop he (.start h1 .none)
  · exact .ok <| .pass h1
  · exact .ite (.ok <| .pass <| .status h1) (.ite (.error <| .wait h1) (.ok <| .park <| .setBase h1))
theorem CanonMem.copySector {src dst} (h : CanonMem s.mem) : CanonMem (s.copySector src dst).mem := .ite (.poison <| .applyAll h) (.applyAll h)
theorem CanonMem.relocWrite {st m src st' i' off} (h : CanonMem s.mem) : CanonMem (s.relocWrite st m src st' i' off).mem :=
  .ite (.newReq h) (.onReq (.newReq h) (fun _ => .depart <| .newReq h))
theorem CanonMem.relocSend {st r src n} (h : CanonMem s.mem) : CanonMem (s.relocSend st r src n).mem :=
  .ite (.setBase h) (.foldl (fun _ _ h1 => .relocWrite h1) (.setBase h))
theorem CanonMem.writePages {st a n pe} (h : CanonMem s.mem) : CanonMem (s.writePages st a n pe).mem := .foldl (fun _ _ h1 => .applyAll h1) h
theorem CanonMem.relocEnd {st r status} (h : CanonMem s.mem) : CanonMem (s.relocEnd st r status).mem := h
theorem CanonMem.relocFail {st r} (h : CanonMem s.mem) : CanonMem (s.relocFail st r).mem :=
  .ite (.relocEnd <| .foldl (fun _ _ h1 => .dropReq h1) h) (.foldl (fun _ _ h1 => .dropReq h1) h)
theorem CanonMem.relocDone {st} (h : CanonMem s.mem) : CanonMem (s.relocDone st).mem := by
  unfold State.relocDone
  split
  · exact h
  · exact .ite (.relocEnd <| .countMove <| .writePages <| .foldl (fun _ _ h1 => .copySector h1) h) (.ite (.relocFail h) (.ite (.relocSend h) (.ite (.relocEnd
      <| .countMove <| .writePages h) h)))
theorem CanonMem.scrub {st a found} (h : CanonMem s.mem) : CanonMem (s.scrub st a found).mem := .ite h (.eccRead h)
theorem CanonMem.relocReads {st found} (h : CanonMem s.mem) : CanonMem (s.relocReads st found).mem := by
  unfold State.relocReads
  split
  · exact h
  · exact .ite h (.foldl (fun _ _ h1 => .eccRead h1) h)

/-! ### Window -/

theorem CanonMem.setRate {b rate} (h : CanonMem s.mem) : CanonMem (s.setRate b rate).mem := .setBucket h
theorem CanonMem.bucketPut {b v m} (h : CanonMem s.mem) : CanonMem (s.bucketPut b v m).mem := .ite (.setRate <| .setBucket h) (.setBucket h)
theorem CanonMem.srqClear (h : CanonMem s.mem) : CanonMem s.srqClear.mem := h
theorem CanonMem.statusPut {v m} (h : CanonMem s.mem) : CanonMem (s.statusPut v m).mem := .ite (.srqClear h) h
theorem CanonMem.domPut {d off v m} (h : CanonMem s.mem) : CanonMem (s.domPut d off v m).mem :=
  .ite (.setDom h) (.ite (.setDom h) (.ite (.domainGo <| .setDom h) (.setDom h)))
theorem CanonMem.replicaPut {k off v m} (h : CanonMem s.mem) : CanonMem (s.replicaPut k off v m).mem := .ite h (.ite h h)
theorem CanonMem.queuePut {q off v m} (h : CanonMem s.mem) : CanonMem (s.queuePut q off v m).mem :=
  .ite (.setQueue h) (.ite (.setQueue h) (.ite (.setEnable <| .setQueue h) h))
theorem CanonMem.partPut {p off v m} (h : CanonMem s.mem) : CanonMem (s.partPut p off v m).mem :=
  .ite (.ite (.partitionGo <| .setPart h) (.setPart h)) (.ite (.setPart h) h)
theorem CanonMem.putRegs {bits k n m f} (hff : ∀ y0 y1 y2, CanonMem y0.mem → CanonMem (f y0 y1 y2).mem) (h : CanonMem s.mem) : CanonMem (putRegs bits k n m f
    s).mem :=
  .foldl (fun _ _ h1 => .ite (hff _ _ _ h1) h1) h
theorem CanonMem.cachePut {off v m} (h : CanonMem s.mem) : CanonMem (s.cachePut off v m).mem :=
  .ite (.statusPut h) (.ite (.domPut h) (.ite h (.ite (.replicaPut h) (.ite (.ite (.bucketPut h) h) (.ite (.ite (.bucketPut h) h) (.ite (.queuePut h) (.ite h
    (.ite (.setPmode h) (.ite h (.ite (.putRegs (fun _ _ _ h1 => .setCtx h1) h) (.ite (.setCtx h) (.ite h (.ite (.loadDesc <| .setCtx h) (.ite h (.ite h (.ite
    (.partPut h) h))))))))))))))))
theorem CanonMem.stackPut {st off v m} (h : CanonMem s.mem) : CanonMem (s.stackPut st off v m).mem :=
  .ite (.setBase h) (.ite (.setBase h) (.ite (.setBase h) h))
theorem CanonMem.portPut {p off v m} (h : CanonMem s.mem) : CanonMem (s.portPut p off v m).mem :=
  .ite (.ite (.setLimits h) h) (.ite (.setPort h) (.ite (.setPort h) (.ite (.ite (.quiesce <| .setPort h) (.ite (.setPort <| .setPort h) (.setPort h))) h)))
theorem CanonMem.winPut {bar v m} (h : CanonMem s.mem) : CanonMem (s.winPut bar v m).mem := by
  unfold State.winPut
  split
  · exact .cachePut h
  · exact .stackPut h
  · exact .portPut h
  · exact h
theorem CanonMem.winWrite {bar n v} (h : CanonMem s.mem) : CanonMem (s.winWrite bar n v).mem := .ite (.winPut h) (.ite (.winPut h) h)

/-! ### Local -/

theorem Ends.localChecks {n k xs} : Ends Stop.Canon (fun _ => True) (localChecks c n k xs) := by
  unfold Machine.localChecks
  split
  next e he =>
    refine .error <| Ends.stop he (.firstStop <| fun _ => ?_)
    split
    · exact .ok trivial
    · exact .error .trap
  · exact .firstStop <| fun _ => .latePromise
theorem CanonMem.ldsOne {d m x} (hs : CanonMem s.mem) : CanonMem (ldsOne c d m s x).mem := by
  unfold Machine.ldsOne
  extract_lets
  split
  · exact .issueLocal hs
  · exact .issueLocal hs
  · exact hs
theorem Ends.ldsWaits {n x} (h : CanonMem c.s.mem) : Ends Stop.Canon (fun _ => True) (ldsWaits c n x) := by
  unfold Machine.ldsWaits
  split
  · refine .ite (.ok trivial) ?_
    split
    next e he => exact .error <| OptAll.stop he (.localWaits h)
    · exact .ok trivial
  · exact .ok trivial
theorem CanonOut.execLds {m o} (h : CanonMem s.mem) : CanonOut (execLds m o s) := by
  unfold Machine.execLds
  refine .issue h (fun _ h1 => ?_)
  split
  next x he => exact .error <| Ends.stop he (.start h1 .none)
  refine .ite (.ok h1) ?_
  extract_lets
  split
  next e he => exact .error <| OptAll.stop he (.localGate h1)
  split
  next e he => exact .error <| Ends.stop he .localChecks
  split
  next e he => exact .error <| Ends.stop he (.firstStop <| fun _ => .ldsWaits h1)
  · exact .ok <| .foldl (fun _ _ h2 => .ldsOne h2) h1
theorem OptAll.stsOne {n s x} (h : CanonMem c.s.mem) (hs : OptAll (CanonMem ·.mem) s) : OptAll (CanonMem ·.mem) (stsOne c n s x) := by
  unfold Machine.stsOne
  split
  · exact .ite (.map (fun _ h1 => .winWrite h1) hs) hs
  · exact .putStore h hs
theorem CanonOut.execSts {m o} (h : CanonMem s.mem) : CanonOut (execSts m o s) := by
  unfold Machine.execSts
  refine .issue h (fun _ h1 => ?_)
  split
  next x he => exact .error <| Ends.stop he (.start h1 .none)
  refine .ite (.ok h1) ?_
  extract_lets
  split
  next e he => exact .error <| OptAll.stop he (.localGate h1)
  split
  next e he => exact .error <| Ends.stop he .localChecks
  · exact .ite (.error <| .wait h1) (.fits h1 (.foldl (fun _ _ h2 => .stsOne h1 h2) (.some h1)))

/-! ### Pointer -/

theorem Ends.ptrRes {t p r} : Ends Stop.Canon (fun _ => True) (ptrRes c t p r) := by
  unfold Machine.ptrRes
  split
  · exact .ok trivial
  · exact .error .trap

/-! ### Sfu -/

theorem CanonOut.sfuIssue {i o f} (h : CanonMem s.mem) : CanonOut (sfuIssue i o s f) := by
  unfold Machine.sfuIssue
  refine .issue h (fun _ h1 => ?_)
  split
  next x he => exact .error <| Ends.stop he (.start h1 .none)
  split
  · exact .ok h1
  · exact .ite (.ok h1) (.ok <| .addOp <| .setGrp h1)
theorem CanonOut.execSfuResult {id} (h : CanonMem s.mem) : CanonOut (execSfuResult id s) := by
  unfold Machine.execSfuResult
  split
  · split <;> exact CanonOut.next h
  · exact .next h

/-! ### System -/

theorem CanonMem.bootFail {b n} (h : CanonMem s.mem) : CanonMem (s.bootFail b n).mem := by
  unfold State.bootFail
  split
  · exact .service <| .onCore h
  · exact .service <| .setPort h
  · exact .service <| .setBase h
theorem CanonMem.zeroHbm (h : CanonMem s.mem) : CanonMem s.zeroHbm.mem := .zeroBytes h
theorem CanonMem.startPorts (h : CanonMem s.mem) : CanonMem s.startPorts.mem := .foldl (fun _ _ h1 => .ite (.setPort h1) h1) h
theorem CanonMem.nextStage (h : CanonMem s.mem) : CanonMem s.nextStage.mem := by
  unfold State.nextStage
  extract_lets at_
  have ha {s n} (h : CanonMem s.mem) : CanonMem (at_ s n).mem := h
  split
  · exact .ite h (ha h)
  · exact ha h
  · exact ha h
  · exact ha <| .startPorts <| .zeroHbm h
  · exact (ha h : CanonMem (at_ s 6).mem)
  · exact h
theorem CanonMem.powerGood {ok kind n} (h : CanonMem s.mem) : CanonMem (s.powerGood ok kind n).mem :=
  .ite h (.ite (.nextStage h) (.ite (.service h) (.ite (.bootFail h) h)))
theorem CanonMem.shedCtx {c} (h : CanonMem s.mem) : CanonMem (s.shedCtx c).mem := .ite (.storeDesc <| .setCtx <| .stopOn <| .setCtx h) (.stopOn <| .setCtx h)
theorem CanonMem.shedNext (h : CanonMem s.mem) : CanonMem s.shedNext.mem := by
  unfold State.shedNext
  split
  · exact .shedCtx h
  split
  · exact .shedCtx h
  · exact h
theorem CanonMem.powerShed {n} (h : CanonMem s.mem) : CanonMem (s.powerShed n).mem :=
  .ite h (.ite (.ite h (.service h)) (.ite (.shedNext <| .ite h (.service h)) (.ite h (.service h))))

/-! ### Fetch -/

theorem CanonMem.askLine {gid} (h : CanonMem s.mem) : CanonMem (s.askLine gid).mem := .ite h (.newReq h)
theorem CanonMem.touchLine {gid l} (h : CanonMem s.mem) : CanonMem (s.touchLine gid l).mem := h
theorem Ends.bankRead {gid off n} (h : CanonMem s.mem) : Ends Stop.Canon (CanonMem ·.mem) (s.bankRead gid off n) := by
  unfold State.bankRead
  extract_lets g c p s1
  have h1 : CanonMem s1.mem := by
    unfold s1
    split
    · exact .dropFam h
    · exact h
  split
  next x he => exact .error <| Ends.stop he .boundLabel
  split
  next x he => exact .error <| Ends.stop he (.issueReadsAs h)
  exact .ok (CanonMem.onBlk h1)
theorem Ends.bankTurn {gid i} (h : CanonMem s.mem) : Ends Stop.Canon (CanonMem ·.mem) (s.bankTurn gid i) := by
  unfold State.bankTurn
  refine .foldl (fun _ _ h1 => ?_) (.ok h)
  split
  next t => exact .bankRead <| Ends.state rfl h1
  · exact h1
theorem CanonMem.takeDue {gid t rest} (h : CanonMem s.mem) : CanonMem (s.takeDue gid t rest).mem := .takeTrap <| .onGrp h
theorem Fetched.Canon.fetch {gid} (h : CanonMem s.mem) : (s.fetch gid).Canon := by
  unfold State.fetch
  extract_lets
  split
  · exact .done <| .takeDue h
  refine .ite (.done <| .endRun h) (.ite (.done <| .takeTrap h) ?_)
  split
  · exact .done <| .takeTrap h
  split
  · exact .done <| .endRun <| .askLine h
  split
  · exact .done <| .takeTrap h
  split
  next s' he => exact .exec <| .touchLine <| Ends.state he (.bankTurn h)
  next x he => exact .done <| .stopped h (Ends.stop he (.bankTurn h))

/-! ### Instructions, events and steps -/

/-- Every instruction and event keeps memory in its canonical form. -/
theorem CanonOut.exec {i} (h : CanonMem s.mem) : CanonOut (exec i s) := by
  unfold Machine.exec
  cases i with
  | iadd _ _ | isub _ _ | imul _ _ | imulh _ _ | imad _ _ | imin _ _ | imax _ _ | iabs _ _ | ineg _ _ | and _ _ | or _ _ | xor _ _ | andn _ _
    | not _ _ | shl _ _ | shr _ _ | sar _ _ | rotl _ _ | funs _ _ | bfx _ _ | bfi _ | popc _ _ | clz _ _ | ctz _ _ | brev _ _ | permb _ | icmp _ _
    | setp _ _ | mov _ _ | movi _ _ | lea _ _ | pget _ _ | pform _ _ | fadd _ _ | fsub _ _ | fmul _ _ | ffma _ _ | ffms _ _ | fnma _ _ | fmin _
    | fmax _ | fcmp _ _ | fclass _ | frnd _ _ | fscale _ _ | fexpo _ | dadd _ _ | dmul _ _ | dfma _ _ | dcmp _ _ | hadd2 _ _ | hmul2 _ _ | hfma2 _ _
    | hmin2 _ _ | hmax2 _ _ | cvti _ _ | pack2 _ | scle _ _ | lmul _ _ | ladd _ _ => exact .alu h
  | iaddc _ _ => exact .execIaddc h
  | isel _ _ => exact .execIsel h
  | pmk _ _ | padd _ _ | pdif _ | pset _ _ => exact .aluTrap h fun _ _ _ _ _ => .ptrRes
  | cvt _ _ => exact .execCvt h
  | unpk2 _ => exact .execUnpk2 h
  | fmtset _ => exact .execFmtset h
  | fmtget _ => exact .execFmtget h
  | lcvt _ _ => exact .aluTags h fun _ _ => .lcvtTags
  | frcp _ | frsq _ | fsqrt _ | fex2 _ | flg2 _ | fsin _ | fcos _ | ftwid _ | ftanh _ | fsigm _ => exact .sfuIssue h
  | xch _ _ => exact .execXch h
  | bcst _ _ => exact .execBcst h
  | vote _ _ => exact .execVote h
  | gred _ _ => exact .execGred h
  | gscn _ _ => exact .execGscn h
  | elect _ => exact .execElect h
  | movpPack _ => exact .execMovpPack h
  | movpUnpk _ => exact .execMovpUnpk h
  | srd _ _ => exact .execSrd h
  | swr _ _ => exact .execSwr h
  | bra _ _ => exact .execBra h
  | brai _ => exact .execBrai h
  | call _ _ => exact .execCall h
  | ret _ => exact .execRet h
  | ifp _ => exact .execIfp h
  | elsp _ => exact .execElsp h
  | endp _ => exact .execEndp h
  | loopb _ => exact .execLoopb h
  | loope _ => exact .execLoope h
  | brkp _ => exact .execBrkp h
  | contp _ => exact .execContp h
  | exit _ => exact .execExit h
  | nop _ => exact .execNop h
  | regn _ => exact .execRegn h
  | yield _ => exact .execYield h
  | ld _ _ => exact .execLd h
  | st _ _ => exact .execSt h
  | ldv _ _ => exact .execLdv h
  | stv _ _ => exact .execStv h
  | lds _ _ => exact .execLds h
  | sts _ _ => exact .execSts h
  | atom _ _ => exact .execAtom h
  | red _ _ => exact .execRed h
  | pref _ _ => exact .execPref h
  | wbr _ _ => exact .execWbr h
  | invl1 _ _ => exact .execInvl1 h
  | icinv _ _ => exact .execIcinv h
  | fence _ _ => exact .execFence h
  | commit _ _ => exact .execCommit h
  | cpy _ => exact .execCpy h
  | cpys _ => exact .execCpys h
  | sleept _ _ => exact .execSleept h
  | waitc _ _ => exact .execWaitc h
  | mma _ _ | mdist _ _ => exact .issue h fun _ h1 => .mulIssue h1
  | mtopkReg _ _ => exact .execMtopkReg h
  | mtopkMem _ _ => exact .execMtopkMem h
  | mzero _ _ => exact .execMzero h
  | mldt _ _ => exact .execMldt h
  | mstt _ => exact .execMstt h
  | mdrn _ _ => exact .execMdrn h
  | magr _ => exact .execMagr h
  | magrGet _ => exact .execMagrGet h
  | mprog _ => exact .execMprog h
  | mbatch _ => exact .execMbatch h
  | mwait _ => exact .execMwait h
  | mpair _ _ => exact .execMpair h
  | mfree _ _ => exact .execMfree h
  | binit _ _ => exact .execBinit h
  | arv _ _ => exact .execArv h
  | wtb _ _ => exact .execWtb h
  | arw _ _ => exact .execArw h
  | watch _ _ => exact .execWatch h
  | rsend _ => exact .execRsend h
  | rpost _ => exact .execRpost h
  | rflush _ => exact .execRflush h
  | rstat _ _ => exact .execRstat h
  | coll _ _ => exact .execColl h
  | launch _ _ => exact .execLaunch h
  | mbxrd _ _ => exact .execMbxrd h
  | mbxfwd _ _ => exact .execMbxfwd h
  | pennant _ => exact .execPennant h
  | trap _ => exact .execTrap h
  | rett _ _ => exact .execRett h
  | halt _ => exact .execHalt h
  | linv _ _ => exact .execLinv h
  | lsync _ => exact .execLsync h
  | ltwr _ _ => exact .execLtwr h
  | gateClose _ _ => exact .execGateClose h
  | gateOpen _ _ => exact .execGateOpen h
  | reloc _ => exact .execReloc h
  | hoistJoin _ => exact .execHoistJoin h
  | hoistLeave _ => exact .execHoistLeave h
  | hoistEvict _ => exact .execHoistEvict h
  | hoistRekey _ => exact .execHoistRekey h
  | eqpop _ _ => exact .execEqpop h
  | pstopSave _ => exact .execPstopSave h
  | pstopHalt _ => exact .execPstopHalt h
  | pstopPause _ => exact .execPstopPause h
  | pstopReset _ => exact .execPstopReset h
  | pstart _ => exact .execPstart h
  | sfuResult _ => exact .execSfuResult h
  | mmaChunk _ => exact .next <| .mmaChunk h
  | engineOpComplete _ _ => exact .next <| .engineStep h
  | barrierWake _ => exact .next <| .barWake h
  | watchReport _ => exact .next <| .watchReport h
  | sendListDepart _ => exact .next <| .sendDepart h
  | tokenArrive _ => exact .next <| .tokArrive h
  | tokenReturn _ => exact .next <| .tokBack h
  | endMarkerArrive _ => exact .next <| .markArrive h
  | tokenDispositionAck _ => exact .next <| .tokAcked h
  | collContribution _ => exact .next <| .collStep h
  | launchComplete _ => exact .next <| .complete h
  | relocDone _ _ => exact .next <| .relocDone <| .relocReads h
  | hoistBarrier _ _ _ _ => exact .next <| .barrier h
  | hoistDeadline _ => exact .next <| .hoistLate h
  | runSelect _ => exact .next <| .laneTurn h
  | icacheFill _ => exact .next <| .icacheFill h
  | loadReturn _ => exact .next <| .loadReturn h
  | atomReturn _ => exact .next <| .atomReturn h
  | contextLevelLookup _ => exact .next <| .contextLookup h
  | portLevelLookup _ => exact .next <| .portLookup h
  | chipLevelLookup _ => exact .next <| .chipLookup h
  | stackLevelLookup _ => exact .next <| .stackLookup h
  | gatedReread _ => exact .next <| .gatedReread h
  | gateTimeout _ => exact .next <| .gateTimeout h
  | grantRequest _ => exact .next <| .grantRequest h
  | writeApply _ => exact .next <| .writeApply h
  | homeSliceAtomic _ => exact .next <| .homeAtomic h
  | l2WriteBack _ _ => exact .next <| .l2WriteBack h
  | replicaSequence _ => exact .next <| .replicaSeq h
  | bucketRelease _ => exact .next <| .bucketRelease h
  | wcqDrain _ => exact .next <| .wcqDrain h
  | storeBufferDrain _ => exact .next <| .bufferDrain h
  | sideLogEnter _ => exact .next <| .logEnter h
  | faultResponse _ => exact .next <| .faultResponse h
  | faultQueueRidx _ => exact .next <| .ridxMoved h
  | copyComplete _ _ _ => exact .next <| .copyStep h
  | sleepWake _ => exact .execSleepWake h
  | hangDetect _ => exact .next <| .hangDetect h
  | peerDeadline _ => exact .next <| .deadline h
  | flowFlitIngress _ _ _ _ _ _ => exact .next <| .ingress h
  | sealGroupVerify _ _ _ => exact .next <| .sealVerify h
  | sealGroupFail _ _ _ => exact .next <| .sealFail h
  | releasePacketApply _ _ => exact .next <| .releaseApply h
  | sealGroupClose _ _ => exact .next <| .sealClose h
  | linkReplay _ | creditReturn _ _ => exact .next <| .setPort h
  | creditAudit _ _ _ => exact .next <| .audit h
  | reachabilityNotice _ _ => exact .next <| .planeGone h
  | portDegrade _ _ _ => exact .next <| .degrade h
  | portQuiesce _ => exact .next <| .quiesce h
  | spdmSession _ _ => exact .next <| .spdm h
  | domainSwitchGo _ => exact .next <| .domainGo h
  | domainWalkBegin _ => exact .next <| .domainWalk h
  | domainSwitchEnd _ => exact .next <| .domainEnd h
  | domainChangedReplay _ => exact .next <| .domainReplay h
  | pinExpiry _ _ => exact .next <| .pinOver h
  | patrolScrub _ _ _ => exact .next <| .scrub h
  | frontEndDeliver _ => exact .next <| .frontEnd h
  | doorbellWrite _ _ => exact .next <| .queueTurn <| .setQueue <| .poke h
  | queueAgeing _ => exact .next <| .ageQueue h
  | groupAgeing _ => exact .next <| .ageGroup h
  | drainTimeout _ => exact .execDrainTimeout h
  | thermalMigration _ => exact .next <| .migrate <| .onCore h
  | resourceClaim _ _ => exact .next <| .claim h
  | saveAreaFreed _ => exact .next <| .settleBlock h
  | restoreRetry _ => exact .next <| .tryRestore h
  | scanPair _ => exact .next <| .scanPair h
  | scanComplete _ _ _ => exact .next <| .scanComplete h
  | partitionChange _ _ => exact .next <| .ite h (.ite (.partitionGo h) (.partitionStep h))
  | powerShed _ => exact .next <| .powerShed h
  | powerGood _ _ _ => exact .next <| .powerGood h
  | srqClear => exact .next <| .srqClear h
  | ovfClear _ => exact .next <| .ovfClear h
  | bucketRateWrite _ _ _ => exact .next <| .ite (.setRate h) h
  | portLimitWrite _ _ => exact .next <| .setLimits h
  | queueSizeWrite _ _ => exact .next <| .setSize h
  | registerWrite _ _ _ => exact .next <| .ite (.winWrite h) h
  | moduleNumberAssignment _ => exact .next <| .assign h
  | portTrainingDone _ => exact .next <| .trained h
  | writeAcknowledgement _ => exact .next <| .writeAck h
  | queueEnableWrite _ _ => exact .next <| .setEnable h

/-- A lane's turn at an instruction: it is fetched and executed, or the fetch is what the step does. -/
theorem CanonOut.stepLane (h : CanonMem s.mem) : CanonOut (stepLane s) := by
  unfold Machine.stepLane
  split
  · exact .next <| .laneTurn h
  next gid _ =>
    have hf : (s.fetch gid).Canon := .fetch h
    split
    next he => exact .exec (he ▸ hf : (Fetched.exec _ _).Canon)
    next he => exact .next (he ▸ hf : (Fetched.done _).Canon)

/-- A step is the next event of the agenda, the turn of another lane, or what the lane at hand does. -/
theorem CanonOut.step (h : CanonMem s.mem) : CanonOut (step s) := by
  unfold Machine.step
  split
  · split
    · exact .refused
    · exact .exec h
  · exact .next h
  · exact .stepLane h

end

/-- Settles O55: a step is one event, one turn or one lane's instruction, and each of these keeps the canonical form. -/
theorem stepKeepsMemory : Obligations.StepKeepsMemory := by
  unfold Obligations.StepKeepsMemory
  exact fun _ t h e => CanonOut.step h t e

end Sys2Proof.Machine

end

section
/-! SUPPORT. The stores of one instruction, and which of their bytes enter (R316). -/

namespace Sys2Proof.Machine

open Safety Claims

theorem guardThreads_pairwise (c : Iss) (h : Hdr) : (guardThreads c h).Pairwise (· < ·) := by
  unfold guardThreads
  split
  · exact List.pairwise_singleton _ _
  · exact List.pairwise_lt_range.filter _

/-- The threads of an instruction act in rising order. -/
theorem actingOf_pairwise (s : State) (gid : Nat) (o : Args) : (actingOf s gid o).Pairwise (· < ·) := (guardThreads_pairwise _ _).filter _

/-- What is left of a store before others: the bytes that none of them writes. -/
def Store.leftBefore (x : Store) (later : List Store) : Store :=
  { x with data := x.data.mapIdx fun i b => if later.any (x.hits · i) then none else b }

/-- Each store keeps what those after it leave of it. -/
theorem getElem?_lastWins (xs : List Store) (k : Nat) : (lastWins xs)[k]? = xs[k]?.map (·.leftBefore (xs.drop (k + 1))) := by
  induction xs generalizing k with
  | nil => rfl
  | cons x xs ih =>
    cases k with
    | zero => rfl
    | succ k => exact ih k

theorem Store.getElem?_leftBefore {x : Store} {i : Nat} {b : Option Byte} (later : List Store) (h : x.data[i]? = some b) :
    (x.leftBefore later).data[i]? = some (if later.any (x.hits · i) then none else b) := by
  simp [Store.leftBefore, h]

theorem any_drop_iff {α : Type} {xs : List α} {p : α → Bool} {k : Nat} : (xs.drop (k + 1)).any p = true ↔ ∃ j z, k < j ∧ xs[j]? = some z ∧ p z = true := by
  simp only [List.any_eq_true, List.mem_iff_getElem?, List.getElem?_drop]
  constructor
  · rintro ⟨z, ⟨i, h⟩, hz⟩
    exact ⟨k + 1 + i, z, by omega, h, hz⟩
  · rintro ⟨j, z, hj, h, hz⟩
    exact ⟨z, ⟨j - (k + 1), by rwa [show k + 1 + (j - (k + 1)) = j by omega]⟩, hz⟩

/-- Settles O58: the threads stand in rising order, and of a store's bytes those that a later store hits are dropped and the others kept. -/
theorem lastThreadWins : Obligations.LastThreadWins := by
  unfold Obligations.LastThreadWins
  refine ⟨actingOf_pairwise, fun xs k i x b hx hb => ⟨x.leftBefore (xs.drop (k + 1)), ?_, rfl, rfl, rfl, List.length_mapIdx, ?_, ?_⟩⟩
  · rw [getElem?_lastWins, hx]
    rfl
  · intro later
    rw [Store.getElem?_leftBefore _ hb, if_pos (any_drop_iff.2 later)]
  · intro noLater
    rw [Store.getElem?_leftBefore _ hb, if_neg]
    rw [any_drop_iff]
    rintro ⟨j, z, hj, hz, hit⟩
    rw [noLater j z hj hz] at hit
    cases hit

end Sys2Proof.Machine
end

section
/-! SUPPORT. What a trap writes in its frame, and what it leaves (R353, R355, R356; the record of a nested trap is log entry 101's reading). -/

namespace Sys2Proof

/-! ## Little-endian bytes -/

@[simp] theorem length_leBytes (n v : Nat) : (leBytes n v).length = n := by
  induction n generalizing v with
  | zero => rfl
  | succ n ih => rw [leBytes, List.length_cons, ih]

theorem leNat_leBytes (n v : Nat) : leNat (leBytes n v) = v % 256 ^ n := by
  induction n generalizing v with
  | zero => simp [leBytes, leNat, Nat.mod_one]
  | succ n ih => rw [leBytes, leNat, ih, BitVec.toNat_ofNat, pow_succ' 256, show 2 ^ 8 = 256 from rfl, Nat.mod_mul]

theorem leBytes_add (n k v : Nat) : leBytes (n + k) v = leBytes n v ++ leBytes k (v / 256 ^ n) := by
  induction n generalizing v with
  | zero => simp [leBytes]
  | succ n ih => rw [Nat.succ_add, leBytes, leBytes, ih, Nat.div_div_eq_div_mul, ← pow_succ', List.cons_append]

/-- The low bytes of a number do not see what stands above them. -/
theorem leBytes_add_mul (n x y : Nat) : leBytes n (x + y * 256 ^ n) = leBytes n x := by
  induction n generalizing x with
  | zero => rfl
  | succ n ih =>
    have high : x + y * 256 ^ (n + 1) = x + y * 256 ^ n * 256 := by rw [pow_succ, Nat.mul_assoc]
    rw [leBytes, leBytes, high, Nat.add_mul_div_right _ _ (by decide), ih]
    congr 1
    exact BitVec.eq_of_toNat_eq (by simp [Nat.add_mod])

/-- What is read inside a span that was written is what was written there. -/
theorem Memory.readN_writeN (m : Memory) (a : Nat) (xs ys zs : List Byte) :
    Memory.readN (Memory.writeN m a (xs ++ ys ++ zs)) (a + xs.length) ys.length = ys := by
  have length_readN (m : Memory) (a n : Nat) : (Memory.readN m a n).length = n := by
    induction n generalizing a with
    | zero => rfl
    | succ n ih => rw [Memory.readN, List.length_cons, ih]
  refine List.ext_getElem (length_readN ..) fun i _ hi => ?_
  have hr := Memory.read_readN (Memory.writeN m a (xs ++ ys ++ zs)) (a + xs.length) ys.length i hi
  rw [Nat.add_assoc, Memory.read_writeN_in _ _ _ _ (by simp only [List.length_append]; omega)] at hr
  rw [List.getElem?_eq_some_iff] at hr
  obtain ⟨_, hr⟩ := hr
  rw [hr, List.getElem_append_left (by simp; omega), List.getElem_append_right (by omega)]
  simp

namespace Machine

open Claims

/-! ## The frame of a trap (R353, Table 16-2) -/

/-- The second word of a frame: cause, detail, field, thread, region flag and entry count. -/
def causeWord (g : Group) (t : Trap) : Nat :=
  t.cause.code + t.detail % 256 * 2 ^ 8 + t.field % 4 * 2 ^ 16 + t.thread % 32 * 2 ^ 18 + g.rgn.isSome.toNat * 2 ^ 23 + g.ent.toNat * 2 ^ 32

theorem Cause.code_lt (c : Cause) : c.code < 64 := by cases c <;> decide

/-- The fields of a frame in order: how many bytes each has, and its value. -/
def frameFields (g : Group) (t : Trap) (rpc : W32) : List (Nat × Nat) :=
  [(4, g.pc.toNat), (4, rpc.toNat), (8, causeWord g t), (4, g.act.toNat), (4, t.aux0.toNat), (8, t.aux1.toNat), (32, t.frec.toNat)]

/-- The bytes of some fields. -/
def frameFieldBytes (xs : List (Nat × Nat)) : List Byte := xs.flatMap fun x => leBytes x.1 x.2

theorem frameBytes_eq (g : Group) (t : Trap) (rpc : W32) : frameBytes g t rpc = frameFieldBytes (frameFields g t rpc) := by
  have pair (x y : BitVec 32) : leBytes 8 (x.toNat + y.toNat * 2 ^ 32) = leBytes 4 x.toNat ++ leBytes 4 y.toNat := by
    have low : leBytes 4 (x.toNat + y.toNat * 2 ^ 32) = leBytes 4 x.toNat := leBytes_add_mul 4 x.toNat y.toNat
    rw [leBytes_add 4 4, low, show 256 ^ 4 = 2 ^ 32 from rfl, Nat.add_mul_div_right _ _ (by decide), Nat.div_eq_of_lt x.isLt, Nat.zero_add]
  rw [frameBytes, frameWords, pair, pair]
  simp only [frameFieldBytes, frameFields, causeWord, List.flatMap_cons, List.flatMap_nil, List.append_nil, List.append_assoc]

theorem length_frameFieldBytes (xs : List (Nat × Nat)) : (frameFieldBytes xs).length = (xs.map Prod.fst).sum := by
  simp [frameFieldBytes, List.length_flatMap]

/-- A field of some that were written reads as it was written. -/
theorem leNat_readN_field {m : Memory} {a i n v : Nat} {xs : List (Nat × Nat)} (h : xs[i]? = some (n, v)) :
    leNat (Memory.readN (Memory.writeN m a (frameFieldBytes xs)) (a + ((xs.take i).map Prod.fst).sum) n) = v % 256 ^ n := by
  obtain ⟨hi, hx⟩ := List.getElem?_eq_some_iff.1 h
  have split : frameFieldBytes xs = frameFieldBytes (xs.take i) ++ leBytes n v ++ frameFieldBytes (xs.drop (i + 1)) := by
    conv_lhs => rw [← List.take_append_drop i xs, List.drop_eq_getElem_cons hi, hx]
    simp only [frameFieldBytes, List.flatMap_append, List.flatMap_cons, List.append_assoc]
  have read := Memory.readN_writeN m a (frameFieldBytes (xs.take i)) (leBytes n v) (frameFieldBytes (xs.drop (i + 1)))
  rw [length_frameFieldBytes, length_leBytes] at read
  rw [split, read, leNat_leBytes]

/-- The fields of the second word do not overlap. -/
theorem slice_causeWord (g : Group) (t : Trap) :
    slice (causeWord g t % 256 ^ 8) 0 6 = t.cause.code ∧ slice (causeWord g t % 256 ^ 8) 8 8 = t.detail % 256 ∧
    slice (causeWord g t % 256 ^ 8) 16 2 = t.field % 4 ∧ slice (causeWord g t % 256 ^ 8) 18 5 = t.thread % 32 ∧
    slice (causeWord g t % 256 ^ 8) 23 1 = g.rgn.isSome.toNat ∧ slice (causeWord g t % 256 ^ 8) 32 32 = g.ent.toNat := by
  have hc := t.cause.code_lt
  have hr := Bool.toNat_lt g.rgn.isSome
  have he := g.ent.isLt
  simp only [slice, causeWord]
  refine ⟨?_, ?_, ?_, ?_, ?_, ?_⟩ <;> omega

/-! ## What a trap leaves (R355) -/

section
variable {s : State} {gid : Nat} {g : Group} {t : Trap}

@[simp] theorem State.freeLane_mem (s : State) (key slot : Nat) : (s.freeLane key slot).mem = s.mem := by
  unfold State.freeLane
  split
  · split <;> rfl
  · rfl
@[simp] theorem State.freeLane_regs (s : State) (key slot : Nat) : (s.freeLane key slot).regs = s.regs := by
  unfold State.freeLane
  split
  · split <;> rfl
  · rfl
@[simp] theorem State.freeLane_ctxs (s : State) (key slot : Nat) : (s.freeLane key slot).ctxs = s.ctxs := by
  unfold State.freeLane
  split
  · split <;> rfl
  · rfl
@[simp] theorem State.freeLane_groups (s : State) (key slot : Nat) : (s.freeLane key slot).groups = s.groups := by
  unfold State.freeLane
  split
  · split <;> rfl
  · rfl

/-- The group as its handler starts. -/
def inHandler (s : State) (g : Group) : Group :=
  let x := s.ctx (s.blk g.blk).ctx
  { g with
    shadow := ⟨g.code, g.len, g.act, g.stack.length, g.cont⟩
    inH := true, code := x.hcode, len := x.hlen, pc := x.hent
    wait := .none, cont := none, stuck := none, hkind := 0
    run := 0, lastEnd := some s.now, readyAt := s.now }

theorem State.grp_of_find (hg : FMap.find? s.groups gid = some g) : s.grp gid = g := by simp [State.grp, FMap.getD, hg]

theorem State.takeTrap_nested (hg : FMap.find? s.groups gid = some g) (nested : g.inH = true ∨ (s.ctx (s.blk g.blk).ctx).hlen = 0) :
    s.takeTrap gid t = (((s.setGrp gid { g with pc := trapRpc g t, wait := .nested, since := s.now, cont := none, stuck := none, hkind := 0 }).endRun gid).post
      (s.blk g.blk).ctx (nestedRec s gid t (trapRpc g t)) 5 false none).post dstPlog (nestedRec s gid t (trapRpc g t)) 5 false none := by
  unfold State.takeTrap
  simp only [State.grp_of_find hg]
  exact if_pos (by simpa using nested)

/-- A trap outside a handler, in a context that has one, writes the frame and starts the handler, and touches nothing else but the lane. -/
theorem State.takeTrap_enters (hg : FMap.find? s.groups gid = some g) (out : g.inH = false) (has : (s.ctx (s.blk g.blk).ctx).hlen ≠ 0) :
    (∀ h, FMap.find? (s.takeTrap gid t).groups h = if h = gid then some (inHandler s g) else FMap.find? s.groups h) ∧
    (s.takeTrap gid t).mem = Memory.writeN s.mem (s.frameAddr gid) (frameBytes g t (trapRpc g t)) ∧
    (s.takeTrap gid t).regs = s.regs ∧ (s.takeTrap gid t).ctxs = s.ctxs := by
  have enters : ¬ (g.inH || decide ((s.ctx (s.blk g.blk).ctx).hlen = 0)) = true := by simpa [out] using has
  unfold State.takeTrap
  simp only [State.grp_of_find hg]
  rw [if_neg enters]
  simp only [State.endRun, State.grp_setGrp_self, State.freeLane_groups, State.freeLane_mem, State.freeLane_regs, State.freeLane_ctxs]
  refine ⟨fun h => ?_, rfl, rfl, rfl⟩
  simp only [State.setGrp, FMap.find?_insert]
  split <;> rfl

end

/-- Settles O59: the handler starts as `takeTrap_enters` says, and the frame's fields read as they were written; else the trap is nested. -/
theorem trapEntry : Obligations.TrapEntry := by
  unfold Obligations.TrapEntry
  intro s gid g t hg
  refine ⟨fun out has => ?_, fun nested => State.takeTrap_nested hg nested⟩
  obtain ⟨hgroups, hmem, hregs, hctxs⟩ := State.takeTrap_enters (t := t) hg out has
  have reads {i n v : Nat} (h : (frameFields g t (trapRpc g t))[i]? = some (n, v)) :
      (s.takeTrap gid t).le (s.frameAddr gid + (((frameFields g t (trapRpc g t)).take i).map Prod.fst).sum) n = v % 256 ^ n := by
    rw [State.le, State.bytes, hmem, frameBytes_eq, leNat_readN_field h]
  have word {i n k : Nat} {v : BitVec k} (h : (frameFields g t (trapRpc g t))[i]? = some (n, v.toNat)) (hk : 2 ^ k = 256 ^ n) :
      (s.takeTrap gid t).le (s.frameAddr gid + (((frameFields g t (trapRpc g t)).take i).map Prod.fst).sum) n = v.toNat := by
    rw [reads h, ← hk, Nat.mod_eq_of_lt v.isLt]
  have cause : (s.takeTrap gid t).le (s.frameAddr gid + 8) 8 = causeWord g t % 256 ^ 8 := reads (i := 2) rfl
  obtain ⟨hcode, hdetail, hfield, hthread, hregion, hent⟩ := slice_causeWord g t
  refine ⟨⟨inHandler s g, ?group, rfl, rfl, rfl, rfl, rfl, rfl, rfl, rfl, rfl, rfl, rfl, rfl, rfl, rfl, rfl, rfl, rfl, rfl, rfl, rfl, rfl, rfl, rfl, rfl,
    rfl, rfl⟩, word (i := 0) rfl rfl, word (i := 1) rfl rfl, cause ▸ hcode, cause ▸ hdetail, cause ▸ hfield, cause ▸ hthread, cause ▸ hregion, cause ▸ hent,
    word (i := 3) rfl rfl, word (i := 4) rfl rfl, word (i := 5) rfl rfl, word (i := 6) rfl rfl, ?bytes, hregs, hctxs, ?others⟩
  case group => rw [hgroups, if_pos rfl]
  case others => exact fun h hne => by rw [hgroups, if_neg hne]
  case bytes =>
    intro a ha
    rw [State.byte, State.byte, hmem]
    exact Memory.read_writeN_out _ _ _ _ (by rw [frameBytes_eq, length_frameFieldBytes]; exact ha)

end Machine
end Sys2Proof
end

section
/-! SUPPORT. What `TRAP`, `RETT` and `HALT` come to (R358). What a system core does at `HALT` while an interrupt is pending, and how the record of a halt is
laid out, are the model's choices (log entry 101). -/

namespace Sys2Proof.Machine

open Safety Claims

section
variable {s : State} {gid : Nat} {o : Args}

theorem exec_trap {t : Nat} {rest : List Nat} (p : Issues s gid (.trap o) o) (acts : actingOf s gid o = t :: rest) :
    exec (.trap o) s = .next (s.takeTrap gid { cause := .software, aux0 := BitVec.ofNat 32 (slice (srcsOf s gid (.trap o) o t).2.1.v 0 16) }) := by
  rw [show exec (.trap o) s = execTrap o s from rfl, execTrap]
  refine issueOr_other p.1 ?_
  rw [start_ok p, acts, slice, Nat.pow_zero, Nat.div_one]
  rfl

theorem exec_rett_frame (p : Issues s gid (.rett false o) o) (acts : actingOf s gid o ≠ []) (inside : (s.grp gid).inH = true) :
    exec (.rett false o) s = .next (jumped s gid o true ((s.grp gid).leaveHandler (s.frameRpc gid) (s.grp gid).shadow.act
      ((s.grp gid).stack.drop ((s.grp gid).stack.length - (s.grp gid).shadow.depth)))) := by
  rw [show exec (.rett false o) s = execRett false o s from rfl, execRett]
  refine issue_next p.1 ?_
  obtain ⟨t, rest, h⟩ := List.exists_cons_of_ne_nil acts
  have inside : (issOf s gid).g.inH = true := inside
  rw [start_ok p, h]
  simp only [inside, Bool.not_true, Bool.false_eq_true, if_false]
  rfl

theorem exec_rett_region {r : Region} (p : Issues s gid (.rett true o) o) (acts : actingOf s gid o ≠ []) (inside : (s.grp gid).inH = true)
    (region : (s.grp gid).rgn = some r) :
    exec (.rett true o) s = .next (jumped s gid o true ((s.grp gid).leaveHandler r.resume r.act r.stack)) := by
  rw [show exec (.rett true o) s = execRett true o s from rfl, execRett]
  refine issue_next p.1 ?_
  obtain ⟨t, rest, h⟩ := List.exists_cons_of_ne_nil acts
  have inside : (issOf s gid).g.inH = true := inside
  have region : (issOf s gid).g.rgn = some r := region
  rw [start_ok p, h]
  simp only [inside, region, Bool.not_true, Bool.false_eq_true, if_false, if_true]
  rfl

theorem exec_rett_illegal {m : Bool} (p : Issues s gid (.rett m o) o) (acts : actingOf s gid o ≠ [])
    (illegal : (s.grp gid).inH = false ∨ (m = true ∧ (s.grp gid).rgn = none)) :
    exec (.rett m o) s = .next (s.takeTrap gid { cause := .illegal, detail := 12 }) := by
  rw [show exec (.rett m o) s = execRett m o s from rfl, execRett]
  refine issue_stop (x := .trap { cause := .illegal, detail := 12 }) p.1 ?_
  obtain ⟨t, rest, h⟩ := List.exists_cons_of_ne_nil acts
  rw [start_ok p, h]
  dsimp only
  by_cases inside : (issOf s gid).g.inH = true
  · obtain outside | ⟨rfl, noRegion⟩ := illegal
    · exact absurd (inside.symm.trans outside) (by decide)
    · have noRegion : (issOf s gid).g.rgn = none := noRegion
      simp only [inside, noRegion, Bool.not_true, Bool.false_eq_true, if_false, if_true]
  · rw [if_pos (by simpa using inside)]

theorem exec_halt (p : Issues s gid (.halt o) o) (acts : actingOf s gid o ≠ []) (user : isSys (unitOfGid gid) = false) :
    exec (.halt o) s = .next ((((s.commit (s.grp gid).blk).onGrp gid fun g => { g with wait := .halted, since := s.now }).post
      (s.blk (s.grp gid).blk).ctx (haltRec (s.grp gid) gid) 3 false none).retire gid o.hdr false true) := by
  rw [show exec (.halt o) s = execHalt o s from rfl, execHalt]
  refine issue_next p.1 ?_
  obtain ⟨t, rest, h⟩ := List.exists_cons_of_ne_nil acts
  rw [start_ok p, h]
  dsimp only
  rw [show (issOf s gid).gid = gid from rfl, user]
  rfl

theorem exec_halt_system (p : Issues s gid (.halt o) o) (acts : actingOf s gid o ≠ []) (system : isSys (unitOfGid gid) = true) :
    exec (.halt o) s = .next ((haltSys (issOf s gid) (s.commit (s.grp gid).blk)).retire gid o.hdr false true) := by
  rw [show exec (.halt o) s = execHalt o s from rfl, execHalt]
  refine issue_next p.1 ?_
  obtain ⟨t, rest, h⟩ := List.exists_cons_of_ne_nil acts
  rw [start_ok p, h]
  dsimp only
  rw [show (issOf s gid).gid = gid from rfl, system]
  rfl

end

/-- Settles O26, instruction by instruction: where it may run, and the trap that it takes where it may not. -/
theorem trapsAndReturns : Obligations.TrapsAndReturns := by
  unfold Obligations.TrapsAndReturns
  exact ⟨fun _ _ _ _ _ => exec_trap, fun _ _ _ => exec_rett_frame, fun _ _ _ _ => exec_rett_region, fun _ _ _ _ => exec_rett_illegal,
    fun _ _ _ => exec_halt, fun _ _ _ => exec_halt_system⟩

end Sys2Proof.Machine
end

section
/-! SUPPORT. Barrier words: what an arrival and a wait at one come to (R330 to R335). What a poisoned word gives to `WTB` and `ARW`, and that a trap at the word
comes after the commit, are deduced (log entry 50). -/

namespace Sys2Proof.Machine

open Safety Claims

section
variable {s : State} {gid a : Nat} {o : Args}

/-! ## `BINIT` -/

theorem exec_binit {m : BSpace} (p : Issues s gid (.binit m o) o) (acts : actingOf s gid o ≠ []) (place : BarrierAt s gid m (.binit m o) o a)
    (free : barWaits (issOf s gid) a = none) (pos : 0 < (srcsOf s gid (.binit m o) o 0).2.2.v) (fits : (srcsOf s gid (.binit m o) o 0).2.2.v ≤ 65535) :
    exec (.binit m o) s = .next ((if s.anyPoison a 8 then s else s.setBar a (srcsOf s gid (.binit m o) o 0).2.2.v 0 (phAt s a)).retire
      gid o.hdr false false) := by
  rw [show exec (.binit m o) s = execBinit m o s from rfl, execBinit]
  refine issue_next p.1 ?_
  rw [start_ok p]
  dsimp only
  rw [List.isEmpty_eq_false_iff.2 acts, if_neg (by decide)]
  rw [BarrierAt, srcsOf] at place
  rw [srcsOf] at pos fits
  rw [place]
  dsimp only
  rw [if_neg (by simp only [Bool.or_eq_true, decide_eq_true_eq]; omega), free]
  exact (apply_ite Except.ok _ _ _).symm

theorem exec_binit_badCount {m : BSpace} (p : Issues s gid (.binit m o) o) (acts : actingOf s gid o ≠ []) (place : BarrierAt s gid m (.binit m o) o a)
    (bad : (srcsOf s gid (.binit m o) o 0).2.2.v = 0 ∨ 65535 < (srcsOf s gid (.binit m o) o 0).2.2.v) :
    exec (.binit m o) s = .next (s.takeTrap gid { cause := .barrier, detail := 1 }) := by
  rw [show exec (.binit m o) s = execBinit m o s from rfl, execBinit]
  refine issue_stop (x := .trap (barTrap 1)) p.1 ?_
  rw [start_ok p]
  dsimp only
  rw [List.isEmpty_eq_false_iff.2 acts, if_neg (by decide)]
  rw [BarrierAt, srcsOf] at place
  rw [srcsOf] at bad
  rw [place]
  dsimp only
  rw [if_pos (by simpa only [Bool.or_eq_true, decide_eq_true_eq] using bad)]

/-! ## Arrivals -/

theorem State.barArrive_poisoned {n : Nat} (h : s.anyPoison a 8 = true) : s.barArrive a n = .ok (s, none) := by
  unfold State.barArrive
  exact if_pos h

/-- An arrival that the word has room for. -/
theorem State.barArrive_counted {n : Nat} (clean : s.anyPoison a 8 = false) (pos : 0 < n) (room : arrAt s a + n ≤ cntAt s a) :
    s.barArrive a n = .ok (s.setBar a (cntAt s a) (arrived (cntAt s a) (arrAt s a) (phAt s a) n).1 (arrived (cntAt s a) (arrAt s a) (phAt s a) n).2,
      some (phAt s a)) := by
  unfold State.barArrive
  rw [if_neg (by simp [clean])]
  have cnt : barCnt (s.barWord a) = cntAt s a := rfl
  have arr : barArr (s.barWord a) = arrAt s a := rfl
  have ph : barPh (s.barWord a) = phAt s a := rfl
  simp only [cnt, arr, ph]
  rw [if_neg (by omega), if_neg (by simp only [Bool.or_eq_true, decide_eq_true_eq]; omega), arrived]
  split <;> rfl

/-- An arrival at a word that is unset, or that it does not fit. -/
theorem State.barArrive_refused {n : Nat} (clean : s.anyPoison a 8 = false) (bad : cntAt s a = 0 ∨ n = 0 ∨ cntAt s a < arrAt s a + n) :
    s.barArrive a n = .error (if cntAt s a = 0 then 2 else 3) := by
  unfold State.barArrive
  rw [if_neg (by simp [clean])]
  have cnt : barCnt (s.barWord a) = cntAt s a := rfl
  have arr : barArr (s.barWord a) = arrAt s a := rfl
  simp only [cnt, arr]
  split
  · rfl
  next set => rw [if_pos (by simp only [Bool.or_eq_true, decide_eq_true_eq]; omega)]

/-- The release of an arrival, where what it orders is performed. -/
theorem release_done {sc : Scope} (h : (s.commit (s.grp gid).blk).released gid sc = true) : release (issOf s gid) sc [] = .ok (s.commit (s.grp gid).blk) := by
  have ok : (if sc = .dom then (s.commit (s.grp gid).blk).released gid .dom || false else (s.commit (s.grp gid).blk).released gid sc) = true := by
    split
    next dom => rw [← dom, h, Bool.true_or]
    · exact h
  exact if_pos ok

/-- The state in which an arrival's word retires: the phase is in D. -/
def arrivedWith (s0 s : State) (gid : Nat) (sp : BSpace) (d : Opd) (x : Val) : State :=
  (if sp = .clu then s.noRestart (s0.grp gid).blk else s).onGrp gid fun g => writeOp g 0 32 d x

section
variable {i : Instr} {m : Mods.Bar}

/-- An arrival goes as its word says, once the release at its scope is performed. -/
theorem arrival_eq (p : Issues s gid i o) (place : BarrierAt s gid m.sp i o a)
    (done : (s.commit (s.grp gid).blk).released gid m.scope = true) :
    arrival (issOf s gid) i m o = .ok (match (s.commit (s.grp gid).blk).barArrive a (srcsOf s gid i o 0).2.2.v with
      | .error d => .error ((s.commit (s.grp gid).blk).takeTrap gid (barTrap d))
      | .ok (s', ph) => .ok (arrivedWith s s' gid m.sp o.d.x { v := ph.getD 0, st := if ph.isNone then .pois else .full }, a, ph)) := by
  -- `barPlace` stands folded, so that the kernel does not evaluate the place of a pointer that is not known
  obtain ⟨f, hf⟩ : ∃ f, f = barPlace := ⟨_, rfl⟩
  rw [BarrierAt, srcsOf, ← hf] at place
  unfold arrival
  rw [← hf, start_ok p]
  dsimp only
  rw [place]
  dsimp only
  rw [release_done done]
  dsimp only [srcsOf]
  generalize (s.commit (s.grp gid).blk).barArrive a (srcs (issOf s gid) i o 0).2.2.v = r
  obtain d | ⟨s', ph⟩ := r <;> rfl

theorem arrival_counted (p : Issues s gid i o) (place : BarrierAt s gid m.sp i o a) (done : (s.commit (s.grp gid).blk).released gid m.scope = true)
    (clean : s.anyPoison a 8 = false) (pos : 0 < (srcsOf s gid i o 0).2.2.v) (room : arrAt s a + (srcsOf s gid i o 0).2.2.v ≤ cntAt s a) :
    arrival (issOf s gid) i m o = .ok (.ok (afterArrival s gid m.sp a (srcsOf s gid i o 0).2.2.v o.d.x, a, some (phAt s a))) := by
  rw [arrival_eq p place done, State.barArrive_counted (s := s.commit (s.grp gid).blk) clean pos room]
  rfl

theorem arrival_poisoned (p : Issues s gid i o) (place : BarrierAt s gid m.sp i o a) (done : (s.commit (s.grp gid).blk).released gid m.scope = true)
    (poisoned : s.anyPoison a 8 = true) :
    arrival (issOf s gid) i m o = .ok (.ok (arrivedWith s (s.commit (s.grp gid).blk) gid m.sp o.d.x { v := 0, st := .pois }, a, none)) := by
  rw [arrival_eq p place done, State.barArrive_poisoned (s := s.commit (s.grp gid).blk) poisoned]
  rfl

theorem arrival_refused (p : Issues s gid i o) (place : BarrierAt s gid m.sp i o a) (done : (s.commit (s.grp gid).blk).released gid m.scope = true)
    (clean : s.anyPoison a 8 = false)
    (bad : cntAt s a = 0 ∨ (srcsOf s gid i o 0).2.2.v = 0 ∨ cntAt s a < arrAt s a + (srcsOf s gid i o 0).2.2.v) :
    arrival (issOf s gid) i m o =
      .ok (.error ((s.commit (s.grp gid).blk).takeTrap gid { cause := .barrier, detail := if cntAt s a = 0 then 2 else 3 })) := by
  rw [arrival_eq p place done, State.barArrive_refused (s := s.commit (s.grp gid).blk) clean bad]
  rfl

end

/-! ## `ARV` -/

section
variable {m : Mods.Bar}

theorem exec_arv {r : Except State (State × Nat × Option Nat)} (acts : actingOf s gid o ≠ []) (issuer : s.issuer = some gid)
    (arr : arrival (issOf s gid) (.arv m o) m o = .ok r) :
    exec (.arv m o) s = match r with | .ok x => .next (x.1.retire gid o.hdr false false) | .error s' => .next s' := by
  have some_ : (acting (issOf s gid) o.hdr).isEmpty = false := List.isEmpty_eq_false_iff.2 acts
  rw [show exec (.arv m o) s = execArv m o s from rfl, execArv]
  cases r with
  | ok x =>
    refine issueOr_next issuer ?_
    simp only [some_, Bool.false_eq_true, if_false, arr]
  | error s' =>
    refine issueOr_other issuer ?_
    simp only [some_, Bool.false_eq_true, if_false, arr]

/-! ## Waits at a word (R332, R334) -/

theorem barPark_eq {clu arw : Bool} {ph : Nat} :
    barPark (issOf s gid) s clu a ph arw = if phAt s a ≠ ph ∨ s.anyPoison a 8 = true then s.pass gid
      else s.onGrp gid fun g => { g with wait := .barrier clu a ph arw, since := s.now } := by
  unfold barPark
  simp only [Bool.or_eq_true, decide_eq_true_eq]
  rfl

theorem exec_wtb (p : Issues s gid (.wtb m o) o) (acts : actingOf s gid o ≠ []) (place : BarrierAt s gid m.sp (.wtb m o) o a)
    (free : barWaits (issOf s gid) a = none) :
    exec (.wtb m o) s = .next ((barPark (issOf s gid) s (decide (m.sp = .clu)) a ((srcsOf s gid (.wtb m o) o 0).2.2.v % 65536) false).retire
      gid o.hdr true false) := by
  rw [show exec (.wtb m o) s = execWtb m o s from rfl, execWtb]
  refine issue_next p.1 ?_
  obtain ⟨f, hf⟩ : ∃ f, f = barPlace := ⟨_, rfl⟩
  rw [BarrierAt, srcsOf, ← hf] at place
  rw [← hf, start_ok p]
  dsimp only
  rw [List.isEmpty_eq_false_iff.2 acts, if_neg (by decide), place]
  dsimp only
  rw [free]
  rfl

/-- An `ARW` whose arrival has been counted goes on in its wait. -/
theorem exec_arw_waits {ph : Nat} (issuer : s.issuer = some gid) (before : (s.grp gid).arrived = some ph)
    (place : BarrierAt s gid m.sp (.arw m o) o a) :
    exec (.arw m o) s = .next ((barPark (issOf s gid) s (decide (m.sp = .clu)) a ph true).retire gid o.hdr true false) := by
  rw [show exec (.arw m o) s = execArw m o s from rfl, execArw]
  refine issueOr_next issuer ?_
  have before : (issOf s gid).g.arrived = some ph := before
  obtain ⟨f, hf⟩ : ∃ f, f = barPlace := ⟨_, rfl⟩
  rw [BarrierAt, srcsOf, ← hf] at place
  rw [← hf, before]
  dsimp only
  rw [place]
  rfl

theorem exec_arw (p : Issues s gid (.arw m o) o) (acts : actingOf s gid o ≠ []) (fresh : (s.grp gid).arrived = none) {s' : State} {ph : Nat}
    (arr : arrival (issOf s gid) (.arw m o) m o = .ok (.ok (s', a, some ph))) :
    exec (.arw m o) s = .next ((barPark (issOf s gid) (s'.onGrp gid fun g => { g with cont := some (.arw ph g.pc) }) (decide (m.sp = .clu)) a ph true).retire
      gid o.hdr true false) := by
  have some_ : (acting (issOf s gid) o.hdr).isEmpty = false := List.isEmpty_eq_false_iff.2 acts
  have fresh : (issOf s gid).g.arrived = none := fresh
  rw [show exec (.arw m o) s = execArw m o s from rfl, execArw]
  refine issueOr_next p.1 ?_
  rw [fresh]
  simp only [some_, Bool.false_eq_true, if_false, arr]
  rfl

theorem exec_barrierWake {clu arw : Bool} {ph : Nat} (parked : (s.grp gid).wait = .barrier clu a ph arw) :
    exec (.barrierWake gid) s = .next (if phAt s a ≠ ph ∨ s.anyPoison a 8 = true then s.wake gid else s) := by
  rw [show exec (.barrierWake gid) s = .next (s.barWake gid) from rfl, State.barWake, parked]
  simp only [Bool.or_eq_true, decide_eq_true_eq]
  rfl

end

end

/-- Settles O24: `BINIT` case by case, the arrivals by what their word says, the waits by the phase that they find. -/
theorem barriers : Obligations.Barriers := by
  refine ⟨⟨?init, ?badInit, ?counted, ?poisoned, ?refused⟩, ⟨?wtb, ?arw, ?goesOn, ?wake⟩⟩
  case init => exact fun _ _ _ _ _ => exec_binit
  case badInit => exact fun _ _ _ _ _ => exec_binit_badCount
  case counted => exact fun _ _ _ _ _ p acts place done clean pos room => exec_arv acts p.1 (arrival_counted p place done clean pos room)
  case poisoned => exact fun _ _ _ _ _ p acts place done poisoned => exec_arv acts p.1 (arrival_poisoned p place done poisoned)
  case refused => exact fun _ _ _ _ _ p acts place done clean bad => exec_arv acts p.1 (arrival_refused p place done clean bad)
  case wtb =>
    intro m o s gid a p acts place free ph
    rw [exec_wtb p acts place free, barPark_eq]
  case arw =>
    exact fun _ _ _ _ _ p acts fresh place done clean pos room => exec_arw p acts fresh (arrival_counted p place done clean pos room)
  case goesOn => exact fun _ _ _ _ _ _ => exec_arw_waits
  case wake => exact fun _ _ _ _ _ _ => exec_barrierWake

end Sys2Proof.Machine
end

section
/-! SUPPORT. What `WATCH` comes to, and when a watch ends (R336). When a watched word is read again is the model's choice (log entry 52). -/

namespace Sys2Proof.Machine

open Safety Claims

/-- The watch that a `WATCH` of group `gid` begins. -/
def watchOf (s : State) (gid : Nat) (m : Mods.Watch) (o : Args) : Watch :=
  let v := srcsOf s gid (.watch m o) o 0
  let p := BitVec.ofNat 64 v.2.1.v
  { gid := gid, ptr := p, b64 := m.b64, b := BitVec.ofNat 64 (v.2.2.v % 2 ^ (8 * if m.b64 then 8 else 4)), wd := o.d.x
    peer := s.remoteOf (s.blk (s.grp gid).blk).ctx p, org := originOf (issOf s gid) 0 p 0 }

/-- The state in which a group is parked on its watch. -/
def onWatch (s : State) (gid : Nat) (w : Watch) : State :=
  { s.onGrp gid fun g => { g with wait := .watch s.nextId, since := s.now } with watches := FMap.insert s.watches s.nextId w, nextId := s.nextId + 1 }

section
variable {s : State} {gid : Nat} {o : Args} {m : Mods.Watch}

/-- `WATCH` parks its group and reads the word at once where it is local, else by a request. -/
theorem exec_watch {pl : Place} (p : Issues s gid (.watch m o) o) (acts : actingOf s gid o ≠ []) (free : s.acquiring gid = false) (room : BucketRoom s gid)
    (checked : checkAccess (issOf s gid) 0 (BitVec.ofNat 64 (srcsOf s gid (.watch m o) o 0).2.1.v) (if m.b64 then 8 else 4) .read true = .ok pl) :
    exec (.watch m o) s = .next ((match pl with
      | .sram _ a => (onWatch s gid (watchOf s gid m o)).watchRead s.nextId (watchOf s gid m o) (sramKey a) (sramUnit a) false
          (s.le a (if m.b64 then 8 else 4)) (s.anyPoison a (if m.b64 then 8 else 4))
      | _ => (onWatch s gid (watchOf s gid m o)).newReq (watchReq s.nextId (watchOf s gid m o) (unitOfGid gid))).retire gid o.hdr true false) := by
  have gate : accessGate (issOf s gid) false = none := (accessGate_room room false).trans (localGate_read free)
  rw [show exec (.watch m o) s = execWatch m o s from rfl, execWatch]
  refine issue_next p.1 ?_
  rw [srcsOf] at checked
  rw [start_ok p]
  dsimp only
  rw [List.isEmpty_eq_false_iff.2 acts, if_neg (by decide), checked]
  dsimp only
  rw [gate]
  cases pl <;> rfl

theorem State.watchRead_differs {id key own v : Nat} {w : Watch} {late pois : Bool} (differs : v ≠ w.b.toNat ∨ pois = true) :
    s.watchRead id w key own late v pois = (({ s with watches := FMap.erase s.watches id } : State).onGrp w.gid fun g =>
      writeOp g 0 (8 * w.bytes) w.wd { v := v, st := if pois then .pois else .full }).wake w.gid :=
  if_pos (by simpa only [Bool.or_eq_true, decide_eq_true_eq] using differs)

section
variable {id : Nat} {w : Watch} (known : FMap.find? s.watches id = some w)
include known

theorem State.watchReport_left (left : (s.grp w.gid).wait ≠ .watch id) : s.watchReport id = { s with watches := FMap.erase s.watches id } := by
  unfold State.watchReport
  simp only [known]
  exact if_pos left

theorem State.watchReport_local {a : Nat} (waits : (s.grp w.gid).wait = .watch id) (here : s.watchLocal w = some a) (due : w.due s.now = true) :
    s.watchReport id = s.watchRead id w (sramKey a) (sramUnit a) false (s.le a w.bytes) (s.anyPoison a w.bytes) := by
  unfold State.watchReport
  simp only [known]
  rw [if_neg (not_not_intro waits), here]
  exact if_pos due

end

end

/-- Settles O25: the two ways in which a word is read at first, the end of a watch, and what a report finds. -/
theorem watching : Obligations.Watching := by
  unfold Obligations.Watching
  refine ⟨?here, ?labelled, fun _ _ _ _ _ _ _ _ => State.watchRead_differs, ?left, ?due⟩
  case here => exact fun m o s gid sp a p acts free room checked => ⟨watchOf s gid m o, rfl, rfl, rfl, rfl, rfl, exec_watch p acts free room checked⟩
  case labelled => exact fun m o s gid p acts free room checked => ⟨watchOf s gid m o, rfl, rfl, rfl, rfl, rfl, exec_watch p acts free room checked⟩
  case left => exact fun s id w known left => congrArg Host.Outcome.next (State.watchReport_left known left)
  case due => exact fun s id w a known waits here due => congrArg Host.Outcome.next (State.watchReport_local known waits here due)

end Sys2Proof.Machine
end

section
/-! SUPPORT. What `LINV`, `LSYNC`, `LTWR` and the gates come to, a lemma for each case (R72 to R75, R373 to R375). Where `LTWR` finds its entry and what a gate opened
again holds are deduced (log entries 43 and 44). -/

namespace Sys2Proof.Machine

open Decode Safety Claims

/-- A field of a register reads as that field of its value. -/
theorem bf_ofNat_eq_slice {v lo n : Nat} (h : lo + n ≤ 64) : bf (BitVec.ofNat 64 v) lo n = slice v lo n := by
  rw [bf_eq_slice, BitVec.toNat_ofNat, slice, slice, show 2 ^ 64 = 2 ^ lo * 2 ^ (64 - lo) by rw [← Nat.pow_add]; congr 1; omega, Nat.mod_mul_right_div_self,
    Nat.mod_mod_of_dvd _ (Nat.pow_dvd_pow 2 (by omega))]

/-! ## The caches of labels (R74, R75) -/

section
variable {s : State} {gid : Nat} {o : Args}

theorem exec_linv {m : Mods.Linv} (p : Issues s gid (.linv m o) o) (acts : actingOf s gid o ≠ []) :
    exec (.linv m o) s = .next ((if m.chip
      then s.linvChip (unitOfGid gid) m.scope (slice (srcsOf s gid (.linv m o) o 0).2.1.v 0 12) (slice (srcsOf s gid (.linv m o) o 0).2.1.v 16 12)
      else s.linvCtx (unitOfGid gid) m.scope m.allc (slice (srcsOf s gid (.linv m o) o 0).2.1.v 32 12) (slice (srcsOf s gid (.linv m o) o 0).2.1.v 0 12)
        (slice (srcsOf s gid (.linv m o) o 0).2.1.v 16 12)).retire gid o.hdr false false) := by
  rw [show exec (.linv m o) s = execLinv m o s from rfl, execLinv]
  refine issue_next p.1 ?_
  obtain ⟨t, ts, threads⟩ := List.exists_cons_of_ne_nil acts
  rw [start_ok p, threads]
  dsimp only
  rw [bf_ofNat_eq_slice (by decide), bf_ofNat_eq_slice (by decide), bf_ofNat_eq_slice (by decide)]
  rfl

theorem exec_lsync_waits (p : Issues s gid (.lsync o) o) (acts : actingOf s gid o ≠ []) (left : s.undrained (unitOfGid gid) = true) :
    exec (.lsync o) s = .next ((s.stick gid 0).endRun gid) := by
  rw [show exec (.lsync o) s = execLsync o s from rfl, execLsync]
  refine issue_stop (x := .wait s) p.1 ?_
  obtain ⟨t, ts, threads⟩ := List.exists_cons_of_ne_nil acts
  rw [start_ok p, threads]
  exact if_pos left

theorem exec_lsync_passes (p : Issues s gid (.lsync o) o) (acts : actingOf s gid o ≠ []) (drained : s.undrained (unitOfGid gid) = false) :
    exec (.lsync o) s = .next ((s.onCore (unitOfGid gid) fun k => { k with dropped := [] }).retire gid o.hdr false false) := by
  rw [show exec (.lsync o) s = execLsync o s from rfl, execLsync]
  refine issue_next p.1 ?_
  obtain ⟨t, ts, threads⟩ := List.exists_cons_of_ne_nil acts
  rw [start_ok p, threads]
  exact if_neg (Bool.eq_false_iff.1 drained)

theorem lineDrops_eq_false {allc : Bool} {ctx lo hi : Nat} {l : CLine} :
    lineDrops allc ctx lo hi l = false ↔ (allc = false ∧ l.ctx ≠ ctx) ∨ l.o < lo ∨ hi < l.o := by
  cases allc <;> simp [lineDrops] <;> omega

@[simp] theorem State.noteDrops_lcache (s : State) (u : Nat) (keys : List Nat) (v : Nat) : ((s.noteDrops u keys).core v).lcache = (s.core v).lcache := by
  unfold State.noteDrops State.onCore
  by_cases h : v = u
  · rw [h, State.core_setCore_self]
  · rw [State.core_setCore_ne _ _ h]

/-- `LINV.mod` leaves each core the entries that it does not select. -/
theorem State.linvCtx_mod_lcache (s : State) (u : Nat) (allc : Bool) (ctx lo hi v : Nat) :
    ((s.linvCtx u .mod allc ctx lo hi).core v).lcache = dropLines allc ctx lo hi (s.core v).lcache := by
  unfold State.linvCtx
  rw [if_pos rfl, State.noteDrops_lcache, State.core, State.core, FMap.getD, FMap.getD, FMap.find?_mapVals]
  cases FMap.find? s.cores v <;> rfl

theorem mem_dropLines {allc : Bool} {ctx lo hi : Nat} {l : CLine} {ls : List CLine} :
    l ∈ dropLines allc ctx lo hi ls ↔ l ∈ ls ∧ ((allc = false ∧ l.ctx ≠ ctx) ∨ l.o < lo ∨ hi < l.o) := by
  rw [dropLines, List.mem_filter, Bool.not_eq_true', lineDrops_eq_false]

end

/-! ## Writing tables (R374) -/

section
variable {s : State} {t : TTab} {a : W64} {e : BitVec 128} {key : Nat}

theorem State.tableWrite_badAddress (h : s.tabKey t a = none) : s.tableWrite t a e = (s, 2) := by
  unfold State.tableWrite
  rw [h]

section
variable (h : s.tabKey t a = some key)
include h

theorem State.tableWrite_refused (bad : (if t = .acl then ruleOk e else entryOk (tabLvl t) e) = false) : s.tableWrite t a e = (s, 1) := by
  unfold State.tableWrite
  rw [h]
  cases t <;> simp_all

theorem State.tableWrite_rule (acl : t = .acl) (ok : ruleOk e = true) : s.tableWrite t a e = (s.setTab key e, 0) := by
  unfold State.tableWrite
  rw [h, acl]
  exact if_pos ok

theorem State.tableWrite_entry (entry : t ≠ .acl) (ok : entryOk (tabLvl t) e = true) :
    s.tableWrite t a e = (if t = .stack then (s.setTab key (mergeEntry (s.tab key) e)).setView (bf a 48 12) (bf a 2 16)
      else s.setTab key (mergeEntry (s.tab key) e), 0) := by
  unfold State.tableWrite
  rw [h]
  cases t <;> simp_all

end

theorem exec_ltwr {gid n : Nat} {o : Args} {s' : State} (p : GroupIssues s gid (.ltwr t o) o 3 2)
    (writes : s.tableWrite t (BitVec.ofNat 64 (srcsOf s gid (.ltwr t o) o 0).2.1.v) (above s gid o.b.x 1 ++ above s gid o.b.x 0) = (s', n)) :
    exec (.ltwr t o) s = .next ((withStatus s' gid o.d.x n).retire gid o.hdr false false) := by
  obtain ⟨turn, acts, -⟩ := id p
  obtain ⟨th, ths, threads⟩ := List.exists_cons_of_ne_nil acts
  rw [show exec (.ltwr t o) s = execLtwr t o s from rfl, execLtwr]
  refine issue_next turn ?_
  rw [tileStart_ok p, threads]
  exact congrArg (fun x => Except.ok (withStatus x.1 gid o.d.x x.2)) writes

end

/-! ## Gates (R72, R73, R375) -/

section
variable {s : State} {gid : Nat} {o : Args} {m : GLvl}

/-- What a gate's close waits for, in a state: a request that the entry granted, or at the context level one of a dropped entry. -/
def GateBusy (s : State) (u : Nat) (m : GLvl) (key : Nat) : Prop := s.count key ≠ 0 ∨ (m = .ctx ∧ s.undrained u = true)

theorem not_gateBusy {u key : Nat} (idle : s.count key = 0) (drained : m = .ctx → s.undrained u = false) : ¬ GateBusy s u m key := by
  rintro (busy | ⟨level, left⟩)
  · exact busy idle
  · exact Bool.eq_false_iff.1 (drained level) left

/-- The end of `GATE.close` once the entry is closed, in the state in which it stands. -/
def gateAwait (gid : Nat) (m : GLvl) (d : Opd) (key : Nat) (s : State) : Except Stop State :=
  if s.count key ≠ 0 || (m = .ctx && s.undrained (unitOfGid gid)) then .error (.wait (s.onGrp gid fun g => { g with cont := some (.gate key) }))
  else .ok (withStatus s gid d 0)

theorem gateAwait_busy {d : Opd} {key : Nat} (busy : GateBusy s (unitOfGid gid) m key) :
    gateAwait gid m d key s = .error (.wait (s.onGrp gid fun g => { g with cont := some (.gate key) })) :=
  if_pos (by simpa only [Bool.or_eq_true, Bool.and_eq_true, decide_eq_true_eq, GateBusy] using busy)
theorem gateAwait_free {d : Opd} {key : Nat} (free : ¬ GateBusy s (unitOfGid gid) m key) : gateAwait gid m d key s = .ok (withStatus s gid d 0) :=
  if_neg (by simpa only [Bool.or_eq_true, Bool.and_eq_true, decide_eq_true_eq, GateBusy] using free)

/-- What `GATE.close` comes to: the wait that it is in, the refusals, or the close and its wait. -/
def gateResult (s : State) (gid : Nat) (m : GLvl) (d : Opd) (a : W64) : Except Stop State :=
  match (s.grp gid).cont with
  | some (.gate key) => gateAwait gid m d key s
  | _ => match s.tabKey (gateTab m) a with
    | none => .ok (withStatus s gid d 2)
    | some key => if eST (s.tab key) = 2 then .ok (withStatus s gid d 1) else gateAwait gid m d key (s.gateClose (unitOfGid gid) (gateTab m) a key)

theorem exec_gateClose (p : Issues s gid (.gateClose m o) o) (acts : actingOf s gid o ≠ []) {r : Except Stop State}
    (result : gateResult s gid m o.d.x (BitVec.ofNat 64 (srcsOf s gid (.gateClose m o) o 0).2.1.v) = r) :
    exec (.gateClose m o) s = match r with | .ok s' => .next (s'.retire gid o.hdr false false) | .error x => .next (s.stopped gid x) := by
  obtain ⟨t, ts, threads⟩ := List.exists_cons_of_ne_nil acts
  have same : (match start (issOf s gid) (.gateClose m o) o with
      | .error x => .error x
      | .ok [] => .ok s
      | .ok _ => gateResult s gid m o.d.x (BitVec.ofNat 64 (srcsOf s gid (.gateClose m o) o 0).2.1.v)) = r := by
    rw [start_ok p, threads, ← result]
  rw [show exec (.gateClose m o) s = execGateClose m o s from rfl, execGateClose]
  cases r with
  | ok s' => exact issue_next p.1 same
  | error x => exact issue_stop p.1 same

theorem gateResult_waiting {d : Opd} {a : W64} {key : Nat} (waits : (s.grp gid).cont = some (.gate key)) : gateResult s gid m d a = gateAwait gid m d key s := by
  unfold gateResult
  rw [waits]

section
variable {d : Opd} {a : W64} (fresh : (s.grp gid).cont = none)
include fresh

theorem gateResult_badAddress (bad : s.tabKey (gateTab m) a = none) : gateResult s gid m d a = .ok (withStatus s gid d 2) := by
  unfold gateResult
  rw [fresh]
  dsimp only
  rw [bad]

variable {key : Nat} (at_ : s.tabKey (gateTab m) a = some key)
include at_

theorem gateResult_gated (gated : eST (s.tab key) = 2) : gateResult s gid m d a = .ok (withStatus s gid d 1) := by
  unfold gateResult
  rw [fresh]
  dsimp only
  rw [at_]
  exact if_pos gated

theorem gateResult_closes (open_ : eST (s.tab key) ≠ 2) :
    gateResult s gid m d a = gateAwait gid m d key (s.gateClose (unitOfGid gid) (gateTab m) a key) := by
  unfold gateResult
  rw [fresh]
  dsimp only
  rw [at_]
  exact if_neg open_

end

/-- What `GATE.open` comes to. -/
def gateOpens (s : State) (gid : Nat) (m : GLvl) (d : Opd) (a : W64) : State :=
  match s.tabKey (gateTab m) a with
  | none => withStatus s gid d 2
  | some key => if eST (s.tab key) ≠ 2 then withStatus s gid d 1 else withStatus (s.gateOpened key) gid d 0

theorem exec_gateOpen {s' : State} (p : Issues s gid (.gateOpen m o) o) (acts : actingOf s gid o ≠ [])
    (opens : gateOpens s gid m o.d.x (BitVec.ofNat 64 (srcsOf s gid (.gateOpen m o) o 0).2.1.v) = s') :
    exec (.gateOpen m o) s = .next (s'.retire gid o.hdr false false) := by
  subst opens
  obtain ⟨t, ts, threads⟩ := List.exists_cons_of_ne_nil acts
  rw [show exec (.gateOpen m o) s = execGateOpen m o s from rfl, execGateOpen]
  refine issue_next p.1 ?_
  rw [start_ok p, threads]
  simp only [srcsOf, gateOpens]
  change (match s.tabKey (gateTab m) (BitVec.ofNat 64 (srcs (issOf s gid) (.gateOpen m o) o 0).2.1.v) with | none => _ | some key => _) = _
  cases s.tabKey (gateTab m) (BitVec.ofNat 64 (srcs (issOf s gid) (.gateOpen m o) o 0).2.1.v) with
  | none => rfl
  | some key => exact (apply_ite Except.ok _ _ _).symm

section
variable {d : Opd} {a : W64}

theorem gateOpens_badAddress (bad : s.tabKey (gateTab m) a = none) : gateOpens s gid m d a = withStatus s gid d 2 := by rw [gateOpens, bad]
theorem gateOpens_notGated {key : Nat} (at_ : s.tabKey (gateTab m) a = some key) (notGated : eST (s.tab key) ≠ 2) :
    gateOpens s gid m d a = withStatus s gid d 1 := by
  rw [gateOpens, at_]
  exact if_pos notGated
theorem gateOpens_gated {key : Nat} (at_ : s.tabKey (gateTab m) a = some key) (gated : eST (s.tab key) = 2) :
    gateOpens s gid m d a = withStatus (s.gateOpened key) gid d 0 := by
  rw [gateOpens, at_]
  exact if_neg (not_not_intro gated)

end

end

/-- Settles O31: the caches of labels, the writes of tables by what `tableWrite` answers, and the gates by what they wait for. -/
theorem tables : Obligations.Tables := by
  refine ⟨⟨fun _ _ _ _ => exec_linv, ?lsync, ?dropped, ?kept⟩, ⟨?ltwr, ?close, ?waits, ?opens⟩⟩
  case lsync =>
    intro o s gid p acts
    cases left : s.undrained (unitOfGid gid)
    · exact exec_lsync_passes p acts left
    · exact exec_lsync_waits p acts left
  case dropped =>
    intro s u allc ctx lo hi v l mem
    rwa [State.linvCtx_mod_lcache, mem_dropLines] at mem
  case kept =>
    intro s u allc ctx lo hi v l mem kept
    rw [State.linvCtx_mod_lcache, mem_dropLines]
    exact ⟨mem, kept⟩
  case ltwr =>
    intro m o s gid p a e done
    exact ⟨fun bad => exec_ltwr p (State.tableWrite_badAddress bad), fun key at_ =>
      ⟨fun bad => exec_ltwr p (State.tableWrite_refused at_ bad), fun acl ok => exec_ltwr p (State.tableWrite_rule at_ acl ok),
        fun entry ok => exec_ltwr p (State.tableWrite_entry at_ entry ok)⟩⟩
  case close =>
    intro m o s gid p acts fresh a u done
    refine ⟨fun bad => exec_gateClose p acts (gateResult_badAddress fresh bad), fun key at_ => ⟨fun gated => exec_gateClose p acts (gateResult_gated fresh at_ gated),
      fun open_ => ⟨fun idle drained => ?_, fun busy => ?_⟩⟩⟩
    · exact exec_gateClose p acts ((gateResult_closes fresh at_ open_).trans (gateAwait_free (not_gateBusy idle drained)))
    · exact exec_gateClose p acts ((gateResult_closes fresh at_ open_).trans (gateAwait_busy busy))
  case waits =>
    intro m o s gid key p acts waits
    exact ⟨fun idle drained => exec_gateClose p acts ((gateResult_waiting waits).trans (gateAwait_free (not_gateBusy idle drained))),
      fun busy => exec_gateClose p acts ((gateResult_waiting waits).trans (gateAwait_busy busy))⟩
  case opens =>
    intro m o s gid p acts a done
    exact ⟨fun bad => exec_gateOpen p acts (gateOpens_badAddress bad), fun key at_ =>
      ⟨fun notGated => exec_gateOpen p acts (gateOpens_notGated at_ notGated), fun gated => exec_gateOpen p acts (gateOpens_gated at_ gated)⟩⟩

end Sys2Proof.Machine
end

section
/-! SUPPORT. What `RELOC` and `HOIST` come to, a lemma for each case (R96, R376, R377). -/

namespace Sys2Proof.Machine

open Decode Safety Claims

section
variable {s : State} {gid : Nat} {o : Args}

/-! ## `RELOC` -/

/-- The relocation that `RELOC` gives to a stack's engine. -/
def relocOf (gid : Nat) (d : Opd) (a b : W64) : Reloc := { i := bf a 24 14, off := bf a 0 24, fwd := bt b 63, plc := bf b 0 48, gid := gid, wd := wdNum d }

/-- What `RELOC` comes to: a status, a wait for the engine, or the page given to it. -/
def relocResult (s : State) (gid : Nat) (d : Opd) (a b : W64) : Except Stop State :=
  if s.relocCheck a b ≠ 0 then .ok ((withStatus s gid d (s.relocCheck a b)).pass gid)
  else if (s.base (bf a 48 5)).reloc.isSome then .error (.wait s)
  else .ok ((s.setBase (bf a 48 5) { s.base (bf a 48 5) with reloc := some (relocOf gid d a b) }).onGrp gid fun g =>
    { g with wait := .reloc (bf a 48 5), since := s.now })

theorem exec_reloc {r : Except Stop State} (p : Issues s gid (.reloc o) o) (acts : actingOf s gid o ≠ [])
    (result : relocResult s gid o.d.x (BitVec.ofNat 64 (srcsOf s gid (.reloc o) o 0).2.1.v) (BitVec.ofNat 64 (srcsOf s gid (.reloc o) o 0).2.2.v) = r) :
    exec (.reloc o) s = match r with | .ok s' => .next (s'.retire gid o.hdr true false) | .error x => .next (s.stopped gid x) := by
  obtain ⟨t, ts, threads⟩ := List.exists_cons_of_ne_nil acts
  have same : (match start (issOf s gid) (.reloc o) o with
      | .error x => .error x
      | .ok [] => .ok (s.pass gid)
      | .ok _ => relocResult s gid o.d.x (BitVec.ofNat 64 (srcsOf s gid (.reloc o) o 0).2.1.v) (BitVec.ofNat 64 (srcsOf s gid (.reloc o) o 0).2.2.v)) = r := by
    rw [start_ok p, threads, ← result]
  rw [show exec (.reloc o) s = execReloc o s from rfl, execReloc]
  cases r with
  | ok s' => exact issue_next p.1 same
  | error x => exact issue_stop p.1 same

section
variable {d : Opd} {a b : W64}

theorem relocResult_refused (refused : s.relocCheck a b ≠ 0) : relocResult s gid d a b = .ok ((withStatus s gid d (s.relocCheck a b)).pass gid) :=
  if_pos refused
theorem relocResult_begins (ok : s.relocCheck a b = 0) (idle : (s.base (bf a 48 5)).reloc = none) :
    relocResult s gid d a b = .ok ((s.setBase (bf a 48 5) { s.base (bf a 48 5) with reloc := some (relocOf gid d a b) }).onGrp gid fun g =>
      { g with wait := .reloc (bf a 48 5), since := s.now }) := by
  rw [relocResult, if_neg (not_not_intro ok), if_neg (by simp [idle])]
theorem relocResult_waits (ok : s.relocCheck a b = 0) (busy : (s.base (bf a 48 5)).reloc.isSome = true) : relocResult s gid d a b = .error (.wait s) := by
  rw [relocResult, if_neg (not_not_intro ok), if_pos busy]

end

/-! ## `HOIST` -/

/-- What one of the four forms of `HOIST` comes to is the work that they share. -/
theorem exec_hoist {i : Args → Instr} {op : Nat} {r : Except Stop State}
    (form : (i, op) ∈ [(Instr.hoistJoin, 0), (.hoistLeave, 1), (.hoistEvict, 2), (.hoistRekey, 3)]) (p : Issues s gid (i o) o)
    (acts : actingOf s gid o ≠ []) (result : hoistBody (issOf s gid) op ((srcsOf s gid (i o) o 0).2.1.v % 512) o.d.x = r) :
    exec (i o) s = match r with | .ok s' => .next (s'.retire gid o.hdr true false) | .error x => .next (s.stopped gid x) := by
  obtain ⟨t, ts, threads⟩ := List.exists_cons_of_ne_nil acts
  have same : (match start (issOf s gid) (i o) o with
      | .error x => .error x
      | .ok [] => .ok (s.pass gid)
      | .ok _ => hoistBody (issOf s gid) op ((srcsOf s gid (i o) o 0).2.1.v % 512) o.d.x) = r := by
    rw [start_ok p, threads, ← result]
  have shared : exec (i o) s = issue o s true false fun c => match start c (i o) o with
      | .error x => .error x
      | .ok [] => .ok (c.s.pass c.gid)
      | .ok _ => hoistBody c op (hoistMod c (i o) o) o.d.x := by
    simp only [List.mem_cons, Prod.mk.injEq, List.not_mem_nil, or_false] at form
    obtain ⟨rfl, rfl⟩ | ⟨rfl, rfl⟩ | ⟨rfl, rfl⟩ | ⟨rfl, rfl⟩ := form <;> rfl
  rw [shared]
  cases r with
  | ok s' => exact issue_next p.1 same
  | error x => exact issue_stop p.1 same

section
variable {op m n : Nat} {d : Opd}

theorem hoistBody_status (status : s.hoistStatus op m = some n) : hoistBody (issOf s gid) op m d = .ok ((withStatus s gid d n).pass gid) := by
  have status : (issOf s gid).s.hoistStatus op m = some n := status
  rw [hoistBody, status]
  rfl
theorem hoistBody_begins (status : s.hoistStatus op m = none) (idle : s.hoist = none) :
    hoistBody (issOf s gid) op m d = .ok (({ s with hoist := some { op := op, mod := m, gid := some gid, wd := wdNum d, start := s.now } } : State).onGrp gid
      fun g => { g with wait := .hoist, since := s.now }) := by
  have status : (issOf s gid).s.hoistStatus op m = none := status
  have idle : (issOf s gid).s.hoist = none := idle
  rw [hoistBody, status]
  dsimp only
  rw [idle]
  rfl
theorem hoistBody_waits (status : s.hoistStatus op m = none) (busy : s.hoist.isSome = true) : hoistBody (issOf s gid) op m d = .error (.wait s) := by
  have status : (issOf s gid).s.hoistStatus op m = none := status
  have busy : (issOf s gid).s.hoist.isSome = true := busy
  rw [hoistBody, status]
  exact if_pos busy

/-! ### Where a hoist may not run -/

theorem hoistStatus_self (known : s.regs.mod.isSome = true) (alone : s.regs.memb = false) : s.hoistStatus 0 s.modNo = none := by
  simp [State.hoistStatus, known, alone]

/-- The module and the operation do not fit each other: a join of a member, a leave or an evict of a non-member. -/
def HoistMisfit (s : State) (op m : Nat) : Prop := (op = 0 ∧ s.regs.mask.getLsbD m = true) ∨ ((op = 1 ∨ op = 2) ∧ s.regs.mask.getLsbD m = false)

section
variable (other : ¬ (s.regs.mod.isSome = true ∧ op = 0 ∧ m = s.modNo ∧ s.regs.memb = false))
include other

/-- Past the exception for a module without a domain the checks come in order. -/
theorem hoistStatus_eq :
    s.hoistStatus op m = if !s.regs.lead then some 1
      else if (op = 0 && s.regs.mask.getLsbD m) || ((op = 1 || op = 2) && !s.regs.mask.getLsbD m) then some 2
      else if s.regs.gen = 0xFFFFFFFF then some 3 else none :=
  if_neg (by simpa only [Bool.and_eq_true, decide_eq_true_eq, Bool.not_eq_true', and_assoc] using other)

theorem hoistStatus_away (away : s.regs.lead = false) : s.hoistStatus op m = some 1 := by rw [hoistStatus_eq other, if_pos (by simp [away])]
theorem hoistStatus_misfit (leads : s.regs.lead = true) (misfit : HoistMisfit s op m) : s.hoistStatus op m = some 2 := by
  rw [hoistStatus_eq other, if_neg (by simp [leads]), if_pos (by simpa [HoistMisfit] using misfit)]
theorem hoistStatus_fits (leads : s.regs.lead = true) (fits : ¬ HoistMisfit s op m) :
    s.hoistStatus op m = if s.regs.gen = 0xFFFFFFFF then some 3 else none := by
  rw [hoistStatus_eq other, if_neg (by simp [leads]), if_neg (by simpa [HoistMisfit] using fits)]

end

end

end

/-- Settles O32: `RELOC` and the four forms of `HOIST` by what they come to, and the statuses by the order of the checks. -/
theorem supervision : Obligations.Supervision := by
  refine ⟨⟨?reloc, ?hoist⟩, ?status⟩
  case reloc =>
    intro o s gid p acts v a b st
    exact ⟨fun refused => exec_reloc p acts (relocResult_refused refused), fun ok idle => exec_reloc p acts (relocResult_begins ok idle),
      fun ok busy => exec_reloc p acts (relocResult_waits ok busy)⟩
  case hoist =>
    intro i op o s gid form p acts m
    exact ⟨fun n status => exec_hoist form p acts (hoistBody_status status), fun status idle => exec_hoist form p acts (hoistBody_begins status idle),
      fun status busy => exec_hoist form p acts (hoistBody_waits status busy)⟩
  case status =>
    exact fun s op m => ⟨hoistStatus_self, fun other => ⟨hoistStatus_away other, hoistStatus_misfit other, hoistStatus_fits other⟩⟩

end Sys2Proof.Machine
end

section
/-! SUPPORT. What `EQPOP`, `PSTOP` and `PSTART` come to, a lemma for each case (R378, R379). How an entry is read and RIDX is written is deduced (log entry 102), as is how
far a stop or a start goes at a time (log entries 84 to 86). -/

namespace Sys2Proof.Machine

open Decode Safety Claims

/-! ## Instructions that do nothing where no thread acts -/

/-- An instruction whose effect is `body` where some thread acts. -/
def issueActing (i : Instr) (o : Args) (s : State) (body : Iss → Except Stop State) : Host.Outcome State Fault Refusal :=
  issue o s false false fun c =>
    match start c i o with
    | .error x => .error x
    | .ok [] => .ok c.s
    | .ok _ => body c

/-- Where an effect leads: from the state that it answers the instruction retires, else something stops it. -/
def retiresOr (s : State) (gid : Nat) (o : Args) : Except Stop State → Host.Outcome State Fault Refusal
  | .ok s' => .next (s'.retire gid o.hdr false false)
  | .error x => .next (s.stopped gid x)

theorem not_decide_eq_true {p : Prop} [Decidable p] : (!decide p) = true ↔ ¬ p := by rw [Bool.not_eq_true', decide_eq_false_iff_not]

/-- An instruction that issues and acts comes to what its effect does: it retires, or stops. -/
theorem issueActing_eq {i : Instr} {o : Args} {s : State} {gid : Nat} {body : Iss → Except Stop State} {r : Except Stop State} (p : Issues s gid i o)
    (acts : actingOf s gid o ≠ []) (result : body (issOf s gid) = r) :
    issueActing i o s body = retiresOr s gid o r := by
  obtain ⟨t, ts, threads⟩ := List.exists_cons_of_ne_nil acts
  have same : (match start (issOf s gid) i o with | .error x => .error x | .ok [] => .ok s | .ok _ => body (issOf s gid)) = r := by
    rw [start_ok p, threads, ← result]
  cases r with
  | ok s' => exact issue_next p.1 same
  | error x => exact issue_stop p.1 same

section
variable {s : State} {gid : Nat} {o : Args}

/-! ## `EQPOP` (R378) -/

/-- What `EQPOP` does. -/
def eqpopBody (m : Bool) (o : Args) (c : Iss) : Except Stop State :=
  let q := BitVec.ofNat 64 (srcs c (.eqpop m o) o 0).2.1.v
  if packetEmpty c.g o.d.x || ridxPending c q then .error (.wait c.s) else
  match issueReads c 32 [(0, q)] with
  | .error x => .error x
  | .ok hs =>
    let h := (hs.head?).getD []
    if valueAt h 0 4 = 0 || valueAt h 8 8 ≤ valueAt h 16 8 then
      if m then .error (.wait (c.s.issueDrop c.gid)) else .ok ((c.s.issueDrop c.gid).onGrp c.gid fun g => popped g o.d.x (List.replicate 8 0))
    else
      match issueReads c 64 [(0, pPlus q (64 + 64 * (valueAt h 16 8 % valueAt h 0 4)))] with
      | .error x => .error x
      | .ok es => .ok ((putRidx c (c.s.issueDrop c.gid) q (valueAt h 16 8 + 1)).onGrp c.gid fun g =>
          popped g o.d.x ((List.range 8).map fun k => valueAt ((es.head?).getD []) (8 * k) 8))

variable {m : Bool}

theorem exec_eqpop {r : Except Stop State} (p : Issues s gid (.eqpop m o) o) (acts : actingOf s gid o ≠ []) (result : eqpopBody m o (issOf s gid) = r) :
    exec (.eqpop m o) s = retiresOr s gid o r :=
  issueActing_eq p acts result

theorem eqpopBody_held
    (held : packetEmpty (s.grp gid) o.d.x = true ∨ ridxPending (issOf s gid) (BitVec.ofNat 64 (srcsOf s gid (.eqpop m o) o 0).2.1.v) = true) :
    eqpopBody m o (issOf s gid) = .error (.wait s) :=
  if_pos (Bool.or_eq_true_iff.2 held)

section
variable {h : List (Byte × Bool)} (room : packetEmpty (s.grp gid) o.d.x = false)
  (settled : ridxPending (issOf s gid) (BitVec.ofNat 64 (srcsOf s gid (.eqpop m o) o 0).2.1.v) = false)
  (header : issueReads (issOf s gid) 32 [(0, BitVec.ofNat 64 (srcsOf s gid (.eqpop m o) o 0).2.1.v)] = .ok [h])
include room settled header

theorem eqpopBody_empty (empty : valueAt h 0 4 = 0 ∨ valueAt h 8 8 ≤ valueAt h 16 8) :
    eqpopBody m o (issOf s gid) = if m then .error (.wait (s.issueDrop gid))
      else .ok ((s.issueDrop gid).onGrp gid fun g => popped g o.d.x (List.replicate 8 0)) := by
  have free : ¬ (packetEmpty (issOf s gid).g o.d.x || ridxPending (issOf s gid) (BitVec.ofNat 64 (srcs (issOf s gid) (.eqpop m o) o 0).2.1.v)) = true := by
    rw [Bool.or_eq_true, not_or]
    exact ⟨Bool.eq_false_iff.1 room, Bool.eq_false_iff.1 settled⟩
  rw [srcsOf] at header
  have empty : (decide (valueAt h 0 4 = 0) || decide (valueAt h 8 8 ≤ valueAt h 16 8)) = true := by
    simpa only [Bool.or_eq_true, decide_eq_true_eq] using empty
  unfold eqpopBody
  dsimp only
  rw [if_neg free, header]
  exact if_pos empty

theorem eqpopBody_pops {e : List (Byte × Bool)} (sized : valueAt h 0 4 ≠ 0) (filled : valueAt h 16 8 < valueAt h 8 8)
    (entry : issueReads (issOf s gid) 64 [(0, pPlus (BitVec.ofNat 64 (srcsOf s gid (.eqpop m o) o 0).2.1.v)
      (64 + 64 * (valueAt h 16 8 % valueAt h 0 4)))] = .ok [e]) :
    eqpopBody m o (issOf s gid) = .ok ((putRidx (issOf s gid) (s.issueDrop gid) (BitVec.ofNat 64 (srcsOf s gid (.eqpop m o) o 0).2.1.v)
      (valueAt h 16 8 + 1)).onGrp gid fun g => popped g o.d.x ((List.range 8).map fun k => valueAt e (8 * k) 8)) := by
  have free : ¬ (packetEmpty (issOf s gid).g o.d.x || ridxPending (issOf s gid) (BitVec.ofNat 64 (srcs (issOf s gid) (.eqpop m o) o 0).2.1.v)) = true := by
    rw [Bool.or_eq_true, not_or]
    exact ⟨Bool.eq_false_iff.1 room, Bool.eq_false_iff.1 settled⟩
  have some_ : ¬ (valueAt h 0 4 = 0 || valueAt h 8 8 ≤ valueAt h 16 8) = true := by
    rw [Bool.or_eq_true, decide_eq_true_eq, decide_eq_true_eq]
    omega
  rw [srcsOf] at header entry
  unfold eqpopBody
  dsimp only
  rw [if_neg free, header]
  refine (if_neg some_).trans ?_
  dsimp only [List.head?_cons, Option.getD_some]
  rw [entry]
  rfl

end

/-! ## `PSTOP` (R379) -/

theorem exec_pstop {i : Args → Instr} {h : How} {r : Except Stop State}
    (form : (i, h) ∈ [(Instr.pstopSave, How.save), (.pstopHalt, .halt), (.pstopPause, .pause), (.pstopReset, .reset)]) (p : Issues s gid (i o) o)
    (acts : actingOf s gid o ≠ []) (result : pstopBody h (issOf s gid) (i o) o = r) :
    exec (i o) s = retiresOr s gid o r := by
  have shared : exec (i o) s = issueActing (i o) o s fun c => pstopBody h c (i o) o := by
    simp only [List.mem_cons, Prod.mk.injEq, List.not_mem_nil, or_false] at form
    obtain ⟨rfl, rfl⟩ | ⟨rfl, rfl⟩ | ⟨rfl, rfl⟩ | ⟨rfl, rfl⟩ := form <;> rfl
  rw [shared]
  exact issueActing_eq p acts result

/-- The state in which a stop of context `n` has gone as far as it goes now. -/
def stopBegun (s : State) (h : How) (n : Nat) : State := (s.setCtx n { s.ctx n with stopping := true, starting := false }).stopOn h n

/-- The state in which a stop of context `n` is over. -/
def stopEnded (s : State) (h : How) (n : Nat) : State :=
  (s.setCtx n { s.ctx n with
    stopping := false, vst := h.vst, inc := if h = .reset then (s.ctx n).inc + 1 else (s.ctx n).inc
    oldEvents := (s.ctx n).oldEvents || decide (h = .reset) }).storeDesc n

section
variable {i : Instr} {h : How} {n : Nat} (named : (srcsOf s gid i o 0).2.1.v % 4096 = n)
include named

theorem pstopBody_busy (busy : (s.ctx n).stopping = true) (other : (s.grp gid).cont ≠ some .pstop) :
    pstopBody h (issOf s gid) i o = .ok (withStatus s gid o.d.x 2) := by
  subst named
  exact if_pos (Bool.and_eq_true_iff.2 ⟨busy, not_decide_eq_true.2 other⟩)

theorem pstopBody_stopped (idle : (s.ctx n).stopping = false) (other : (s.grp gid).cont ≠ some .pstop) (done : (s.ctx n).vst = h.vst) :
    pstopBody h (issOf s gid) i o = .ok (withStatus s gid o.d.x 1) := by
  subst named
  refine (if_neg ?_).trans (if_pos ?_)
  · rw [Bool.and_eq_true, not_and]
    exact fun busy => absurd busy (Bool.eq_false_iff.1 idle)
  · exact Bool.and_eq_true_iff.2 ⟨not_decide_eq_true.2 other, decide_eq_true done⟩

theorem pstopBody_goes (mine : (s.grp gid).cont ≠ some .pstop → (s.ctx n).stopping = false ∧ (s.ctx n).vst ≠ h.vst) :
    pstopBody h (issOf s gid) i o = if (stopBegun s h n).stopDone h n then .ok (withStatus (stopEnded (stopBegun s h n) h n) gid o.d.x 0)
      else .error (.wait ((stopBegun s h n).onGrp gid fun g => { g with cont := some .pstop })) := by
  subst named
  refine (if_neg ?_).trans (if_neg ?_)
  · rw [Bool.and_eq_true, not_and]
    exact fun busy other => absurd busy (Bool.eq_false_iff.1 (mine (not_decide_eq_true.1 other)).1)
  · rw [Bool.and_eq_true, not_and]
    exact fun other done => (mine (not_decide_eq_true.1 other)).2 (of_decide_eq_true done)

end

/-! ## `PSTART` (R379) -/

theorem exec_pstart {r : Except Stop State} (p : Issues s gid (.pstart o) o) (acts : actingOf s gid o ≠ [])
    (result : pstartBody (issOf s gid) (.pstart o) o = r) :
    exec (.pstart o) s = retiresOr s gid o r :=
  issueActing_eq p acts result

/-- The state in which a start of context `n` has begun: its descriptor read, its old events gone, its halted groups released. -/
def startBegun (s : State) (n : Nat) : State :=
  let s1 := ((s.setCtx n { s.ctx n with stopping := true, starting := true }).loadDesc n).purgeEvents n
  (s1.setCtx n { s1.ctx n with oldEvents := false }).releaseHalted n

/-- The blocks of a context that a start finds halted or saved run again where they can. -/
def restarted (s : State) (n : Nat) : State := (s.ctxBlocks n).foldl (fun s' k => s'.startOn k) s

/-- The state in which a start of context `n` is over. -/
def startEnded (s : State) (n : Nat) : State :=
  (({ s with msix := s.msix ++ (s.ctx n).msix.map fun v => ((s.ctx n).vf, v) } : State).setCtx n
    { s.ctx n with stopping := false, starting := false, vst := .run, msix := [] }).storeDesc n

/-- What a start comes to once its blocks have been restarted: it starts the cobblers where all of them run, and ends where those run too. -/
def startResult (gid n : Nat) (d : Opd) (s : State) : Except Stop State :=
  let s := if (s.ctxBlocks n).all s.runs then s.startCobblers n (s.cobblerDies n) else s
  if (s.ctxBlocks n).all s.runs && (s.cobblerDies n).isEmpty then .ok (withStatus (startEnded s n) gid d 0)
  else .error (.wait (s.onGrp gid fun g => { g with cont := some .pstop }))

theorem startResult_ends {n : Nat} {d : Opd} {t : State} (run : ∀ k ∈ s.ctxBlocks n, s.runs k = true) (cobblers : s.startCobblers n (s.cobblerDies n) = t)
    (runs : ∀ k ∈ t.ctxBlocks n, t.runs k = true) (served : t.cobblerDies n = []) : startResult gid n d s = .ok (withStatus (startEnded t n) gid d 0) := by
  have all_ : (t.ctxBlocks n).all t.runs = true := List.all_eq_true.2 runs
  rw [startResult, if_pos (List.all_eq_true.2 run), cobblers]
  exact if_pos (by rw [all_, served]; rfl)

section
variable {n : Nat} (named : (srcsOf s gid (.pstart o) o 0).2.1.v % 4096 = n)
include named

theorem pstartBody_busy (busy : (s.ctx n).stopping = true) (other : (s.grp gid).cont ≠ some .pstop) :
    pstartBody (issOf s gid) (.pstart o) o = .ok (withStatus s gid o.d.x 2) := by
  subst named
  exact if_pos (Bool.and_eq_true_iff.2 ⟨busy, not_decide_eq_true.2 other⟩)

theorem pstartBody_running (idle : (s.ctx n).stopping = false) (other : (s.grp gid).cont ≠ some .pstop) (done : (s.ctx n).vst = .run) :
    pstartBody (issOf s gid) (.pstart o) o = .ok (withStatus s gid o.d.x 1) := by
  subst named
  refine (if_neg ?_).trans (if_pos ?_)
  · rw [Bool.and_eq_true, not_and]
    exact fun busy => absurd busy (Bool.eq_false_iff.1 idle)
  · exact Bool.and_eq_true_iff.2 ⟨not_decide_eq_true.2 other, decide_eq_true done⟩

/-- A start goes on from the state in which it has begun: its blocks run again, and then it ends or waits. -/
theorem pstartBody_goes (mine : (s.grp gid).cont ≠ some .pstop → (s.ctx n).stopping = false ∧ (s.ctx n).vst ≠ .run) :
    pstartBody (issOf s gid) (.pstart o) o =
      startResult gid n o.d.x (restarted (if (s.grp gid).cont = some .pstop then s else startBegun s n) n) := by
  subst named
  refine (if_neg ?_).trans (if_neg ?_)
  · rw [Bool.and_eq_true, not_and]
    exact fun busy other => absurd busy (Bool.eq_false_iff.1 (mine (not_decide_eq_true.1 other)).1)
  · rw [Bool.and_eq_true, not_and]
    exact fun other done => (mine (not_decide_eq_true.1 other)).2 (of_decide_eq_true done)

end

end

/-- Settles O33: `EQPOP` by what the queue holds, and stops and starts by whether they are under way. -/
theorem queuesAndContexts : Obligations.QueuesAndContexts := by
  unfold Obligations.QueuesAndContexts
  refine ⟨?held, ?pop, ?stop, ?start⟩
  case held => exact fun m o s gid p acts held => exec_eqpop p acts (eqpopBody_held held)
  case pop =>
    intro m o s gid h p acts room q settled header size widx ridx
    refine ⟨?_, ?_, fun e sized filled entry => exec_eqpop p acts (eqpopBody_pops room settled header sized filled entry)⟩
    · rintro empty rfl
      exact exec_eqpop p acts (eqpopBody_empty room settled header empty)
    · rintro empty rfl
      exact exec_eqpop p acts (eqpopBody_empty room settled header empty)
  case stop =>
    intro i h o s gid form p acts n done
    refine ⟨fun busy other => exec_pstop form p acts (pstopBody_busy rfl busy other), fun idle other stopped => exec_pstop form p acts (pstopBody_stopped rfl idle other stopped),
      fun mine => ⟨fun ended => ?_, fun left => ?_⟩⟩
    · exact exec_pstop form p acts ((pstopBody_goes rfl mine).trans (if_pos ended))
    · exact exec_pstop form p acts ((pstopBody_goes rfl mine).trans (if_neg (Bool.eq_false_iff.1 left)))
  case start =>
    intro o s gid p acts n done
    exact ⟨fun busy other => exec_pstart p acts (pstartBody_busy rfl busy other), fun idle other running => exec_pstart p acts (pstartBody_running rfl idle other running),
      fun mine run3 run4 served => exec_pstart p acts ((pstartBody_goes rfl mine).trans (startResult_ends run3 rfl run4 served))⟩

end Sys2Proof.Machine
end

section
/-! SUPPORT. What the instructions of token routing and of collectives come to, a lemma for each (R344, R346 to R348, R351). How tokens are checked, that maps are read at
issue, and what `RSTAT` delivers before a session's first round are deduced (log entries 53, 55, 59). -/

namespace Sys2Proof.Machine

open Decode Safety Claims

/-! ## Instructions of a group that do nothing where no thread acts -/

/-- A group's instruction whose effect is `body` on its acting threads, where there are any. -/
def groupActing (i : Instr) (o : Args) (field k : Nat) (s : State) (body : Iss → List Nat → Except Stop State) : Host.Outcome State Fault Refusal :=
  issue o s false false fun c =>
    match tileStart c i o field k with
    | .error x => .error x
    | .ok ts => if ts.isEmpty then .ok c.s else body c ts

section
variable {s : State} {gid : Nat} {o : Args}

/-- A group's instruction that issues and acts comes to what its effect does: it retires, or stops. -/
theorem groupActing_eq {i : Instr} {field k : Nat} {body : Iss → List Nat → Except Stop State} {r : Except Stop State} (p : GroupIssues s gid i o field k)
    (result : body (issOf s gid) (actingOf s gid o) = r) : groupActing i o field k s body = retiresOr s gid o r := by
  have same : (match tileStart (issOf s gid) i o field k with
      | .error x => .error x
      | .ok ts => if ts.isEmpty then .ok s else body (issOf s gid) ts) = r := by
    rw [tileStart_ok p]
    exact (if_neg (groupIssues_acts p)).trans result
  cases r with
  | ok s' => exact issue_next p.1 same
  | error x => exact issue_stop p.1 same

/-- No wait for the group's earlier writes, nor for an acquire. -/
theorem not_writesAwaited (past : PastWrites s gid) :
    ¬ (!(s.commit (s.grp gid).blk).ownReleased gid .mod || (s.commit (s.grp gid).blk).acquiring gid) = true := by
  obtain ⟨written, free⟩ := past
  have free : (s.commit (s.grp gid).blk).acquiring gid = false := free
  rw [written, free]
  exact Bool.false_ne_true

/-- No wait for room in NET, nor for an acquire. -/
theorem not_netAwaited (count : (s.grp gid).net < 255) (free : s.acquiring gid = false) :
    ¬ (counterFull (s.grp gid).net || (s.commit (s.grp gid).blk).acquiring gid) = true := by
  have free : (s.commit (s.grp gid).blk).acquiring gid = false := free
  rw [counterFull_eq_false count, free]
  exact Bool.false_ne_true

theorem not_flushing {r : Session} (idle : r.flush = none) : ¬ r.flush.isSome = true := by simp [idle]

theorem not_routeBad {d : List W64} (ok : routeOk d = true) : ¬ (!routeOk d) = true := by simp [ok]

/-! ## `RSEND` (R344) -/

/-- The state in which the tokens of an `RSEND` are on their send lists. -/
def tokensAppended (c : Iss) (key : Nat) (r : Session) (xs : List Send) : State :=
  let s1 := ((c.s.commit c.g.blk).noRestart c.g.blk).issueDrop c.gid
  xs.foldl (appendToken c key) { s1 with sess := FMap.insert s1.sess key r }

/-- What `RSEND` comes to once its tokens have been checked. -/
def tokensSent (c : Iss) (key : Nat) (r : Session) : Except Stop (List Send) → Except Stop State
  | .error x => .error x
  | .ok xs =>
    if !(c.s.commit c.g.blk).ownReleased c.gid .mod || (c.s.commit c.g.blk).acquiring c.gid then .error (.wait (c.s.commit c.g.blk))
    else if 8192 < (c.s.commit c.g.blk).entriesUsed (dieOf (unitOfGid c.gid)) + xs.length then .error (.wait (c.s.commit c.g.blk))
    else .ok (tokensAppended c key r xs)

theorem exec_rsend {xs : List Send} {d : List W64} (desc : fourWords s gid o.b.x = d) (p : GroupIssues s gid (.rsend o) o 3 4)
    (idle : (roundAt s gid d).flush = none) (ok : routeOk d = true)
    (checked : rsendCheck (issOf s gid) (roundAt s gid d) (sendsOf (issOf s gid) o (actingOf s gid o)) = .ok xs) (past : PastWrites s gid)
    (room : (s.commit (s.grp gid).blk).entriesUsed (dieAt gid) + xs.length ≤ 8192) :
    exec (.rsend o) s = .next ((tokensAppended (issOf s gid) (roundKey s gid d) (roundAt s gid d) xs).retire gid o.hdr false false) := by
  subst desc
  refine groupActing_eq (r := .ok _) p ((if_neg (not_flushing idle)).trans ((if_neg (not_routeBad ok)).trans ?_))
  refine (congrArg (tokensSent (issOf s gid) _ _) checked).trans ?_
  exact (if_neg (not_writesAwaited past)).trans (if_neg (Nat.not_lt.2 room))

/-! ## `RPOST` (R346) -/

/-- The receive buffer that an `RPOST` opens, and the state in which it is open. -/
def bufOf (c : Iss) (d : List W64) (op : Nat) : RBuf :=
  { die := dieOf (unitOfGid c.gid), ctx := c.b.ctx, sess := bf (dw d 3) 32 16, exp := bf (dw d 3) 0 16, hdr := dw d 0, pay := dw d 1
    cap := bf (dw d 2) 32 32, ps := bf (dw d 2) 0 32, e := bf (dw d 3) 16 16, op := op, unit := unitOfGid c.gid, org := routeOrg c 0 (dw d 0) }
def bufPosted (c : Iss) (d : List W64) : State :=
  let x := ((c.s.commit c.g.blk).noRestart c.g.blk).netBegin c.gid .post
  let b := bufOf c d x.2
  ({ x.1 with bufs := FMap.insert (FMap.keep x.1.bufs fun _ y => !(y.is b.die b.ctx b.sess b.exp && y.ended)) x.1.nextId b
              nextId := x.1.nextId + 1 } : State).takeHeld b.die b.ctx b.sess b.exp

/-- What `RPOST` comes to once its two ranges have been checked. -/
def bufOpened (c : Iss) (d : List W64) : Except Stop Unit → Except Stop Unit → Except Stop State
  | .error x, _ => .error x
  | _, .error x => .error x
  | .ok _, .ok _ =>
    if 1024 ≤ ((c.s.commit c.g.blk).bufs.filter fun x => x.2.die = dieOf (unitOfGid c.gid) && x.2.isOpen).length || counterFull c.g.net ||
      (c.s.commit c.g.blk).acquiring c.gid then .error (.wait (c.s.commit c.g.blk))
    else .ok (bufPosted c d)

theorem exec_rpost {d : List W64} (desc : fourWords s gid o.a.x = d) (p : GroupIssues s gid (.rpost o) o 2 4)
    (reserved : bf (dw d 3) 48 16 = 0) (some_ : 1 ≤ bf (dw d 2) 32 32) (few : bf (dw d 2) 32 32 ≤ 65535) (waited : 1 ≤ bf (dw d 3) 16 16)
    (short : bf (dw d 2) 0 32 ≤ 16384) (closed : s.openBuf (dieAt gid) (ctxAt s gid) (bf (dw d 3) 32 16) (bf (dw d 3) 0 16) = none)
    (hdrs : boundHere (issOf s gid) (dw d 0) .write (32 * bf (dw d 2) 32 32) = .ok ())
    (pays : boundHere (issOf s gid) (dw d 1) .write (bf (dw d 2) 32 32 * bf (dw d 2) 0 32) = .ok ())
    (room : ((s.commit (s.grp gid).blk).bufs.filter fun x => decide (x.2.die = dieAt gid) && x.2.isOpen).length < 1024) (count : (s.grp gid).net < 255)
    (free : s.acquiring gid = false) : exec (.rpost o) s = .next ((bufPosted (issOf s gid) d).retire gid o.hdr false false) := by
  subst desc
  rw [fourWords] at reserved some_ few waited short closed
  refine groupActing_eq (r := .ok _) p ((if_neg ?sound).trans ((if_neg ?closed).trans ?_))
  case sound =>
    simp only [Bool.or_eq_true, decide_eq_true_eq]
    omega
  case closed => exact Option.isSome_eq_false_iff.2 (Option.isNone_iff_eq_none.2 closed) ▸ Bool.false_ne_true
  refine (congrArg₂ (bufOpened (issOf s gid) _) hdrs pays).trans (if_neg ?_)
  rw [Bool.or_assoc, Bool.or_eq_true, not_or, decide_eq_true_eq]
  exact ⟨Nat.not_le.2 room, not_netAwaited count free⟩

/-! ## `RFLUSH` (R347) -/

/-- The state in which the round of a session is flushed: its lists are on their way, and NET counts it. -/
def roundFlushed (c : Iss) (key : Nat) (r : Session) (vs : List Nat) : State :=
  let x := ((c.s.commit c.g.blk).issueDrop c.gid).netBegin c.gid .flush
  let s : State := { x.1 with sess := FMap.insert x.1.sess key { r with flush := some x.2, tos := validExperts vs } }
  let lists := s.toks.filter fun y => y.2.die = dieOf (unitOfGid c.gid) && y.2.src = s.modNo && y.2.ctx = c.b.ctx && y.2.sess = r.sess &&
    (match y.2.at_ with | .list _ => true | _ => false)
  (lists.foldl (fun s y => s.listGo y.2) s).flushCheck key

/-- What `RFLUSH` comes to once it has read its map. -/
def roundEnds (c : Iss) (key : Nat) (r : Session) : Except Stop (List Nat) → Except Stop State
  | .error x => .error x
  | .ok vs =>
    if counterFull c.g.net || (c.s.commit c.g.blk).acquiring c.gid then .error (.wait (c.s.commit c.g.blk)) else .ok (roundFlushed c key r vs)

theorem exec_rflush {vs : List Nat} {d : List W64} (desc : fourWords s gid o.b.x = d) (p : GroupIssues s gid (.rflush o) o 3 4)
    (idle : (roundAt s gid d).flush = none) (ok : routeOk d = true)
    (read : readMap (issOf s gid) (roundAt s gid d).map ((List.range (roundAt s gid d).nexp).map fun e => (0, e)) = .ok vs) (count : (s.grp gid).net < 255)
    (free : s.acquiring gid = false) :
    exec (.rflush o) s = .next ((roundFlushed (issOf s gid) (roundKey s gid d) (roundAt s gid d) vs).retire gid o.hdr false false) := by
  subst desc
  refine groupActing_eq (r := .ok _) p ((if_neg (not_flushing idle)).trans ((if_neg (not_routeBad ok)).trans ?_))
  exact (congrArg (roundEnds (issOf s gid) _ _) read).trans (if_neg (not_netAwaited count free))

/-! ## `COLL` (R351) -/

/-- The collective that a `COLL` with a sound list is part of, and the state in which it is under way. -/
def collFrom (c : Iss) (m : Mods.Coll) (tag : BitVec 32) (d : List W64) (lst : List Nat) : Coll :=
  { op := c.s.nextId, unit := unitOfGid c.gid, m := m, tag := tag, snd := dw d 0, rcv := dw d 1, rank := bf (dw d 2) 48 16, g := bf (dw d 2) 32 16
    n := bf (dw d 2) 0 32, lst := lst, heard := [bf (dw d 2) 48 16], org := routeOrg c 0 (dw d 0) }
def collBegun (c : Iss) (k : Coll) : State :=
  let x := (((c.s.commit c.g.blk).noRestart c.g.blk).issueDrop c.gid).netBegin c.gid .coll
  let s : State := { x.1 with colls := FMap.insert x.1.colls x.1.nextId { k with op := x.2 }, nextId := x.1.nextId + 1 }
  k.others.foldl (fun s j => s.collSend k j 0 0 0 k.desc) s

/-- What `COLL` comes to once its two ranges have been checked. -/
def collStarted (c : Iss) (k : Coll) : Except Stop Unit → Except Stop Unit → Except Stop State
  | .error x, _ => .error x
  | _, .error x => .error x
  | .ok _, .ok _ =>
    if !(c.s.commit c.g.blk).ownReleased c.gid .mod || counterFull c.g.net || (c.s.commit c.g.blk).acquiring c.gid then .error (.wait (c.s.commit c.g.blk))
    else .ok (collBegun c k)

/-- What `COLL` comes to once it has read its member list. -/
def collListed (c : Iss) (m : Mods.Coll) (tag : BitVec 32) (d : List W64) : Except Stop (List Nat) → Except Stop State
  | .error x => .error x
  | .ok lst =>
    if (distinct lst).length ≠ bf (dw d 2) 32 16 || (lst[bf (dw d 2) 48 16]?).getD 0 ≠ c.s.modNo || !lst.all c.s.member then .error (collTrap 1)
    else if (c.s.collOf tag).isSome then .error (collTrap 2)
    else collStarted c (collFrom c m tag d lst) (boundHere c (dw d 0) .read ((collFrom c m tag d lst).sizes.1 * ctyBytes m.ty))
      (boundHere c (dw d 1) .write ((collFrom c m tag d lst).sizes.2 * ctyBytes m.ty))

/-- What `COLL` does with its descriptor. -/
def collBody (c : Iss) (m : Mods.Coll) (tag : BitVec 32) (d : List W64) : Except Stop State :=
  if bf (dw d 2) 32 16 ≤ bf (dw d 2) 48 16 || 512 < bf (dw d 2) 32 16 then .error (collTrap 1)
  else collListed c m tag d (readList c (dw d 3) (bf (dw d 2) 32 16))

section
variable {m : Mods.Coll} {tag : BitVec 32} {d : List W64} {lst : List Nat}

theorem exec_coll {r : Except Stop State} (p : GroupIssues s gid (.coll m o) o 2 4)
    (result : collBody (issOf s gid) m (BitVec.ofNat 32 (srcsOf s gid (.coll m o) o 0).2.2.v) (fourWords s gid o.a.x) = r) :
    exec (.coll m o) s = retiresOr s gid o r :=
  groupActing_eq p result

theorem collBody_outOfRange {c : Iss} (bad : bf (dw d 2) 32 16 ≤ bf (dw d 2) 48 16 ∨ 512 < bf (dw d 2) 32 16) :
    collBody c m tag d = .error (collTrap 1) :=
  if_pos (by simpa only [Bool.or_eq_true, decide_eq_true_eq] using bad)

section
variable (ranked : bf (dw d 2) 48 16 < bf (dw d 2) 32 16) (small : bf (dw d 2) 32 16 ≤ 512)
  (listed : readList (issOf s gid) (dw d 3) (bf (dw d 2) 32 16) = .ok lst) (once : (distinct lst).length = bf (dw d 2) 32 16)
  (here : lst[bf (dw d 2) 48 16]?.getD 0 = s.modNo) (members : ∀ x ∈ lst, s.member x = true)
include ranked small listed once here members

/-- With a sound list what is left is whether its tag is in use. -/
theorem collBody_listed : collBody (issOf s gid) m tag d = if (s.collOf tag).isSome then .error (collTrap 2)
    else collStarted (issOf s gid) (collFrom (issOf s gid) m tag d lst)
      (boundHere (issOf s gid) (dw d 0) .read ((collFrom (issOf s gid) m tag d lst).sizes.1 * ctyBytes m.ty))
      (boundHere (issOf s gid) (dw d 1) .write ((collFrom (issOf s gid) m tag d lst).sizes.2 * ctyBytes m.ty)) := by
  have inRange : ¬ (decide (bf (dw d 2) 32 16 ≤ bf (dw d 2) 48 16) || decide (512 < bf (dw d 2) 32 16)) = true := by
    simp only [Bool.or_eq_true, decide_eq_true_eq]
    omega
  have all_ : lst.all s.member = true := List.all_eq_true.2 members
  have sound : ¬ (decide ((distinct lst).length ≠ bf (dw d 2) 32 16) || decide (lst[bf (dw d 2) 48 16]?.getD 0 ≠ s.modNo) || !lst.all s.member) = true := by
    simp [once, here, all_]
  exact (if_neg inRange).trans ((congrArg (collListed (issOf s gid) m tag d) listed).trans (if_neg sound))

theorem collBody_tagInUse (used : (s.collOf tag).isSome = true) : collBody (issOf s gid) m tag d = .error (collTrap 2) :=
  (collBody_listed ranked small listed once here members).trans (if_pos used)

theorem collBody_begins (fresh : s.collOf tag = none)
    (sends : boundHere (issOf s gid) (dw d 0) .read ((collFrom (issOf s gid) m tag d lst).sizes.1 * ctyBytes m.ty) = .ok ())
    (receives : boundHere (issOf s gid) (dw d 1) .write ((collFrom (issOf s gid) m tag d lst).sizes.2 * ctyBytes m.ty) = .ok ())
    (past : PastWrites s gid) (count : (s.grp gid).net < 255) :
    collBody (issOf s gid) m tag d = .ok (collBegun (issOf s gid) (collFrom (issOf s gid) m tag d lst)) := by
  have free : ¬ (!(s.commit (s.grp gid).blk).ownReleased gid .mod || counterFull (s.grp gid).net || (s.commit (s.grp gid).blk).acquiring gid) = true := by
    rw [counterFull_eq_false count, Bool.or_false]
    exact not_writesAwaited past
  refine (collBody_listed ranked small listed once here members).trans ((if_neg (by simp [fresh])).trans ?_)
  exact (congrArg₂ (collStarted (issOf s gid) _) sends receives).trans (if_neg free)

end

end

end

/-! ## `RSTAT` (R348) -/

/-- The state in which the count of an `RSTAT` is in D. -/
def countDelivered (m : RSel) (o : Args) (c : Iss) : State :=
  let x := srcs c (.rstat m o) o 0
  let a := x.2.1.v
  let b := c.s.lastBuf (dieOf (unitOfGid c.gid)) c.b.ctx (a / 65536 % 65536) (a % 65536)
  let r := FMap.find? c.s.sess (sessKey (dieOf (unitOfGid c.gid)) c.b.ctx (a / 65536 % 65536))
  c.s.setGrp c.gid (writeOp c.g 0 64 o.d.x
    { v := match m with
        | .cnt => (b.map fun x => x.count).getD 0 | .ends => (b.map fun x => x.ends).getD 0 | .redir => (b.map fun x => x.redir).getD 0
        | .sent => (r.map fun x => x.sent).getD 0 | .ret => (r.map fun x => x.ret).getD 0 | .drop => (r.map fun x => x.drop).getD 0
      st := (worst x).asOf c.b.tents })

theorem exec_rstat {s : State} {gid : Nat} {o : Args} {m : RSel} (p : Issues s gid (.rstat m o) o) (acts : actingOf s gid o ≠ []) :
    exec (.rstat m o) s = .next ((countDelivered m o (issOf s gid)).retire gid o.hdr false false) := by
  have same : (match start (issOf s gid) (.rstat m o) o with
      | .error x => .error x
      | .ok ts => if ts.isEmpty then .ok s else .ok (countDelivered m o (issOf s gid))) = Except.ok (countDelivered m o (issOf s gid)) := by
    rw [start_ok p]
    exact if_neg (isEmpty_actingOf acts)
  refine issue_next (f := fun c => match start c (.rstat m o) o with
    | .error x => .error x
    | .ok ts => if ts.isEmpty then .ok c.s else .ok (countDelivered m o c)) p.1 same

/-- Settles O29: each instruction of token routing goes past its checks and waits, and `COLL` is sorted by what its descriptor, its list and its tag say. -/
theorem network : Obligations.Network := by
  unfold Obligations.Network
  refine ⟨⟨?send, ?post, ?flush, ?stat⟩, ?begins, ?outOfRange, ?tagInUse⟩
  case send => exact fun o s gid xs p idle ok checked past room => exec_rsend rfl p idle ok checked past room
  case post =>
    intro o s gid p d w k reserved some_ few waited short closed hdrs pays room count free
    exact ⟨_, rfl, rfl, rfl, rfl, rfl, rfl, rfl, rfl, rfl, rfl, rfl, rfl, rfl, rfl,
      exec_rpost rfl p reserved some_ few waited short closed hdrs pays room count free⟩
  case flush => exact fun o s gid vs p idle ok read count free => exec_rflush rfl p idle ok read count free
  case stat =>
    intro m o s gid p acts
    have low (x : Nat) : slice x 0 16 = x % 65536 := congrArg (fun y => y % 65536) (Nat.div_one x)
    have high (x : Nat) : slice x 16 16 = x / 65536 % 65536 := rfl
    dsimp only
    rw [low, high]
    exact exec_rstat p acts
  case begins =>
    intro m o s gid lst p d rank g tag ranked small listed once here members fresh k sends receives past count
    exact exec_coll p (collBody_begins ranked small listed once here members fresh sends receives past count)
  case outOfRange => exact fun m o s gid p bad => exec_coll p (collBody_outOfRange bad)
  case tagInUse =>
    intro m o s gid lst p d g ranked small listed once here members used
    exact exec_coll p (collBody_tagInUse ranked small listed once here members used)

end Sys2Proof.Machine
end

section
/-! SUPPORT. What the events of token routing and of collectives come to, a lemma for each stage of a token, a marker, an acknowledgement and a packet (R344 to R347, R351,
R398). How lists leave, tokens are disposed of, markers are sent and packets of a collective are taken is deduced (log entries 53 to 57). -/

namespace Sys2Proof.Machine

open Decode Safety Claims

section
variable {s t : State} {id : Nat}

theorem leads_sendListDepart : Leads (.sendListDepart id) s t ↔ s.sendDepart id = t := leads_iff_of_exec rfl
theorem leads_tokenArrive : Leads (.tokenArrive id) s t ↔ s.tokArrive id = t := leads_iff_of_exec rfl
theorem leads_tokenReturn : Leads (.tokenReturn id) s t ↔ s.tokBack id = t := leads_iff_of_exec rfl
theorem leads_endMarkerArrive : Leads (.endMarkerArrive id) s t ↔ s.markArrive id = t := leads_iff_of_exec rfl
theorem leads_tokenDispositionAck : Leads (.tokenDispositionAck id) s t ↔ s.tokAcked id = t := leads_iff_of_exec rfl
theorem leads_collContribution : Leads (.collContribution id) s t ↔ s.collStep id = t := leads_iff_of_exec rfl

section
variable {k : Token} (found : FMap.find? s.toks id = some k)
include found

/-! ## Send lists (R345, R398) -/

theorem State.sendDepart_list {m : Nat} (listed : k.at_ = .list m) {P : Prop} [Decidable P]
    (leaves : P ↔ 16 ≤ (s.sendList k).length ∨ (∃ r, FMap.find? s.sess (sessKey k.die k.ctx k.sess) = some r ∧ r.flush.isSome = true) ∨
      ∃ x ∈ s.sendList k, 2048 ≤ s.now - x.2.since) : s.sendDepart id = if P then s.listGo k else s := by
  rw [State.sendDepart, found]
  dsimp only
  rw [listed]
  refine if_congr (Iff.trans ?_ leaves.symm) rfl rfl
  rw [Bool.or_eq_true, Bool.or_eq_true, decide_eq_true_eq, or_assoc, List.any_eq_true]
  refine or_congr Iff.rfl (or_congr ?_ (by simp only [decide_eq_true_eq]))
  cases FMap.find? s.sess (sessKey k.die k.ctx k.sess) <;> simp

/-- A token whose payload is to be read from memory goes on with its read. -/
theorem State.sendDepart_read {m : Nat} (reading : k.at_ = .read m) : s.sendDepart id = s.tokRead id := by
  rw [State.sendDepart, found]
  dsimp only
  rw [reading]

theorem State.tokRead_eq (remote : k.loc = none) (some_ : 0 < hLen k.hdr) : s.tokRead id = match s.doneOf (.tok id) with
    | .none => s.newReq (engineReq (.tok id) .read k.org (hPtr k.hdr) (hLen k.hdr) .load 0)
    | .wait => s
    | .failed _ => (s.dropClient (.tok id)).tokReturn id k 4
    | .bytes bs => (s.dropClient (.tok id)).tokGo id { k with pay := bs } := by
  rw [State.tokRead, found]
  dsimp only
  rw [remote]
  exact if_neg (Nat.ne_of_gt some_)

/-! ## Tokens at an engine (R345) -/

theorem State.tokArrive_way {d : Nat} (coming : k.at_ = .way d) (token : k.mark = false) : s.tokArrive id = s.dispose id k d := by
  rw [State.tokArrive, found]
  dsimp only
  rw [coming]
  exact if_neg (ne_true_of_eq_false token)

theorem State.tokArrive_placing {b slot : Nat} {pay : Bool} (placing : k.at_ = .placing b slot pay) : s.tokArrive id = s.tokPlace id := by
  rw [State.tokArrive, found]
  dsimp only
  rw [placing]

/-- A write of the header of a token that takes a slot of a buffer. -/
def State.placeHeader (s : State) (id : Nat) (k : Token) (b slot : Nat) (x : RBuf) : State :=
  (s.setTok id { k with at_ := .placing b slot true }).newReq
    (engineReq (.tok id) .write x.org (pInto x.hdr (32 * slot)) 32 (storeOf ((leBytes 32 k.hdr.toNat).map fun y => (y, false))) 0)

theorem State.tokPlace_eq {b slot : Nat} {pay : Bool} {x : RBuf} (placing : k.at_ = .placing b slot pay) (buf : FMap.find? s.bufs b = some x) :
    s.tokPlace id = match s.doneOf (.tok id) with
      | .none => if pay = true ∨ k.pay = [] then s.placeHeader id k b slot x
        else s.newReq (engineReq (.tok id) .write x.org (pInto x.pay (slot * x.ps)) k.pay.length (storeOf k.pay) 0)
      | .wait => s
      | .failed _ => (((s.dropClient (.tok id)).setBuf b { x with failed := true, pend := x.pend - 1 }).tokReturn id k 1).bufCheck b
      | .bytes _ => if pay then ((((s.dropClient (.tok id)).setBuf b { x with pend := x.pend - 1 }).dropTok id).tokAck k).bufCheck b
        else (s.dropClient (.tok id)).placeHeader id k b slot x := by
  have header (s' : State) : (s'.setTok id { k with at_ := .placing b slot true }).tokWrite id x.org (pInto x.hdr (32 * slot)) (hdrBytes k.hdr) =
      s'.placeHeader id k b slot x := by
    have bytes : (hdrBytes k.hdr).length = 32 := by simp [hdrBytes, clean, leBytes]
    rw [State.tokWrite, bytes]
    rfl
  rw [State.tokPlace, found]
  dsimp only
  rw [placing]
  dsimp only
  rw [buf]
  dsimp only
  cases s.doneOf (.tok id) with
  | none => exact (if_congr (by simp) (header s) rfl)
  | wait => rfl
  | failed r => rfl
  | bytes bs => exact if_congr Iff.rfl rfl (header _)

/-! ## Returned headers, markers and acknowledgements (R345 to R347) -/

theorem State.tokBack_eq {r : Session} (back : k.at_ = .back) (sess : FMap.find? s.sess (sessKey k.die k.ctx k.sess) = some r) :
    s.tokBack id = if r.ret < r.ocap then
        (({ s with sess := FMap.insert s.sess (sessKey k.die k.ctx k.sess) { r with ret := r.ret + 1 } } : State).setTok id { k with at_ := .overflow r.ret }).tokOver id
      else (({ s with sess := FMap.insert s.sess (sessKey k.die k.ctx k.sess) { r with drop := r.drop + 1 } } : State).dropTok id).disposed
        (sessKey k.die k.ctx k.sess) := by
  rw [State.tokBack, found]
  dsimp only
  rw [back, sess]

section
variable {d : Nat} (coming : k.at_ = .way d) (marker : k.mark = true)
include coming marker

theorem State.markArrive_held (closed : s.openBuf d k.ctx k.sess k.exp = none) : s.markArrive id = (s.stamp id k (.held d)).tokAck k := by
  rw [State.markArrive, found]
  dsimp only
  rw [coming]
  dsimp only
  rw [marker, closed]
  rfl

theorem State.markArrive_counts {b : Nat} {x : RBuf} (opened : s.openBuf d k.ctx k.sess k.exp = some (b, x)) :
    s.markArrive id = ((s.dropTok id).tokAck k).countMark b := by
  rw [State.markArrive, found]
  dsimp only
  rw [coming]
  dsimp only
  rw [marker, opened]
  rfl

end

theorem State.tokAcked_token (acked : k.at_ = .ack) (token : k.mark = false) :
    s.tokAcked id = (s.dropTok id).disposed (sessKey k.die k.ctx k.sess) := by
  rw [State.tokAcked, found]
  exact (if_neg (not_not_intro acked)).trans (if_neg (ne_true_of_eq_false token))

end

theorem State.countMark_eq {b : Nat} {x : RBuf} (buf : FMap.find? s.bufs b = some x) :
    s.countMark b = (s.setBuf b { x with ends := x.ends + 1, isOpen := decide (x.ends + 1 < x.e) }).bufCheck b := by
  rw [State.countMark, buf]

section
variable {k : Token} {d : Nat}

theorem State.dispose_held (closed : s.openBuf d k.ctx k.sess k.exp = none) (room : s.holding d < 256) : s.dispose id k d = s.stamp id k (.held d) := by
  rw [State.dispose, closed]
  exact if_pos room

section
variable {b : Nat} {x : RBuf} (opened : s.openBuf d k.ctx k.sess k.exp = some (b, x))
include opened

theorem State.dispose_tooLong (long : x.ps < hLen k.hdr) : s.dispose id k d = s.tokReturn id k 3 := by
  rw [State.dispose, opened]
  exact if_pos long

section
variable (fits : hLen k.hdr ≤ x.ps)
include fits

theorem State.dispose_placed (room : x.count < x.cap) : s.dispose id k d =
    ((s.setBuf b { x with count := x.count + 1, pend := x.pend + 1 }).setTok id { k with at_ := .placing b x.count false }).tokPlace id := by
  rw [State.dispose, opened]
  exact (if_neg (Nat.not_lt.2 fits)).trans (if_pos room)

section
variable (full : x.cap ≤ x.count)
include full

theorem State.dispose_redirected (second : hE2 k.hdr ≠ 65535) (first : hSC k.hdr = false) : s.dispose id k d =
    (s.setBuf b { x with redir := x.redir + 1 }).tokGo id { k with hdr := setBf k.hdr 103 1 1, exp := hE2 k.hdr } := by
  have goes : (decide (hE2 k.hdr ≠ 65535) && !hSC k.hdr) = true := by simp [second, first]
  rw [State.dispose, opened]
  refine (if_neg (Nat.not_lt.2 fits)).trans ((if_neg (Nat.not_lt.2 full)).trans ((if_pos goes).trans ?_))
  rw [if_pos goes]

theorem State.dispose_returned (last : hE2 k.hdr = 65535 ∨ hSC k.hdr = true) : s.dispose id k d = s.tokReturn id k (if hSC k.hdr then 1 else 2) := by
  have stays : ¬ (decide (hE2 k.hdr ≠ 65535) && !hSC k.hdr) = true := by
    rw [Bool.and_eq_true, decide_eq_true_eq, Bool.not_eq_true', not_and]
    exact fun second => Bool.not_eq_false _ ▸ last.resolve_left second
  rw [State.dispose, opened]
  refine (if_neg (Nat.not_lt.2 fits)).trans ((if_neg (Nat.not_lt.2 full)).trans ((if_neg stays).trans ?_))
  rw [if_neg stays]

end

end

end

end

/-! ## Packets of a collective (R351) -/

section
variable (running : s.hoist = none)
include running

theorem State.collStep_packet {m : CMsg} {k : Nat} {c : Coll} (found : FMap.find? s.cmsgs id = some m) (coll : s.collOf m.tag = some (k, c)) :
    s.collStep id = s.collTake id m k c := by
  rw [State.collStep, running, found]
  dsimp only
  rw [coll]
  rfl

theorem State.collStep_part {c : Coll} (noPacket : FMap.find? s.cmsgs id = none) (coll : FMap.find? s.colls id = some c) (heard : c.g ≤ c.heard.length) :
    s.collStep id = if c.dest < c.g then s.collPart id c else s.collDone id := by
  have go : s.collGo id = if c.dest < c.g then s.collPart id c else s.collDone id := by
    rw [State.collGo, coll]
    exact if_neg (Nat.not_lt.2 heard)
  rw [State.collStep, running, noPacket]
  exact go

end

section
variable {m : CMsg} {k : Nat} {c : Coll}

theorem State.collTake_descriptor (kind : m.kind = 0) : s.collTake id m k c =
    if m.vals = c.desc then ({ s with cmsgs := FMap.erase s.cmsgs id } : State).setColl k { c with heard := c.heard ++ [m.rank] }
    else ({ s with cmsgs := FMap.erase s.cmsgs id } : State).collFail k c 1 := by
  rw [State.collTake, kind]
  rfl

/-- The elements of this member's block with those of a contribution combined into them. -/
def contributed (m : CMsg) (c : Coll) : FMap (W64 × Bool) :=
  m.vals.zipIdx.foldl (fun (a : FMap (W64 × Bool)) x =>
    FMap.insert a (m.first + x.2) (match FMap.find? a (m.first + x.2) with | some y => combineElem c.m y x.1 | none => x.1)) c.acc

theorem State.collTake_contribution (kind : m.kind = 1) (lacking : c.got + m.vals.length < c.g * c.own) : s.collTake id m k c =
    ({ s with cmsgs := FMap.erase s.cmsgs id } : State).setColl k { c with acc := contributed m c, got := c.got + m.vals.length } := by
  rw [State.collTake, kind]
  exact if_pos lacking

theorem State.collTake_finished (kind : m.kind = 2) : s.collTake id m k c = match s.doneOf (.coll k (id + 1)) with
    | .none => s.newReq (engineReq (.coll k (id + 1)) .write c.org (pInto c.rcv ((c.rcvAt m.blk + m.first) * ctyBytes c.m.ty)) (m.vals.length * ctyBytes c.m.ty)
        (storeOf (bytesOf (ctyBytes c.m.ty) m.vals)) 0)
    | .wait => s
    | .failed _ => s.collFail k c 3
    | .bytes _ => ((({ s with cmsgs := FMap.erase s.cmsgs id } : State).dropClient (.coll k (id + 1))).setColl k { c with done := c.done + m.vals.length }).collDone k := by
  rw [State.collTake, kind]
  rfl

end

end

/-- Settles O40: a token, a marker or a packet by its place, and then by what its engine's buffer, request or collective says. -/
theorem routingEvents : Obligations.RoutingEvents := by
  unfold Obligations.RoutingEvents
  simp only [leads_sendListDepart, leads_tokenArrive, leads_tokenReturn, leads_endMarkerArrive, leads_tokenDispositionAck, leads_collContribution]
  refine ⟨?leave, ?read, ?arrive, ?place, ?back, ?marker, ?ack, ?packet, ?part⟩
  case leave => exact fun s id k m found listed => State.sendDepart_list found listed Iff.rfl
  case read =>
    intro s id k m found reading remote some_
    have step := (State.sendDepart_read found reading).trans (State.tokRead_eq found remote some_)
    exact ⟨fun fresh => by rw [step, fresh], fun r failed => by rw [step, failed], fun bs read => by rw [step, read]⟩
  case arrive =>
    intro s id k d found coming token
    have step := State.tokArrive_way found coming token
    refine ⟨fun closed room => step.trans (State.dispose_held closed room), fun b x opened => ⟨fun long => ?_, fun fits room => ?_,
      fun fits full second first => ?_, fun fits full last => ?_⟩⟩
    · exact step.trans (State.dispose_tooLong opened long)
    · exact step.trans (State.dispose_placed opened fits room)
    · exact step.trans (State.dispose_redirected opened fits full second first)
    · exact step.trans (State.dispose_returned opened fits full last)
  case place =>
    intro s id k b slot pay x found placing buf
    have step := (State.tokArrive_placing found placing).trans (State.tokPlace_eq found placing buf)
    refine ⟨fun fresh => ?_, fun waits => by rw [step, waits], fun bs written payload => ?_, fun bs written header => ?_, fun r failed => by rw [step, failed]⟩
    · rw [step, fresh]
      rfl
    · rw [step, written, payload]
      rfl
    · rw [step, written, header]
      rfl
  case back => exact fun s id k r found back sess => State.tokBack_eq found back sess
  case marker =>
    intro s id k d found coming marker
    exact ⟨fun closed => State.markArrive_held found coming marker closed,
      fun b x opened buf => (State.markArrive_counts found coming marker opened).trans (State.countMark_eq buf)⟩
  case ack => exact fun s id k found acked token => State.tokAcked_token found acked token
  case packet =>
    intro s id m k c running found coll
    have step := State.collStep_packet running found coll
    refine ⟨fun kind same => ?_, fun kind other => ?_, fun kind lacking => step.trans (State.collTake_contribution kind lacking), fun kind fresh => ?_,
      fun bs kind written => ?_, fun r kind failed => ?_⟩
    · exact (step.trans (State.collTake_descriptor kind)).trans (if_pos same)
    · exact (step.trans (State.collTake_descriptor kind)).trans (if_neg other)
    · rw [step, State.collTake_finished kind, fresh]
    · rw [step, State.collTake_finished kind, written]
    · rw [step, State.collTake_finished kind, failed]
  case part =>
    intro s k c running noPacket coll heard
    have step := State.collStep_part running noPacket coll heard
    exact ⟨fun left => step.trans (if_pos left), fun sent => step.trans (if_neg (Nat.not_lt.2 sent))⟩

end Sys2Proof.Machine
end

section
/-! SUPPORT. What the events of pre-emption come to, a lemma for each (R309 to R311, R367, R370, R381, R401, R406). The order in which a dropped block tries
cores, and what a claim spills, are deduced (log entries 87 and 88). -/

namespace Sys2Proof.Machine

open Decode Safety Claims

section
variable {s t : State} {k u : Nat}

theorem leads_thermalMigration {x : Heat} :
    Leads (.thermalMigration x) s t ↔ (s.onCore x.unit fun c => { c with tmp := x.tmp % 256 }).migrate x.unit = t := leads_iff_of_exec rfl
theorem leads_resourceClaim {bytes : Bool} {id : Nat} : Leads (.resourceClaim bytes id) s t ↔ s.claim bytes id = t := leads_iff_of_exec rfl
theorem leads_saveAreaFreed : Leads (.saveAreaFreed k) s t ↔ s.settleBlock k = t := leads_iff_of_exec rfl
theorem leads_restoreRetry : Leads (.restoreRetry k) s t ↔ s.tryRestore k = t := leads_iff_of_exec rfl

/-! ## Drain (R367) -/

theorem exec_drainTimeout {b : Block} (found : FMap.find? s.blocks k = some b) (drained : b.stop = some .drain) :
    exec (.drainTimeout k) s = .next (if b.chosen + s.regs.drmax * 1000 ≤ s.now then s.treat (s.setOf k) .save else s) := by
  have late : (decide (b.stop = some .drain) && decide (b.chosen + s.regs.drmax * 1000 ≤ s.now)) = true ↔ b.chosen + s.regs.drmax * 1000 ≤ s.now := by
    simp [drained]
  rw [show exec (.drainTimeout k) s = execDrainTimeout k s from rfl, execDrainTimeout, found]
  exact congrArg Host.Outcome.next (if_congr late rfl rfl)

/-! ## Migration (R310) -/

/-- A block that was on the core when its migration began has not yet gone to another. -/
def Migrating (s : State) (u : Nat) : Prop := ∃ x ∈ s.blocks, x.2.mig = true ∧ ((FMap.find? s.saved x.1).map fun v => v.from_).getD x.2.core = u

theorem migrating_iff : (s.blocks.any fun x => x.2.mig && decide (((FMap.find? s.saved x.1).map fun v => v.from_).getD x.2.core = u)) = true ↔ Migrating s u := by
  simp only [List.any_eq_true, Bool.and_eq_true, decide_eq_true_eq, Migrating]

theorem not_migrating (none_ : ∀ x ∈ s.blocks, x.2.mig = true → ((FMap.find? s.saved x.1).map fun v => v.from_).getD x.2.core ≠ u) : ¬ Migrating s u :=
  fun ⟨x, mem, mig, core⟩ => none_ x mem mig core

/-- What a reading of a core's sensor sets. -/
def State.heated (s : State) (u tmp : Nat) : State := s.onCore u fun c => { c with tmp := tmp % 256 }

theorem State.tmp_heated {tmp : Nat} : ((s.heated u tmp).core u).tmp = tmp % 256 := by rw [State.heated, State.core_onCore, if_pos rfl]

theorem State.migrate_cool (cool : s.regs.ten = false ∨ (s.core u).tmp < s.regs.thot) : s.migrate u = s := by
  refine if_pos (Bool.or_eq_true_iff.2 (Or.inl ?_))
  rw [Bool.not_eq_true', Bool.and_eq_false_iff, decide_eq_false_iff_not]
  exact cool.imp_right Nat.not_le.2

theorem State.migrate_hot (enabled : s.regs.ten = true) (hot : s.regs.thot ≤ (s.core u).tmp) (onModule : u < 1536) [Decidable (Migrating s u)] :
    s.migrate u = if Migrating s u then s.settleUnit u
      else match s.migrant u with | none => s | some k => (s.onBlk k fun b => { b with mig := true }).treat [k] .save := by
  have acts : ¬ (!(s.regs.ten && decide (s.regs.thot ≤ (s.core u).tmp)) || decide (1536 ≤ u)) = true := by
    simp [enabled, hot, Nat.not_le.2 onModule]
  exact (if_neg acts).trans (if_congr migrating_iff rfl rfl)

/-! ## Claims (R311) -/

theorem State.claim_group {gid : Nat} {g : Group} (found : FMap.find? s.groups gid = some g) (halted : s.haltedBlock g.blk = true) (onModule : unitOfGid gid < 1536)
    (lacking : s.lacks (unitOfGid gid) (some (laneOf (s.blk g.blk) g)) = true ∨ (s.ownedSlots (unitOfGid gid) [gid] ≠ [] ∧ s.lacksTiles (unitOfGid gid) = true)) :
    s.claim false gid = s.spillGroup gid := by
  rw [State.claim, found]
  refine (if_neg Bool.false_ne_true).trans (if_pos ?_)
  rw [Bool.and_eq_true, Bool.and_eq_true, Bool.or_eq_true, Bool.and_eq_true, decide_eq_true_eq, decide_eq_true_eq]
  exact ⟨⟨halted, onModule⟩, lacking⟩

theorem State.claim_bytes (halted : s.haltedBlock k = true) (holds : s.holdsBytes k (s.blk k) = true) (lacking : s.lacks (s.blk k).core none = true) :
    s.claim true k = s.spillBytes k :=
  (if_pos rfl).trans (if_pos (by rw [halted, holds, lacking]; rfl))

/-! ## Saves and restores (R370, R381, R401, R406) -/

section
variable {b : Block} (found : FMap.find? s.blocks k = some b)
include found

theorem State.settleBlock_save (onCore : b.onCore = true) (live : b.live ≠ 0) (saving : b.stop = some .save) :
    s.settleBlock k = if s.canSave k then (s.doSave k).getD s else s := by
  have stays : ¬ (!b.onCore || decide (b.live = 0)) = true := by simp [onCore, live]
  rw [State.settleBlock, found]
  dsimp only
  rw [if_neg stays, saving]

variable {v : Saved} (saved : FMap.find? s.saved k = some v)
include saved

/-- The first core of a saved block's order that qualifies, with the lane from which the block stands on it. -/
def State.firstPlace (s : State) (k : Nat) (b : Block) : Option (Nat × Nat) :=
  (s.restoreOrder k).findSome? fun u => if s.promised (clusterOf u) (s.prioNow b) then none else (s.qualifies k u).map fun lam => (u, lam)

/-- The block as it comes back: at its present priority, under no treatment. -/
def State.returning (s : State) (b : Block) : Block := { b with prio := s.prioNow b, mig := false, scan := false, stop := none }

theorem State.tryRestore_eq : s.tryRestore k = if b.onCore || !s.restorable b.ctx then s else
    match s.firstPlace k b with
    | none => s
    | some (u, lam) =>
      if v.restart then ({ s.freeImages k with saved := FMap.erase s.saved k } : State).startBlock k (s.returning b) u lam b.lid.isNone
      else
        let s1 := ((((s.setBlk k (s.returning b)).moveBlock k u lam).onBlk k fun b => { b with placed := s.now }).freeImages k)
        ((({ s1 with saved := FMap.erase s1.saved k } : State).noteLid u b.lid).l1DropCtx u b.ctx).lateDiscards k := by
  rw [State.tryRestore, found, saved]
  rfl

theorem State.tryRestore_placed {lam : Nat} (off : b.onCore = false) (may : s.restorable b.ctx = true) (place : s.firstPlace k b = some (u, lam)) :
    s.tryRestore k =
      if v.restart then ({ s.freeImages k with saved := FMap.erase s.saved k } : State).startBlock k (s.returning b) u lam b.lid.isNone
      else
        let s1 := ((((s.setBlk k (s.returning b)).moveBlock k u lam).onBlk k fun b => { b with placed := s.now }).freeImages k)
        ((({ s1 with saved := FMap.erase s1.saved k } : State).noteLid u b.lid).l1DropCtx u b.ctx).lateDiscards k := by
  rw [State.tryRestore_eq found saved, if_neg (by simp [off, may]), place]

theorem State.tryRestore_waits (nowhere : ∀ u ∈ s.restoreOrder k, s.promised (clusterOf u) (s.prioNow b) = true ∨ s.qualifies k u = none) :
    s.tryRestore k = s := by
  have place : s.firstPlace k b = none := by
    refine List.findSome?_eq_none_iff.2 fun u mem => ?_
    rcases nowhere u mem with promised | unfit
    · rw [if_pos promised]
    · rw [unfit, Option.map_none, ite_self]
  rw [State.tryRestore_eq found saved, place, ite_self]

end

end

/-- Settles O43, event by event: of a hot core, by whether a block of it migrates already; of a saved block, by its first place. -/
theorem placementEvents : Obligations.PlacementEvents := by
  classical
  unfold Obligations.PlacementEvents
  simp only [leads_thermalMigration, leads_resourceClaim, leads_saveAreaFreed, leads_restoreRetry]
  refine ⟨?drain, ?cool, ?hot, ?group, ?bytes, ?saves, ?waits, ?restores, ?nowhere⟩
  case drain => exact fun s k b found drained => exec_drainTimeout found drained
  case cool =>
    intro s u tmp cool
    exact (s.heated u tmp).migrate_cool (cool.imp_right fun below => State.tmp_heated.trans_lt below)
  case hot =>
    intro s u tmp enabled hot onModule
    have step := (s.heated u tmp).migrate_hot enabled (hot.trans_eq State.tmp_heated.symm) onModule
    refine ⟨fun k none_ chosen => ?_, fun none_ noOne => ?_, fun moving => ?_⟩
    · exact (step.trans (if_neg (not_migrating none_))).trans (by rw [show (s.heated u tmp).migrant u = some k from chosen]; rfl)
    · exact (step.trans (if_neg (not_migrating none_))).trans (by rw [show (s.heated u tmp).migrant u = none from noOne]; rfl)
    · exact step.trans (if_pos moving)
  case group => exact fun s gid g found halted onModule lacking => State.claim_group found halted onModule lacking
  case bytes => exact fun s k halted holds lacking => State.claim_bytes halted holds lacking
  case saves =>
    intro s k b t found onCore live saving ready saved
    rw [State.settleBlock_save found onCore live saving, if_pos ready, saved, Option.getD_some]
  case waits =>
    intro s k b found onCore live saving stuck
    rw [State.settleBlock_save found onCore live saving]
    rcases stuck with held | noRoom
    · exact if_neg (ne_true_of_eq_false held)
    · rw [noRoom, Option.getD_none, ite_self]
  case restores =>
    intro s k b v u lam found saved off may place
    have step := State.tryRestore_placed found saved off may place
    exact ⟨fun kept => step.trans (if_neg (ne_true_of_eq_false kept)), fun dropped => step.trans (if_pos dropped)⟩
  case nowhere => exact fun s k b v found saved nowhere => State.tryRestore_waits found saved nowhere

end Sys2Proof.Machine
end

section
/-! SUPPORT. What the events of the fault queues, of the hang detector and of a peer's deadline come to, a lemma for each (R337 to R339, R360 to R362, R364, R391). How a queue's
words are read and written, what the detector counts, and how a lost peer's operations are decided are deduced (log entries 41, 99, 100, 106). -/

namespace Sys2Proof.Machine

open Decode Safety Claims

section
variable {s t : State} {dst c m : Nat}

theorem leads_faultResponse : Leads (.faultResponse dst) s t ↔ s.faultResponse dst = t := leads_iff_of_exec rfl
theorem leads_faultQueueRidx : Leads (.faultQueueRidx dst) s t ↔ s.ridxMoved dst = t := leads_iff_of_exec rfl
theorem leads_ovfClear : Leads (.ovfClear dst) s t ↔ s.ovfClear dst = t := leads_iff_of_exec rfl
theorem leads_hangDetect : Leads (.hangDetect c) s t ↔ s.hangDetect c = t := leads_iff_of_exec rfl
theorem leads_peerDeadline : Leads (.peerDeadline m) s t ↔ s.deadline m = t := leads_iff_of_exec rfl
theorem leads_srqClear : Leads .srqClear s t ↔ s.srqClear = t := leads_iff_of_exec rfl

/-! ## Fault queues (R360 to R362) -/

/-- The word in which a destination's owner answers. -/
def State.responseWord (s : State) (dst : Nat) : Nat := s.peek (s.queueGuidon dst) (pPlus (s.queuePtr dst) 32) 8

/-- The state in which that word is cleared. -/
def State.responseTaken (s : State) (dst : Nat) : State := s.poke (s.queueGuidon dst) (pPlus (s.queuePtr dst) 32) 8 0

theorem State.faultResponse_none (none_ : s.queuePtr dst = 0 ∨ s.responseWord dst / 2 ^ 56 = 0) : s.faultResponse dst = s :=
  if_pos (Bool.or_eq_true_iff.2 (none_.imp decide_eq_true decide_eq_true))

theorem State.faultResponse_applied {a : Awaiting} (queue : s.queuePtr dst ≠ 0) (answered : s.responseWord dst / 2 ^ 56 = 1 ∨ s.responseWord dst / 2 ^ 56 = 2)
    (awaited : (s.responseTaken dst).awaits.find? (fun a => a.dst = dst && a.seq = s.responseWord dst % 2 ^ 32) = some a) :
    s.faultResponse dst = ({ s.responseTaken dst with awaits := (s.responseTaken dst).awaits.erase a } : State).answerTo a.who (s.responseWord dst / 2 ^ 56 = 1) := by
  have stands : ¬ (decide (s.queuePtr dst = 0) || decide (s.responseWord dst / 2 ^ 56 = 0)) = true := by
    rw [Bool.or_eq_true, decide_eq_true_eq, decide_eq_true_eq, not_or]
    refine ⟨queue, ?_⟩
    rcases answered with replay | discard
    · rw [replay]
      exact one_ne_zero
    · rw [discard]
      exact two_ne_zero
  have known : (decide (s.responseWord dst / 2 ^ 56 = 1) || decide (s.responseWord dst / 2 ^ 56 = 2)) = true := by
    simpa only [Bool.or_eq_true, decide_eq_true_eq] using answered
  have applied : (match (s.responseTaken dst).awaits.find? (fun a => a.dst = dst && a.seq = s.responseWord dst % 2 ^ 32) with
      | some a => if s.responseWord dst / 2 ^ 56 = 1 || s.responseWord dst / 2 ^ 56 = 2 then
          ({ s.responseTaken dst with awaits := (s.responseTaken dst).awaits.erase a } : State).answerTo a.who (s.responseWord dst / 2 ^ 56 = 1)
        else s.responseTaken dst
      | none => s.responseTaken dst) =
      ({ s.responseTaken dst with awaits := (s.responseTaken dst).awaits.erase a } : State).answerTo a.who (s.responseWord dst / 2 ^ 56 = 1) := by
    rw [awaited]
    exact if_pos known
  exact (if_neg stands).trans applied

theorem State.ridxMoved_none (none_ : ∀ p ∈ s.posts, p.dst ≠ dst) : s.ridxMoved dst = s := by
  have held : s.posts.filter (fun p => decide (p.dst = dst)) = [] := List.filter_eq_nil_iff.2 fun p mem => by simpa using none_ p mem
  rw [State.ridxMoved, held]
  rfl

theorem State.ridxMoved_one {p : Post} (one : s.posts = [p]) (held : p.dst = dst) : s.ridxMoved dst = s.postNext dst := by
  have held : s.posts.filter (fun p => decide (p.dst = dst)) = [p] := by simp [one, held]
  rw [State.ridxMoved, held]
  rfl

/-! ## The hang detector (R337, R338) -/

theorem State.hangDetect_traps {n gid : Nat} {g : Group} {gs : List (Nat × Group)} (counted : s.hangCount c = some n) (found : s.residents c = (gid, g) :: gs)
    (enabled : (s.ctx c).hangEn = true) (long : max 1 (s.ctx c).hthr * 1000 ≤ n) :
    s.hangDetect c = ((s.writeGraph c ((gid, g) :: gs)).1.hangAgain c).takeTrap gid
      { cause := .hang, aux0 := BitVec.ofNat 32 (s.writeGraph c ((gid, g) :: gs)).2.1
        aux1 := BitVec.ofNat 64 ((s.writeGraph c ((gid, g) :: gs)).2.2 % 2 ^ 32 * 2 ^ 32 + (s.queueIdx (s.queueGuidon c) (s.queuePtr c)).2.1 % 2 ^ 32) } := by
  have long_ : ¬ (!(s.ctx c).hangEn || decide (n < max 1 (s.ctx c).hthr * 1000)) = true := by simp [enabled, Nat.not_lt.2 long]
  rw [State.hangDetect, counted, found]
  exact if_neg long_

theorem State.hangDetect_none (none_ : s.hangCount c = none ∨ (s.ctx c).hangEn = false) : s.hangDetect c = s := by
  unfold State.hangDetect
  dsimp only
  split
  next n gid g gs counted found =>
    have off : (s.ctx c).hangEn = false := none_.resolve_left (by simp [counted])
    exact if_pos (by simp [off])
  · rfl

/-! ## The deadline of a peer (R339, R364) -/

theorem State.deadline_none (none_ : s.inRecovery m = false ∨ s.now - s.recoverySince m < max 1 s.regs.pdl * 1000000) : s.deadline m = s :=
  if_pos (by simpa only [Bool.or_eq_true, Bool.not_eq_true', decide_eq_true_eq] using none_)

theorem not_early (recovering : s.inRecovery m = true) (late : max 1 s.regs.pdl * 1000000 ≤ s.now - s.recoverySince m) :
    ¬ (!s.inRecovery m || decide (s.now - s.recoverySince m < max 1 s.regs.pdl * 1000000)) = true := by
  simp [recovering, Nat.not_lt.2 late]

end

/-- Settles O44: each event by the guard under which it acts or leaves all as it is. -/
theorem faultEvents : Obligations.FaultEvents := by
  unfold Obligations.FaultEvents
  simp only [leads_faultResponse, leads_faultQueueRidx, leads_ovfClear, leads_hangDetect, leads_peerDeadline, leads_srqClear]
  refine ⟨?applied, ?noResponse, ?noneHeld, ?oneHeld, ?ovf, ?hang, ?noHang, ?lost, ?notLost, ?srq⟩
  case applied => exact fun s dst a queue answered awaited => State.faultResponse_applied queue answered awaited
  case noResponse => exact fun s dst none_ => State.faultResponse_none none_
  case noneHeld => exact fun s dst none_ => State.ridxMoved_none none_
  case oneHeld => exact fun s dst p one held => State.ridxMoved_one one held
  case ovf => exact fun s dst => rfl
  case hang => exact fun s c n gid g gs counted found enabled long => State.hangDetect_traps counted found enabled long
  case noHang => exact fun s c none_ => State.hangDetect_none none_
  case lost => exact fun s m recovering late => if_neg (not_early recovering late)
  case notLost => exact fun s m none_ => State.deadline_none none_
  case srq => exact fun s => rfl

end Sys2Proof.Machine
end
